-- ==== Sys2Proof/Word.lean ====
section
/-! DEFINITION. The word types of the model and the sparse map every large store is held in. -/

namespace Sys2Proof

/-- One byte of memory or of a packet. -/
abbrev Byte := BitVec 8

/-- A 64-bit word: a control-space register, a header word, a scalar register. -/
abbrev Word := BitVec 64

/-- A sparse store: keys strictly rising, no entry equal to the store's default. -/
abbrev SMap (α : Type) := List (Nat × α)

end Sys2Proof
end

