-- ==== Sys2Proof/Syntax.lean ====
section
/-! DEFINITION. The commands and events of Holmon: one constructor per row of the opcode table, in the table's
order. A row that stands for a control-port command carries the command's TAG and its parameters (R423); a row
that stands for an event names the unit it happens at and carries what arrives with it. -/

namespace Sys2Proof

/-- The 64-byte header flit as eight little-endian words (R48); words 4 to 7 are ARGS. -/
structure Header where
  w0 : Word
  w1 : Word
  w2 : Word
  w3 : Word
  w4 : Word
  w5 : Word
  w6 : Word
  w7 : Word
  deriving DecidableEq, Repr

/-- The commands (opcode_table.json), in the table's order. -/
inductive Instr where
  -- control-port commands
  | regRead (tag addr count : Nat)
  | regWrite (tag addr : Nat) (value mask : Word)
  | hankOpen (tag : Nat) (desc : List Byte)
  | hankClose (tag hank : Nat)
  | hankQuery (tag hank : Nat)
  | caravanOpen (tag caravan ingress egress feidLo feidHi rate : Nat)
  | caravanClose (tag caravan : Nat)
  | progLoad (tag first count buffer length : Nat)
  | progStart (tag first count : Nat)
  | stepCommit (tag job step attempt : Nat)
  | stepAbort (tag job step attempt : Nat)
  | powerSet (tag target state freq : Nat)
  | opPoll (tag handle : Nat)
  | opCancel (tag handle : Nat)
  -- stepped operations, started by op.start
  | tableLoad (tag kind buffer length arg : Nat)
  | routeSwap (tag : Nat)
  | scrub (tag die channel firstPage pageCount : Nat)
  | retire (tag die kind number page : Nat)
  | tierMigrate (tag src dst length mode : Nat)
  | contextSave (tag first count handle step : Nat)
  | contextRestore (tag first count handle : Nat)
  | spareSwap (tag die localIndex : Nat)
  | portDrain (tag die port timeoutUs : Nat)
  | laneRecal (tag die lane : Nat)
  | fwStage (tag die buffer length : Nat)
  /-- One step of the running operation whose turn it is: `units` of progress, `ok` false when the device work of
  the step fails (a lane that does not rejoin) or the operation's own time limit passes (PORT_DRAIN). -/
  | opStep (units : Nat) (ok : Bool)
  -- debug and security
  | debugOpen (tag level dies : Nat) (token : List Byte)
  | zeroisation
  | debugClose (tag : Nat)
  | debugEngineHalt (tag die slot engine : Nat)
  | debugEngineRelease (tag die slot engine : Nat)
  | debugRead (tag space die slot address length : Nat)
  | debugWrite (tag space die slot address length : Nat) (data : List Byte)
  | flagSet (tag die slot number : Nat)
  | flagClear (tag die slot number : Nat)
  | barchanArrive (tag die slot number participant : Nat)
  | barchanRelease (tag die slot number : Nat)
  | barchanClear (tag die slot number : Nat)
  | faultRead (tag first count : Nat)
  | attestReport (tag : Nat) (nonce : List Byte)
  | infoRead (tag : Nat)
  | addKey (tag : Nat)
  | revokeKey (tag : Nat)
  | deploy (tag : Nat)
  | secReturn (tag : Nat)
  | raiseSvn (tag : Nat)
  -- writes of registers with a row of their own
  | force (tag die : Nat) (value mask : Word)
  | dieReboot (tag die : Nat) (value mask : Word)
  | unitRelease (tag die : Nat) (value mask : Word)
  | hold (tag die : Nat) (value mask : Word)
  /-- `reg` 0 names POOL_CONFIG, 1 names POOL_COUNT. -/
  | poolConfig (tag die pool reg : Nat) (value mask : Word)
  | barchanMembers (tag die slot b : Nat) (value mask : Word)
  | pageQuery (tag die : Nat) (value mask : Word)
  /-- `reg` 0 names REPL_RANGE_CTRL_n, 1 BASE, 2 LEN. -/
  | replRangeCtrl (tag die n reg : Nat) (value mask : Word)
  | edgeRole (tag die : Nat) (value mask : Word)
  | portCtrl (tag die port : Nat) (value mask : Word)
  -- frames of the control port
  | command (w0 w1 w2 w3 : Word) (payload : List Byte)
  | bulk (w0 w1 w2 w3 : Word) (payload : List Byte)
  | linkFrameHello (w0 w1 w2 w3 : Word) (payload : List Byte)
  | linkFrameAck (w0 w1 w2 w3 : Word)
  | linkFrameNak (w0 w1 w2 w3 : Word)
  | linkFrameAlign (w0 w1 w2 w3 : Word)
  /-- `long` true for the 1 ms limit, false for the 20 us one (R413). -/
  | resendTimeout (long : Bool)
  | linkUpLimit
  | commandTimeout (tag : Nat)
  -- fabric ports and the switch core; `port` is a switch port 0-127
  | headerFlit (port : Nat) (h : Header)
  | frameStart (port : Nat) (word : Word)
  /-- The END word, with the bytes of the payload flits received since the header flit. -/
  | frameEnd (port : Nat) (word : Word) (flits : List Byte)
  | credit (port : Nat) (word : Word)
  | linkWordAck (port : Nat) (word : Word)
  | linkWordNak (port : Nat) (word : Word)
  | replayTimeout (port : Nat)
  /-- An ALIGN that arrives on lane `lane` (0 or 1) of the port. -/
  | align (port lane : Nat) (word : Word)
  | hello (port : Nat) (word : Word)
  | laneDrop (port : Nat) (word : Word)
  | laneAdd (port : Nat) (word : Word)
  | recalReq (port : Nat) (word : Word)
  | laneDropTimeout (port : Nat)
  /-- `cw` true: codeword lock is lost; false: PMD lock. `lane` is the die's lane number. -/
  | lockLoss (die lane : Nat) (cw : Bool)
  | trainingLimit (port : Nat)
  | creditStall (port vc : Nat)
  | routeFetch (port vc : Nat)
  | rankFetch (port vc : Nat)
  | rankWaitTimeout (port vc : Nat)
  /-- The next packet of input link `link` (0-27) on `vc` crosses to the plane it chooses. -/
  | planeRoute (link vc : Nat)
  | planeCredit (plane link vc : Nat)
  | schedule (plane output : Nat)
  | wadiMove (plane output vc : Nat)
  | egressArbitration (port : Nat)
  | shaperRefill (port : Nat)
  | outputStall (plane output : Nat)
  -- the Erg; `die` 26-29
  | get (die : Nat)
  | put (die : Nat)
  | bulkPut (die : Nat)
  | addExact (die : Nat)
  | fetchAdd (die : Nat)
  | atomMax (die : Nat)
  | atomMin (die : Nat)
  | cas (die : Nat)
  | alloc (die : Nat)
  | free (die : Nat)
  | putFwd (die : Nat)
  | atomicFwd (die : Nat)
  | replTimeout (die range : Nat)
  | signal (die : Nat)
  | bulkSignal (die : Nat)
  | countedWrite (counter : Nat)
  | fire (counter : Nat)
  | signalTimeout (counter : Nat)
  -- packets that reach a die's consumers
  | getData (die : Nat)
  | ack (die : Nat)
  | atomicRsp (die : Nat)
  | contrib (die : Nat)
  | tallyUp (die : Nat)
  | chunkNotice (die : Nat)
  | result (die : Nat)
  | arrive (die : Nat)
  | release (die : Nat)
  -- hanks
  | hankBurst (spindle : Nat)
  | chunkTimeout (hank slot : Nat)
  | roundTimeout (hank round : Nat)
  | exchangeSend (hank : Nat)
  -- spindle commands: the engine comes to issue the command at its program counter
  | nop (die slot engine : Nat)
  | j (die slot engine : Nat)
  | whorl (die slot engine : Nat)
  | halt (die slot engine : Nat)
  | sLi (die slot engine : Nat)
  | sOp (die slot engine : Nat)
  | aSet (die slot engine : Nat)
  | syncRaise (die slot engine : Nat)
  | syncWait (die slot engine : Nat)
  | barArrive (die slot engine : Nat)
  | barWait (die slot engine : Nat)
  | raise (spindle : Nat)
  | barchanArrival (die : Nat)
  | furtherRelease (die slot b : Nat)
  | inGet (die slot engine : Nat)
  | inCopy (die slot engine : Nat)
  | inFill (die slot engine : Nat)
  | inPush (die slot engine : Nat)
  | vLd (die slot engine : Nat)
  | vSt (die slot engine : Nat)
  | vPush (die slot engine : Nat)
  | vPop (die slot engine : Nat)
  | vAdd (die slot engine : Nat)
  | vMul (die slot engine : Nat)
  | vMax (die slot engine : Nat)
  | vMin (die slot engine : Nat)
  | vCvt (die slot engine : Nat)
  | vFma (die slot engine : Nat)
  | vExp (die slot engine : Nat)
  | vRcp (die slot engine : Nat)
  | vSqrt (die slot engine : Nat)
  | vCard (die slot engine : Nat)
  | mmClr (die slot engine : Nat)
  | mmT (die slot engine : Nat)
  | mmSt (die slot engine : Nat)
  | accX (die slot engine : Nat)
  | accC (die slot engine : Nat)
  | accR (die slot engine : Nat)
  | sortK (die slot engine : Nat)
  | topkK (die slot engine : Nat)
  | filt (die slot engine : Nat)
  | compact (die slot engine : Nat)
  | tileExp (die slot engine : Nat)
  | tileCmp (die slot engine : Nat)
  | padC (die slot engine : Nat)
  | outPut (die slot engine : Nat)
  | outDrain (die slot engine : Nat)
  | outAtom (die slot engine : Nat)
  | outSig (die slot engine : Nat)
  | outFence (die slot engine : Nat)
  | landing (die slot engine : Nat)
  -- watchdogs, faults, power and reset
  | engineQueueWatchdog (die slot engine : Nat)
  | stewardWatchdog (die : Nat)
  | stepWatchdog (opSlot : Nat)
  /-- `mirror` false: the Distaff cores of `die` send no heartbeat; true: its mirror traffic stops (R495). -/
  | distaffWatchdog (die : Nat) (mirror : Bool)
  | resynchronise
  | suppressedRecord (source : Nat)
  | pulseEnd
  | lifetime
  /-- A reading of a die's junction temperature, in units of 0.125 C (R450). -/
  | thermal (die : Nat) (temp : BitVec 16)
  | relock (die : Nat)
  /-- The phase under way completes; `failed` lists the control-space addresses of the units that failed it. -/
  | bringupPhase (failed : List Nat)
  /-- The limit of the phase under way passes; `failed` lists the units whose work was not done. -/
  | bringupLimit (failed : List Nat)
  | rebootPhase (ok : Bool)
  | powerRemoval
  | pwrEnLow
  | pwrEnRising
  | rstNLow
  | rstNRising
  | inputLoss
  | inputRestore
  | controlLaneLockLoss (lane : Nat)
  | fecLock
  | signalDetect (port lane : Nat)
  | equalisationComplete (port lane : Nat)
  | degradeThreshold (die lane : Nat)
  | clockLock (die : Nat)
  deriving DecidableEq, Repr

end Sys2Proof
end

