-- ==== Sys2Proof/Decode.lean ====
section
/-! DEFINITION. The decoder the host asks for. Holmon's opcode table gives its rows no bits: a command is spelt by a
frame of the control port, a link word, a packet or an event, never by one word of an instruction memory that the
table lays out. No word spells a command, and every word is refused. -/

namespace Sys2Proof

/-- The command a table word spells: none, for no row of the table has bits. -/
def decodeTableWord (_nbits _w : Nat) : Option Instr := none

end Sys2Proof
end

