-- ==== Sys2Proof/Config.lean ====
section
/-! DEFINITION. What the spec leaves to fuses, to noise, to clocks and to the implementation: constants
without a body, so that nothing can be proved about their values. Each is named in the assumption log. -/

namespace Sys2Proof.Config

/-- A value of a clock that the model does not count (LOCAL_CYCLE_COUNT, R28), by the free-value counter. [2] -/
opaque freeCycle : Nat → BitVec 64

/-- Any other value the spec leaves open, by the free-value counter. [2] -/
opaque freeWord : Nat → BitVec 64

/-- Output of the physical noise source (R458, R467), 57 bytes of it, by the free-value counter. [8] -/
opaque noise : Nat → List (BitVec 8)

/-- The FEID the control node assigned to this Holmon (R53). [9] -/
opaque ownFeid : BitVec 20

/-- Module serial number (R451, R525), a fuse. [8] -/
opaque serial : BitVec 64

/-- The 32-byte fused identity seed (R453). [8] -/
opaque identitySeed : List (BitVec 8)

/-- SHAKE256 hash of Lumori's firmware-signing key, held in the control-die ROM (R455). [8] -/
opaque romKeyHash : List (BitVec 8)

/-- Measurement of the release image a die ships with (R524). [8] -/
opaque releaseMeasurement : Nat → List (BitVec 8)

/-- The set of the rank cache an entry (job, rank) falls into, one of 2,048 (R65). [10] -/
opaque rankSet : Nat → Nat → BitVec 11

/-- The set of the route cache an FEID falls into, one of 8,192 (R89). [10] -/
opaque routeSet : Nat → BitVec 13

/-- Where the rank-table space of 2 GiB begins in the management area, in 4 KiB units (R60). [11] -/
opaque rankSpace : Nat

/-- Where Holmon prefers to place a rank table, in 4 KiB units, by the free-value counter (R429). [11] -/
opaque tablePlace : Nat → Nat

/-- Where the job directory begins in what is left of the management area, in 4 KiB units (R60). [11] -/
opaque directoryPlace : Nat

/-- A byte of the staging of an EXCHANGE, by the free-value counter and its place (R206, R301). [27] -/
opaque stagingByte : Nat → Nat → BitVec 8

end Sys2Proof.Config
end

