-- ==== Sys2Proof/Machine/State.lean ====
section
/-! DEFINITION. The state of the block as plain data: everything the spec gives the part, the queue of waiting
commands, and the state right after input power is applied. Sparse stores (SMap) list only what differs from the
default named at the field. -/

namespace Sys2Proof.Machine

/-- What stops the machine with a fault. -/
inductive Fault where
  /-- Raised by no meaning of the present model: the part reports its own faults in its state. Safe. -/
  | none
  deriving DecidableEq, Repr

/-- What the model gives no meaning to. -/
inductive Refusal where
  /-- The arm of a command that has no meaning yet. Safe. -/
  | notModelled (mnemonic : String)
  /-- An event row names a unit the part does not have (a port above 127, a die of another kind). Raised by
  the guards of Machine/Ops.lean. Safe: the event cannot happen. -/
  | noSuchUnit (what : String)
  deriving DecidableEq, Repr

/-- Power state of a unit (R24, R375, R441, R487). -/
inductive UnitState where
  | live | parked | retired | contained
  deriving DecidableEq, Repr

/-- An accumulator element (R143). -/
inductive Acc where
  | ident
  | fin (v : Int)
  | pinf
  | minf
  | nan
  deriving DecidableEq, Repr

/-- A packet inside this Holmon. -/
structure Pkt where
  /-- Number of the packet at this Holmon; copies of a multicast packet share it. -/
  uid : Nat
  hdr : Header
  /-- Header as received, before R54 and R62 rewrite it (R71). -/
  raw : Header
  payload : List Byte
  /-- 1 + PAYLOAD_FLITS as declared. -/
  flits : Nat
  vc : Nat
  /-- VC its cells are charged to at its input (R115, R117). -/
  chargeVc : Nat
  detour : Bool
  /-- Marked bad by a hop (R69). -/
  bad : Bool
  /-- The last flit has arrived. -/
  complete : Bool
  /-- Switch port it entered by; none when this Holmon originated it. -/
  inPort : Option Nat
  /-- That port was an edge port when the packet came (R33, R71). -/
  edge : Bool
  /-- Crossbar input link 0-27 (R112). -/
  link : Nat
  /-- Route entry it carries, and what the image it was looked up in gives with it (R88): the members of its UP_SET,
  whether the packet descends here (R90), and its route hash (R92). -/
  entry : BitVec 32
  upSet : BitVec 128
  descends : Bool
  hash : Nat
  /-- Plane that R92 gives it under that image; from its crossing on, the plane it crosses. -/
  ordPlane : Nat
  /-- Caravan it belongs to (R108). -/
  caravan : Option Nat
  /-- Charged to the output wadi reserve (R117). -/
  inReserve : Bool
  /-- Picked by the ingress sampler: its record is made once the checks of R68 are done with it (R133). -/
  sample : Bool
  deriving DecidableEq, Repr

/-- A route image (R84). -/
structure RouteImage where
  treeLevels : Nat
  switchLevel : Nat
  ordPlanes : Nat
  hashSeed : BitVec 10
  generation : BitVec 32
  upPorts : BitVec 128
  upSets : List (BitVec 128)
  /-- Entries by FEID; unlisted entries are 0, NONE. -/
  entries : SMap (BitVec 32)
  deriving DecidableEq, Repr

/-- A multicast image (R104). -/
structure McastImage where
  generation : BitVec 32
  /-- Entries by group; unlisted entries are 0, undefined. -/
  entries : SMap (BitVec 256)
  deriving DecidableEq, Repr

/-- A core plane (R84, R93, R104, R112-R120). -/
structure Plane where
  active : Option RouteImage
  shadow : Option RouteImage
  bank : Nat
  mcActive : Option McastImage
  mcShadow : Option McastImage
  mcBank : Nat
  /-- A table load into the shadow banks is under way. -/
  loading : Bool
  /-- Rotating pointer of R93. -/
  pointer : Nat
  /-- Credits outstanding, by 16 * link + vc; unlisted 0. -/
  credits : SMap Nat
  /-- Cells held by (input, VC), by 16 * link + vc; unlisted 0. -/
  held : SMap Nat
  /-- Cells held in output wadi reserves, by 16 * output + vc; unlisted 0. -/
  reserve : SMap Nat
  /-- Output queues, by 16 * output + vc, oldest first; unlisted empty. -/
  queues : SMap (List Pkt)
  /-- Last VC served by round robin, by 2 * output + tier; unlisted 0. -/
  rr : SMap Nat
  /-- Calendar slot of each output; unlisted 0. -/
  slot : SMap Nat
  /-- Outputs whose stall watchdog has raised its event in this episode. -/
  stalled : List Nat
  /-- Open caravans that this plane's die has forgotten in a reset of its own (R107, R500). -/
  forgotten : List Nat
  deriving DecidableEq, Repr

/-- An open caravan (R107). -/
structure Caravan where
  ingress : Nat
  egress : Nat
  rate : Nat
  feidLo : Nat
  feidHi : Nat
  deriving DecidableEq, Repr

/-- The HELLO of a link partner (R392). -/
structure PartnerHello where
  version : Nat
  levels : Nat
  role : Nat
  degrade : Bool
  feid : Nat
  rxDedicated : Nat
  rxShared : Nat
  lanes : Nat
  deriving DecidableEq, Repr

/-- The frame a receiver has open (R384-R391). -/
structure RxFrame where
  word : Word
  seq : Nat
  vc : Nat
  detour : Bool
  flits : Nat
  shared : Nat
  /-- Header flit received. -/
  hdr : Option Header
  /-- Packet made of it; none when the frame was discarded at its header. -/
  uid : Option Nat
  /-- Reason for which it was discarded: a code of R68, or 16 VC_RESERVED, 17 VC_CLASS (R386). -/
  reason : Option Nat
  /-- The header as the port die took it up and as received, for a frame discarded before its last flit: the discard is
  counted once the frame has passed the checks of its last flit (R386). -/
  taken : Option (Header × Header)
  /-- Picked by the ingress sampler (R132). -/
  sample : Bool
  /-- Its packet has left the receive buffer, or was discarded: its credits go back with its last flit. -/
  left : Bool
  /-- Resent after an error; flits already forwarded are dropped (R391). -/
  resumed : Bool
  deriving DecidableEq, Repr

/-- A frame held for retry (R390). -/
structure TxFrame where
  seq : Nat
  pkt : Pkt
  /-- Shared credits it took, as its START says (R388). -/
  shared : Nat
  resent : Nat
  /-- Picked by the egress sampler; its record waits for the last flit (R132). -/
  sample : Bool
  deriving DecidableEq, Repr

/-- A fabric port: training, receiver, transmitter, shapers, samplers. Status that has a register stands there. -/
structure Port where
  /-- Training phase 1-4 of R393, 0 when not training, 5 in the 100 ms wait. -/
  phase : Nat
  /-- Partner signal seen, equalised, and ALIGN seen, one bit per port lane. -/
  signal : BitVec 2
  equalised : BitVec 2
  aligned : BitVec 2
  partner : Option PartnerHello
  /-- LANE_DROP sent and not yet answered: the lane. -/
  dropping : Option Nat
  /-- Recalibration under way: lane, and the bits 0 own retraining done, 1 partner DONE seen, 2 begun
  here, 3 ALIGN seen. -/
  recal : Option (Nat × Nat)
  rxSeq : Nat
  rxFrame : Option RxFrame
  /-- Discarding units after a NAK (R390). -/
  rxDiscard : Bool
  /-- A frame cut by a transmission error after its header flit; it waits for the resent frame (R391). -/
  rxHeld : Option RxFrame
  /-- Packets in the receive buffer: uid, vc, dedicated and shared flits to return. -/
  rxBuf : List (Nat × Nat × Nat × Nat)
  /-- PORT_DRAIN: returns no further credit (R499). -/
  draining : Bool
  /-- Credits it has not returned: VC, dedicated and shared flits. -/
  withheld : List (Nat × Nat × Nat)
  txSeq : Nat
  replay : List TxFrame
  /-- Dedicated credits held, by VC; unlisted 0. -/
  credDed : SMap Nat
  credShared : Nat
  /-- VCs with a packet waiting for credit past the watchdog, raised this episode. -/
  stallRaised : List Nat
  /-- Staged packets with their plane, in order of arrival at the port die (R121). -/
  stage : List (Nat × Pkt)
  /-- Committed (class c) and peak (8 + c) tokens in bytes; unlisted full at reset sizes, 65,536. -/
  tokens : SMap Int
  /-- What the last refill took from the shaper registers (R126): rate of bucket k at k, its size at 16 + k, and
  FRAME_OVERHEAD at 32; unlisted the reset value. -/
  shape : SMap Nat
  deficit : SMap Int
  drr : Nat
  /-- Bytes sent in the caravan round, and bytes each caravan has used in it (R122). -/
  roundBytes : Nat
  caravanUsed : SMap Nat
  /-- Frames sent in a row by the caravan share or the priority tier (R123). -/
  run : Nat
  /-- Frames left before the next sample, ingress and egress; 0 reloads (R132). -/
  sampIn : Nat
  sampOut : Nat
  deriving DecidableEq, Repr

/-- A port after reset. -/
def Port.init : Port :=
  { phase := 0, signal := 0, equalised := 0, aligned := 0, partner := none, dropping := none, recal := none,
    rxSeq := 0, rxFrame := none, rxDiscard := false, rxHeld := none, rxBuf := [], draining := false, withheld := [], txSeq := 0,
    replay := [], credDed := [], credShared := 0, stallRaised := [], stage := [], tokens := [], shape := [], deficit := [],
    drr := 0, roundBytes := 0, caravanUsed := [], run := 0, sampIn := 0, sampOut := 0 }

/-- A packet that waits at a port die at the head of its VC or behind such a packet (R65, R87, R89). -/
structure Waiter where
  pkt : Pkt
  /-- 0 behind another packet, 1 the fetch of SRC_RANK, 2 a route fetch, 3 the fetch of DST_RANK. -/
  stage : Nat
  rank : Nat
  /-- The job's generation when its fetch was sent. -/
  gen : BitVec 32
  /-- The fetch was discarded, no core plane being LIVE (R526): it will not return. -/
  lost : Bool
  deriving DecidableEq, Repr

/-- A port die's caches and waiting packets (R65, R89). -/
structure PortDie where
  /-- Rank cache: job, rank, rank entry, generation; oldest first. -/
  rankCache : List (Nat × Nat × BitVec 32 × BitVec 32)
  /-- Route cache: FEID and entry, oldest first; a swap empties it. -/
  routeCache : List (Nat × BitVec 32)
  /-- Packets that wait, in order of arrival on each VC. -/
  waiting : List Waiter
  /-- Rank fetches whose packet has been discarded: 16 * port + VC, job, rank, generation. -/
  orphans : List (Nat × Nat × Nat × BitVec 32)
  /-- Sample records queued for Distaff (R134). -/
  samples : List (List Byte)
  deriving DecidableEq, Repr

/-- Empty caches. -/
def PortDie.init : PortDie := { rankCache := [], routeCache := [], waiting := [], orphans := [], samples := [] }

/-- A hank member (R176). -/
structure Member where
  port : Nat
  trunk : Bool
  source : Bool
  rank : Nat
  deriving DecidableEq, Repr

/-- The hank descriptor, unpacked (R175). -/
structure HankDesc where
  type : Nat
  op : Nat
  mode : Nat
  round : Nat
  chunkLog2 : Nat
  inFormat : Nat
  outFormat : Nat
  floorF : Int
  hank : Nat
  job : Nat
  window : Nat
  digestOut : Bool
  digestIn : Bool
  capacity : Nat
  param : Word
  step : Nat
  seed : Word
  resultDest : Nat
  noticeGroup : Nat
  memberCount : Nat
  extendsUp : Bool
  parentFeid : Nat
  spindleBase : Nat
  spindleSpan : Nat
  slotBudget : Nat
  chunkTimeout : Nat
  roundTimeout : Nat
  syncSpindle : Nat
  syncFlag : Nat
  syncEn : Bool
  resultHandle : Word
  /-- Descriptor check value (R177). -/
  check : BitVec 32
  members : List Member
  deriving DecidableEq, Repr

/-- A reduction slot of a hank (R182, R188, R190). -/
structure Slot where
  /-- The sequence it awaits. -/
  awaits : Nat
  /-- A part of the awaited sequence has been accepted: the chunk timer runs. -/
  started : Bool
  /-- Every member's chunk is counted: the chunk is complete and waits for its bursts. -/
  complete : Bool
  /-- Parts accepted, as 2 * member + part. -/
  parts : List Nat
  /-- Tally groups received by member index; unlisted 0. -/
  groups : SMap Nat
  /-- Elements by chunk position; unlisted IDENTITY (R183). -/
  els : SMap Acc
  deriving DecidableEq, Repr

/-- What a hank keeps of a round in progress. -/
structure Round where
  chunksDone : Nat
  /-- The round timer runs. -/
  timer : Bool
  outA : Word
  outB : Word
  inA : Word
  inB : Word
  deriving DecidableEq, Repr

/-- An item of an EXCHANGE (R203). -/
structure Item where
  key : Nat
  srcRank : Nat
  index : Nat
  payload : List Byte
  deriving DecidableEq, Repr

/-- The EXCHANGE part of a hank: per member accepted items, ITEM_COUNT, kept lists per destination. -/
structure Exchange where
  /-- Items accepted so far, by member index; unlisted 0. -/
  accepted : SMap Nat
  /-- ITEM_COUNT + 1 of the first packet, by member index; unlisted 0. -/
  expected : SMap Nat
  /-- Kept list by destination member index, in rank order; unlisted empty. -/
  kept : SMap (List Item)
  /-- Handles of the bobbins claimed (R369). -/
  staging : List Word
  deriving DecidableEq, Repr

/-- The BARRIER part of a hank (R335). -/
structure Barrier where
  /-- Arrival bits of the current round and the next, by member index. -/
  cur : List Nat
  next : List Nat
  /-- SRC_FEID of each trunk member's last accepted ARRIVE, by member index; unlisted 0. -/
  childFeid : SMap Nat
  /-- ARRIVE sent to the parent, RELEASE awaited. -/
  sentUp : Bool
  deriving DecidableEq, Repr

/-- An open hank (R170-R210). -/
structure Hank where
  d : HankDesc
  base : Nat
  /-- Lowest round not yet complete. -/
  current : Nat
  slots : SMap Slot
  rounds : SMap Round
  exch : Exchange
  barr : Barrier
  roundsDone : Nat
  dropped : Nat
  stale : Nat
  nonSource : Nat
  windowOverflow : Nat
  xdropped : Nat
  unrouted : Nat
  padded : Nat
  lastReason : Nat
  aborts : Nat
  deriving DecidableEq, Repr

/-- What Holmon keeps of a job besides its directory entry and rank table, which stand in the Erg (R60, R196). -/
structure Job where
  committed : Option Nat
  attempt : Nat
  deriving DecidableEq, Repr

/-- A job nothing was loaded for. -/
def Job.init : Job := { committed := none, attempt := 0 }

/-- Engine states (R242). -/
inductive EState where
  | idle | running | held | waiting | halted | faulted
  deriving DecidableEq, Repr

/-- An address register (R251). -/
structure AReg where
  base : Word
  stride : BitVec 24
  wrap : BitVec 16
  count : BitVec 24
  deriving DecidableEq, Repr

/-- A whorl counter (R258). -/
structure Whorl where
  programmed : BitVec 32
  remaining : BitVec 32
  first : BitVec 13
  last : BitVec 13
  active : Bool
  level : Nat
  deriving DecidableEq, Repr

/-- Where a result lands. -/
inductive Target where
  | sreg (n : Nat) (v : Word)
  | preg (n : Nat) (v : Bool)
  | lreg (n : Nat) (v : BitVec 32)
  | aField (n field : Nat) (v : Word)
  /-- The COUNT step of R252. -/
  | aStep (n : Nat) (count : BitVec 24)
  /-- The record advance of SRC's BASE (R313). -/
  | aBase (n : Nat) (base : Word)
  | vreg (n : Nat) (v : BitVec 2048)
  /-- A whole accumulator tile, FP32 elements in row order. -/
  | tile (n : Nat) (els : List (BitVec 32))
  /-- Local-store bytes; `acc` marks an exact-lane accumulator write (R273). -/
  | store (addr : Nat) (data : List Byte) (acc : Bool)
  /-- An entry pushed into a stream queue. -/
  | push (queue : Nat) (v : BitVec 2048)
  deriving DecidableEq, Repr

/-- A result in flight (R217). -/
structure Flight where
  due : Nat
  /-- Issue number. -/
  seq : Nat
  pc : Nat
  /-- Cycles by which a result of the same register issued later lands first; 0 for none (R249). -/
  late : Nat
  tgt : Target
  deriving DecidableEq, Repr

/-- An outstanding IN.GET repeat (R224). -/
structure GetOut where
  number : Nat
  handle : Word
  addr : Nat
  bytes : Nat
  /-- Request number of its command's first repeat, and the flag to raise when that command's repeats complete. -/
  group : Nat
  flag : Option Nat
  /-- Place in issue order. -/
  ord : Nat
  deriving DecidableEq, Repr

/-- An unanswered Outlet packet (R57, R215). -/
structure OutReq where
  number : Nat
  kind : Nat
  handle : Word
  /-- OUT.ATOM: the RES address. -/
  res : Option Nat
  /-- The value of an answered OUT.ATOM, kept for the fence (R277). -/
  answered : Option Word
  ord : Nat
  deriving DecidableEq, Repr

/-- An engine (R211, R242, R246). -/
structure Engine where
  state : EState
  hold : Nat
  pc : Nat
  areg : SMap AReg
  sreg : SMap Word
  preg : BitVec 8
  lreg : SMap Whorl
  vreg : SMap (BitVec 2048)
  /-- Tensor accumulator elements by 1,024 * tile + 32 * row + column; unlisted +0. -/
  tiles : SMap (BitVec 32)
  /-- Advancing cycle at which the next command may issue. -/
  now : Nat
  /-- Issue number of the next result or command. -/
  seq : Nat
  /-- Repeat to issue next of the command at `pc`, and its latched count once repeat 0 has come to issue. -/
  rep : Nat
  count : Option Nat
  /-- EXC_CONTROL as it stood when that command came to issue (R33). -/
  control : Nat
  /-- A zero-count command was passed over in the present cycle (R256). -/
  passed : Bool
  flight : List Flight
  gets : List GetOut
  /-- Issue groups of IN.GET commands with an errored repeat, whose flag is not raised (R282). -/
  badGroups : List Nat
  sent : List OutReq
  reqNumber : BitVec 20
  /-- A drain point has begun to wait (SYNC.WAIT, BAR.*, OUT.FENCE, HALT). -/
  waitBegun : Bool
  /-- Addresses of the earliest errors found for the next drain point (R280, R282), with their places in issue
  order where they can be found out of it. -/
  errExact : Option Word
  errFetch : Option (Nat × Word)
  errOutlet : Option (Nat × Word)
  errSparse : Option Word
  /-- Scales MM.T read last, A then B, 32 bytes each (R270). -/
  scaleA : List Byte
  scaleB : List Byte
  /-- PC trace, most recent first: advancing cycle and program counter (R482). -/
  trace : List (Nat × Nat)
  /-- debug.engine HALT taken while WAITING (R475). -/
  debugHalt : Bool
  /-- A wait that ended in a debug hold: 0, or the EXC_ADDRESS of the refusal that ended it (R330, R475). -/
  ended : Option Nat
  /-- An exception that outstanding IN.GETs keep from being taken: code, repeat and address (R281). -/
  faulting : Option (Nat × Nat × Word)
  /-- The engine-queue watchdog has raised its event in this episode (R494). -/
  wdRaised : Bool
  deriving DecidableEq, Repr

/-- An engine after reset. [1] -/
def Engine.init : Engine :=
  { state := .idle, hold := 0, pc := 0, areg := [], sreg := [], preg := 0, lreg := [], vreg := [], tiles := [],
    now := 0, seq := 0, rep := 0, count := none, control := 0, passed := false, flight := [], gets := [], badGroups := [],
    sent := [], reqNumber := 0, waitBegun := false, errExact := none, errFetch := none,
    errOutlet := none, errSparse := none, scaleA := [], scaleB := [], trace := [], debugHalt := false,
    ended := none, faulting := none, wdRaised := false }

/-- A barchan (R329); COUNT and EARLY are the numbers of bits set. -/
structure Barchan where
  members : Word
  cur : Word
  next : Word
  sense : Bool
  releases : BitVec 32
  deriving DecidableEq, Repr

/-- An unconfigured barchan. -/
def Barchan.init : Barchan := { members := 0, cur := 0, next := 0, sense := false, releases := 0 }

/-- Granules claimed by a reduction slot (R225, R226). -/
structure Claim where
  hank : Nat
  slot : Nat
  start : Nat
  len : Nat
  deriving DecidableEq, Repr

/-- Work accepted by a hank sequencer (R228). -/
inductive Work where
  /-- Elements of a CONTRIB part, as accumulator states by chunk position, still to be merged. -/
  | merge (hank slot : Nat) (fmt : Nat) (els : List (Nat × Acc))
  /-- Elements of a TALLY_UP still to be merged. -/
  | tally (hank slot : Nat) (els : List (Nat × Acc))
  /-- Rounding at the root: elements done so far. -/
  | finish (hank slot : Nat) (done : Nat)
  /-- Forming the canonical tally: groups done so far. -/
  | formUp (hank slot : Nat) (done : Nat)
  deriving DecidableEq, Repr

/-- A physical spindle (R211, R219, R221). -/
structure Spindle where
  engines : SMap Engine
  /-- Instruction memory by 8,192 * engine + index; unlisted zero. -/
  imem : SMap (BitVec 128)
  /-- Local store; unlisted zero. -/
  ls : List Host.Cell
  /-- Stream queues SQ0-SQ5, oldest first; unlisted empty. -/
  queues : SMap (List (BitVec 2048))
  flags : BitVec 64
  /-- Flags that become 0 in the next spindle cycle, in which waits that saw them end (R320). -/
  clearing : BitVec 64
  barchans : SMap Barchan
  imageLoaded : Bool
  measurement : List Byte
  claims : List Claim
  work : List Work
  deriving DecidableEq, Repr

/-- A spindle after reset. -/
def Spindle.init : Spindle :=
  { engines := [], imem := [], ls := [], queues := [], flags := 0, clearing := 0, barchans := [], imageLoaded := false,
    measurement := [], claims := [], work := [] }

/-- A message on a sync lane (R319, R330). -/
inductive SyncMsg where
  | raise (logical flag : Nat)
  /-- An arrival of participant p at barchan b of local index home on the die, from the engine itself. -/
  | arrival (die home b participant : Nat)
  deriving DecidableEq, Repr

/-- A signal counter record (R324). -/
structure Counter where
  version : Nat
  armed : Bool
  fireEn : Bool
  fireSpindle : Nat
  fireFlag : Nat
  timeoutUs : Nat
  count : Nat
  expected : Nat
  feid : Nat
  ord : Bool
  isBulk : Bool
  tag : BitVec 32
  fires : BitVec 32
  timeouts : BitVec 32
  deriving DecidableEq, Repr

/-- A counter of an all-zero record: unconfigured. -/
def Counter.init : Counter :=
  { version := 0, armed := false, fireEn := false, fireSpindle := 0, fireFlag := 0, timeoutUs := 0, count := 0,
    expected := 0, feid := 0, ord := false, isBulk := false, tag := 0, fires := 0, timeouts := 0 }

/-- A byte count on its way to its counter's die, with the write's answer that waits for it (R355). -/
structure CountMsg where
  counter : Nat
  bytes : Nat
  /-- The answer: header to answer, and the status. -/
  reply : Option (Header × Nat)
  /-- Erg die that answers. -/
  die : Nat
  deriving DecidableEq, Repr

/-- A forwarded request kept for resending (R360). -/
structure ReplCopy where
  seq : BitVec 32
  pkt : Pkt
  /-- Request to answer when the partner answers; none once answered, or for a write that no request made. -/
  original : Option Header
  /-- RESULT of an atomic applied here. -/
  result : Word
  /-- Counter named by the write and its bytes. -/
  counted : Option (Nat × Nat)
  deriving DecidableEq, Repr

/-- Replication state of a range of a die (R359-R363); SEQ, E, PENDING and STATE stand in its registers. -/
structure Repl where
  copies : List ReplCopy
  resends : Nat
  deriving DecidableEq, Repr

/-- Erg memory (R344-R373). -/
structure Erg where
  /-- Bytes by channel-wide address: ((die - 26) * 44 + channel) * 2^33 + byte address in the channel. -/
  mem : List Host.Cell
  /-- Uncorrectable 64-byte blocks, by channel-wide address / 64, rising. -/
  bad : SMap Unit
  /-- PAGE_MAP where it differs from R349, by ((die - 26) * 2 + tier) * 65,536 + page: channel * 8,192 + page. -/
  pageMap : SMap Nat
  /-- Retired physical pages, by ((die - 26) * 44 + channel) * 8,192 + page. -/
  retired : SMap Unit
  /-- Allocated bobbins of each pool; unlisted none. -/
  pools : SMap (SMap Unit)
  counters : SMap Counter
  counting : List CountMsg
  repl : SMap Repl
  deriving DecidableEq, Repr

/-- A stepped operation (R425-R430). -/
structure Op where
  code : Nat
  params : List Nat
  /-- 0 RUNNING, 1 DONE, 2 CANCELLED. -/
  state : Nat
  cancelReq : Bool
  status : Nat
  check : Nat
  done : Nat
  total : Nat
  result : List Word
  deriving DecidableEq, Repr

/-- A numbered frame Holmon sends on the control port: RESPONSE or EVENT (R406). -/
structure CpMsg where
  /-- 2 RESPONSE, 3 EVENT. -/
  type : Nat
  tag : BitVec 32
  opcode : BitVec 16
  status : BitVec 8
  payload : List Byte
  deriving DecidableEq, Repr

/-- A remembered command (R418): done is none while it is pending. -/
structure Remembered where
  tag : Nat
  opcode : Nat
  done : Option (Nat × List Byte)
  deriving DecidableEq, Repr

/-- A command taken and not yet answered. -/
inductive Awaiting where
  /-- A steward does not answer; the command was for `die` and names a staging buffer or none (R424). -/
  | steward (tag opcode die : Nat) (buffer : Option Nat)
  /-- power.set of a frequency; answered when the relock of `die` completes. -/
  | relock (tag die : Nat)
  /-- debug.open at D3, with the lifetime of its token; answered when the zeroisation completes. -/
  | d3 (tag dies : Nat) (lifetime : Option Nat)
  deriving DecidableEq, Repr

/-- The control port (R404-R435). -/
structure ControlPort where
  /-- Link-up step 1-3 (R410); 4 when UP. -/
  step : Nat
  laneLock : BitVec 4
  aligned : BitVec 4
  /-- Partner's RX windows from its HELLO. -/
  rxFrames : Nat
  rxKib : Nat
  /-- Numbered frames received since link-up: the next SEQ expected; 0 means none placed. -/
  rxNext : BitVec 32
  /-- A numbered frame was placed since link-up. -/
  placed : Bool
  txNext : BitVec 32
  /-- Frames sent and not acknowledged, oldest first, with the times each was sent. -/
  unacked : List (BitVec 32 × CpMsg × Nat)
  /-- Responses and events not yet sent, oldest first. -/
  queue : List CpMsg
  /-- Events lost: die, first DIE_SEQ, count (R433). -/
  lost : List (Nat × BitVec 32 × Nat)
  remembered : List Remembered
  awaiting : List Awaiting
  deriving DecidableEq, Repr

/-- Owner-key slot states (R454). -/
inductive KeyState where
  | empty | active | revoked
  deriving DecidableEq, Repr

/-- A firmware image in a bank, as far as verification reads it (R461, R462). -/
structure FwImage where
  dieKind : Nat
  svn : Nat
  /-- MAGIC, VERSION, BODY_BYTES, ROM key, digest and signature are right. -/
  authentic : Bool
  measurement : List Byte
  deriving DecidableEq, Repr

/-- The boot store banks and the running image of a die (R463). -/
structure Boot where
  current : Option FwImage
  previous : Option FwImage
  staged : Option FwImage
  /-- 0 CURRENT, 1 PREVIOUS, 2 none. -/
  bank : Nat
  running : Option FwImage
  verifyFailed : Bool
  deriving DecidableEq, Repr

/-- An open debug session (R470-R480). -/
structure Session where
  level : Nat
  dies : BitVec 32
  /-- Lifetime left in control-die cycles when the session opened; none: no lifetime. -/
  lifetime : Option Nat
  deriving DecidableEq, Repr

/-- The security root (R451-R482). -/
structure Security where
  lifecycle : Nat
  keys : List (KeyState × List Byte)
  minSvn : List Nat
  bootCount : BitVec 32
  nonce : List Byte
  /-- Attestation private key; none when zeroised and not formed again. -/
  attestKey : Option (List Byte)
  session : Option Session
  history : BitVec 3
  zeroising : Bool
  /-- Boot state by die number; unlisted the state of R524. -/
  boot : SMap Boot
  deriving DecidableEq, Repr

/-- A fault record (R490). -/
structure FaultRec where
  severity : Nat
  injected : Bool
  action : Nat
  source : Nat
  seq : BitVec 32
  address : Nat
  suppressed : Nat
  cycle : Word
  detail : List Word
  deriving DecidableEq, Repr

/-- What a source keeps within the millisecond after its last stored record (R491). -/
structure Window where
  count : Nat
  last : Option FaultRec
  deriving DecidableEq, Repr

/-- A die (R15, R28, R36, R436, R487). -/
structure Die where
  contained : Bool
  powered : Bool
  /-- The steward does not answer (R36). -/
  hung : Bool
  eventSeq : BitVec 32
  /-- Frequency that DIE_CLOCK will show after the relock under way. -/
  relock : Option Nat
  /-- The die's phase-locked loop has lost its lock (R28). -/
  unlocked : Bool
  deriving DecidableEq, Repr

/-- A powered die. -/
def Die.init : Die :=
  { contained := false, powered := true, hung := false, eventSeq := 0, relock := none, unlocked := false }

/-- What Holmon has sent where an observer outside sees it. -/
inductive Out where
  /-- A frame sent on a switch port: START word, packet. -/
  | frame (port : Nat) (start : Word) (pkt : Pkt)
  /-- The end of that frame once its last flit has gone: its END word (R382, R385). -/
  | frameEnd (port : Nat) (word : Word)
  | linkWord (port : Nat) (word : Word)
  /-- A frame of the control port: the four words of its header, and its payload (R406). -/
  | cpFrame (w0 w1 w2 w3 : Word) (payload : List Byte)
  | errN (low : Bool)
  deriving DecidableEq, Repr

/-- The module as a whole (R436-R449, R489, R493, R513, R516). -/
structure Module where
  /-- Module state code 0-4 (R436). -/
  state : Nat
  /-- Bring-up phase 0-6. -/
  phase : Nat
  /-- The bring-up under way has stopped in its phase. -/
  stopped : Bool
  /-- The bring-up under way follows a warm reset. -/
  warm : Bool
  /-- Active control die, 30 or 31. -/
  activeKd : Nat
  resetCause : Nat
  tripped : Bool
  tripSeen : Bool
  /-- A non-control die has tripped since the last cold reset (R450). -/
  tripNoted : Bool
  /-- The always-on trip flag of a control-die trip (R448). -/
  tripFlag : Bool
  /-- Units that failed the bring-up under way, by control-space address / 2^24 (R446). -/
  failed : List Nat
  /-- Units LIVE before the last entry to QUIET. -/
  before : List Nat
  pwrEn : Bool
  rstN : Bool
  inputOk : Bool
  held : Bool
  /-- OFF was commanded and its response sent; power goes at POWER_REMOVAL. -/
  offPending : Bool
  errLow : Bool
  /-- The active die's fault collector holds ERR_N low after an expiry that gave no failover (R495). -/
  errHeld : Bool
  pulse : Bool
  standby : Nat
  failovers : Nat
  /-- STOP_STATUS: STOPPED, and the SOURCE_ID it keeps (R489). -/
  stopHeld : Bool
  stopId : Nat
  /-- Die reboot under way: die and phase. -/
  reboot : Option (Nat × Nat)
  deriving DecidableEq, Repr

/-- The state of the block. -/
structure State where
  /-- Commands that wait, first in first out. -/
  pending : List Instr
  /-- Counter that names the next free value (the model's own). -/
  freeCtr : Nat
  /-- Packets made so far at this Holmon (the model's own). -/
  nextUid : Nat
  module : Module
  /-- Control-space registers, by 48-bit address, where they differ from their reset value. -/
  regs : SMap Word
  /-- Unit states, by control-space address / 2^24; unlisted PARKED. -/
  units : SMap UnitState
  dies : SMap Die
  portDies : SMap PortDie
  ports : SMap Port
  /-- Packets ready to cross a plane, by crossbar input link, oldest first. -/
  ready : SMap (List Pkt)
  /-- Packets delivered to a die's consumers, by die number, oldest first. -/
  inbox : SMap (List Pkt)
  planeA : Plane
  planeB : Plane
  caravans : SMap Caravan
  jobs : SMap Job
  hanks : SMap Hank
  /-- Physical spindles, by 32 * die + slot. -/
  spindles : SMap Spindle
  sync : List SyncMsg
  erg : Erg
  /-- Staging buffers, by 2^27 * buffer + offset; unlisted zero. -/
  staging : List Host.Cell
  /-- Stepped operations by slot; and the use count of each slot. -/
  ops : SMap Op
  opUses : SMap Nat
  /-- Slot of the operation that stepped last. -/
  opTurn : Nat
  cp : ControlPort
  sec : Security
  records : List FaultRec
  nextRecord : BitVec 32
  /-- Records with a lower number have been read. -/
  readUpTo : Nat
  windows : SMap Window
  /-- Fault records of the present die cycle, formed and not yet stored (R488; the model's own, empty between
  commands). -/
  raised : List FaultRec
  /-- Watchdog episodes that have raised their event: 0 and 1 Distaff of dies 30 and 31, 128 + slot steps. -/
  episodes : List Nat
  out : List Out
  deriving DecidableEq, Repr

/-- A plane after reset (R89, R110): both banks empty, no credit, nothing held. -/
def Plane.init : Plane :=
  { active := none, shadow := none, bank := 0, mcActive := none, mcShadow := none, mcBank := 0, loading := false,
    pointer := 0, credits := [], held := [], reserve := [], queues := [], rr := [], slot := [], stalled := [],
    forgotten := [] }

/-- Empty Erg state: PAGE_MAP as R349 places it. -/
def Erg.init : Erg :=
  { mem := [], bad := [], pageMap := [], retired := [], pools := [], counters := [], counting := [], repl := [] }

/-- The control port before link-up (R410). -/
def ControlPort.init : ControlPort :=
  { step := 1, laneLock := 0, aligned := 0, rxFrames := 0, rxKib := 0, rxNext := 0, placed := false, txNext := 0,
    unacked := [], queue := [], lost := [], remembered := [], awaiting := [] }

/-- The security root of a module as shipped (R451, R454, R524); SEC_NONCE is drawn at reset (R458). -/
def Security.init : Security :=
  { lifecycle := 0,
    keys := [(.empty, []), (.empty, []), (.empty, []), (.empty, [])],
    minSvn := [0, 0, 0, 0, 0], bootCount := 0, nonce := (Config.noise 0).take 32, attestKey := none,
    session := none, history := 0, zeroising := false, boot := [] }

/-- The module when input power has just been applied with PWR_EN high: B0 begins (R445, R446, R513). -/
def Module.init : Module :=
  { state := 1, phase := 0, stopped := false, warm := false, activeKd := 30, resetCause := 0, tripped := false,
    tripSeen := false, tripNoted := false, tripFlag := false, failed := [], before := [],
    pwrEn := true, rstN := true, inputOk := true, held := false,
    offPending := false, errLow := true, errHeld := false, pulse := false, standby := 0, failovers := 0, stopHeld := false, stopId := 0,
    reboot := none }

/-- The BRINGUP event of the start of B0, the first event of the active control die after a cold reset (R419, R431,
R432): its LOCAL_CYCLE is a reading of a clock. [2] -/
def firstEvent : CpMsg :=
  { type := 3, tag := 0, opcode := 0, status := 0,
    payload := [0x10, 0x01, 0x1E, 0, 0, 0, 0, 0]
      ++ (List.range 8).map (fun k => (Config.freeCycle 0).extractLsb' (8 * k) 8) ++ List.replicate 24 0 }

/-- The machine right after reset. -/
def State.reset : State :=
  { pending := [], freeCtr := 1, nextUid := 0, module := Module.init, regs := [], units := [],
    dies := [(30, { Die.init with eventSeq := 1 })], portDies := [], ports := [], ready := [], inbox := [],
    planeA := Plane.init, planeB := Plane.init,
    caravans := [], jobs := [], hanks := [], spindles := [], sync := [], erg := Erg.init, staging := [], ops := [],
    opUses := [], opTurn := 63, cp := { ControlPort.init with queue := [firstEvent] },
    sec := Security.init, records := [], nextRecord := 0,
    readUpTo := 0, windows := [], raised := [], episodes := [], out := [] }

end Sys2Proof.Machine
end

