-- ==== Sys2Proof/Machine/Ops.lean ====
section
/-! DEFINITION. The named operations every meaning is written over: bit fields, byte order, sparse stores,
memories, and the readers and writers of the parts of State. -/

namespace Sys2Proof.Machine

/-- What a command answers. -/
abbrev Res := Host.Outcome State Fault Refusal

/-! ### Bit fields and bytes (little-endian, R5) -/

/-- Bits hi..lo of a number. -/
def bits (n hi lo : Nat) : Nat := (n >>> lo) % 2 ^ (hi + 1 - lo)

/-- Bit i of a number. -/
def bit (n i : Nat) : Bool := n.testBit i

/-- Bits hi..lo of a word. -/
def wbits (w : Word) (hi lo : Nat) : Nat := bits w.toNat hi lo

/-- Bit i of a word. -/
def wbit (w : Word) (i : Nat) : Bool := w.toNat.testBit i

/-- A word. -/
def word (n : Nat) : Word := BitVec.ofNat 64 n

/-- Replace bits hi..lo of a word. -/
def setBits (w : Word) (hi lo v : Nat) : Word :=
  let m := 2 ^ (hi + 1 - lo)
  word (w.toNat - (bits w.toNat hi lo) * 2 ^ lo + (v % m) * 2 ^ lo)

/-- 1 for true. -/
def b2n (b : Bool) : Nat := if b then 1 else 0

/-- Signed value of the low `w` bits. -/
def signed (w n : Nat) : Int :=
  let v := n % 2 ^ w
  if 2 * v < 2 ^ w then (v : Int) else (v : Int) - (2 ^ w : Nat)

/-- The low `w` bits of a two's complement number. -/
def unsigned (w : Nat) (v : Int) : Nat := (v % ((2 ^ w : Nat) : Int)).toNat

/-- Number made of bytes, lowest first. -/
def bytesNat : List Byte → Nat
  | [] => 0
  | b :: r => b.toNat + 256 * bytesNat r

/-- The `k` low bytes of a number, lowest first. -/
def natBytes : Nat → Nat → List Byte
  | 0, _ => []
  | k + 1, n => BitVec.ofNat 8 n :: natBytes k (n / 256)

/-- The eight bytes of a word. -/
def wordBytes (w : Word) : List Byte := natBytes 8 w.toNat

/-- Bytes of several words. -/
def wordsBytes (ws : List Word) : List Byte := ws.flatMap wordBytes

/-- Word at byte offset `o` of a byte string. -/
def wordAt (l : List Byte) (o : Nat) : Word := word (bytesNat ((l.drop o).take 8))

/-- Pad a byte string with zeros to `n` bytes, or cut it there. -/
def padTo (n : Nat) (l : List Byte) : List Byte := (l ++ List.replicate (n - l.length) 0).take n

/-- Number of bits set in the low `k` bits. -/
def popCount : Nat → Nat → Nat
  | 0, _ => 0
  | k + 1, n => n % 2 + popCount k (n / 2)

/-- Smallest k with n ≤ 2^k, searching k from `k0` over `fuel`. -/
def clog2 (n : Nat) : Nat := if n ≤ 1 then 0 else Nat.log2 (n - 1) + 1

/-- Saturating count of `w` bits. -/
def satAdd (w a b : Nat) : Nat := min (a + b) (2 ^ w - 1)

/-! ### Sparse stores -/

/-- What a sparse store holds at a key. -/
def mapGet {α : Type} (m : SMap α) (d : α) (k : Nat) : α :=
  match m with
  | [] => d
  | (j, v) :: r => if k = j then v else if k < j then d else mapGet r d k

/-- A store without the entry at a key. -/
def mapDel {α : Type} (m : SMap α) (k : Nat) : SMap α :=
  match m with
  | [] => []
  | (j, v) :: r => if k = j then r else if k < j then (j, v) :: r else (j, v) :: mapDel r k

/-- A store with an entry set, kept in rising order of keys. -/
def mapIns {α : Type} (m : SMap α) (k : Nat) (v : α) : SMap α :=
  match m with
  | [] => [(k, v)]
  | (j, w) :: r => if k = j then (k, v) :: r else if k < j then (k, v) :: (j, w) :: r else (j, w) :: mapIns r k v

/-- A store with a key set to a value: setting the default removes the entry. -/
def mapPut {α : Type} [DecidableEq α] (m : SMap α) (d : α) (k : Nat) (v : α) : SMap α :=
  if v = d then mapDel m k else mapIns m k v

/-- A store with every entry changed. -/
def mapAll {α : Type} [DecidableEq α] (m : SMap α) (d : α) (f : Nat → α → α) : SMap α :=
  m.filterMap (fun e => let v := f e.1 e.2; if v = d then none else some (e.1, v))

/-- What a store of optional things holds at a key. -/
def mapFind {α : Type} (m : SMap α) (k : Nat) : Option α :=
  match m with
  | [] => none
  | (j, v) :: r => if k = j then some v else if k < j then none else mapFind r k

/-- Keys strictly rising, from a lower bound on. -/
def mapRising {α : Type} (lo : Nat) (m : SMap α) : Bool :=
  match m with
  | [] => true
  | (j, _) :: r => decide (lo ≤ j) && mapRising (j + 1) r

/-- Canonical form of a sparse store: keys strictly rising, no entry at the default. -/
def mapWf {α : Type} [DecidableEq α] (d : α) (m : SMap α) : Bool :=
  mapRising 0 m && m.all (fun e => decide (e.2 ≠ d))

/-! ### Memories: sparse stores of bytes, an unlisted byte reads 0 [5] -/

/-- One byte. -/
def memByte (m : List Host.Cell) (a : Nat) : Byte := mapGet m 0 a

/-- `n` bytes from an address. -/
def memRead (m : List Host.Cell) (a : Nat) : Nat → List Byte
  | 0 => []
  | n + 1 => memByte m a :: memRead m (a + 1) n

/-- Bytes stored from an address on. -/
def memWrite (m : List Host.Cell) (a : Nat) : List Byte → List Host.Cell
  | [] => m
  | b :: r => memWrite (mapPut m 0 a b) (a + 1) r

/-- Canonical form of a memory. -/
abbrev memWf (m : List Host.Cell) : Bool := mapWf (0 : Byte) m

/-! ### Lists -/

/-- Change the element at an index. -/
def listMod {α : Type} (l : List α) (i : Nat) (f : α → α) : List α :=
  match l, i with
  | [], _ => []
  | x :: r, 0 => f x :: r
  | x :: r, i + 1 => x :: listMod r i f

/-- First `k` numbers from `a` on. -/
def upTo (a : Nat) : Nat → List Nat
  | 0 => []
  | k + 1 => a :: upTo (a + 1) k

/-- Insert a number into a rising list without repeats. -/
def insNat (l : List Nat) (k : Nat) : List Nat :=
  match l with
  | [] => [k]
  | j :: r => if k = j then j :: r else if k < j then k :: j :: r else j :: insNat r k

/-- Cut a list into pieces of `k`; `fuel` bounds the pieces. -/
def chunksOf {α : Type} (k : Nat) : Nat → List α → List (List α)
  | 0, _ => []
  | fuel + 1, l => if l.isEmpty then [] else l.take k :: chunksOf k fuel (l.drop k)

/-! ### Free values -/

/-- The next free word of the machine, and the state after taking it. [2] -/
def freeWord (s : State) : Word × State := (Config.freeWord s.freeCtr, { s with freeCtr := s.freeCtr + 1 })

/-- A free number below `n`. -/
def freeBelow (n : Nat) (s : State) : Nat × State :=
  let (w, s) := freeWord s
  (w.toNat % n, s)

/-- A reading of a clock. [2] -/
def freeCycle (s : State) : Word × State := (Config.freeCycle s.freeCtr, { s with freeCtr := s.freeCtr + 1 })

/-- 32 or 57 bytes of noise (R458). [8] -/
def takeNoise (n : Nat) (s : State) : List Byte × State :=
  (padTo n (Config.noise s.freeCtr), { s with freeCtr := s.freeCtr + 1 })

/-! ### The dies of R15 -/

/-- Die kind 0 port, 1 core, 2 spindle, 3 Erg, 4 control. -/
def dieKind (die : Nat) : Nat :=
  if die < 8 then 0 else if die < 10 then 1 else if die < 26 then 2 else if die < 30 then 3 else 4

/-- Port die of a switch port, and the port's number on it (R83). -/
def portDieOf (p : Nat) : Nat := p / 16
def portIdx (p : Nat) : Nat := p % 16

/-! ### Parts of the state -/

def getPort (s : State) (p : Nat) : Port := mapGet s.ports Port.init p
def setPort (s : State) (p : Nat) (v : Port) : State := { s with ports := mapPut s.ports Port.init p v }
def modPort (s : State) (p : Nat) (f : Port → Port) : State := setPort s p (f (getPort s p))

def getPortDie (s : State) (d : Nat) : PortDie := mapGet s.portDies PortDie.init d
def setPortDie (s : State) (d : Nat) (v : PortDie) : State := { s with portDies := mapPut s.portDies PortDie.init d v }
def modPortDie (s : State) (d : Nat) (f : PortDie → PortDie) : State := setPortDie s d (f (getPortDie s d))

def getDie (s : State) (d : Nat) : Die := mapGet s.dies Die.init d
def setDie (s : State) (d : Nat) (v : Die) : State := { s with dies := mapPut s.dies Die.init d v }
def modDie (s : State) (d : Nat) (f : Die → Die) : State := setDie s d (f (getDie s d))

def getJob (s : State) (j : Nat) : Job := mapGet s.jobs Job.init j
def setJob (s : State) (j : Nat) (v : Job) : State := { s with jobs := mapPut s.jobs Job.init j v }

/-- The open hank of a number, if any. -/
def getHank (s : State) (h : Nat) : Option Hank := mapFind s.hanks h
def setHank (s : State) (h : Nat) (v : Hank) : State := { s with hanks := mapIns s.hanks h v }
def delHank (s : State) (h : Nat) : State := { s with hanks := mapDel s.hanks h }
def modHank (s : State) (h : Nat) (f : Hank → Hank) : State :=
  match getHank s h with
  | some v => setHank s h (f v)
  | none => s

/-- Key of a physical spindle. -/
def spKey (die slot : Nat) : Nat := 32 * die + slot

def getSp (s : State) (k : Nat) : Spindle := mapGet s.spindles Spindle.init k
def setSp (s : State) (k : Nat) (v : Spindle) : State := { s with spindles := mapPut s.spindles Spindle.init k v }
def modSp (s : State) (k : Nat) (f : Spindle → Spindle) : State := setSp s k (f (getSp s k))

def spEngine (sp : Spindle) (e : Nat) : Engine := mapGet sp.engines Engine.init e
def spSetEngine (sp : Spindle) (e : Nat) (v : Engine) : Spindle :=
  { sp with engines := mapPut sp.engines Engine.init e v }

def getEng (s : State) (k e : Nat) : Engine := spEngine (getSp s k) e
def setEng (s : State) (k e : Nat) (v : Engine) : State := modSp s k (fun sp => spSetEngine sp e v)
def modEng (s : State) (k e : Nat) (f : Engine → Engine) : State := setEng s k e (f (getEng s k e))

/-- Plane 0 is A, plane 1 is B. -/
def getPlane (s : State) (p : Nat) : Plane := if p = 0 then s.planeA else s.planeB
def setPlane (s : State) (p : Nat) (v : Plane) : State :=
  if p = 0 then { s with planeA := v } else { s with planeB := v }
def modPlane (s : State) (p : Nat) (f : Plane → Plane) : State := setPlane s p (f (getPlane s p))

def getReady (s : State) (link : Nat) : List Pkt := mapGet s.ready [] link
def setReady (s : State) (link : Nat) (l : List Pkt) : State := { s with ready := mapPut s.ready [] link l }

def getInbox (s : State) (die : Nat) : List Pkt := mapGet s.inbox [] die
def setInbox (s : State) (die : Nat) (l : List Pkt) : State := { s with inbox := mapPut s.inbox [] die l }

def modErg (s : State) (f : Erg → Erg) : State := { s with erg := f s.erg }
def modCp (s : State) (f : ControlPort → ControlPort) : State := { s with cp := f s.cp }
def modSec (s : State) (f : Security → Security) : State := { s with sec := f s.sec }
def modModule (s : State) (f : Module → Module) : State := { s with module := f s.module }

/-- Log something that leaves the module. [7] -/
def emit (s : State) (o : Out) : State := { s with out := s.out ++ [o] }

/-- The next packet number. -/
def newUid (s : State) : Nat × State := (s.nextUid, { s with nextUid := s.nextUid + 1 })

/-- A memory of the machine, changed. -/
def ergWrite (s : State) (a : Nat) (d : List Byte) : State := modErg s (fun e => { e with mem := memWrite e.mem a d })
def spWrite (sp : Spindle) (a : Nat) (d : List Byte) : Spindle := { sp with ls := memWrite sp.ls a d }

/-! ### CRC-32C (R385, R406) -/

/-- One bit into the reflected CRC-32C register. -/
def crcBit (c : BitVec 32) (b : Bool) : BitVec 32 :=
  let x := c ^^^ (if b then 1 else 0)
  if x.getLsbD 0 then (x >>> 1) ^^^ 0x82F63B78 else x >>> 1

/-- The `n` low bits of a number, lowest first. -/
def crcBits : Nat → BitVec 32 → Nat → BitVec 32
  | 0, c, _ => c
  | n + 1, c, v => crcBits n (crcBit c (v.testBit 0)) (v / 2)

/-- Bytes into the register, in order. -/
def crcBytes (c : BitVec 32) (bytes : List Byte) : BitVec 32 := bytes.foldl (fun c b => crcBits 8 c b.toNat) c

/-! ### Guards: an event at a unit the part does not have -/

/-- An event at a switch port. -/
def atPort (p : Nat) (s : State) : Res := if p < 128 then .next s else .refused (.noSuchUnit "port")

/-- An event at a numbered unit of which there are `n` from `lo` on. -/
def atUnit (what : String) (lo n k : Nat) (s : State) : Res :=
  if lo ≤ k ∧ k < lo + n then .next s else .refused (.noSuchUnit what)

/-- An event at an engine. -/
def atEngine (die slot e : Nat) (s : State) : Res :=
  if 10 ≤ die ∧ die < 26 ∧ slot < 17 ∧ e < 4 then .next s else .refused (.noSuchUnit "engine")

end Sys2Proof.Machine
end

