-- ==== Sys2Proof/Machine/Crypto.lean ====
section
/-! DEFINITION. The two standards chapter 16 follows: SHAKE256 of FIPS 202 and Ed448 of RFC 8032 with an empty
context. Both are taken from those standards. [21] -/

namespace Sys2Proof.Machine

/-! ### SHAKE256 -/

/-- One shift of the register that yields the bits of iota: x^8 + x^6 + x^5 + x^4 + 1. -/
def iotaShift (r : Nat) : Nat := if 128 ≤ r then (2 * r) ^^^ 0x171 else 2 * r

/-- `n` bits of a round's constant from bit number 2^j - 1 on, and the register after them. -/
def iotaBits : Nat → Nat → Nat → Word × Nat
  | 0, _, r => (0, r)
  | n + 1, j, r =>
    let rest := iotaBits n (j + 1) (iotaShift r)
    (rest.1 ||| BitVec.ofNat 64 (r % 2 * 2 ^ (2 ^ j - 1)), rest.2)

/-- Where each lane but the first goes under rho and pi: from, to, and the rotation, along the orbit of (1, 0). -/
def rhoWalk : Nat → Nat → Nat → Nat → List (Nat × Nat × Nat)
  | 0, _, _, _ => []
  | n + 1, t, x, y =>
    let v := (2 * x + 3 * y) % 5
    (x + 5 * y, y + 5 * v, (t + 1) * (t + 2) / 2 % 64) :: rhoWalk n (t + 1) y v

/-- Lane i of a state of 25. -/
def lane (a : List Word) (i : Nat) : Word := a.getD i 0

/-- Theta. -/
def keccakTheta (a : List Word) : List Word :=
  let c := (upTo 0 5).map (fun x => lane a x ^^^ lane a (x + 5) ^^^ lane a (x + 10) ^^^ lane a (x + 15) ^^^ lane a (x + 20))
  let d := (upTo 0 5).map (fun x => lane c ((x + 4) % 5) ^^^ (lane c ((x + 1) % 5)).rotateLeft 1)
  (upTo 0 25).map (fun i => lane a i ^^^ lane d (i % 5))

/-- Rho and pi. -/
def keccakPi (a : List Word) : List Word :=
  (rhoWalk 24 0 1 0).foldl (fun b m => b.set m.2.1 ((lane a m.1).rotateLeft m.2.2)) a

/-- Chi. -/
def keccakChi (a : List Word) : List Word :=
  (upTo 0 25).map (fun i =>
    let r := i / 5 * 5
    lane a i ^^^ (~~~(lane a (r + (i + 1) % 5)) &&& lane a (r + (i + 2) % 5)))

/-- Iota. -/
def keccakIota (rc : Word) : List Word → List Word
  | [] => []
  | x :: r => (x ^^^ rc) :: r

/-- `n` rounds of the permutation, the iota register standing at `r`. -/
def keccakRounds : Nat → Nat → List Word → List Word
  | 0, _, a => a
  | n + 1, r, a =>
    let rc := iotaBits 7 0 r
    keccakRounds n rc.2 (keccakIota rc.1 (keccakChi (keccakPi (keccakTheta a))))

/-- The permutation: 24 rounds. -/
def keccakF (a : List Word) : List Word := keccakRounds 24 1 a

/-- Xor a block of 136 bytes into the state. -/
def keccakXor (a : List Word) (block : List Byte) : List Word :=
  (upTo 0 25).map (fun i => if i < 17 then lane a i ^^^ wordAt block (8 * i) else lane a i)

/-- Absorb a padded message, a block of 136 bytes at a time. -/
def keccakAbsorb (m : List Byte) : List Word :=
  (chunksOf 136 (m.length / 136 + 1) m).foldl (fun a b => keccakF (keccakXor a b)) (List.replicate 25 0)

/-- The padding of SHAKE: 0x1F, zeros, and the top bit of the block's last byte. -/
def shakePad (m : List Byte) : List Byte :=
  let z := 135 - m.length % 136
  if z = 0 then m ++ [0x9F] else m ++ [0x1F] ++ List.replicate (z - 1) 0 ++ [0x80]

/-- Squeeze `n` blocks. -/
def keccakSqueeze : Nat → List Word → List Byte
  | 0, _ => []
  | n + 1, a => (wordsBytes a).take 136 ++ keccakSqueeze n (keccakF a)

/-- SHAKE256 with an output of `n` bytes. -/
def shake256 (n : Nat) (m : List Byte) : List Byte := (keccakSqueeze (n / 136 + 1) (keccakAbsorb (shakePad m))).take n

/-- The 64-byte hash chapter 16 takes. -/
def hash64 (m : List Byte) : List Byte := shake256 64 m

/-! ### Ed448 -/

/-- The field prime 2^448 - 2^224 - 1. -/
def edP : Nat := 2 ^ 448 - 2 ^ 224 - 1
/-- The curve constant d = -39081. -/
def edD : Nat := edP - 39081
/-- The order of the base point. -/
def edL : Nat := 2 ^ 446 - 13818066809895115352007386748515426880336692474882178609894547503885

/-- A point in projective coordinates. -/
structure EdPoint where
  x : Nat
  y : Nat
  z : Nat
  deriving DecidableEq, Repr

/-- The base point. -/
def edBase : EdPoint :=
  { x := 224580040295924300187604334099896036246789641632564134246125461686950415467406032909029192869357953282578032075146446173674602635247710,
    y := 298819210078481492676017930443930673437544040154080242095928241372331506189835876003536878655418784733982303233503462500531545062832660,
    z := 1 }

/-- Difference modulo p. -/
def edSub (a b : Nat) : Nat := (a + edP - b % edP) % edP

/-- a^e modulo p, over the low `n` bits of e. -/
def edPow : Nat → Nat → Nat → Nat
  | 0, _, _ => 1
  | n + 1, a, e =>
    let r := edPow n (a * a % edP) (e / 2)
    if e % 2 = 1 then r * a % edP else r

/-- Inverse modulo p. -/
def edInv (a : Nat) : Nat := edPow 448 a (edP - 2)

/-- Sum of two points. -/
def edAdd (p q : EdPoint) : EdPoint :=
  let a := p.z * q.z % edP
  let b := a * a % edP
  let c := p.x * q.x % edP
  let d := p.y * q.y % edP
  let e := edD * c % edP * d % edP
  let f := edSub b e
  let g := (b + e) % edP
  let h := (p.x + p.y) * (q.x + q.y) % edP
  { x := a * f % edP * (edSub (edSub h c) d) % edP, y := a * g % edP * (edSub d c) % edP, z := f * g % edP }

/-- Multiple of a point, over the low `n` bits of k. -/
def edMul : Nat → Nat → EdPoint → EdPoint
  | 0, _, _ => { x := 0, y := 1, z := 1 }
  | n + 1, k, p =>
    let r := edMul n (k / 2) (edAdd p p)
    if k % 2 = 1 then edAdd r p else r

/-- Equal points. -/
def edEq (p q : EdPoint) : Bool := p.x * q.z % edP == q.x * p.z % edP && p.y * q.z % edP == q.y * p.z % edP

/-- 57-byte encoding of a point. -/
def edEncode (p : EdPoint) : List Byte :=
  let zi := edInv p.z
  let x := p.x * zi % edP
  let y := p.y * zi % edP
  natBytes 57 (y + x % 2 * 2 ^ 455)

/-- Decoding of 57 bytes; none where they name no point. -/
def edDecode (b : List Byte) : Option EdPoint :=
  let n := bytesNat (padTo 57 b)
  let sign := n / 2 ^ 455
  let y := n % 2 ^ 455
  if edP ≤ y ∨ b.length ≠ 57 then none
  else
    let u := edSub (y * y % edP) 1
    let v := edSub (edD * (y * y % edP) % edP) 1
    let u3v := u * u % edP * u % edP * v % edP
    let w := u3v * (edPow 448 (u3v * (u * u % edP) % edP * (v * v % edP) % edP) ((edP - 3) / 4)) % edP
    if v * (w * w % edP) % edP ≠ u then none
    else if w = 0 ∧ sign = 1 then none
    else some { x := if w % 2 = sign then w else edP - w, y := y, z := 1 }

/-- dom4 of pure Ed448 with an empty context. -/
def edDom : List Byte := [0x53, 0x69, 0x67, 0x45, 0x64, 0x34, 0x34, 0x38, 0, 0]

/-- Hash to a scalar. -/
def edHash (m : List Byte) : Nat := bytesNat (shake256 114 (edDom ++ m)) % edL

/-- Secret scalar and prefix of a private key. -/
def edSecret (key : List Byte) : Nat × List Byte :=
  let h := shake256 114 (padTo 57 key)
  let n := bytesNat (h.take 57) % 2 ^ 447
  (n - n % 4 + 2 ^ 447, h.drop 57)

/-- Public key of a private key. -/
def edPublic (key : List Byte) : List Byte := edEncode (edMul 448 (edSecret key).1 edBase)

/-- Signature, 114 bytes. -/
def edSign (key m : List Byte) : List Byte :=
  let (s, pre) := edSecret key
  let a := edPublic key
  let r := edHash (pre ++ m)
  let rb := edEncode (edMul 448 r edBase)
  let k := edHash (rb ++ a ++ m)
  rb ++ natBytes 57 ((r + k * s) % edL)

/-- A signature verifies. -/
def edVerify (key m sig : List Byte) : Bool :=
  match edDecode key, edDecode (sig.take 57) with
  | some a, some r =>
    let s := bytesNat (sig.drop 57)
    if edL ≤ s ∨ sig.length ≠ 114 then false
    else
      let k := edHash (sig.take 57 ++ key ++ m)
      edEq (edMul 448 (4 * s % (4 * edL)) edBase) (edMul 448 4 (edAdd r (edMul 448 k a)))
  | _, _ => false

end Sys2Proof.Machine
end

