-- ==== Sys2Proof/Machine/Operands.lean ====
section
/-! DEFINITION. The operand forms of the commands: the register map with its access codes and reset values, the
catalogue of fault sources, control-space addresses, unit states and the spindle map. -/

namespace Sys2Proof.Machine

/-- The registers the spec defines, in the order of its chapters. -/
inductive Reg where
  | stewardInfo | localCycleCount | dieClock | spindleMap | spindleMapStatus | edgeRole | edgeBind | rankCacheStatus
  | discardCount | discardCaptureInfo | discardCapture | routeConfig | routeGen | routeTopology | upPorts
  | upSet | routeCount | caravanA | caravanB | mcastGen | bufferAlpha | bufferFree | bufferGeometry | planeDiscard
  | shapeConfig | shapeRate | shapeSize | shapeWeight | shapeTokens | excessBytes | flushCount | sampleCtrl
  | sampleStatus | spindleStatus | slotLimit | slotUsed | hankBurstCycles | engineStatus | advanceCycles
  | heldCycles | waitingCycles | excStatus | excAddress | excControl | slubCount | slubCapture | slubCaptureAddr
  | exactRangeCount | whorlStatus | sparsePoison | siftFallback | syncFlags | barchanMembers | barchanCur
  | barchanNext | barchanState | syncDrops | ergConfig | pageQuery | reqCount | replRangeCtrl | replRangeBase
  | replRangeLen | replRangeSeq | channelStatus | eccCount | eccCapture | poolConfig | poolCount | poolStatus
  | poolEvents | portCtrl | portStatus | partnerInfo | linkCount | creditVc | creditShared | laneStatus
  | laneFec | laneCtrl | cpStatus | eventQueue | cpCount | moduleState | thermalStatus | thermalCtrl
  | secStatus | debugScope | debugRemaining | secNonce | minSvn | secRequest | secObject | ownerHash
  | identityPublic | fwStatus | pcTrace | engineS | engineP | faultSource | unitRelease | containment
  | watchdogCtrl | watchdogStatus | outputWd | failoverCtrl | failoverStatus | dieReboot | dieRebootStatus
  | watchdogLimits | errCtrl | faultStore | stopStatus
  deriving DecidableEq, Repr

/-- Where a register stands in its unit, which of its bits are RW, W1C and WO, and the value at reset of those that
do not depend on position. -/
structure RegRow where
  cls : Nat
  base : Nat
  stride : Nat
  count : Nat
  rw : Nat
  w1c : Nat
  wo : Nat
  reset : Nat
  deriving DecidableEq, Repr

/-- The register tables of the spec (R28, R39, R71, R110, R111, R135, R136, R241, R242, R287, R316, R342, R343,
R374-R376, R402, R403, R435, R449, R450, R481, R482, R503-R507). -/
def regRow : Reg → RegRow
  | .stewardInfo => ⟨0x0, 0, 8, 1, 0, 0, 0, 0x100000⟩
  | .localCycleCount => ⟨0x0, 8, 8, 1, 0, 0, 0, 0⟩
  | .dieClock => ⟨0x0, 0x10, 8, 1, 0, 0, 0, 0⟩
  | .spindleMap => ⟨0x12, 0, 8, 2, 0, 0, 0, 0⟩
  | .spindleMapStatus => ⟨0x12, 0x10, 8, 1, 0, 0, 0, 0x600000⟩
  | .edgeRole => ⟨0x3, 0, 8, 1, 0xffff, 0, 0, 0⟩
  | .edgeBind => ⟨0x3, 0x100, 8, 16, 0x1fffff, 0, 0, 0⟩
  | .rankCacheStatus => ⟨0x3, 0x200, 8, 1, 0, 0, 0, 0⟩
  | .discardCount => ⟨0x3, 0x300, 8, 12, 0xffffffffffff, 0, 0, 0⟩
  | .discardCaptureInfo => ⟨0x3, 0x400, 8, 1, 0, 0x100, 0, 0⟩
  | .discardCapture => ⟨0x3, 0x408, 8, 8, 0, 0, 0, 0⟩
  | .routeConfig => ⟨0x9, 0, 8, 1, 0xffff0001, 0, 0, 0x400000⟩
  | .routeGen => ⟨0x9, 8, 8, 1, 0, 0, 0, 0⟩
  | .routeTopology => ⟨0x9, 0x10, 8, 1, 0, 0, 0, 0⟩
  | .upPorts => ⟨0x9, 0x18, 8, 2, 0, 0, 0, 0⟩
  | .upSet => ⟨0x9, 0x100, 8, 32, 0, 0, 0, 0⟩
  | .routeCount => ⟨0x9, 0x300, 8, 5, 0xffffffffffff, 0, 0, 0⟩
  | .caravanA => ⟨0x9, 0x1000, 16, 256, 0, 0, 0, 0⟩
  | .caravanB => ⟨0x9, 0x1008, 16, 256, 0, 0, 0, 0⟩
  | .mcastGen => ⟨0xa, 0, 8, 1, 0, 0, 0, 0⟩
  | .bufferAlpha => ⟨0x8, 0, 8, 1, 0xfffffff, 0, 0, 0x6888877⟩
  | .bufferFree => ⟨0x8, 8, 8, 1, 0x3fffff00000000, 0, 0, 0x1e956c001e956c⟩
  | .bufferGeometry => ⟨0x8, 0x10, 8, 1, 0, 0, 0, 0x16a94001e956c⟩
  | .planeDiscard => ⟨0x8, 0x100, 8, 7, 0xffffffffffff, 0, 0, 0⟩
  | .shapeConfig => ⟨0x1, 0x10000, 8, 1, 0xff, 0, 0, 0x14⟩
  | .shapeRate => ⟨0x1, 0x10100, 8, 7, 0xffffffff, 0, 0, 0⟩
  | .shapeSize => ⟨0x1, 0x10200, 8, 7, 0xffffffff, 0, 0, 0x4000400⟩
  | .shapeWeight => ⟨0x1, 0x10300, 8, 1, 0xffffffffffffff, 0, 0, 0x2040402040401⟩
  | .shapeTokens => ⟨0x1, 0x10400, 8, 7, 0, 0, 0, 0⟩
  | .excessBytes => ⟨0x1, 0x10500, 8, 7, 0xffffffffffff, 0, 0, 0⟩
  | .flushCount => ⟨0x1, 0x10600, 8, 7, 0xffffffffffff, 0, 0, 0⟩
  | .sampleCtrl => ⟨0x1, 0x10800, 8, 2, 0x100ffffff, 0, 0, 0⟩
  | .sampleStatus => ⟨0x1, 0x10810, 8, 2, 0xffffffff, 0, 0, 0⟩
  | .spindleStatus => ⟨0x10, 0, 8, 1, 0, 0, 0, 0x4f⟩
  | .slotLimit => ⟨0x10, 8, 8, 1, 0xfff, 0, 0, 0x200⟩
  | .slotUsed => ⟨0x10, 0x10, 8, 1, 0, 0, 0, 0x2000000⟩
  | .hankBurstCycles => ⟨0x10, 0x18, 8, 1, 0xffffffffffff, 0, 0, 0⟩
  | .engineStatus => ⟨0x11, 0, 8, 1, 0, 0, 0, 0⟩
  | .advanceCycles => ⟨0x11, 8, 8, 1, 0xffffffffffff, 0, 0, 0⟩
  | .heldCycles => ⟨0x11, 0x10, 8, 1, 0xffffffffffff, 0, 0, 0⟩
  | .waitingCycles => ⟨0x11, 0x18, 8, 1, 0xffffffffffff, 0, 0, 0⟩
  | .excStatus => ⟨0x11, 0x100, 8, 1, 0, 0x8000000000000000, 0, 0⟩
  | .excAddress => ⟨0x11, 0x108, 8, 1, 0, 0, 0, 0⟩
  | .excControl => ⟨0x11, 0x110, 8, 1, 3, 0, 0, 0⟩
  | .slubCount => ⟨0x11, 0x118, 8, 1, 0xffffffffffff, 0, 0, 0⟩
  | .slubCapture => ⟨0x11, 0x120, 8, 1, 0, 0x8000000000000000, 0, 0⟩
  | .slubCaptureAddr => ⟨0x11, 0x128, 8, 1, 0, 0, 0, 0⟩
  | .exactRangeCount => ⟨0x11, 0x130, 8, 1, 0xffffffffffff, 0, 0, 0⟩
  | .whorlStatus => ⟨0x11, 0x138, 8, 1, 0, 0, 0, 0⟩
  | .sparsePoison => ⟨0x10, 0x100, 8, 1, 0x10fffffff, 0, 0, 0⟩
  | .siftFallback => ⟨0x10, 0x108, 8, 1, 0xffffffffffffffff, 0, 0, 0⟩
  | .syncFlags => ⟨0x10, 0x200, 8, 1, 0, 0, 0, 0⟩
  | .barchanMembers => ⟨0x10, 0x400, 32, 16, 0xffffffffffffffff, 0, 0, 0⟩
  | .barchanCur => ⟨0x10, 0x408, 32, 16, 0, 0, 0, 0⟩
  | .barchanNext => ⟨0x10, 0x410, 32, 16, 0, 0, 0, 0⟩
  | .barchanState => ⟨0x10, 0x418, 32, 16, 0, 0, 0, 0⟩
  | .syncDrops => ⟨0x12, 0x18, 8, 1, 0xffffffff, 0, 0, 0⟩
  | .ergConfig => ⟨0x18, 0, 8, 1, 0xffffffffffff, 0, 0, 0x6400000000⟩
  | .pageQuery => ⟨0x18, 8, 8, 1, 0x1ffff, 0, 0, 0x2000000000000⟩
  | .reqCount => ⟨0x18, 0x100, 8, 7, 0xffffffffffff, 0, 0, 0⟩
  | .replRangeCtrl => ⟨0x18, 0x1000, 32, 16, 0xc0f00000000fffff, 0, 0, 0⟩
  | .replRangeBase => ⟨0x18, 0x1008, 32, 16, 0xffffffffff, 0, 0, 0⟩
  | .replRangeLen => ⟨0x18, 0x1010, 32, 16, 0xffffffffff, 0, 0, 0⟩
  | .replRangeSeq => ⟨0x18, 0x1018, 32, 16, 0, 0, 0, 0⟩
  | .channelStatus => ⟨0x19, 0, 8, 1, 0, 0, 0, 1⟩
  | .eccCount => ⟨0x19, 8, 8, 1, 0xffffffffffffffff, 0, 0, 0⟩
  | .eccCapture => ⟨0x19, 0x10, 8, 1, 0, 0x8000000000000000, 0, 0⟩
  | .poolConfig => ⟨0x1c, 0, 8, 1, 0xf00000ffffffffff, 0, 0, 0⟩
  | .poolCount => ⟨0x1c, 8, 8, 1, 0x1fffff, 0, 0, 0⟩
  | .poolStatus => ⟨0x1c, 0x10, 8, 1, 0x1fffff00000000, 0, 0, 0⟩
  | .poolEvents => ⟨0x1c, 0x18, 8, 1, 0xffffffffffffffff, 0, 0, 0⟩
  | .portCtrl => ⟨0x1, 0, 8, 1, 0xffffff00b3, 0, 0, 0x803e800b0⟩
  | .portStatus => ⟨0x1, 8, 8, 1, 0, 0, 0, 0⟩
  | .partnerInfo => ⟨0x1, 0x10, 8, 1, 0, 0, 0, 0⟩
  | .linkCount => ⟨0x1, 0x100, 8, 9, 0xffffffffffff, 0, 0, 0⟩
  | .creditVc => ⟨0x1, 0x200, 8, 14, 0, 0, 0, 0⟩
  | .creditShared => ⟨0x1, 0x280, 8, 1, 0, 0, 0, 0⟩
  | .laneStatus => ⟨0x2, 0, 8, 1, 0, 0, 0, 0⟩
  | .laneFec => ⟨0x2, 8, 8, 1, 0xffffffffffffffff, 0, 0, 0⟩
  | .laneCtrl => ⟨0x2, 0x10, 8, 1, 0xffff, 0, 0, 0x10⟩
  | .cpStatus => ⟨0x21, 0, 8, 1, 0, 0, 0, 0⟩
  | .eventQueue => ⟨0x21, 8, 8, 1, 0xffffff00000000, 0, 0, 0⟩
  | .cpCount => ⟨0x21, 0x100, 8, 8, 0xffffffffffff, 0, 0, 0⟩
  | .moduleState => ⟨0x20, 0, 8, 1, 0, 8, 0, 1⟩
  | .thermalStatus => ⟨0x0, 0x100, 8, 1, 0, 0, 0, 0⟩
  | .thermalCtrl => ⟨0x0, 0x108, 8, 1, 0xff, 0, 0, 0⟩
  | .secStatus => ⟨0x22, 0, 8, 1, 0, 0, 0, 0⟩
  | .debugScope => ⟨0x22, 8, 8, 1, 0, 0, 0, 0⟩
  | .debugRemaining => ⟨0x22, 0x10, 8, 1, 0, 0, 0, 0⟩
  | .secNonce => ⟨0x22, 0x20, 8, 4, 0, 0, 0, 0⟩
  | .minSvn => ⟨0x22, 0x40, 8, 5, 0, 0, 0, 0⟩
  | .secRequest => ⟨0x22, 0x100, 8, 1, 0, 0, 1, 0⟩
  | .secObject => ⟨0x22, 0x200, 8, 40, 0xffffffffffffffff, 0, 0, 0⟩
  | .ownerHash => ⟨0x22, 0x400, 8, 32, 0, 0, 0, 0⟩
  | .identityPublic => ⟨0x22, 0x500, 8, 8, 0, 0, 0, 0⟩
  | .fwStatus => ⟨0x22, 0x600, 8, 32, 0, 0, 0, 0⟩
  | .pcTrace => ⟨0x11, 0x300, 8, 32, 0, 0, 0, 0⟩
  | .engineS => ⟨0x11, 0x400, 8, 16, 0, 0, 0, 0⟩
  | .engineP => ⟨0x11, 0x480, 8, 1, 0, 0, 0, 0⟩
  | .faultSource => ⟨0x0, 0x2000, 8, 522, 0xffffffffffff0007, 0, 0, 0⟩
  | .unitRelease => ⟨0x0, 0x200, 8, 1, 0, 0, 0x7ffff000000, 0⟩
  | .containment => ⟨0x0, 0x208, 8, 1, 0, 0, 0, 0⟩
  | .watchdogCtrl => ⟨0x11, 0x200, 8, 1, 0xffffffff, 0, 0, 0x2710⟩
  | .watchdogStatus => ⟨0x11, 0x208, 8, 1, 0xffffffff00000000, 0, 0, 0⟩
  | .outputWd => ⟨0x8, 0x200, 8, 1, 0xffff, 0, 0, 0x3e8⟩
  | .failoverCtrl => ⟨0x20, 0x100, 8, 1, 0xffffffff, 0, 0x8000000000000000, 0x7d0⟩
  | .failoverStatus => ⟨0x20, 0x108, 8, 1, 0, 0, 0, 0⟩
  | .dieReboot => ⟨0x20, 0x110, 8, 1, 0, 0, 0x11f, 0⟩
  | .dieRebootStatus => ⟨0x20, 0x118, 8, 1, 0, 0, 0, 0⟩
  | .watchdogLimits => ⟨0x20, 0x120, 8, 1, 0xffffffffffffffff, 0, 0, 0x3e8000003e8⟩
  | .errCtrl => ⟨0x23, 0, 8, 1, 0x100ffffff, 0, 0, 0x2000003e8⟩
  | .faultStore => ⟨0x23, 8, 8, 1, 0, 0, 0, 0⟩
  | .stopStatus => ⟨0x23, 0x10, 8, 1, 0, 0, 0, 0⟩

/-- The registers of a class. -/
def classRegs : Nat → List Reg
  | 0x0 => [.stewardInfo, .localCycleCount, .dieClock, .thermalStatus, .thermalCtrl, .faultSource, .unitRelease,
      .containment]
  | 0x1 => [.shapeConfig, .shapeRate, .shapeSize, .shapeWeight, .shapeTokens, .excessBytes, .flushCount,
      .sampleCtrl, .sampleStatus, .portCtrl, .portStatus, .partnerInfo, .linkCount, .creditVc, .creditShared]
  | 0x2 => [.laneStatus, .laneFec, .laneCtrl]
  | 0x3 => [.edgeRole, .edgeBind, .rankCacheStatus, .discardCount, .discardCaptureInfo, .discardCapture]
  | 0x8 => [.bufferAlpha, .bufferFree, .bufferGeometry, .planeDiscard, .outputWd]
  | 0x9 => [.routeConfig, .routeGen, .routeTopology, .upPorts, .upSet, .routeCount, .caravanA, .caravanB]
  | 0xa => [.mcastGen]
  | 0x10 => [.spindleStatus, .slotLimit, .slotUsed, .hankBurstCycles, .sparsePoison, .siftFallback, .syncFlags,
      .barchanMembers, .barchanCur, .barchanNext, .barchanState]
  | 0x11 => [.engineStatus, .advanceCycles, .heldCycles, .waitingCycles, .excStatus, .excAddress, .excControl,
      .slubCount, .slubCapture, .slubCaptureAddr, .exactRangeCount, .whorlStatus, .pcTrace, .engineS, .engineP,
      .watchdogCtrl, .watchdogStatus]
  | 0x12 => [.spindleMap, .spindleMapStatus, .syncDrops]
  | 0x18 => [.ergConfig, .pageQuery, .reqCount, .replRangeCtrl, .replRangeBase, .replRangeLen, .replRangeSeq]
  | 0x19 => [.channelStatus, .eccCount, .eccCapture]
  | 0x1c => [.poolConfig, .poolCount, .poolStatus, .poolEvents]
  | 0x20 => [.moduleState, .failoverCtrl, .failoverStatus, .dieReboot, .dieRebootStatus, .watchdogLimits]
  | 0x21 => [.cpStatus, .eventQueue, .cpCount]
  | 0x22 => [.secStatus, .debugScope, .debugRemaining, .secNonce, .minSvn, .secRequest, .secObject, .ownerHash,
      .identityPublic, .fwStatus]
  | 0x23 => [.errCtrl, .faultStore, .stopStatus]
  | _ => []

/-! ### Unit classes and addresses (R25, R420) -/

/-- Number of instances of a unit class on a die; 0 where the class does not exist (R25). -/
def classCount (die cls : Nat) : Nat :=
  match dieKind die, cls with
  | _, 0x00 => 1
  | 0, 0x01 => 16
  | 0, 0x02 => 32
  | 0, 0x03 => 1
  | 1, 0x08 => 1
  | 1, 0x09 => 1
  | 1, 0x0A => 1
  | 2, 0x10 => 17
  | 2, 0x11 => 68
  | 2, 0x12 => 1
  | 3, 0x18 => 1
  | 3, 0x19 => 44
  | 3, 0x1A => 2
  | 3, 0x1B => 3
  | 3, 0x1C => 256
  | 4, 0x20 => 1
  | 4, 0x21 => 1
  | 4, 0x22 => 1
  | 4, 0x23 => 1
  | _, _ => 0

/-- A unit exists; a pool only on the Erg die that owns it (R25, R376). -/
def unitExists (die cls inst : Nat) : Bool :=
  decide (die < 32) && decide (inst < classCount die cls) && (cls != 0x1C || inst % 4 == die - 26)

/-- Control-space address of a unit at offset 0 (R420). -/
def unitAddr (die cls inst : Nat) : Nat := die * 2 ^ 43 + cls * 2 ^ 36 + inst * 2 ^ 24

/-- Key of a unit in State.units. -/
def unitKey (die cls inst : Nat) : Nat := unitAddr die cls inst / 2 ^ 24

/-- Die, class, instance and offset of a control-space address. -/
def addrDie (a : Nat) : Nat := bits a 47 43
def addrCls (a : Nat) : Nat := bits a 42 36
def addrInst (a : Nat) : Nat := bits a 35 24
def addrOff (a : Nat) : Nat := bits a 23 0

/-- Registers the standby control die mirrors stand once (R449, R481, R506, R507; EVENT_QUEUE, R435). -/
def regHome (r : Reg) (die : Nat) : Nat :=
  let c := (regRow r).cls
  if c = 0x20 ∨ c = 0x22 ∨ c = 0x23 ∨ r = .eventQueue then 30 else die

/-- Control-space address of a register: die, instance, index. -/
def regAddr (r : Reg) (die inst k : Nat) : Nat :=
  unitAddr (regHome r die) (regRow r).cls inst + (regRow r).base + (regRow r).stride * k

/-- Number of local fault-source indices of a die (R483). -/
def sourceCount (die : Nat) : Nat :=
  match dieKind die with
  | 0 => 268
  | 1 => 228
  | 2 => 522
  | 3 => 342
  | _ => 90

/-- Number of registers of a table row on a die. -/
def regCount (r : Reg) (die : Nat) : Nat :=
  if r = .faultSource then sourceCount die else (regRow r).count

/-- The register at an offset of a unit and its index; none where no chapter defines it (R27). -/
def findReg (die cls off : Nat) : List Reg → Option (Reg × Nat)
  | [] => none
  | r :: rest =>
    let t := regRow r
    if t.base ≤ off ∧ (off - t.base) % t.stride = 0 ∧ (off - t.base) / t.stride < regCount r die
    then some (r, (off - t.base) / t.stride)
    else findReg die cls off rest

/-- The register an address names, with its index (R26, R27, R420). -/
def decodeAddr (a : Nat) : Option (Reg × Nat) :=
  if unitExists (addrDie a) (addrCls a) (addrInst a) then
    findReg (addrDie a) (addrCls a) (addrOff a) (classRegs (addrCls a))
  else none

/-! ### The catalogue of fault sources (R483, R484) -/

/-- A kind of a source: default severity, whether it has a checker, whether it is locked. Reserved kinds are 0. -/
structure Kind where
  severity : Nat
  checked : Bool
  locked : Bool
  deriving DecidableEq, Repr

/-- A row of the catalogue: unit class, base, number of sub-indices, kinds. -/
structure SourceRow where
  cls : Nat
  base : Nat
  subs : Nat
  kinds : List Kind
  deriving DecidableEq, Repr

/-- A kind without a checker, a checked kind, a reserved kind. -/
def plain (n : Nat) : Kind := ⟨n, false, false⟩
def checked (n : Nat) : Kind := ⟨n, true, false⟩
def lockedAt (n : Nat) : Kind := ⟨n, false, true⟩
def reserved : Kind := ⟨0, false, false⟩

/-- STEWARD sources of every die. -/
def stewardRow : SourceRow :=
  ⟨0x00, 0, 1, [plain 2, plain 2, lockedAt 5, checked 1, checked 2, plain 4, checked 1, checked 4]⟩

/-- The rows of R484 by die kind. -/
def sourceRows : Nat → List SourceRow
  | 0 => [stewardRow,
      ⟨0x01, 8, 16, [plain 2, plain 1, plain 2, plain 2, plain 2, checked 1, checked 3, plain 1]⟩,
      ⟨0x02, 136, 32, [plain 1, plain 1, checked 1, plain 2]⟩,
      ⟨0x03, 264, 1, [checked 2, checked 2, plain 1, plain 1]⟩]
  | 1 => [stewardRow,
      ⟨0x08, 8, 1, [checked 1, checked 3, checked 3, checked 3, checked 2, reserved, reserved, reserved]⟩,
      ⟨0x08, 16, 30, [checked 1, plain 2]⟩,
      ⟨0x08, 76, 148, [plain 2]⟩,
      ⟨0x09, 224, 1, [checked 1, checked 2]⟩,
      ⟨0x0A, 226, 1, [checked 1, checked 2]⟩]
  | 2 => [stewardRow,
      ⟨0x10, 8, 17, [checked 1, checked 3, checked 3, checked 3, checked 3, checked 3, plain 2, reserved,
        checked 3, checked 3, checked 3, checked 3, checked 3, checked 3]⟩,
      ⟨0x11, 246, 68, [plain 2, plain 1, plain 2, reserved]⟩,
      ⟨0x12, 518, 1, [plain 2, checked 2, checked 2, reserved]⟩]
  | 3 => [stewardRow,
      ⟨0x18, 8, 1, [checked 4, checked 2, checked 2, reserved]⟩,
      ⟨0x18, 12, 16, [plain 2]⟩,
      ⟨0x19, 28, 44, [checked 1, checked 2, plain 2, checked 1]⟩,
      ⟨0x1A, 204, 2, [plain 3, checked 2]⟩,
      ⟨0x1B, 208, 3, [plain 3, checked 2]⟩,
      ⟨0x1C, 214, 64, [plain 2, checked 3]⟩]
  | _ => [stewardRow,
      ⟨0x20, 8, 1, [plain 2, checked 2, lockedAt 4, plain 1, plain 1, reserved, reserved, reserved]⟩,
      ⟨0x20, 16, 64, [plain 2]⟩,
      ⟨0x21, 80, 1, [plain 2, plain 1, checked 1, reserved]⟩,
      ⟨0x22, 84, 1, [plain 2, plain 4, checked 4, reserved]⟩,
      ⟨0x23, 88, 1, [plain 1, checked 2]⟩]

/-- The catalogue row of a local index, with its sub-index and kind. -/
def findSource (i : Nat) : List SourceRow → Option (SourceRow × Nat × Kind)
  | [] => none
  | r :: rest =>
    let n := r.kinds.length
    if r.base ≤ i ∧ i < r.base + r.subs * n then
      some (r, (i - r.base) / n, (r.kinds.drop ((i - r.base) % n)).headD reserved)
    else findSource i rest

/-- The source of a local index of a die. -/
def sourceOf (die i : Nat) : Option (SourceRow × Nat × Kind) := findSource i (sourceRows (dieKind die))

/-- SOURCE_ID (R483). -/
def sourceId (die i : Nat) : Nat := die * 2048 + i

/-- The sources the model raises, by name. -/
def srcSteward (die kind : Nat) : Nat := sourceId die kind
def srcPort (p kind : Nat) : Nat := sourceId (p / 16) (8 + p % 16 * 8 + kind)
def srcLane (die lane kind : Nat) : Nat := sourceId die (136 + lane * 4 + kind)
def srcEdge (die kind : Nat) : Nat := sourceId die (264 + kind)
def srcPlane (plane kind : Nat) : Nat := sourceId (8 + plane) (8 + kind)
def srcOutput (plane output : Nat) : Nat := sourceId (8 + plane) (76 + output)
def srcRoute (plane kind : Nat) : Nat := sourceId (8 + plane) (224 + kind)
def srcMcast (plane kind : Nat) : Nat := sourceId (8 + plane) (226 + kind)
def srcSpindle (key kind : Nat) : Nat := sourceId (key / 32) (8 + key % 32 * 14 + kind)
def srcEngine (key e kind : Nat) : Nat := sourceId (key / 32) (246 + (4 * (key % 32) + e) * 4 + kind)
def srcSpindleMap (die kind : Nat) : Nat := sourceId die (518 + kind)
def srcErg (die kind : Nat) : Nat := sourceId die (8 + kind)
def srcRange (die n : Nat) : Nat := sourceId die (12 + n)
def srcChannel (die ch kind : Nat) : Nat := sourceId die (28 + ch * 4 + kind)
def srcStack (die k kind : Nat) : Nat := sourceId die (204 + k * 2 + kind)
def srcDevice (die k kind : Nat) : Nat := sourceId die (208 + k * 2 + kind)
def srcPool (p kind : Nat) : Nat := sourceId (26 + p % 4) (214 + p / 4 * 2 + kind)
def srcDistaff (die kind : Nat) : Nat := sourceId die (8 + kind)
def srcOp (die slot : Nat) : Nat := sourceId die (16 + slot)
def srcControlPort (die kind : Nat) : Nat := sourceId die (80 + kind)
def srcSecurity (die kind : Nat) : Nat := sourceId die (84 + kind)
def srcCollector (die kind : Nat) : Nat := sourceId die (88 + kind)

/-- Control-space address of the unit a source belongs to, at offset 0. -/
def sourceUnit (id : Nat) : Nat :=
  let die := id / 2048
  match sourceOf die (id % 2048) with
  | none => unitAddr die 0 0
  | some (r, sub, _) =>
    let inst := if r.cls = 0x08 ∨ r.cls = 0x18 ∨ r.cls = 0x20 then 0
      else if r.cls = 0x1C then 4 * sub + (die - 26) else sub
    unitAddr die r.cls inst

/-! ### Register contents -/

/-- Nominal logic clock of a die in MHz (R28, R41). -/
def nominalMhz (die : Nat) : Nat :=
  match dieKind die with
  | 0 => 1250
  | 1 => 1500
  | 2 => 1700
  | 3 => 1200
  | _ => 1000

/-- Value of a register at reset. -/
def regReset (r : Reg) (die k : Nat) : Nat :=
  match r with
  | .dieClock => nominalMhz die
  | .spindleMap => bytesNat ((upTo (8 * k) 8).map (BitVec.ofNat 8))
  | .shapeRate => if k = 4 ∨ k = 5 then 10000 else 0
  | .thermalCtrl => if dieKind die = 3 then 100 * 256 + 90 else 110 * 256 + 95
  | .faultSource =>
    match sourceOf die k with
    | some (_, _, kd) => kd.severity + 16 * b2n kd.locked
    | none => 0
  | _ => (regRow r).reset

/-- Contents of a register as stored: die, instance, index. -/
def rget (s : State) (r : Reg) (die inst k : Nat) : Nat :=
  match mapFind s.regs (regAddr r die inst k) with
  | some w => w.toNat
  | none => regReset r die k

/-- Store a register. -/
def rset (s : State) (r : Reg) (die inst k v : Nat) : State :=
  { s with regs := mapPut s.regs (word (regReset r die k)) (regAddr r die inst k) (word v) }

/-- A field of a register as stored. -/
def fget (s : State) (r : Reg) (die inst k hi lo : Nat) : Nat := bits (rget s r die inst k) hi lo

/-- Store a field of a register. -/
def fset (s : State) (r : Reg) (die inst k hi lo v : Nat) : State :=
  rset s r die inst k (setBits (word (rget s r die inst k)) hi lo v).toNat

/-- Add to a counting field that saturates. -/
def fadd (s : State) (r : Reg) (die inst k hi lo n : Nat) : State :=
  fset s r die inst k hi lo (satAdd (hi + 1 - lo) (fget s r die inst k hi lo) n)

/-- Add to a counting field that wraps. -/
def fwrap (s : State) (r : Reg) (die inst k hi lo n : Nat) : State :=
  fset s r die inst k hi lo (fget s r die inst k hi lo + n)

/-- The same at a switch port. -/
def pget (s : State) (r : Reg) (p k hi lo : Nat) : Nat := fget s r (p / 16) (p % 16) k hi lo
def pset (s : State) (r : Reg) (p k hi lo v : Nat) : State := fset s r (p / 16) (p % 16) k hi lo v
def padd (s : State) (r : Reg) (p k hi lo n : Nat) : State := fadd s r (p / 16) (p % 16) k hi lo n

/-- The same at an engine queue of spindle `key`. -/
def eget (s : State) (r : Reg) (key e k hi lo : Nat) : Nat := fget s r (key / 32) (4 * (key % 32) + e) k hi lo
def eset (s : State) (r : Reg) (key e k hi lo v : Nat) : State := fset s r (key / 32) (4 * (key % 32) + e) k hi lo v
def eadd (s : State) (r : Reg) (key e k hi lo n : Nat) : State := fadd s r (key / 32) (4 * (key % 32) + e) k hi lo n

/-- Remove the stored registers of a die: they read their reset values. -/
def resetDieRegs (s : State) (die : Nat) : State :=
  { s with regs := s.regs.filter (fun e => addrDie e.1 != die) }

/-- What an RW/W1C write under MASK leaves of a register (R422). -/
def mergeWrite (r : Reg) (old value mask : Nat) : Nat :=
  let t := regRow r
  let m := t.rw &&& mask
  let c := t.w1c &&& mask &&& value
  let kept := ((old ||| m) ^^^ m) ||| (value &&& m)
  (kept ||| c) ^^^ c

/-! ### Power states of units (R24, R437-R441, R487) -/

/-- Stored state of a unit. -/
def unitState (s : State) (die cls inst : Nat) : UnitState := mapGet s.units .parked (unitKey die cls inst)
def setUnit (s : State) (die cls inst : Nat) (v : UnitState) : State :=
  { s with units := mapPut s.units .parked (unitKey die cls inst) v }

/-- A die that is contained or has no power: its links carry nothing (R487). -/
def dieOff (s : State) (die : Nat) : Bool := (getDie s die).contained || !(getDie s die).powered

/-- The functional clocks of a die are stopped for the scan chains of a D3 session (R477). -/
def scanOpen (s : State) (die : Nat) : Bool := s.sec.session.any (fun x => x.level == 3 && x.dies.toNat.testBit die)

/-- A unit is LIVE: its own state, on a powered die that is not contained. -/
def unitLive (s : State) (die cls inst : Nat) : Bool :=
  unitState s die cls inst == .live && !(getDie s die).contained && (getDie s die).powered

/-- A unit is contained, by itself or with its die. -/
def unitContained (s : State) (die cls inst : Nat) : Bool :=
  unitState s die cls inst == .contained || (getDie s die).contained

def portLive (s : State) (p : Nat) : Bool := unitLive s (p / 16) 0x01 (p % 16)
def planeLive (s : State) (p : Nat) : Bool := unitLive s (8 + p) 0x08 0
def spindleLive (s : State) (key : Nat) : Bool := unitLive s (key / 32) 0x10 (key % 32)
/-- An Erg die's power state stands under its STEWARD unit (R439). -/
def ergLive (s : State) (die : Nat) : Bool := unitLive s die 0x00 0
def channelLive (s : State) (die ch : Nat) : Bool := ergLive s die && unitLive s die 0x19 ch

/-! ### The spindle map (R37-R39) -/

/-- SPARE_READY: the unmapped slot is healthy, by its test and now, and can take a spare swap (R39). -/
def spareReady (s : State) (die : Nat) : Bool :=
  fget s .spindleMapStatus die 0 0 22 22 == 1 && !unitContained s die 0x10 (fget s .spindleMapStatus die 0 0 21 17)

/-- Physical key of a logical spindle. -/
def spindleOf (s : State) (logical : Nat) : Nat :=
  let die := 10 + logical / 16
  let i := logical % 16
  spKey die (fget s .spindleMap die 0 (i / 8) (8 * (i % 8) + 4) (8 * (i % 8)))

/-- Logical spindle carried by a slot, if mapped. -/
def logicalOf (s : State) (key : Nat) : Option Nat :=
  (upTo 0 16).map (fun i => 16 * (key / 32 - 10) + i) |>.find? (fun l => spindleOf s l == key)

/-- A logical spindle is available (R40, R487). -/
def logicalAvailable (s : State) (logical : Nat) : Bool :=
  let k := spindleOf s logical
  !unitContained s (k / 32) 0x10 (k % 32)

end Sys2Proof.Machine
end

