-- ==== Sys2Proof/Machine/Flags.lean ====
section
/-! DEFINITION. What the machine reports: frames on the control port, answers to commands, events, fault records and
the level of ERR_N. Containment stands in Machine/Contain.lean. -/

namespace Sys2Proof.Machine

/-! ### Status codes (R415) -/

abbrev stOk : Nat := 0
abbrev stBadParam : Nat := 1
abbrev stDenied : Nat := 2
abbrev stBusy : Nat := 3
abbrev stEmpty : Nat := 4
abbrev stTimeout : Nat := 5
abbrev stFaulted : Nat := 6
abbrev stNoSlots : Nat := 7
abbrev stNotSupported : Nat := 8
abbrev stBringup : Nat := 9

/-! ### Sending on the control port (R409, R412, R414, R433) -/

/-- The active control die. -/
def activeDie (s : State) : Nat := s.module.activeKd

/-- The control link is UP. -/
def cpUp (s : State) : Bool := s.cp.step == 4

/-- CRC-32C of a frame: its header with the CRC field zero, then its payload (R406). -/
def cpCrc (w0 w1 w2 w3 : Word) (payload : List Byte) : BitVec 32 :=
  ~~~(crcBytes 0xFFFFFFFF (wordsBytes [w0, w1, w2, setBits w3 31 0 0] ++ payload))

/-- A frame Holmon sends: VERSION, TYPE, LENGTH, SEQ, ACK_SEQ, word 2 and the CRC (R406). -/
def cpFrameOut (type : Nat) (seq ack : Word) (w2 : Word) (payload : List Byte) : Out :=
  let w0 := word (0x10 + type * 2 ^ 8 + payload.length * 2 ^ 16)
  let w1 := word (wbits seq 31 0 + wbits ack 31 0 * 2 ^ 32)
  .cpFrame w0 w1 w2 (word (cpCrc w0 w1 w2 0 payload).toNat) payload

/-- ACK_SEQ that names the last frame placed (R406, R412). -/
def lastPlaced (s : State) : Word :=
  if s.cp.placed then word (s.cp.rxNext - 1).toNat else 0xFFFFFFFF

/-- A LINK frame: 1 HELLO, 2 ACK, 3 NAK, 4 ALIGN, with the rest of word 2. -/
def cpLinkOut (ack : Word) (kind rest : Nat) (payload : List Byte) : Out := cpFrameOut 5 0 ack (word (kind + rest)) payload

/-- A RESPONSE or an EVENT with its SEQ, as it is sent now. -/
def numberedOut (s : State) (seq : BitVec 32) (m : CpMsg) : Out :=
  cpFrameOut m.type (word seq.toNat) (lastPlaced s)
    (word (m.tag.toNat + m.opcode.toNat * 2 ^ 32 + m.status.toNat * 2 ^ 48)) m.payload

/-- Bytes a numbered frame takes: header unit and payload units (R406). -/
def cpFrameBytes (m : CpMsg) : Nat := 32 + (m.payload.length + 31) / 32 * 32

/-- Bytes of events held: waiting or unacknowledged (R414, R433). -/
def eventBytes (cp : ControlPort) : Nat :=
  ((cp.queue ++ cp.unacked.map (fun e => e.2.1)).filter (fun m => m.type == 3)).foldl
    (fun n m => n + cpFrameBytes m) 0

/-- Payload bytes sent and not acknowledged. -/
def unackedBytes (cp : ControlPort) : Nat := cp.unacked.foldl (fun n e => n + e.2.1.payload.length) 0

/-- Send waiting frames, in order, while the partner's windows hold them (R412). -/
def pumpList (s : State) : List CpMsg → State
  | [] => { s with cp := { s.cp with queue := [] } }
  | m :: rest =>
    if s.cp.unacked.length < s.cp.rxFrames ∧ unackedBytes s.cp + m.payload.length ≤ 1024 * s.cp.rxKib then
      let q := s.cp.txNext
      let s := { s with cp := { s.cp with txNext := q + 1, unacked := s.cp.unacked ++ [(q, m, 1)] } }
      pumpList (emit s (numberedOut s q m)) rest
    else { s with cp := { s.cp with queue := m :: rest } }

/-- Send what waits while the link is UP. -/
def pump (s : State) : State := if cpUp s then pumpList s s.cp.queue else s

/-- Queue a response or an event. -/
def cpSend (s : State) (m : CpMsg) : State := pump (modCp s (fun c => { c with queue := c.queue ++ [m] }))

/-! ### Answers (R417, R418) -/

/-- The payload word of an answer other than OK. -/
def failWord (order check phase : Nat) : List Byte := wordBytes (word (order + check * 2 ^ 8 + phase * 2 ^ 24))

/-- Record the outcome of a remembered command. -/
def rememberDone (tag status : Nat) (payload : List Byte) : List Remembered → List Remembered
  | [] => []
  | r :: rest =>
    if r.tag = tag ∧ r.done = none then { r with done := some (status, payload) } :: rest
    else r :: rememberDone tag status payload rest

/-- Remember a command just taken, among the last 1,024. -/
def rememberNew (tag opcode : Nat) (l : List Remembered) : List Remembered :=
  let l := l ++ [{ tag := tag, opcode := opcode, done := none }]
  l.drop (l.length - 1024)

/-- The latest remembered command of a TAG. -/
def findRemembered (s : State) (tag : Nat) : Option Remembered :=
  s.cp.remembered.reverse.find? (fun r => r.tag == tag)

/-- Commands that await a response. -/
def awaitingCount (s : State) : Nat := (s.cp.remembered.filter (fun r => r.done == none)).length

/-- A RESPONSE frame. -/
def respond (s : State) (tag opcode status : Nat) (payload : List Byte) : State :=
  cpSend s { type := 2, tag := BitVec.ofNat 32 tag, opcode := BitVec.ofNat 16 opcode,
             status := BitVec.ofNat 8 status, payload := payload }

/-- Answer a remembered command. -/
def answer (s : State) (tag opcode status : Nat) (payload : List Byte) : State :=
  respond (modCp s (fun c => { c with remembered := rememberDone tag status payload c.remembered }))
    tag opcode status payload

/-- Answer OK with result words. -/
def answerOk (s : State) (tag opcode : Nat) (result : List Word) : State :=
  answer s tag opcode stOk (wordsBytes result)

/-- Answer a failure at order 8 with the row of the command's own check table. -/
def fail8 (s : State) (tag opcode status check : Nat) : State :=
  answer s tag opcode status (failWord 8 check 0)

/-! ### ERR_N (R493) -/

/-- Drive or release ERR_N. -/
def setErr (s : State) (low : Bool) : State :=
  if s.module.errLow = low then s else emit (modModule s (fun m => { m with errLow := low })) (.errN low)

/-- The pin follows the pulse and HOLD once B0 has completed. -/
def settleErr (s : State) : State :=
  setErr s (s.module.pulse || s.module.errHeld || fget s .errCtrl 30 0 0 32 32 == 1 || (s.module.phase == 0))

/-- Start or restart the pulse. -/
def pulseErr (s : State) : State := settleErr (modModule s (fun m => { m with pulse := true }))

/-! ### Events (R431-R433) -/

/-- Word 0 of an event. -/
def eventWord (die ty : Nat) (seq : BitVec 32) : Word :=
  word (0x10 + ty * 2 ^ 8 + die * 2 ^ 16 + seq.toNat * 2 ^ 32)

/-- Note a lost event: die, first lost DIE_SEQ, count. -/
def noteLost (die : Nat) (seq : BitVec 32) : List (Nat × BitVec 32 × Nat) → List (Nat × BitVec 32 × Nat)
  | [] => [(die, seq, 1)]
  | (d, q, n) :: r => if d = die then (d, q, n + 1) :: r else (d, q, n) :: noteLost die seq r

/-- Record the highest use of the event queue. -/
def noteHigh (s : State) : State :=
  let u := min (eventBytes s.cp) 8388607
  if fget s .eventQueue 30 0 0 55 32 < u then fset s .eventQueue 30 0 0 55 32 u else s

/-- Count an event of a source that the model raises where no consequence but counting can follow. -/
def countSource (s : State) (id : Nat) : State :=
  let die := id / 2048
  let i := id % 2048
  if fget s .faultSource die 0 i 2 0 = 0 then s else fadd s .faultSource die 0 i 63 32 1

/-- The eight words of a record. -/
def recordWords (r : FaultRec) : List Word :=
  [word (0x10 + r.severity * 2 ^ 8 + b2n r.injected * 2 ^ 11 + r.action * 2 ^ 12 + r.source * 2 ^ 16
      + r.seq.toNat * 2 ^ 32),
   word r.address, word r.suppressed, r.cycle] ++ (r.detail ++ List.replicate 4 0).take 4

/-- Oldest RECORD_SEQ held; the next one when none is held. -/
def oldestRecord (s : State) : Nat := (s.records.head?.map (fun r => r.seq.toNat)).getD s.nextRecord.toNat

/-- Severity of a source. -/
def severityOf (s : State) (id : Nat) : Nat := fget s .faultSource (id / 2048) 0 (id % 2048) 2 0

/-- Number a record and keep it among the last 4,096: whether an unread one was overwritten, and the record. -/
def putRecord (s : State) (r : FaultRec) : Bool × FaultRec × State :=
  let r := { r with seq := s.nextRecord }
  let cut := decide (4096 ≤ s.records.length) && decide (s.readUpTo ≤ oldestRecord s)
  let l := s.records ++ [r]
  (cut, r, { s with records := l.drop (l.length - 4096), nextRecord := s.nextRecord + 1 })

/-- Form a record of a source. -/
def formRecord (s : State) (id severity action : Nat) (injected : Bool) (address : Nat) (detail : List Word) :
    FaultRec × State :=
  let (cyc, s) := freeCycle s
  ({ severity := severity, injected := injected, action := action, source := id, seq := 0, address := address,
     suppressed := 0, cycle := cyc, detail := detail }, s)

/-- A record not stored because its source stored one within the millisecond (R491). -/
def suppressRecord (s : State) (w : Window) (r : FaultRec) : State :=
  { s with windows := mapIns s.windows r.source { count := w.count + 1, last := some r } }

/-- A source has stored a record: a new millisecond of it begins. -/
def openWindow (s : State) (id : Nat) : State := { s with windows := mapIns s.windows id { count := 0, last := none } }

/-- Note that an event of a die is dropped (R433). -/
def noteDropped (s : State) (die : Nat) (seq : BitVec 32) : State :=
  modCp (fadd s .cpCount (activeDie s) 0 6 47 0 1) (fun c => { c with lost := noteLost die seq c.lost })

/-- The record of an EVENTS_DROPPED event. Its own FAULT event finds no room either: it is dropped, and counts as one
more event of the source. [31] -/
def dropRecord (s : State) (id sev : Nat) : State :=
  let (r, s) := formRecord s id sev 0 false (sourceUnit id) []
  match mapFind s.windows id with
  | some w => suppressRecord s w r
  | none =>
    let (_, r, s) := putRecord (openWindow s id) r
    let seq := (getDie s (id / 2048)).eventSeq
    let s := modDie s (id / 2048) (fun d => { d with eventSeq := d.eventSeq + 1 })
    suppressRecord (countSource (noteDropped s (id / 2048) seq) id) { count := 0, last := none } r

/-- An event of a die finds no room: it is dropped, and EVENTS_DROPPED raised (R433). The containment that a severity
of CONTAIN_UNIT or above asks for is not carried out. [31] -/
def dropEvent (s : State) (die : Nat) (seq : BitVec 32) : State :=
  let id := srcDistaff (activeDie s) 3
  let s := countSource (noteDropped s die seq) id
  let sev := severityOf s id
  let s := if sev ≤ 1 then s else dropRecord s id sev
  if sev ≤ 2 then s else pulseErr s

/-- Issue an event of a die (R431): samples and other events are dropped as R433 says. -/
def sendEvent (s : State) (die ty : Nat) (body : List Byte) : State :=
  let seq := (getDie s die).eventSeq
  let s := modDie s die (fun d => { d with eventSeq := d.eventSeq + 1 })
  let (cyc, s) := freeCycle s
  let m : CpMsg := { type := 3, tag := 0, opcode := 0, status := 0,
                     payload := wordsBytes [eventWord die ty seq, cyc] ++ body }
  let used := eventBytes s.cp
  if ty = 2 ∧ 4 * 2 ^ 20 < used then fadd s .cpCount (activeDie s) 0 7 47 0 1
  else if 8 * 2 ^ 20 < used + cpFrameBytes m then
    dropEvent s die seq
  else
    let s := { s with cp := { s.cp with queue := s.cp.queue ++ [m] } }
    pump (noteHigh s)

/-- An event with a body of words. -/
def sendEventW (s : State) (die ty : Nat) (body : List Nat) : State :=
  sendEvent s die ty (wordsBytes (body.map word))

/-- EVENTS_LOST for each die that lost events, once there is room for their frames of 96 bytes (R406, R433). -/
def reportLost (s : State) : State :=
  if s.cp.lost = [] ∨ 8 * 2 ^ 20 < eventBytes s.cp + 96 * s.cp.lost.length then s
  else
    let l := s.cp.lost
    let s := modCp s (fun c => { c with lost := [] })
    l.foldl (fun s e => sendEventW s (activeDie s) 7 [e.1, e.2.1.toNat, e.2.2]) s

/-- BRINGUP event (R432). -/
def sendBringup (s : State) (phase st detail : Nat) : State := sendEventW s (activeDie s) 1 [phase, st, detail]

/-- LINK event of a port (R432, R402). -/
def sendLink (s : State) (p : Nat) : State :=
  sendEventW s (p / 16) 8 [p % 16, pget s .portStatus p 0 1 0, pget s .portStatus p 0 31 28]

/-! ### Fault records (R490, R491) -/

/-- A record overwrote an unread one: STORE_OVERWRITE (R491). Its own record may overwrite another, one more event of
the source. The containment that a severity of CONTAIN_UNIT or above asks for is not carried out. [31] -/
def storeOverwritten (s : State) : State :=
  let id := srcCollector (activeDie s) 0
  let s := countSource s id
  let sev := severityOf s id
  let s := if sev ≤ 1 then s
    else
      let (r, s) := formRecord s id sev 0 false (sourceUnit id) []
      match mapFind s.windows id with
      | some w => suppressRecord s w r
      | none =>
        let (cut, r, s) := putRecord (openWindow s id) r
        let s := sendEvent s (id / 2048) 3 (wordsBytes (recordWords r))
        if cut then suppressRecord (countSource s id) { count := 0, last := none } r else s
  if sev ≤ 2 then s else pulseErr s

/-- Store a record that no millisecond suppresses, and send its FAULT event. -/
def keepRecord (s : State) (r : FaultRec) : State :=
  let (cut, r, s) := putRecord s r
  let s := sendEvent s (r.source / 2048) 3 (wordsBytes (recordWords r))
  if cut then storeOverwritten s else s

/-- Store a record, or keep it as the last one suppressed within the source's millisecond. -/
def storeRecord (s : State) (r : FaultRec) : State :=
  match mapFind s.windows r.source with
  | some w => suppressRecord s w r
  | none => keepRecord (openWindow s r.source) r

/-- Form a record of a source and store it. -/
def record (s : State) (id severity action : Nat) (injected : Bool) (address : Nat) (detail : List Word) : State :=
  let (r, s) := formRecord s id severity action injected address detail
  storeRecord s r

/-- A record among those of its die cycle: in rising SOURCE_ID among the records of its die (R488). -/
def placeRecord (r : FaultRec) : List FaultRec → List FaultRec
  | [] => [r]
  | x :: l => if x.source / 2048 = r.source / 2048 ∧ r.source < x.source then r :: x :: l else x :: placeRecord r l

/-- Form a record of a source, to be stored at the end of the die cycle. -/
def noteRecord (s : State) (id severity action : Nat) (injected : Bool) (address : Nat) (detail : List Word) : State :=
  let (r, s) := formRecord s id severity action injected address detail
  { s with raised := placeRecord r s.raised }

/-- The die cycle ends: its records are stored. -/
def storeRaised (s : State) : State := s.raised.foldl storeRecord s

/-- A die cycle of its own, whose events are stored together at its end (R488). -/
def oneCycle (f : State → State) (s : State) : State :=
  { storeRaised (f { s with raised := [] }) with raised := s.raised }

/-- Make a checker see one injected check, if any is left (R492): whether it does. -/
def takeInjection (s : State) (id : Nat) : Bool × State :=
  let die := id / 2048
  let i := id % 2048
  let n := fget s .faultSource die 0 i 31 16
  if n = 0 then (false, s) else (true, fset s .faultSource die 0 i 31 16 (n - 1))

end Sys2Proof.Machine
end

