-- ==== Sys2Proof/Machine/Packets.lean ====
section
/-! DEFINITION. The header flit, the packet kinds and their classes, and how a unit of this Holmon sends a packet
(R46-R57, R75, R91). -/

namespace Sys2Proof.Machine

/-! ### Header fields (R48) -/

def hVersion (h : Header) : Nat := wbits h.w0 7 0
def hKind (h : Header) : Nat := wbits h.w0 15 8
def hFlits (h : Header) : Nat := wbits h.w0 22 16
def hOrd (h : Header) : Bool := wbit h.w0 23
def hPad (h : Header) : Nat := wbits h.w0 29 24
def hXlated (h : Header) : Bool := wbit h.w0 30
def hDst (h : Header) : Nat := wbits h.w0 51 32
def hJob (h : Header) : Nat := wbits h.w0 63 52
def hSrc (h : Header) : Nat := wbits h.w1 19 0
def hSrcRank (h : Header) : Nat := wbits h.w1 37 20
def hDstRank (h : Header) : Nat := wbits h.w1 55 38
def hHank (h : Header) : Nat := wbits h.w2 15 0
def hStep (h : Header) : Nat := wbits h.w2 63 16
def hTag (h : Header) : Nat := wbits h.w3 31 0
def hAux (h : Header) : Nat := wbits h.w3 63 32

def hSetSrc (h : Header) (v : Nat) : Header := { h with w1 := setBits h.w1 19 0 v }
def hSetDst (h : Header) (v : Nat) : Header := { h with w0 := setBits h.w0 51 32 v }
def hSetXlated (h : Header) (v : Bool) : Header := { h with w0 := setBits h.w0 30 30 (b2n v) }
def hSetTag (h : Header) (v : Nat) : Header := { h with w3 := setBits h.w3 31 0 v }

/-- The header's 64 bytes. -/
def hBytes (h : Header) : List Byte := wordsBytes [h.w0, h.w1, h.w2, h.w3, h.w4, h.w5, h.w6, h.w7]

/-- Payload length of a data packet (R47). -/
def hPayloadLen (h : Header) : Nat := 64 * hFlits h - hPad h

/-! ### Kinds and classes (R50, R51) -/

abbrev kStepAbort : Nat := 0x01
abbrev kPut : Nat := 0x10
abbrev kGet : Nat := 0x11
abbrev kAtomic : Nat := 0x12
abbrev kSignal : Nat := 0x13
abbrev kPutRank : Nat := 0x14
abbrev kGetData : Nat := 0x20
abbrev kAck : Nat := 0x21
abbrev kAtomicRsp : Nat := 0x22
abbrev kPutFwd : Nat := 0x30
abbrev kAtomicFwd : Nat := 0x31
abbrev kContrib : Nat := 0x40
abbrev kArrive : Nat := 0x41
abbrev kTallyUp : Nat := 0x42
abbrev kResult : Nat := 0x50
abbrev kChunkNotice : Nat := 0x51
abbrev kRelease : Nat := 0x52
abbrev kBulk : Nat := 0x60
abbrev kBulkPut : Nat := 0x61
abbrev kBulkSignal : Nat := 0x62

/-- What R51 says of a kind: class, data form, sent by a Holmon alone. -/
structure KindRow where
  kind : Nat
  cls : Nat
  data : Bool
  holmonOnly : Bool
  deriving DecidableEq, Repr

/-- The table of R51. -/
def kindTable : List KindRow :=
  [⟨0x01, 0, false, true⟩, ⟨0x10, 1, true, false⟩, ⟨0x11, 1, false, false⟩, ⟨0x12, 1, false, false⟩,
   ⟨0x13, 1, false, false⟩, ⟨0x14, 1, true, false⟩, ⟨0x15, 1, true, false⟩, ⟨0x20, 2, true, true⟩,
   ⟨0x21, 2, false, true⟩, ⟨0x22, 2, false, true⟩, ⟨0x23, 2, true, false⟩, ⟨0x30, 3, true, true⟩,
   ⟨0x31, 3, false, true⟩, ⟨0x32, 3, true, false⟩, ⟨0x40, 4, true, false⟩, ⟨0x41, 4, false, false⟩,
   ⟨0x42, 4, true, true⟩, ⟨0x50, 5, true, true⟩, ⟨0x51, 5, false, true⟩, ⟨0x52, 5, false, true⟩,
   ⟨0x60, 6, true, false⟩, ⟨0x61, 6, true, false⟩, ⟨0x62, 6, false, false⟩]

/-- The row of a kind; none for 0x00 and the reserved kinds. -/
def kindRow (k : Nat) : Option KindRow := kindTable.find? (fun r => r.kind == k)

/-- Class of a kind; 0 for a kind that no packet inside carries. -/
def kindClass (k : Nat) : Nat := (kindRow k).elim 0 (·.cls)

/-- The rank-form kinds (R62). -/
def rankForm (k : Nat) : Bool := k == kPutRank || k == kContrib || k == kArrive

/-- Kinds that may be multicast (R102). -/
def mayMulticast (k : Nat) : Bool := k == kResult || k == kChunkNotice || k == kRelease

/-- A DST_FEID is a multicast group (R102). -/
def isGroup (feid : Nat) : Bool := decide (0xE0000 ≤ feid) && decide (feid ≤ 0xEFFFF)

/-- Requests that expect an answer (R57). -/
def expectsAnswer (k : Nat) : Bool :=
  [kGet, kPut, kBulkPut, kAtomic, kSignal, kBulkSignal, kPutFwd, kAtomicFwd].contains k

/-- Cells or flits of a packet. -/
def pktFlits (p : Pkt) : Nat := p.flits

/-- Class of a packet. -/
def pktClass (p : Pkt) : Nat := kindClass (hKind p.hdr)

/-- This Holmon's FEID. -/
def ownFeid : Nat := Config.ownFeid.toNat

/-! ### Making and sending packets -/

/-- Fields of a header a Holmon originates. -/
structure Fields where
  kind : Nat
  ord : Bool := false
  xlated : Bool := false
  dst : Nat
  job : Nat := 0
  hank : Nat := 0
  step : Nat := 0
  tag : Nat := 0
  aux : Nat := 0
  a4 : Word := 0
  a5 : Word := 0
  a6 : Word := 0
  a7 : Word := 0
  payload : List Byte := []
  deriving DecidableEq, Repr

/-- The header of a packet a Holmon originates: SRC_FEID its own, reserved fields zero (R13, R57). -/
def mkHeader (f : Fields) : Header :=
  let n := (f.payload.length + 63) / 64
  { w0 := word (0x10 + f.kind * 2 ^ 8 + n * 2 ^ 16 + b2n f.ord * 2 ^ 23 + (64 * n - f.payload.length) * 2 ^ 24
        + b2n f.xlated * 2 ^ 30 + f.dst % 2 ^ 20 * 2 ^ 32 + f.job % 2 ^ 12 * 2 ^ 52),
    w1 := word ownFeid,
    w2 := word (f.hank % 2 ^ 16 + f.step * 2 ^ 16),
    w3 := word (f.tag % 2 ^ 32 + f.aux * 2 ^ 32),
    w4 := f.a4, w5 := f.a5, w6 := f.a6, w7 := f.a7 }

/-- VC a packet starts on (R75, R91). -/
def startVc (h : Header) : Nat := 2 * kindClass (hKind h) + b2n (hOrd h)

/-- Crossbar input link of a die (R112): port dies 0-7, spindle dies 8-23, Erg dies 24-27. -/
def linkOf (die : Nat) : Nat := if die < 8 then die else die - 2

/-- Crossbar output of a spindle die or an Erg die (R112). -/
def outputOf (die : Nat) : Nat := 118 + die

/-- A packet a unit of this Holmon makes. -/
def mkPkt (uid link : Nat) (h : Header) (payload : List Byte) : Pkt :=
  { uid := uid, hdr := h, raw := h, payload := payload, flits := 1 + hFlits h, vc := startVc h,
    chargeVc := startVc h, detour := false, bad := false, complete := true, inPort := none, edge := false,
    link := link, entry := 0, upSet := 0, descends := false, hash := 0, ordPlane := 0, caravan := none, inReserve := false,
    sample := false }

/-- Put a packet a die originates in line for a core plane. -/
def enqueueFrom (s : State) (die : Nat) (f : Fields) : State :=
  let (uid, s) := newUid s
  let link := linkOf die
  setReady s link (getReady s link ++ [mkPkt uid link (mkHeader f) f.payload])

/-- Some core plane is LIVE (R526). -/
def anyPlane (s : State) : Bool := planeLive s 0 || planeLive s 1

/-- A multicast group's FEID. -/
def groupFeid (g : Nat) : Nat := 0xE0000 + g

/-- Count a discard by reason on a port's die and capture its header as received (R68, R72). -/
def countDiscard (s : State) (port reason : Nat) (raw : Header) : State :=
  let die := port / 16
  let s := fadd s .discardCount die 0 reason 47 0 1
  if fget s .discardCaptureInfo die 0 0 8 8 = 1 then s
  else
    let s := rset s .discardCaptureInfo die 0 0 (256 + reason * 16 + port % 16)
    let ws := [raw.w0, raw.w1, raw.w2, raw.w3, raw.w4, raw.w5, raw.w6, raw.w7]
    (ws.zipIdx).foldl (fun s e => rset s .discardCapture die 0 e.2 e.1.toNat) s

end Sys2Proof.Machine
end

