-- ==== Sys2Proof/Machine/Lost.lean ====
section
/-! DEFINITION. What is lost when a port, a plane or a packet goes, and the poison that follows it: R69, R126-R130,
R197-R201, R526. -/

namespace Sys2Proof.Machine

/-! ### Slots, members and the reset of a hank -/

/-- Slot j as it is claimed or freed (R183, R188): IDENTITY everywhere, awaiting sequence j. -/
def slotInit (j : Nat) : Slot :=
  { awaits := j, started := false, complete := false, parts := [], groups := [], els := [] }

/-- Slot j of a hank. -/
def hankSlot (h : Hank) (j : Nat) : Slot := (mapFind h.slots j).getD (slotInit j)

/-- An EXCHANGE with nothing accepted; its staging bobbins stay claimed. -/
def exchInit (staging : List Word) : Exchange := { accepted := [], expected := [], kept := [], staging := staging }

/-- A barrier with no arrival. -/
def barrInit : Barrier := { cur := [], next := [], childFeid := [], sentUp := false }

/-- Chunks per round (R174). -/
def nchunks (d : HankDesc) : Nat := if d.type = 6 then 1 else (d.capacity + 1023) / 1024

/-- Spindle die whose machinery acts for the hank as a whole: that of SPINDLE_BASE, or SD(HANK mod 16) for a
BARRIER (R195, R338). -/
def hankDie (d : HankDesc) : Nat := if d.type = 5 then 10 + d.hank % 16 else 10 + d.spindleBase / 16

/-- Logical spindle of slot j, or of destination j of an EXCHANGE (R182, R205). -/
def slotSpindle (d : HankDesc) (j : Nat) : Nat := (d.spindleBase + j % (max d.spindleSpan 1)) % 256

/-- ENDPOINT_FEID of a switch port. -/
def endpointFeid (s : State) (p : Nat) : Nat := fget s .edgeBind (p / 16) 0 (p % 16) 19 0

/-- A hank after an abort (R198, step 2). -/
def hankReset (replayFrom reason : Nat) (h : Hank) : Hank :=
  { h with base := max h.d.step replayFrom, current := 0, slots := [], rounds := [],
           exch := exchInit h.exch.staging, barr := { barrInit with childFeid := h.barr.childFeid },
           lastReason := reason, aborts := (h.aborts + 1) % 2 ^ 24 }

/-- Work of hanks of a job leaves a spindle's sequencer. -/
def dropWork (hanks : List Nat) (sp : Spindle) : Spindle :=
  { sp with work := sp.work.filter (fun w =>
      !hanks.contains (match w with
        | .merge h _ _ _ => h
        | .tally h _ _ => h
        | .finish h _ _ => h
        | .formUp h _ _ => h)) }

/-- The step of round r of a hank; step numbers have 48 bits (R9). -/
def roundStep (h : Hank) (r : Nat) : Nat := (h.base + r) % 2 ^ 48

/-- The step of the round in progress. -/
def hankStep (h : Hank) : Nat := roundStep h h.current

/-! ### Poison (R197, R198) -/

/-- What a poisoned TALLY_UP carries to the parent (R184, R186). -/
def poisonTally (h : Hank) (attempt step aux reason origin : Nat) : Fields :=
  { kind := kTallyUp, ord := true, dst := h.d.parentFeid, job := h.d.job, hank := h.d.hank, step := step, aux := aux,
    a4 := word (attempt + 2 ^ 8 + reason * 2 ^ 32), a5 := word h.d.check.toNat, a6 := word origin, payload := [0] }

/-- A poisoned CHUNK_NOTICE to the hank's group (R184). -/
def poisonNotice (h : Hank) (attempt step aux reason origin : Nat) : Fields :=
  { kind := kChunkNotice, dst := groupFeid h.d.noticeGroup, job := h.d.job, hank := h.d.hank, step := step, aux := aux,
    a6 := word (attempt + 2 ^ 8 + reason * 2 ^ 16), a7 := word origin }

/-- STEP_ABORT to an endpoint (R184, R198). -/
def stepAbortFields (job hank step aux replayFrom attempt reason origin dst : Nat) : Fields :=
  { kind := kStepAbort, dst := dst, job := job, hank := hank, step := step, aux := aux,
    a4 := word (replayFrom % 2 ^ 48 + attempt * 2 ^ 48 + reason * 2 ^ 56), a5 := word (hank + origin * 2 ^ 16) }

/-- Count poison that is not acted on. -/
def staleHank (s : State) (hank : Nat) : State :=
  modHank s hank (fun h => { h with stale := satAdd 32 h.stale 1 })

/-- Send a packet of an abort: with no plane LIVE it is discarded, and its poison would be stale (R526, R198). -/
def sendAbort (s : State) (die : Nat) (f : Fields) : State :=
  if anyPlane s then enqueueFrom s die f
  else if f.kind = kTallyUp ∨ f.kind = kChunkNotice then staleHank s f.hank else s

/-- The job's open hanks. -/
def jobHanks (s : State) (job : Nat) : List Hank := (s.hanks.map (·.2)).filter (fun h => h.d.job == job)

/-- REPLAY_FROM of an abort (R198, step 1). -/
def replayFrom (s : State) (job : Nat) : Nat :=
  match (getJob s job).committed with
  | some c => (c + 1) % 2 ^ 48
  | none => ((jobHanks s job).map (·.base)).foldl (fun m b => match m with
      | none => some b
      | some a => some (min a b)) (none : Option Nat) |>.getD 0

/-- Distinct endpoints among the edge members of hanks, in member order. -/
def edgeEndpoints (s : State) (hs : List Hank) : List Nat :=
  (hs.flatMap (fun h => (h.d.members.filter (fun m => !m.trunk)).map (fun m => endpointFeid s m.port))).foldl
    (fun l f => if l.contains f then l else l ++ [f]) []

/-- The die that sends for a hank: its own, or while that one is contained another spindle die (R198, R487). [54] -/
def actingDie (s : State) (die : Nat) : Nat := ((die :: upTo 10 16).find? (fun k => !dieOff s k)).getD die

/-- R198 for job `job`: `which` are the hanks that steps 4 and 5 concern, `up` whether step 4 is taken, `hank` the
number the STEP_ABORT packets and event carry. -/
def abortJob (s : State) (job : Nat) (which : List Hank) (up : Bool) (hank aux step reason origin : Nat) : State :=
  let j := getJob s job
  let a := j.attempt
  let rf := replayFrom s job
  let hs := jobHanks s job
  let s := setJob s job { j with attempt := (a + 1) % 256 }
  let s := { s with
    hanks := s.hanks.map (fun e => if e.2.d.job = job then (e.1, hankReset rf reason e.2) else e),
    spindles := mapAll s.spindles Spindle.init (fun _ sp => dropWork (hs.map (·.d.hank)) sp) }
  let die := actingDie s ((hs.head?.map (fun h => hankDie h.d)).getD 10)
  let s := (edgeEndpoints s hs).foldl (fun s f =>
    sendAbort s die (stepAbortFields job hank step aux rf ((a + 1) % 256) reason origin f)) s
  let s := which.foldl (fun s h =>
    if up ∧ h.d.extendsUp then sendAbort s (actingDie s (hankDie h.d)) (poisonTally h a step aux reason origin) else s) s
  let s := which.foldl (fun s h =>
    if h.d.extendsUp then s else sendAbort s (actingDie s (hankDie h.d)) (poisonNotice h a step aux reason origin)) s
  sendEventW s (activeDie s) 4 [job, step, rf, (a + 1) % 256, reason, hank, origin]

/-- Poison of a hank for an attempt: acted on once per attempt, and not for a committed step (R198, R201). -/
def poison (s : State) (hank attempt aux step reason origin : Nat) (up : Bool) : State :=
  match getHank s hank with
  | none => s
  | some h =>
    let j := getJob s h.d.job
    if attempt ≠ j.attempt ∨ j.committed.any (fun c => decide (step ≤ c))
    then staleHank s hank
    else abortJob s h.d.job [h] up hank aux step reason origin

/-- Poison this Holmon finds in the current attempt. -/
def foundPoison (s : State) (hank aux step reason : Nat) : State :=
  match getHank s hank with
  | none => s
  | some h => poison s hank (getJob s h.d.job).attempt aux step reason ownFeid true

/-- Poison of the round in progress, concerning no single chunk. -/
def poisonRound (s : State) (hank reason : Nat) : State :=
  match getHank s hank with
  | none => s
  | some h => foundPoison s hank 0 (hankStep h) reason

/-- A packet is lost here: a lost hank packet of an open hank poisons its chunk (R197 CUP_LOST, CDN_LOST). -/
def lostHeader (s : State) (h : Header) : State :=
  let k := hKind h
  match getHank s (hHank h) with
  | none => s
  | some hk =>
    if hk.d.job ≠ hJob h then s
    else if k = kContrib ∨ k = kTallyUp then poison s (hHank h) (wbits h.w4 7 0) (hAux h) (hStep h) 6 ownFeid true
    else if k = kResult then poison s (hHank h) (wbits h.w4 7 0) (hAux h) (hStep h) 7 ownFeid true
    else if k = kChunkNotice then poison s (hHank h) (wbits h.w6 7 0) (hAux h) (hStep h) 7 ownFeid true
    else s

/-- Packets lost one after another. -/
def lostAll (s : State) : List Pkt → State
  | [] => s
  | p :: r => lostAll (lostHeader s p.hdr) r

/-- A unit of this Holmon sends a packet; with no plane LIVE it is discarded uncounted (R526). -/
def sendFrom (s : State) (die : Nat) (f : Fields) : State :=
  if anyPlane s then enqueueFrom s die f else lostHeader s (mkHeader f)

/-- A packet is discarded at a port die for a reason of R68. One that fails checks 0 to 8 on its header poisons
nothing; one lost after them does (R69, R197, R526). -/
def discardAt (s : State) (port reason : Nat) (hdr raw : Header) : State :=
  let s := countDiscard s port reason raw
  if 9 ≤ reason then lostHeader s hdr else s

/-- A stomped packet discarded at a consumer of this Holmon is counted at the port it entered by (R69). -/
def stompAt (s : State) (p : Pkt) : State :=
  match p.inPort with
  | some q => discardAt s q 10 p.hdr p.raw
  | none => lostHeader s p.hdr

/-! ### Cells of a plane (R114-R117) -/

/-- Add to or take from a sparse count. -/
def countAdd (m : SMap Nat) (k n : Nat) : SMap Nat := mapPut m 0 k (mapGet m 0 k + n)
def countSub (m : SMap Nat) (k n : Nat) : SMap Nat := mapPut m 0 k (mapGet m 0 k - n)

/-- A copy of a packet stands in some output queue of a plane. -/
def planeHolds (pl : Plane) (uid : Nat) : Bool := pl.queues.any (fun e => e.2.any (fun p => p.uid == uid))

/-- A copy has left output `out`: its reserve is freed, or its input's cells once no copy is left (R105, R117). -/
def freeCells (pl : Plane) (out : Nat) (p : Pkt) : Plane :=
  if p.inReserve then { pl with reserve := countSub pl.reserve (16 * out + p.vc) p.flits }
  else if planeHolds pl p.uid then pl
  else { pl with held := countSub pl.held (16 * p.link + p.chargeVc) p.flits }

/-- Shared-region cells of an input pair in use or promised beyond its floor (R115, R116). -/
def overFloor (pl : Plane) (k : Nat) : Nat := mapGet pl.held 0 k + mapGet pl.credits 0 k - 65

/-- FREE: shared-region cells neither held nor promised (R116, R135). -/
def sharedFree (pl : Plane) : Nat :=
  let keys := (pl.held.map (·.1)).foldl insNat (pl.credits.map (·.1))
  2004332 - keys.foldl (fun n k => n + overFloor pl k) 0

/-- Keep LOW_FREE the lowest value of FREE. -/
def noteFree (s : State) (pl : Nat) : State :=
  let f := sharedFree (getPlane s pl)
  if f < fget s .bufferFree (8 + pl) 0 0 53 32 then fset s .bufferFree (8 + pl) 0 0 53 32 f else s

/-- Take every packet queued for an output out of a plane. -/
def drainOutput (pl : Plane) (out : Nat) : List Pkt × Plane :=
  let keys := upTo (16 * out) 16
  let ps := keys.flatMap (fun k => mapGet pl.queues [] k)
  let pl := { pl with queues := pl.queues.filter (fun e => e.1 / 16 != out) }
  (ps, ps.foldl (fun pl p => freeCells pl out p) pl)

/-! ### A port leaves LIVE (R96, R109, R128, R129) -/

/-- LIVE for routing, flushing and caravans (R396). -/
def portUp (s : State) (p : Nat) : Bool := portLive s p && pget s .portStatus p 0 1 0 == 2

/-- A list of packets, changed one by one. -/
def markList (f : Pkt → Pkt) (l : List Pkt) : List Pkt := l.map f

/-- Every packet of a plane, changed. -/
def markPlane (f : Pkt → Pkt) (pl : Plane) : Plane := { pl with queues := pl.queues.map (fun e => (e.1, markList f e.2)) }

/-- Every packet inside this Holmon, changed. -/
def everyPkt (s : State) (f : Pkt → Pkt) : State :=
  { s with
    ready := s.ready.map (fun e => (e.1, markList f e.2)),
    inbox := s.inbox.map (fun e => (e.1, markList f e.2)),
    planeA := markPlane f s.planeA,
    planeB := markPlane f s.planeB,
    portDies := mapAll s.portDies PortDie.init (fun _ d =>
      { d with waiting := d.waiting.map (fun e => { e with pkt := f e.pkt }) }),
    ports := mapAll s.ports Port.init (fun _ q =>
      { q with stage := q.stage.map (fun e => (e.1, f e.2)),
               replay := q.replay.map (fun t => { t with pkt := f t.pkt }) }) }

/-- Every copy of a packet inside this Holmon, changed: its last flit has come. -/
def markPkt (s : State) (uid : Nat) (f : Pkt → Pkt) : State := everyPkt s (fun k => if k.uid = uid then f k else k)

/-- A packet of a caravan that closes is ordinary BLK from then on (R109). -/
def leaveCaravan (gone : Nat → Bool) (k : Pkt) : Pkt := if k.caravan.any gone then { k with caravan := none } else k

/-- Close the caravans of which `gone` holds. -/
def closeThose (s : State) (gone : Nat → Caravan → Bool) : State :=
  let out (c : Nat) : Bool := (mapFind s.caravans c).any (gone c)
  let t := everyPkt s (leaveCaravan out)
  { t with
    caravans := s.caravans.filter (fun e => !gone e.1 e.2),
    ports := mapAll t.ports Port.init (fun _ q => { q with caravanUsed := q.caravanUsed.filter (fun e => !out e.1) }) }

/-- Close every caravan that uses a port. -/
def closeCaravans (s : State) (p : Nat) : State := closeThose s (fun _ c => c.ingress == p || c.egress == p)

/-! ### Samples (R132-R134) -/

/-- Records waiting at a port die go to Distaff over its management link, in order; how many have gone by now is a free
value (R134). None goes while the die's steward does not answer. [60] -/
def drainSamples (s : State) (die : Nat) : State :=
  if (getDie s die).hung then s
  else
    let l := (getPortDie s die).samples
    let (n, s) := freeBelow (l.length + 1) s
    let s := modPortDie s die (fun q => { q with samples := q.samples.drop n })
    (l.take n).foldl (fun s r => sendEvent s die 2 r) s

/-- A sample that finds 64 records waiting is dropped; any other waits behind them. -/
def queueSample (s : State) (p d : Nat) (record : List Byte) : State :=
  if 64 ≤ (getPortDie s (p / 16)).samples.length then padd s .sampleStatus p d 31 0 1
  else modPortDie s (p / 16) (fun q => { q with samples := q.samples ++ [record] })

/-- One more sample is taken by a sampler: SEQUENCE advances whether or not its record is kept. -/
def countSample (s : State) (p d : Nat) : State :=
  pset s .sampleStatus p d 63 32 (pget s .sampleStatus p d 63 32 + 1)

/-- One more sample of a sampler: its record is queued for Distaff, or dropped when 64 wait. -/
def takeSample (s : State) (p d : Nat) (bad : Bool) (reason : Option Nat) (vc flits : Nat) (bytes : List Byte) :
    State :=
  let seq := pget s .sampleStatus p d 63 32
  let (cyc, s) := freeCycle (countSample s p d)
  let n := min 256 (64 * flits)
  let w0 := 0x10 + p / 16 * 2 ^ 8 + p % 16 * 2 ^ 16 + d * 2 ^ 20 + b2n reason.isSome * 2 ^ 21 + b2n bad * 2 ^ 22
    + vc * 2 ^ 24 + reason.getD 0 * 2 ^ 28 + n * 2 ^ 32
  let record := wordsBytes [word w0, word (seq + 64 * flits * 2 ^ 32), cyc, 0] ++ padTo n bytes
  drainSamples (queueSample (drainSamples s (p / 16)) p d record) (p / 16)

/-- A sampler's countdown at a frame: whether the frame is sampled, and the count left (0: it reloads). -/
def sampleTick (s : State) (p d left : Nat) : Bool × Nat :=
  if pget s .sampleCtrl p d 32 32 = 0 then (false, left)
  else
    let n := pget s .sampleCtrl p d 23 0 + 1
    let c := if left = 0 then n else left
    (c == 1, c - 1)

/-- A switch port is an edge port (R54). -/
def isEdge (s : State) (p : Nat) : Bool := (fget s .edgeRole (p / 16) 0 0 15 0).testBit (p % 16)

/-! ### Frames on a fabric link (R382-R385) -/

/-- START word of a frame. -/
def startWord (k : Pkt) (seq shared : Nat) : Word :=
  word (1 + k.vc * 2 ^ 4 + b2n k.detour * 2 ^ 8 + seq * 2 ^ 16 + k.flits * 2 ^ 32 + shared * 2 ^ 40)

/-- CRC of bits [63:4] of START and the flit bytes (R385). -/
def frameCrc (start : Word) (bytes : List Byte) : BitVec 32 :=
  ~~~(crcBytes (crcBits 60 0xFFFFFFFF (start.toNat / 16)) bytes)

/-- Flit bytes of a packet: its header, and its payload filled up to whole flits (R47). -/
def flitBytes (k : Pkt) : List Byte := hBytes k.hdr ++ padTo (64 * (k.flits - 1)) k.payload

/-- END word of a frame (R382, R385). -/
def endWord (t : TxFrame) : Word :=
  word (2 + b2n t.pkt.bad * 2 ^ 8 + t.seq * 2 ^ 16
    + (frameCrc (startWord t.pkt t.seq t.shared) (flitBytes t.pkt)).toNat * 2 ^ 32)

/-- The last flit of a frame has gone on a port: END is sent and the sampler's record issued; at an edge port a
packet marked bad counts as STOMPED (R69). -/
def frameGone (s : State) (p : Nat) (t : TxFrame) : State :=
  let s := emit s (.frameEnd p (endWord t))
  let s := if t.sample
    then takeSample s p 1 t.pkt.bad none t.pkt.vc t.pkt.flits (hBytes t.pkt.hdr ++ t.pkt.payload) else s
  if t.pkt.bad ∧ isEdge s p then discardAt s p 10 t.pkt.hdr t.pkt.raw else s

/-- Every frame being sent that carries a packet ends, now that its last flit has come. -/
def finishCopies (s : State) (uid : Nat) : State :=
  s.ports.foldl (fun s e =>
    (e.2.replay.filter (fun t => t.pkt.uid == uid)).foldl (fun s t =>
      modPort (frameGone s e.1 t) e.1 (fun q => { q with
        replay := q.replay.map (fun t => if t.pkt.uid = uid then { t with sample := false } else t) })) s) s

/-- The last flit of a packet has come: every copy of it is whole. -/
def packetWhole (s : State) (uid : Nat) (f : Pkt → Pkt) : State :=
  finishCopies (markPkt s uid (fun k => { f k with complete := true })) uid

/-- Count a discard at the port a packet came by, raising the EDGE source its reason has. -/
def dropRaising (raise : State → Nat → State) (s : State) (p reason : Nat) (hdr raw : Header) : State :=
  let s := discardAt s p reason hdr raw
  if reason = 2 then raise s (srcEdge (p / 16) 3)
  else if reason = 6 then raise s (srcEdge (p / 16) 2)
  else s

/-- Count a frame that was discarded before its last flit: by R68, or in VC_RESERVED or VC_CLASS (R386). -/
def countFrame (raise : State → Nat → State) (s : State) (p : Nat) (f : RxFrame) : State :=
  match f.reason, f.taken with
  | some r, some (h, raw) => if r < 16 then dropRaising raise s p r h raw else padd s .linkCount p (r - 13) 47 0 1
  | _, _ => s

/-- The packet being received is ended as bad (R129, R391); a frame discarded already is counted. `raise` raises an
event of a fault source. -/
def cutReception (raise : State → Nat → State) (s : State) (p : Nat) : State :=
  let q := getPort s p
  let cut := match q.rxFrame with
    | some f => some f
    | none => q.rxHeld
  match cut with
  | none => s
  | some f =>
    match f.uid with
    | some u =>
      let s := padd s .linkCount p 2 47 0 1
      raise (packetWhole s u (fun k => { k with bad := true })) (srcPort p 7)
    | none => countFrame raise s p f

/-- A recalibration under way ends. -/
def clearRecal (s : State) (p : Nat) : State :=
  match (getPort s p).recal with
  | none => s
  | some (l, _) =>
    modPort (fset s .laneStatus (p / 16) (2 * (p % 16) + l) 0 2 2 0) p (fun q => { q with recal := none })

/-- The port's link state after its link ends: empty but for its shapers, its samplers' countdowns and the packets
it received whole. -/
def portDropped (q : Port) : Port :=
  { Port.init with tokens := q.tokens, shape := q.shape, deficit := q.deficit, sampIn := q.sampIn, sampOut := q.sampOut,
                   rxBuf := q.rxBuf }

/-- Flush what is held for a port as an output (R128), end what it receives (R129), close its caravans (R109). -/
def leavePort (raise : State → Nat → State) (s : State) (p : Nat) : State :=
  let s := clearRecal (cutReception raise s p) p
  let (pa, planeA) := drainOutput s.planeA p
  let (pb, planeB) := drainOutput s.planeB p
  let q := getPort s p
  let cut := q.replay.filter (fun t => !t.pkt.complete)
  let gone := pa ++ pb ++ q.stage.map (·.2) ++ cut.map (·.pkt)
  let s := { s with planeA := planeA, planeB := planeB }
  let s := setPort s p (portDropped q)
  let s := gone.foldl (fun s k => padd s .flushCount p (pktClass k) 47 0 1) s
  let s := (cut.filter (·.sample)).foldl (fun s _ => padd (countSample s p 1) .sampleStatus p 1 31 0 1) s
  lostAll (closeCaravans s p) gone

/-- Set LINK_STATE and report a change (R396). -/
def setLink (s : State) (p st : Nat) : State :=
  if pget s .portStatus p 0 1 0 = st then s
  else
    let s := pset s .portStatus p 0 1 0 st
    let s := if st = 2 then s else pset (pset (pset s .portStatus p 0 27 24 0) .portStatus p 0 19 18 0)
      .portStatus p 0 9 8 (pget s .portCtrl p 0 1 0)
    sendLink s p

/-- The link of a port ends, going to LINK_STATE `st`. -/
def linkEnds (raise : State → Nat → State) (s : State) (p st : Nat) : State :=
  let s := if pget s .portStatus p 0 1 0 = 2 then leavePort raise s p
    else setPort s p (portDropped (getPort s p))
  setLink s p st

/-- The port goes to TRAINING at phase 1 (R393, R396), recording a cause other than 0. -/
def retrain (raise : State → Nat → State) (s : State) (p cause : Nat) : State :=
  let s := if cause = 0 then s else pset s .portStatus p 0 31 28 cause
  modPort (linkEnds raise s p 1) p (fun q => { q with phase := 1 })

/-- A loss of the link (R396): LINK_DOWN, and the port retrains. -/
def linkLost (raise : State → Nat → State) (s : State) (p cause : Nat) : State :=
  raise (retrain raise s p cause) (srcPort p 0)

/-- A link word leaves a port. -/
def sendWord (s : State) (p n : Nat) : State := emit s (.linkWord p (word n))

/-- Both sides may run on one lane (R399). -/
def mayDegrade (s : State) (p : Nat) : Bool :=
  pget s .portCtrl p 0 7 7 == 1 && (getPort s p).partner.any (·.degrade)

/-- Carry every unit on the other lane, in RECOVERY (R398). -/
def onOneLane (s : State) (p l : Nat) : State :=
  let s := pset (pset s .portStatus p 0 19 18 (2 - l)) .portStatus p 0 9 8 3
  padd s .linkCount p 5 47 0 1

/-- A port drops lane l (R398), or its link goes down instead (R399). -/
def dropLane (raise : State → Nat → State) (s : State) (p l : Nat) : State :=
  if pget s .portStatus p 0 1 0 ≠ 2 then s
  else if pget s .portStatus p 0 19 18 = 3 then
    if mayDegrade s p then
      let s := sendWord s p (8 + l * 2 ^ 4)
      let s := modPort (onOneLane s p l) p (fun q => { q with dropping := some l, recal := none })
      raise s (srcPort p 3)
    else linkLost raise s p 8
  else if pget s .portStatus p 0 19 18 = 2 ^ l then linkLost raise s p 8
  else s

/-! ### A plane leaves LIVE (R130) -/

/-- Distinct packets of a plane. -/
def planePackets (pl : Plane) : List Pkt :=
  (pl.queues.flatMap (·.2)).foldl (fun l p => if l.any (fun k => k.uid == p.uid) then l else l ++ [p]) []

/-- The plane with an empty buffer. -/
def planeEmptied (pl : Plane) : Plane :=
  { pl with credits := [], held := [], reserve := [], queues := [], rr := [], stalled := [] }

/-- A packet is still crossing a plane: it has left its output queue and its last flit has not come. -/
def stillCrosses (pl : Nat) (k : Pkt) : Bool := k.inPort.isSome && k.ordPlane == pl && !k.complete

/-- Packets still crossing a plane, a copy of each. -/
def crossing (s : State) (pl : Nat) : List Pkt :=
  let copies := s.ports.flatMap (fun e => e.2.stage.map (·.2) ++ e.2.replay.map (·.pkt)) ++ s.inbox.flatMap (·.2)
  (copies.filter (stillCrosses pl)).foldl (fun l p => if l.any (fun k => k.uid == p.uid) then l else l ++ [p]) []

/-- The rest of a frame whose packet is gone is dropped as it comes. -/
def dropRest (uid : Nat) (f : RxFrame) : RxFrame := if f.uid = some uid then { f with uid := none, left := true } else f

/-- A packet loses the rest of its flits in a plane: what has left the plane ends bad. -/
def cutCrossing (s : State) (uid : Nat) : State :=
  let s := { s with ports := mapAll s.ports Port.init (fun _ q =>
    { q with rxFrame := q.rxFrame.map (dropRest uid), rxHeld := q.rxHeld.map (dropRest uid) }) }
  packetWhole s uid (fun k => { k with bad := true })

/-- Discard what a plane holds. -/
def discardPlane (s : State) (pl : Nat) : State :=
  let queued := planePackets (getPlane s pl)
  let s := modPlane s pl planeEmptied
  let cut := (crossing s pl).filter (fun k => !queued.any (fun x => x.uid == k.uid))
  let s := (queued ++ cut).foldl (fun s k => fadd s .planeDiscard (8 + pl) 0 (pktClass k) 47 0 1) s
  lostAll ((crossing s pl).foldl (fun s k => cutCrossing s k.uid) s) (queued ++ cut)

end Sys2Proof.Machine
end

