-- ==== Sys2Proof/Machine/Contain.lean ====
section
/-! DEFINITION. The effect of a fault by its severity (R486-R489), control-die failover (R495, R496), the end of a
debug session (R479, R480) and what a die's reset leaves (R38, R445). -/

namespace Sys2Proof.Machine

/-- What raises an event inside a meaning that is itself the consequence of one. -/
abbrev Raise := State → Nat → State

/-! ### Die reset -/

/-- A unit's state after its die's reset: PARKED, unless retired. -/
def unitReset (u : UnitState) : UnitState := if u = .retired then .retired else .parked

/-- Keep the spindle map (R38) and drop the die's other stored registers. -/
def keepReg (die : Nat) (a : Nat) : Bool :=
  addrDie a != die || (addrCls a == 0x12 && addrOff a < 0x18)

/-- A die in reset runs no image; its banks keep theirs (R463, R481). -/
def bootReset (b : Boot) : Boot := { b with bank := 0, running := none, verifyFailed := false }

/-- State of one die after its reset: registers, caches, buffers, tables, local stores and instruction memories
(R445, R500); Erg contents are the caller's. -/
def resetDie (s : State) (die : Nat) : State :=
  let s := { s with
    regs := s.regs.filter (fun e => keepReg die e.1),
    units := mapAll s.units .parked (fun k u => if k / 2 ^ 19 = die then unitReset u else u),
    portDies := mapDel s.portDies die,
    ports := s.ports.filter (fun e => e.1 / 16 != die),
    spindles := s.spindles.filter (fun e => e.1 / 32 != die),
    inbox := mapDel s.inbox die,
    ready := mapDel s.ready (if die < 8 ∨ dieKind die = 2 ∨ dieKind die = 3 then linkOf die else 99) }
  let opened := s.caravans.map (·.1)
  let s := if die = 8 then { s with planeA := { Plane.init with forgotten := opened } } else s
  let s := if die = 9 then { s with planeB := { Plane.init with forgotten := opened } } else s
  let s := if dieKind die = 3 then
      modErg s (fun e => { e with pools := e.pools.filter (fun x => x.1 % 4 + 26 != die),
                                  repl := e.repl.filter (fun x => x.1 / 16 != die),
                                  counting := e.counting.filter (fun c => c.die != die) })
    else s
  let s := modSec s (fun c => { c with boot := c.boot.map (fun e => if e.1 = die then (e.1, bootReset e.2) else e) })
  modDie s die (fun d => { d with eventSeq := 0, relock := none, unlocked := false, hung := false })

/-- The 30 dies other than the control dies. -/
def dataDies : List Nat := upTo 0 30

/-- Erg contents are lost; where pages lie and which are retired is kept. -/
def loseErg (s : State) : State :=
  { s with erg := { Erg.init with pageMap := s.erg.pageMap, retired := s.erg.retired }, staging := [], jobs := [] }

/-- Hanks and caravans are gone with the units that carried them. -/
def loseWork (s : State) : State := { s with hanks := [], caravans := [], sync := [] }

/-- Power leaves the 30 non-control dies (R436, R442, R447). -/
def unpowerData (s : State) : State :=
  let s := dataDies.foldl resetDie s
  let s := dataDies.foldl (fun s d => modDie s d (fun x => { x with powered := false })) s
  loseErg (loseWork s)

/-! ### Debug sessions (R479, R480) -/

/-- An engine whose debug hold ends resumes. -/
def releaseHold (e : Engine) : Engine :=
  let e := { e with debugHalt := false }
  if e.state = .held ∧ e.hold = 5 then { e with state := .running, hold := 0 } else e

/-- Every debug hold is released. -/
def releaseHolds (s : State) : State :=
  { s with spindles := mapAll s.spindles Spindle.init (fun _ sp =>
      { sp with engines := mapAll sp.engines Engine.init (fun _ e => releaseHold e) }) }

/-- The session ends; after a D3 session the module enters STANDBY (R478). -/
def endSession (raise : Raise) (s : State) : State :=
  match s.sec.session with
  | none => s
  | some ses =>
    let s := modSec s (fun c => { c with session := none })
    let s := releaseHolds s
    let s := if ses.level = 3 ∧ s.module.state > 1
      then modModule (unpowerData s) (fun m => { m with state := 1, before := [], reboot := none }) else s
    raise s (srcSecurity (activeDie s) 0)

/-- A die leaves the session's scope. -/
def narrowSession (raise : Raise) (s : State) (die : Nat) : State :=
  match s.sec.session with
  | none => s
  | some ses =>
    if ses.dies.toNat.testBit die then
      let d := ses.dies &&& ~~~(BitVec.ofNat 32 (2 ^ die))
      if d = 0 then endSession raise s
      else modSec s (fun c => { c with session := some { ses with dies := d } })
    else s

/-! ### Containment (R487) -/

/-- The hank has a slot on a logical spindle, or a destination ranked on it (R182, R205). -/
def hankUses (h : Hank) (logical : Nat) : Bool :=
  let d := h.d
  let n := if d.type = 6 then d.memberCount else d.slotBudget
  if d.type = 5 then false else decide ((logical + 256 - d.spindleBase) % 256 < min d.spindleSpan n)

/-- Poison with SPINDLE the current round of hanks, all for the attempts that stand when it starts. -/
def poisonHanks (s : State) (hs : List Hank) : State :=
  (hs.map (fun h => (h, (getJob s h.d.job).attempt))).foldl (fun s e =>
    poison s e.1.d.hank e.2 0 (hankStep e.1) 8 ownFeid true) s

/-- Engines stop at once and results in flight are discarded. -/
def stopEngines (sp : Spindle) : Spindle :=
  { sp with engines := mapAll sp.engines Engine.init (fun _ e => { e with flight := [] }), work := [] }

/-- Contain a physical spindle. -/
def containSpindle (s : State) (key : Nat) : State :=
  let s := setUnit (modSp s key stopEngines) (key / 32) 0x10 (key % 32) .contained
  match logicalOf s key with
  | none => s
  | some l => poisonHanks s ((s.hanks.map (·.2)).filter (fun h => hankUses h l))

/-- Contain a port. -/
def containPort (raise : Raise) (s : State) (p : Nat) : State :=
  setUnit (linkEnds raise s p 0) (p / 16) 0x01 (p % 16) .contained

/-- Contain a lane: it is dropped and never rejoins. -/
def containLane (raise : Raise) (s : State) (die lane : Nat) : State :=
  dropLane raise (setUnit s die 0x02 lane .contained) (16 * die + lane / 2) (lane % 2)

/-- Channels of a stack (class 0x1A) or a device (class 0x1B) (R19). -/
def deviceChannels (cls k : Nat) : List Nat := if cls = 0x1A then upTo (16 * k) 16 else upTo (32 + 4 * k) 4

/-- Contain a stack or device and its channels. -/
def containDevice (s : State) (die cls k : Nat) : State :=
  (deviceChannels cls k).foldl (fun s c =>
      if unitState s die 0x19 c = .retired then s else setUnit s die 0x19 c .contained)
    (setUnit s die cls k .contained)

/-- Spindles of a die, by key. -/
def dieSpindles (die : Nat) : List Nat := upTo (32 * die) 17

/-- Contain a die: every unit of it, and every link that ends on it carries nothing. -/
def containDie (raise : Raise) (s : State) (die : Nat) : State :=
  let s := match dieKind die with
    | 0 => (upTo (16 * die) 16).foldl (fun s p => linkEnds raise s p 0) s
    | 1 => discardPlane s (die - 8)
    | _ => s
  let s := modDie s die (fun d => { d with contained := true })
  let s := match dieKind die with
    | 3 => setReady s (linkOf die) []
    | 2 =>
      let s := (dieSpindles die).foldl (fun s k => modSp s k stopEngines) s
      poisonHanks s ((s.hanks.map (·.2)).filter (fun h =>
        (upTo (16 * (die - 10)) 16).any (hankUses h) || (h.d.type == 5 && hankDie h.d == die)))
    | _ => s
  let s := if die = 61 - s.module.activeKd then modModule s (fun m => { m with standby := 0 }) else s
  narrowSession raise s die

/-- Contain the unit of a source at CONTAIN_UNIT. -/
def containUnit (raise : Raise) (s : State) (die cls inst : Nat) : State :=
  if cls = 0x01 then containPort raise s (16 * die + inst)
  else if cls = 0x02 then containLane raise s die inst
  else if cls = 0x10 then containSpindle s (32 * die + inst)
  else if cls = 0x11 then containSpindle s (32 * die + inst / 4)
  else if cls = 0x19 ∨ cls = 0x1C then setUnit s die cls inst .contained
  else if cls = 0x1A ∨ cls = 0x1B then containDevice s die cls inst
  else containDie raise s die

/-- ACTION of a record at CONTAIN_UNIT: 1 where a unit is contained, 2 where the die is (R490). -/
def unitAction (cls : Nat) : Nat := if [0x01, 0x02, 0x10, 0x11, 0x19, 0x1A, 0x1B, 0x1C].contains cls then 1 else 2

/-- STOP: every die other than the control dies is contained (R489). -/
def stopModule (raise : Raise) (s : State) (id : Nat) : State × Nat :=
  if s.module.stopHeld then (s, 0)
  else
    let s := dataDies.foldl (fun s d => if (getDie s d).contained then s else containDie raise s d) s
    (modModule s (fun m => { m with stopHeld := true, stopId := id }), 3)

/-- The unit of a source is contained, or its die (R488). -/
def alreadyContained (s : State) (id : Nat) : Bool :=
  let u := sourceUnit id
  let engine := addrCls u == 0x11
  unitContained s (addrDie u) (if engine then 0x10 else addrCls u) (if engine then addrInst u / 4 else addrInst u)

/-- Containment of an event of severity 3 to 5: the state and the ACTION. -/
def containFor (raise : Raise) (s : State) (id sev : Nat) : State × Nat :=
  let u := sourceUnit id
  let die := addrDie u
  let cls := addrCls u
  let inst := addrInst u
  if sev = 5 then
    let s := if die = 61 - activeDie s ∧ !(getDie s die).contained then containDie raise s die else s
    stopModule raise s id
  else if die = activeDie s then (s, 0)
  else if sev = 4 then (if (getDie s die).contained then s else containDie raise s die, 2)
  else if alreadyContained s id then (s, unitAction cls)
  else (containUnit raise s die cls inst, unitAction cls)

/-! ### Control-port retraining and failover (R410, R413, R414, R434, R495, R496) -/

/-- Link-up restarts at step 1; what was not acknowledged will be sent again. -/
def cpRestart (s : State) : State :=
  let s := modCp s (fun c => { c with
    step := 1, laneLock := 0, aligned := 0, rxFrames := 0, rxKib := 0, rxNext := 0, placed := false, txNext := 0,
    queue := c.unacked.map (fun e => e.2.1) ++ c.queue, unacked := [] })
  fadd s .cpCount (activeDie s) 0 3 47 0 1

/-- Draw a new SEC_NONCE (R458). -/
def newNonce (s : State) : State :=
  let (n, s) := takeNoise 32 s
  modSec s (fun c => { c with nonce := n })

/-- Answer every command dispatched and not answered with FAULTED, CHECK 0xFFFF (R434). -/
def answerLost (s : State) : State :=
  let open' := s.cp.remembered.filter (fun r => r.done == none)
  let s := modCp s (fun c => { c with awaiting := [] })
  open'.foldl (fun s r => answer s r.tag r.opcode stFaulted (failWord 8 0xFFFF 0)) s

/-- The standby takes over (R496). -/
def failover (raise : Raise) (s : State) : State :=
  let old := s.module.activeKd
  let new := 61 - old
  let n := awaitingCount s
  let s := cpRestart s
  let s := modModule s (fun m => { m with activeKd := new, standby := 1, errHeld := false, failovers := satAdd 32 m.failovers 1 })
  let s := { s with episodes := s.episodes.filter (fun e => 2 ≤ e) }
  let s := modDie (modDie s old (fun d => { d with contained := true })) new (fun d => { d with contained := false })
  let s := endSession raise (modSec (newNonce s) (fun c => { c with zeroising := false }))
  let s := answerLost s
  let s := countSource s (srcDistaff new 2)
  let s := noteRecord s (srcDistaff new 2) 4 4 false (unitAddr old 0 0) []
  sendEventW (pulseErr s) new 10 [new, n]

/-! ### Raising an event (R485, R486) -/

/-- DETAIL of the sources whose DETAIL is a register of the unit (R490). -/
def autoDetail (s : State) (id : Nat) (detail : List Word) : List Word :=
  let u := sourceUnit id
  if detail = [] ∧ addrCls u = 0x01 then [word (rget s .portStatus (addrDie u) (addrInst u) 0)] else detail

/-- The containment that a source's unit stands in was applied by an event of the present die cycle, with which this
event's own applies together (R488). -/
def containedNow (s : State) (id : Nat) : Bool :=
  s.raised.any (fun r => r.action != 0 && (sourceUnit r.source == sourceUnit id || r.action == 3
    || (r.action == 2 && r.source / 2048 == id / 2048)))

/-- Raise one event of a source, with consequences of consequences to depth `n`; the records wait for the end of the
die cycle. -/
def raiseN : Nat → State → Nat → Bool → List Word → State
  | 0, s, id, _, _ => countSource s id
  | n + 1, s, id, injected, detail =>
    let sev := severityOf s id
    let raise : Raise := fun s id => raiseN n s id false []
    let s := countSource s id
    let detail := autoDetail s id detail
    if sev ≤ 1 then s
    else if sev = 2 ∨ alreadyContained s id && !containedNow s id then
      noteRecord s id sev 0 injected (sourceUnit id) detail
    else if addrDie (sourceUnit id) = activeDie s ∧ s.module.standby = 2 then
      let (s, action) := if sev = 5 ∧ !s.module.stopHeld then stopModule raise s id else (s, 4)
      failover raise (pulseErr (noteRecord s id sev action injected (sourceUnit id) detail))
    else
      let (s, action) := containFor raise s id sev
      pulseErr (noteRecord s id sev action injected (sourceUnit id) detail)

/-- Raise one event of a source among others of the die cycle. -/
def raiseWith : Raise := fun s id => raiseN 4 s id false []

/-- Raise one event of a source. -/
def raiseDetail (s : State) (id : Nat) (detail : List Word) : State :=
  oneCycle (fun s => raiseN 4 s id false detail) s

/-- Raise one event of a source that has no DETAIL. -/
def raiseFault (s : State) (id : Nat) : State := raiseDetail s id []

/-- Raise one event of a PORT source. -/
def raisePort (s : State) (p kind : Nat) : State := raiseFault s (srcPort p kind)

/-- A checker meets an injected check (R492): one injected event of the source, if any is left to inject. -/
def injected (s : State) (id : Nat) (detail : List Word) : Bool × State :=
  match takeInjection s id with
  | (false, s) => (false, s)
  | (true, s) => (true, oneCycle (fun s => raiseN 4 s id true detail) s)

end Sys2Proof.Machine
end

