-- ==== Sys2Proof/Machine/Formats.lean ====
section
/-! DEFINITION. The element formats, exact values and the one rounding rule (R137-R139, R156-R159). -/

namespace Sys2Proof.Machine

/-! ### Exact values -/

/-- A decoded element: a NaN, an infinity, or (-1)^neg * m * 2^e; m = 0 is a signed zero. -/
inductive FVal where
  | nan
  | inf (neg : Bool)
  | num (neg : Bool) (m : Nat) (e : Int)
  deriving DecidableEq, Repr

/-- An exact dyadic number m * 2^e. -/
structure Dy where
  m : Int
  e : Int
  deriving DecidableEq, Repr

/-- m * 2^k for a shift k that is not negative. -/
def shiftInt (m : Int) (k : Int) : Int := m * ((2 ^ k.toNat : Nat) : Int)

/-- Sum and product of dyadic numbers. -/
def dyAdd (a b : Dy) : Dy :=
  let e := min a.e b.e
  { m := shiftInt a.m (a.e - e) + shiftInt b.m (b.e - e), e := e }
def dyMul (a b : Dy) : Dy := { m := a.m * b.m, e := a.e + b.e }

/-- A finite value as a dyadic number. -/
def fvalDy (neg : Bool) (m : Nat) (e : Int) : Dy := { m := if neg then -(m : Int) else m, e := e }

/-! ### Formats (R137) -/

/-- A binary floating-point layout: exponent bits, fraction bits, bias, and what its top encodings are:
0 infinities and NaNs as in IEEE 754, 1 one NaN and no infinity (E4M3), 2 neither (MX elements). -/
structure FFmt where
  eb : Nat
  fb : Nat
  bias : Nat
  top : Nat
  deriving DecidableEq, Repr

/-- The layout of a format code or of the elements of an MX format; none for integer, RAW and MXINT8 formats. -/
def ffmt : Nat → Option FFmt
  | 0x01 => some ⟨8, 23, 127, 0⟩
  | 0x02 => some ⟨8, 7, 127, 0⟩
  | 0x03 => some ⟨5, 10, 15, 0⟩
  | 0x04 => some ⟨4, 3, 7, 1⟩
  | 0x05 => some ⟨5, 2, 15, 0⟩
  | 0x08 => some ⟨4, 3, 7, 1⟩
  | 0x09 => some ⟨5, 2, 15, 0⟩
  | 0x0A => some ⟨3, 2, 3, 2⟩
  | 0x0B => some ⟨2, 3, 1, 2⟩
  | 0x0C => some ⟨2, 1, 1, 2⟩
  | _ => none

/-- Bits of an element; 0 for a code that is no format. -/
def fmtBits (c : Nat) : Nat :=
  if c = 0x01 then 32 else if c = 0x02 then 16 else if c = 0x03 then 16 else if c = 0x04 then 8
  else if c = 0x05 then 8 else if c = 0x08 then 8 else if c = 0x09 then 8 else if c = 0x0A then 6
  else if c = 0x0B then 6 else if c = 0x0C then 4 else if c = 0x0D then 8 else if c = 0x10 then 8
  else if c = 0x11 then 32 else if c = 0x12 then 64 else if c = 0x18 then 8 else if c = 0x19 then 16
  else if c = 0x1A then 32 else if c = 0x1B then 64 else 0

/-- Families of format codes. -/
def isFormat (c : Nat) : Bool := fmtBits c != 0
def isPlainFloat (c : Nat) : Bool := decide (1 ≤ c) && decide (c ≤ 5)
def isMx (c : Nat) : Bool := decide (0x08 ≤ c) && decide (c ≤ 0x0D)
def isInteger (c : Nat) : Bool := decide (0x10 ≤ c) && decide (c ≤ 0x12)
def isRaw (c : Nat) : Bool := decide (0x18 ≤ c) && decide (c ≤ 0x1B)

/-- Greatest exponent of an MX element format (R159). -/
def emaxOf (c : Nat) : Int :=
  if c = 0x08 then 8 else if c = 0x09 then 15 else if c = 0x0A then 4 else if c = 0x0B then 2
  else if c = 0x0C then 2 else 0

/-- Canonical NaN of a plain format. -/
def canonNan (c : Nat) : Nat :=
  if c = 0x01 then 0x7FC00000 else if c = 0x02 then 0x7FC0 else if c = 0x03 then 0x7E00
  else if c = 0x04 then 0x7F else 0x7E

/-- The sign bit's weight. -/
def signBit (f : FFmt) : Nat := 2 ^ (f.eb + f.fb)

/-- Encoding of the positive infinity, or of the encoding above the largest finite one. -/
def topCode (f : FFmt) : Nat :=
  match f.top with
  | 0 => (2 ^ f.eb - 1) * 2 ^ f.fb
  | 1 => 2 ^ (f.eb + f.fb) - 1
  | _ => 2 ^ (f.eb + f.fb)

/-- Value of an encoding. -/
def decodeF (f : FFmt) (n : Nat) : FVal :=
  let neg := n.testBit (f.eb + f.fb)
  let g := n % 2 ^ (f.eb + f.fb)
  let ex := g / 2 ^ f.fb
  let fr := g % 2 ^ f.fb
  let qmin : Int := 1 - (f.bias : Int) - (f.fb : Int)
  if f.top = 0 ∧ ex = 2 ^ f.eb - 1 then (if fr = 0 then .inf neg else .nan)
  else if f.top = 1 ∧ g = 2 ^ (f.eb + f.fb) - 1 then .nan
  else if ex = 0 then .num neg fr qmin
  else .num neg (2 ^ f.fb + fr) (qmin + (ex - 1 : Nat))

/-- Value of an element in a format with a block scale exponent (0 outside MX). -/
def decodeEl (c : Nat) (scale : Int) (n : Nat) : FVal :=
  match ffmt c with
  | some f =>
    match decodeF f n with
    | .num neg m e => .num neg m (e + scale)
    | v => v
  | none =>
    -- MXINT8: two's complement times 2^-6
    let v := signed 8 n
    .num (decide (v < 0)) v.natAbs (scale - 6)

/-! ### Rounding (R157, R158) -/

/-- floor(log2 m) for m > 0. -/
def flog2 (m : Nat) : Nat := Nat.log2 m

/-- The integer that m * 2^e (m > 0) becomes on the grid 2^q: mode 0 RNE, 1 RTZ, 2 SR with the bits `u`. -/
def roundGrid (mode u m : Nat) (e q : Int) : Nat :=
  if q ≤ e then m * 2 ^ (e - q).toNat
  else
    let d := 2 ^ (q - e).toNat
    let lo := m / d
    let r := m % d
    if r = 0 then lo
    else match mode with
      | 0 => if 2 * r < d then lo else if d < 2 * r then lo + 1 else lo + lo % 2
      | 1 => lo
      | _ => if u < r * 2 ^ 32 / d then lo + 1 else lo

/-- Magnitude bits of m * 2^e, m > 0, in a floating-point layout. -/
def roundMag (f : FFmt) (mode u m : Nat) (e : Int) : Nat :=
  let qmin : Int := 1 - (f.bias : Int) - (f.fb : Int)
  let q := max (e + (flog2 m : Int) - (f.fb : Int)) qmin
  let code := (q - qmin).toNat * 2 ^ f.fb + roundGrid mode u m e q
  let cap := if f.top = 0 ∧ mode ≠ 1 then topCode f else topCode f - 1
  min code cap

/-- Bits of a value in a plain floating-point format, with the rounding mode and its stochastic bits. A zero keeps
its sign; a rounded zero keeps the sign of X only where `keep` says so (R156 gives +0). -/
def encodeF (c : Nat) (mode u : Nat) (keep : Bool) (v : FVal) : Nat :=
  match ffmt c with
  | none => 0
  | some f =>
    match v with
    | .nan => canonNan c
    | .inf neg => if f.top = 0 then topCode f + b2n neg * signBit f else canonNan c
    | .num neg m e =>
      if m = 0 then b2n neg * signBit f
      else
        let g := roundMag f mode u m e
        g + b2n (neg && (g != 0 || keep)) * signBit f

/-! ### MX blocks (R139, R156, R159) -/

/-- Bits of an element X in an MX block of scale 2^s. -/
def encodeMxEl (c mode u : Nat) (s : Int) (v : FVal) : Nat :=
  match v with
  | .num neg m e =>
    match ffmt c with
    | some f =>
      if m = 0 then b2n neg * signBit f
      else
        let g := min (roundMag f mode u m (e - s)) (topCode f - 1)
        g + b2n (neg && g != 0) * signBit f
    | none =>
      let k := if m = 0 then 0 else min (roundGrid mode u m (e - s) (-6)) 127
      if neg then (256 - k) % 256 else k
  | _ => 0

/-- Exponent of the largest magnitude of a block; none when every element is zero. -/
def blockLog (vs : List FVal) : Option Int :=
  vs.foldl (fun a v => match v with
    | .num _ m e => if m = 0 then a else
      let l := e + (flog2 m : Int)
      some (match a with | some b => max b l | none => l)
    | _ => a) none

/-- The block is a NaN block. -/
def blockNan (vs : List FVal) : Bool := vs.any (fun v => match v with | .num _ _ _ => false | _ => true)

/-- Scale and element bits of a block of values, each with its stochastic bits. -/
def encodeBlock (c mode : Nat) (vs : List (FVal × Nat)) : Nat × List Nat :=
  if blockNan (vs.map (·.1)) then (0xFF, vs.map (fun _ => 0))
  else
    let s : Int := match blockLog (vs.map (·.1)) with
      | none => -127
      | some l => min (max (l - emaxOf c) (-127)) 127
    ((s + 127).toNat, vs.map (fun x => encodeMxEl c mode x.2 s x.1))

/-- Bytes of a list of equal-width elements, element 0 in the lowest bits. -/
def packBits (w : Nat) (els : List Nat) : Nat :=
  els.foldr (fun x n => x % 2 ^ w + n * 2 ^ w) 0

/-- Bytes of element bits in index order. -/
def packEls (w : Nat) (els : List Nat) : List Byte :=
  (chunksOf 8 els.length els).flatMap (fun g => natBytes ((g.length * w + 7) / 8) (packBits w g))

/-- Element i of a packed stream. -/
def unpackEl (w : Nat) (bs : List Byte) (i : Nat) : Nat :=
  let b := i * w / 8
  (bytesNat ((bs.drop b).take ((w + 14) / 8)) >>> (i * w % 8)) % 2 ^ w

/-- Bytes of an MX chunk: 32 scales, then 1,024 elements (R139). -/
def mxChunkBytes (c : Nat) : Nat := 32 + 128 * fmtBits c

/-- Value of element i of an MX chunk. -/
def mxChunkEl (c : Nat) (bs : List Byte) (i : Nat) : FVal :=
  let sc := ((bs.drop (i / 32)).headD 0).toNat
  if sc = 255 then .nan else decodeEl c ((sc : Int) - 127) (unpackEl (fmtBits c) (bs.drop 32) i)

/-- An MX chunk from values with their stochastic bits; missing elements are zero blocks. -/
def mxChunk (c mode : Nat) (vs : List (FVal × Nat)) : List Byte :=
  let blocks := (chunksOf 32 vs.length vs).map (encodeBlock c mode)
  let sc := padTo 32 (blocks.map (fun b => BitVec.ofNat 8 b.1))
  sc ++ padTo (128 * fmtBits c) (packEls (fmtBits c) (blocks.flatMap (·.2)))

/-! ### Integers -/

/-- Width of an integer format. -/
def intIn (c n : Nat) : Int := signed (fmtBits c) n

/-- Clamp into a two's complement width. -/
def clampInt (w : Nat) (v : Int) : Int := min (max v (-((2 ^ (w - 1) : Nat) : Int))) ((2 ^ (w - 1) : Nat) - 1 : Int)

end Sys2Proof.Machine
end

