-- ==== Sys2Proof/Machine/Exact.lean ====
section
/-! DEFINITION. Accumulator states and their merge, the tally format, rounding at the root, the Carding generator and
stream digests (R141-R161, R165-R169). -/

namespace Sys2Proof.Machine

/-! ### Modes -/

abbrev modeEx : Nat := 1
abbrev modeWx : Nat := 2
abbrev modeIx : Nat := 3
abbrev modeKey : Nat := 4

/-- Bytes of an accumulator element (R151). -/
def accBytes (mode : Nat) : Nat := if mode = modeEx then 40 else if mode = modeWx then 16 else 12

/-- A combination of R142. -/
def legalCombo (op mode inF outF : Nat) : Bool :=
  let sumF (c : Nat) := isPlainFloat c || isMx c
  if op = 1 then
    ((mode = modeEx ∨ mode = modeWx) && sumF inF && sumF outF) || (mode = modeIx && isInteger inF && isInteger outF)
  else if op = 2 ∨ op = 3 then mode = modeKey && (isPlainFloat inF || isInteger inF) && inF = outF
  else if op = 4 ∨ op = 5 ∨ op = 6 then mode = modeKey && isRaw inF && inF = outF
  else false

/-- A rounding code legal for the mode and output format (R141). -/
def legalRound (mode rnd : Nat) : Bool :=
  if mode = modeKey then rnd == 0 else if mode = modeIx then decide (rnd ≤ 1) else decide (rnd ≤ 2)

/-! ### Entering an accumulator (R144-R150) -/

/-- A floating-point value enters a SUM accumulator: the state, and whether it left the WX128 window. -/
def accOfFloat (mode : Nat) (f : Int) (v : FVal) : Acc × Bool :=
  match v with
  | .nan => (.nan, false)
  | .inf neg => (if neg then .minf else .pinf, false)
  | .num neg m e =>
    if m = 0 then (if neg then .ident else .fin 0, false)
    else if mode = modeWx then
      let c := roundGrid 0 0 m e f
      if 2 ^ 104 ≤ c then (if neg then .minf else .pinf, true)
      else (.fin (if neg then -(c : Int) else c), false)
    else
      let a := roundGrid 1 0 m e (-149)
      (.fin (if neg then -(a : Int) else a), false)

/-- Key of an element (R150). -/
def keyOf (c n : Nat) : Acc :=
  match ffmt c with
  | some f =>
    match decodeF f n with
    | .nan => .nan
    | _ =>
      let g := n % signBit f
      .fin (if n.testBit (f.eb + f.fb) then -(g : Int) - 1 else g)
  | none => .fin (signed (fmtBits c) n)

/-- An element of a plain, integer or RAW format enters an accumulator. -/
def accIn (mode : Nat) (f : Int) (c n : Nat) : Acc × Bool :=
  if mode = modeKey then (keyOf c n, false)
  else if isInteger c then (.fin (intIn c n), false)
  else accOfFloat mode f (decodeEl c 0 n)

/-! ### Merging (R143, R147, R150) -/

/-- Bitwise operation on 64-bit two's complement keys. -/
def keyBits (g : Nat → Nat → Nat) (x y : Int) : Int := signed 64 (g (unsigned 64 x) (unsigned 64 y))

/-- The operation of R143 on two finite values. -/
def accOp (mode op : Nat) (x y : Int) : Int :=
  if mode = modeKey then
    if op = 2 then max x y else if op = 3 then min x y
    else if op = 4 then keyBits (· &&& ·) x y else if op = 5 then keyBits (· ||| ·) x y
    else keyBits (· ^^^ ·) x y
  else x + y

/-- A sum kept within the mode's range: the state, and whether the range was left. -/
def accRange (mode : Nat) (v : Int) : Acc × Bool :=
  if mode = modeEx then (if v.natAbs < 2 ^ 318 then (.fin v, false) else (.nan, true))
  else if mode = modeWx then (if v.natAbs < 2 ^ 126 then (.fin v, false) else (.nan, true))
  else if mode = modeIx then
    let w := signed 96 (unsigned 96 v)
    (.fin w, decide (w ≠ v))
  else (.fin v, false)

/-- R143: two states combine; the flag says that an exact range was left (R147). -/
def accMerge (mode op : Nat) (a b : Acc) : Acc × Bool :=
  match a, b with
  | .nan, _ => (.nan, false)
  | _, .nan => (.nan, false)
  | .ident, y => (y, false)
  | x, .ident => (x, false)
  | .fin x, .fin y => accRange mode (accOp mode op x y)
  | .fin _, y => (y, false)
  | x, .fin _ => (x, false)
  | .pinf, .pinf => (.pinf, false)
  | .minf, .minf => (.minf, false)
  | .pinf, .minf => (.nan, false)
  | .minf, .pinf => (.nan, false)

/-! ### Encodings of elements (R145, R148-R150) -/

/-- Bits of a state in a special of a `w`-bit tagged word. -/
def specialWord (w k : Nat) : Nat := 2 ^ (w - 2) + k * 2 ^ (w - 4)

/-- Word of an accumulator element. -/
def accWord (mode : Nat) (a : Acc) : Nat :=
  if mode = modeEx ∨ mode = modeWx then
    let w := if mode = modeEx then 320 else 128
    match a with
    | .fin v => unsigned w v
    | .ident => specialWord w 0
    | .pinf => specialWord w 1
    | .minf => specialWord w 2
    | .nan => specialWord w 3
  else if mode = modeIx then
    match a with
    | .fin v => unsigned 96 v
    | _ => 0
  else
    match a with
    | .fin v => unsigned 64 v + 2 ^ 64
    | .ident => 0
    | _ => 2 ^ 65

/-- State of an accumulator word. -/
def wordAcc (mode n : Nat) : Acc :=
  if mode = modeEx ∨ mode = modeWx then
    let w := if mode = modeEx then 320 else 128
    match bits n (w - 1) (w - 2) with
    | 1 =>
      match bits n (w - 3) (w - 4) with
      | 0 => .ident
      | 1 => .pinf
      | 2 => .minf
      | _ => .nan
    | 2 => .nan
    | _ => .fin (signed w n)
  else if mode = modeIx then .fin (signed 96 n)
  else match bits n 65 64 with
    | 0 => .ident
    | 1 => .fin (signed 64 n)
    | _ => .nan

/-! ### The tally format (R152-R154) -/

/-- Largest BASE and WIDTH of a mode (R153). -/
def maxBase (mode : Nat) : Nat :=
  if mode = modeEx then 317 else if mode = modeWx then 125 else if mode = modeIx then 94 else 0
def maxWidth (mode : Nat) : Nat :=
  if mode = modeEx then 21 else if mode = modeWx then 8 else if mode = modeIx then 6 else 4

/-- Code of a state in the special map. -/
def specialCode : Acc → Nat
  | .fin _ => 0
  | .ident => 1
  | .pinf => 2
  | .minf => 3
  | .nan => 4

/-- Integer of a finite state; 0 otherwise. -/
def accInt : Acc → Int
  | .fin v => v
  | _ => 0

/-- Trailing zeros of a number, at most `fuel`. -/
def trailing : Nat → Nat → Nat
  | 0, _ => 0
  | fuel + 1, n => if n % 2 = 1 then 0 else 1 + trailing fuel (n / 2)

/-- Canonical BASE of a group (R154). -/
def groupBase (mode : Nat) (els : List Acc) : Nat :=
  let ns := (els.map (fun a => (accInt a).natAbs)).filter (· ≠ 0)
  if ns = [] ∨ mode = modeKey then 0 else ns.foldl (fun b n => min b (trailing (maxBase mode) n)) (maxBase mode)

/-- The value fits in w two's complement bytes pairs. -/
def fitsWidth (w : Nat) (v : Int) : Bool :=
  decide (-((2 ^ (16 * w - 1) : Nat) : Int) ≤ v) && decide (v < ((2 ^ (16 * w - 1) : Nat) : Int))

/-- Least legal WIDTH. -/
def groupWidth (ns : List Int) : Nat := ((upTo 1 21).find? (fun w => ns.all (fitsWidth w))).getD 21

/-- A canonical group of 16 states (R152, R154); IX96 has no special map. -/
def encodeGroup (mode : Nat) (els0 : List Acc) : List Byte :=
  let els := if mode = modeIx then els0.map (fun a => .fin (accInt a)) else els0
  let special := els.any (fun a => specialCode a != 0)
  let b := groupBase mode els
  let ns := els.map (fun a => accInt a / ((2 ^ b : Nat) : Int))
  let w := groupWidth ns
  natBytes 2 (b + w * 2 ^ 9 + b2n special * 2 ^ 14)
    ++ (if special then natBytes 8 (packBits 4 (els.map specialCode)) else [])
    ++ ns.flatMap (fun n => natBytes (2 * w) (unsigned (16 * w) n))

/-- Bound on |N * 2^b| (R153). -/
def groupBound (mode : Nat) (v : Int) : Bool :=
  if mode = modeEx then decide (v.natAbs < 2 ^ 318) else if mode = modeWx then decide (v.natAbs < 2 ^ 126)
  else if mode = modeIx then decide (v.natAbs < 2 ^ 95)
  else decide (-((2 ^ 63 : Nat) : Int) ≤ v) && decide (v < ((2 ^ 63 : Nat) : Int))

/-- A special code allowed in the mode for the hank's format (R153). -/
def codeAllowed (mode fmt code : Nat) : Bool :=
  if mode = modeIx then code == 0
  else if mode = modeKey then code == 0 || code == 1 || (code == 4 && isPlainFloat fmt)
  else decide (code ≤ 4)

/-- State of a code and an integer. -/
def codeAcc (code : Nat) (v : Int) : Acc :=
  match code with
  | 0 => .fin v
  | 1 => .ident
  | 2 => .pinf
  | 3 => .minf
  | _ => .nan

/-- Length of the group that a header begins. -/
def groupLen (hdr : Nat) : Nat := 2 + 8 * bits hdr 14 14 + 32 * bits hdr 13 9

/-- States of the group at the front of a payload, with the rest; none when it is malformed. -/
def decodeGroup (mode fmt : Nat) (bs : List Byte) : Option (List Acc) :=
  let hdr := bytesNat (bs.take 2)
  let b := bits hdr 8 0
  let w := bits hdr 13 9
  let special := hdr.testBit 14
  if w = 0 ∨ maxWidth mode < w ∨ maxBase mode < b ∨ (special ∧ mode = modeIx) then none
  else
    let map := if special then bytesNat ((bs.drop 2).take 8) else 0
    let body := bs.drop (if special then 10 else 2)
    let els := (upTo 0 16).map (fun k =>
      (bits map (4 * k + 3) (4 * k),
       signed (16 * w) (bytesNat ((body.drop (2 * w * k)).take (2 * w))) * ((2 ^ b : Nat) : Int)))
    if els.all (fun e => codeAllowed mode fmt e.1 && (e.1 != 0 || groupBound mode e.2))
    then some (els.map (fun e => codeAcc e.1 e.2)) else none

/-- Lengths of the first `n` groups of a payload; none where the payload ends early. -/
def groupsLen : Nat → List Byte → Option Nat
  | 0, _ => some 0
  | n + 1, bs =>
    if bs.length < 2 then none
    else
      let l := groupLen (bytesNat (bs.take 2))
      if bs.length < l then none else (groupsLen n (bs.drop l)).map (· + l)

/-- The states of `n` groups; none when one is malformed. -/
def decodeGroups (mode fmt : Nat) : Nat → List Byte → Option (List Acc)
  | 0, _ => some []
  | n + 1, bs =>
    match decodeGroup mode fmt bs with
    | none => none
    | some els =>
      (decodeGroups mode fmt n (bs.drop (groupLen (bytesNat (bs.take 2))))).map (els ++ ·)

/-! ### Carding (R165) -/

/-- 32-bit rotation. -/
def rotl32 (v : BitVec 32) (n : Nat) : BitVec 32 := v.rotateLeft n

/-- One round of Carding on (x0, x1, x2, x3). -/
def cardRound (k0 k1 : BitVec 32) (r : Nat) (x : BitVec 32 × BitVec 32 × BitVec 32 × BitVec 32) :
    BitVec 32 × BitVec 32 × BitVec 32 × BitVec 32 :=
  let (x0, x1, x2, x3) := x
  let x0 := x0 + x1 + (if r % 2 = 0 then k0 else k1) + BitVec.ofNat 32 r
  let x1 := rotl32 x1 8 ^^^ x0
  let x2 := x2 + x3
  let x3 := rotl32 x3 12 ^^^ x2
  (x0, x3, x2, x1)

/-- Carding's four output words. -/
def carding (seed : Word) (stream : BitVec 32) (stp idx : Nat) : BitVec 32 × BitVec 32 × BitVec 32 × BitVec 32 :=
  let k0 := BitVec.ofNat 32 seed.toNat
  let k1 := BitVec.ofNat 32 (seed.toNat / 2 ^ 32)
  let start : BitVec 32 × BitVec 32 × BitVec 32 × BitVec 32 :=
    (BitVec.ofNat 32 idx, BitVec.ofNat 32 (bits stp 23 0 * 256 + bits idx 39 32), BitVec.ofNat 32 (bits stp 47 24), stream)
  (upTo 0 10).foldl (fun x r => cardRound k0 k1 r x) start

/-- Output word 0: the bits U of stochastic rounding. -/
def cardU (seed : Word) (stream : BitVec 32) (stp idx : Nat) : Nat := (carding seed stream stp idx).1.toNat

/-! ### Digests (R167, R168) -/

/-- One round of the digest mix. -/
def mixRound (x : BitVec 32 × BitVec 32) : BitVec 32 × BitVec 32 :=
  let x' := x.1 + x.2
  let y := rotl32 x.2 12 ^^^ x'
  (y, x')

/-- The mix of a value at an index under a key. -/
def digestMix (k : Word) (i : Nat) (v : Nat) : Word :=
  let x := BitVec.ofNat 32 v ^^^ BitVec.ofNat 32 k.toNat ^^^ (BitVec.ofNat 32 (bits i 39 32) * 0x01010101)
  let y := BitVec.ofNat 32 i ^^^ BitVec.ofNat 32 (k.toNat / 2 ^ 32)
  let r := mixRound (mixRound (mixRound (mixRound (x, y))))
  word (r.2.toNat * 2 ^ 32 + r.1.toNat)

/-- Lane keys. -/
def keyA : Word := 0x5A5A5A5AA5A5A5A5
def keyB : Word := 0x3C3C3C3CC3C3C3C3

/-- Both lanes of a digest. -/
structure Digest where
  a : Word
  b : Word
  deriving DecidableEq, Repr

def Digest.add (x y : Digest) : Digest := { a := x.a + y.a, b := x.b + y.b }

/-- Digest of one 32-bit value at an index. -/
def digestAt (i v : Nat) : Digest := { a := digestMix keyA i v, b := digestMix keyB i v }

/-- Digest of one element of `w` bits at its index. -/
def digestEl (w i v : Nat) : Digest :=
  if w = 64 then (digestAt (2 * i) (v % 2 ^ 32)).add (digestAt (2 * i + 1) (v / 2 ^ 32)) else digestAt i v

/-- Sum of digests. -/
def digestSum (l : List Digest) : Digest := l.foldl Digest.add { a := 0, b := 0 }

/-- Index at which the scale of a block is digested. -/
def scaleIndex (block : Nat) : Nat := 2 ^ 39 + block

/-! ### Rounding an accumulator into a format (R156-R161) -/

/-- Value of a SUM state: grid exponent −149 in EX320, F in WX128. -/
def accVal (mode : Nat) (f : Int) (a : Acc) : FVal :=
  let e : Int := if mode = modeWx then f else -149
  match a with
  | .nan => .nan
  | .pinf => .inf false
  | .minf => .inf true
  | .ident => .num true 0 0
  | .fin v => .num (decide (v < 0)) v.natAbs e

/-- Identity of a KEY96 operation in a format (R161). -/
def keyIdentity (op c : Nat) : Nat :=
  match ffmt c with
  | some f =>
    if f.top = 0 then topCode f + (if op = 2 then signBit f else 0)
    else topCode f - 1 + (if op = 2 then signBit f else 0)
  | none =>
    if isInteger c then (if op = 2 then 2 ^ (fmtBits c - 1) else 2 ^ (fmtBits c - 1) - 1)
    else if op = 4 then 2 ^ fmtBits c - 1 else 0

/-- Encoding of a key (R161). -/
def unkey (c : Nat) (k : Int) : Nat :=
  match ffmt c with
  | some f => if k < 0 then signBit f + (-k - 1).natAbs % signBit f else k.natAbs % signBit f
  | none => unsigned (fmtBits c) k

/-- Element bits of a state in a format that is not MX. -/
def accOut (mode op rnd : Nat) (f : Int) (c u : Nat) (a : Acc) : Nat :=
  if mode = modeKey then
    match a with
    | .fin k => unkey c k
    | .ident => keyIdentity op c
    | _ => if isPlainFloat c then canonNan c else 0
  else if mode = modeIx then
    let v := accInt a
    if rnd = 0 then unsigned (fmtBits c) (clampInt (fmtBits c) v) else unsigned (fmtBits c) v
  else encodeF c rnd u false (accVal mode f a)

/-- Bytes of consecutive states rounded into a format, `u` giving each its stochastic bits; in an MX format the
states of one chunk. -/
def accOutBytes (mode op rnd : Nat) (f : Int) (c : Nat) (els : List (Acc × Nat)) : List Byte :=
  if isMx c then mxChunk c rnd (els.map (fun e => (accVal mode f e.1, e.2)))
  else els.flatMap (fun e => natBytes (fmtBits c / 8) (accOut mode op rnd f c e.2 e.1))

end Sys2Proof.Machine
end

