-- ==== Sys2Proof/Machine/ErgMem.lean ====
section
/-! DEFINITION. Erg memory: where an offset lives, the checks and answers of requests, atomics, replication, pools
and signal counters (R324-R327, R344-R376). -/

namespace Sys2Proof.Machine

/-! ### Handles and places (R344-R349) -/

def hndFeid (w : Word) : Nat := wbits w 63 44
def hndRegion (w : Word) : Nat := wbits w 43 40
def hndOffset (w : Word) : Nat := wbits w 39 0

/-- A handle of this Holmon. -/
def ownHandle (region o : Nat) : Word := word (ownFeid * 2 ^ 44 + region * 2 ^ 40 + o)

/-- Erg die that owns a handle (R345). -/
def ownerOf (w : Word) : Nat :=
  if hndRegion w = 3 ∨ hndRegion w = 4 then 26 + bits (hndOffset w) 7 6 else 26 + bits (hndOffset w) 13 12

/-- Pages a die exposes in a tier: 0 HBM, 1 LPDDR (R346). -/
def exposed (s : State) (die tier : Nat) : Nat :=
  if tier = 0 then 48128 - fget s .ergConfig die 0 0 15 0 else 49152 - fget s .ergConfig die 0 0 31 16

/-- HBM_LIMIT or LPDDR_LIMIT: four times the smallest exposure (R346). -/
def tierLimit (s : State) (tier : Nat) : Nat :=
  4 * 2 ^ 21 * min (min (exposed s 26 tier) (exposed s 27 tier)) (min (exposed s 28 tier) (exposed s 29 tier))

/-- Where R349 places a page after a cold reset: channel * 8,192 + physical page. -/
def defaultHome (tier page : Nat) : Nat :=
  if tier = 0 then page % 32 * 8192 + page / 32 else (32 + page % 12) * 8192 + page / 12

/-- Key of a page in PAGE_MAP. -/
def pageKey (die tier page : Nat) : Nat := ((die - 26) * 2 + tier) * 65536 + page

/-- PAGE_MAP. -/
def pageHome (s : State) (die tier page : Nat) : Nat :=
  (mapFind s.erg.pageMap (pageKey die tier page)).getD (defaultHome tier page)

/-- Key of a channel among the 176 of the module. -/
def chanKey (die ch : Nat) : Nat := (die - 26) * 44 + ch

/-- Die-local page of an offset (R348). -/
def pageOf (o : Nat) : Nat := let g := o / 16384; 32 * (g / 16384) + g % 32

/-- Byte within the page (R348). -/
def withinOf (o : Nat) : Nat := o / 16384 / 32 % 512 * 4096 + o % 4096

/-- Address in Erg memory of a byte of a die-local page. -/
def pageAddr (s : State) (die tier page within : Nat) : Nat :=
  let m := pageHome s die tier page
  chanKey die (m / 8192) * 2 ^ 33 + m % 8192 * 2 ^ 21 + within

/-- Address in Erg memory of an offset of a tier. -/
def ergAddr (s : State) (tier o : Nat) : Nat := pageAddr s (26 + bits o 13 12) tier (pageOf o) (withinOf o)

/-- Address in Erg memory of an offset of the management area (R346). -/
def mgmtAddr (s : State) (o : Nat) : Nat := pageAddr s (26 + bits o 13 12) 0 (48128 + pageOf o) (withinOf o)

/-- Channel of an address: die and channel number. -/
def addrDieCh (a : Nat) : Nat × Nat := (26 + a / 2 ^ 33 / 44, a / 2 ^ 33 % 44)

/-- The channel that backs an address is LIVE. -/
def backed (s : State) (a : Nat) : Bool := channelLive s (addrDieCh a).1 (addrDieCh a).2

/-! ### The job directory and rank tables (R60) -/

/-- 4 KiB units of the management area of a Holmon, and of it those set aside for rank tables. -/
def mgmtUnits : Nat := 2097152
def rankSpan : Nat := 524288

/-- First unit of the rank-table space in the management area. [11] -/
def rankBase : Nat := Config.rankSpace % (mgmtUnits - rankSpan + 1)

/-- First unit of the job directory: 64 KiB outside the rank-table space. [11] -/
def directoryUnit : Nat :=
  let k := Config.directoryPlace % (mgmtUnits - rankSpan - 15)
  if k + 16 ≤ rankBase then k else max k rankBase + rankSpan

/-- Address in Erg memory of a job's directory entry. -/
def directoryAddr (s : State) (job : Nat) : Nat := mgmtAddr s (4096 * directoryUnit + 16 * job)

/-- The directory entry of a job: its two words. -/
def directoryNum (s : State) (job : Nat) : Nat := bytesNat (memRead s.erg.mem (directoryAddr s job) 16)

/-- RANK_COUNT, GENERATION and TABLE_OFFSET of a job. -/
def rankCount (s : State) (job : Nat) : Nat := bits (directoryNum s job) 26 8
def jobGeneration (s : State) (job : Nat) : BitVec 32 := BitVec.ofNat 32 (bits (directoryNum s job) 63 32)
def tableOffset (s : State) (job : Nat) : Nat := bits (directoryNum s job) 103 64

/-- Address in Erg memory of a rank entry. -/
def rankAddr (s : State) (job rank : Nat) : Nat := mgmtAddr s (tableOffset s job + 4 * rank)

/-- The entry of a rank; a rank beyond RANK_COUNT is a hole. -/
def rankEntry (s : State) (job rank : Nat) : BitVec 32 :=
  if rank < rankCount s job then BitVec.ofNat 32 (bytesNat (memRead s.erg.mem (rankAddr s job rank) 4)) else 0

/-! ### Uncorrectable blocks (R370) -/

/-- Block b overlaps the n bytes at a; and lies wholly within them. -/
def blockMeets (a n b : Nat) : Bool := decide (64 * b < a + n) && decide (a < 64 * b + 64)
def blockInside (a n b : Nat) : Bool := decide (a ≤ 64 * b) && decide (64 * b + 64 ≤ a + n)

/-- Some block among the bytes is uncorrectable; some is that a write of the bytes covers only in part. -/
def anyBad (s : State) (a n : Nat) : Bool := s.erg.bad.any (fun e => blockMeets a n e.1)
def partBad (s : State) (a n : Nat) : Bool := s.erg.bad.any (fun e => blockMeets a n e.1 && !blockInside a n e.1)

/-- Bytes written at an address, clearing the marks of blocks they cover. -/
def ergPut (s : State) (a : Nat) (d : List Byte) : State :=
  modErg (ergWrite s a d) (fun e => { e with bad := e.bad.filter (fun b => !blockInside a d.length b.1) })

/-- Mark a block uncorrectable, count and capture it; the event is the caller's. -/
def markBad (s : State) (b : Nat) : State :=
  let (die, ch) := addrDieCh (64 * b)
  let s := modErg s (fun e => { e with bad := mapIns e.bad b () })
  let s := fadd s .eccCount die ch 0 63 32 1
  if fget s .eccCapture die ch 0 63 63 = 1 then s
  else rset s .eccCapture die ch 0 (2 ^ 63 + bits (64 * b) 32 21 * 2 ^ 48 + b % 32768)

/-- The ECC checker of a channel reads a block: what an injection makes it see (R492). -/
def eccCheck (s : State) (a : Nat) : State :=
  let (die, ch) := addrDieCh a
  let (c, s) := injected s (srcChannel die ch 0) []
  let s := if c then fadd s .eccCount die ch 0 31 0 1 else s
  match takeInjection s (srcChannel die ch 1) with
  | (false, s) => s
  | (true, s) =>
    let s := markBad s (a / 64)
    oneCycle (fun s => raiseN 4 s (srcChannel die ch 1) true [word (rget s .eccCapture die ch 0)]) s

/-- The checker reads every block that n bytes touch, in rising order. -/
def eccChecks (s : State) (a n : Nat) : State :=
  (upTo (a / 64) ((a + n + 63) / 64 - a / 64)).foldl (fun s b => eccCheck s (64 * b)) s

/-! ### Long transfers of internal readers and writers, by granule -/

/-- Pieces of `n` bytes from offset o within granules: offset and length. -/
def granules : Nat → Nat → Nat → List (Nat × Nat)
  | 0, _, _ => []
  | fuel + 1, o, n =>
    if n = 0 then []
    else
      let k := min n (4096 - o % 4096)
      (o, k) :: granules fuel (o + k) (n - k)

/-- Pieces of a transfer. -/
def pieces (o n : Nat) : List (Nat × Nat) := granules (n / 4096 + 2) o n

/-- Every byte can be read: LIVE channels, no uncorrectable block. -/
def ergReadable (s : State) (tier o n : Nat) : Bool :=
  (pieces o n).all (fun p => let a := ergAddr s tier p.1; backed s a && !anyBad s a p.2)

/-- Bytes of a tier. -/
def ergRead (s : State) (tier o n : Nat) : List Byte :=
  (pieces o n).flatMap (fun p => memRead s.erg.mem (ergAddr s tier p.1) p.2)

/-- Every byte can be written. -/
def ergWritable (s : State) (tier o n : Nat) : Bool :=
  (pieces o n).all (fun p => let a := ergAddr s tier p.1; backed s a && !partBad s a p.2)

/-- Bytes of a tier, written. -/
def ergStore (s : State) (tier o : Nat) (d : List Byte) : State :=
  ((pieces o d.length).foldl (fun (x : State × List Byte) p =>
    (ergPut x.1 (ergAddr x.1 tier p.1) (x.2.take p.2), x.2.drop p.2)) (s, d)).1

/-! ### Answers (R350-R352) -/

/-- The fields of a response. -/
def responseFields (h : Header) (status : Nat) (result : Word) : Fields :=
  let k := hKind h
  { kind := if k = kAtomic then kAtomicRsp else kAck, ord := hOrd h, dst := hSrc h, tag := hTag h,
    aux := if k = kPutFwd ∨ k = kAtomicFwd then hAux h else 0,
    a4 := word (status + k * 2 ^ 8), a5 := if k = kAtomic then result else h.w4 }

/-- The die counts an answer. -/
def countAnswer (s : State) (die status : Nat) : State := fadd s .reqCount die 0 status 47 0 1

/-- The owning die answers a request. -/
def ergRespond (s : State) (die : Nat) (h : Header) (status : Nat) (result : Word) : State :=
  sendFrom (countAnswer s die status) die (responseFields h status result)

/-- A plane answers on behalf of an Erg die that is not LIVE (R439). -/
def refuseFor (s : State) (die : Nat) (h : Header) : State := sendFrom s die (responseFields h stFaulted 0)

/-- Fields of a replication range (R374). -/
def replActive (s : State) (die n : Nat) : Bool :=
  fget s .replRangeCtrl die 0 n 63 63 == 1 && fget s .replRangeLen die 0 n 39 0 != 0
def replRole (s : State) (die n : Nat) : Nat := fget s .replRangeCtrl die 0 n 62 62
def replDegraded (s : State) (die n : Nat) : Bool := fget s .replRangeCtrl die 0 n 61 60 == 1
def replPartner (s : State) (die n : Nat) : Nat := fget s .replRangeCtrl die 0 n 19 0
def replSeq (s : State) (die n : Nat) : Nat := fget s .replRangeSeq die 0 n 63 32

/-- An offset lies in an active range of a role. -/
def replHas (s : State) (die n role region o : Nat) : Bool :=
  replActive s die n && replRole s die n == role && fget s .replRangeCtrl die 0 n 55 52 == region
    && decide (fget s .replRangeBase die 0 n 39 0 ≤ o)
    && decide (o < fget s .replRangeBase die 0 n 39 0 + fget s .replRangeLen die 0 n 39 0)

/-- The active range of a role that holds an offset. -/
def replFind (s : State) (die role region o : Nat) : Option Nat :=
  (upTo 0 16).find? (fun n => replHas s die n role region o)

/-- The oldest packet that no packet of its VC waits before, and the others: `stuck` packets wait for room, and what
came behind them on their VC waits too (R77, R354). -/
def pickFrom (stuck : Pkt → Bool) (barred : List Nat) : List Pkt → Option (Pkt × List Pkt)
  | [] => none
  | p :: r =>
    if stuck p || barred.contains p.vc then (pickFrom stuck (p.vc :: barred) r).map (fun x => (x.1, p :: x.2))
    else some (p, r)

/-- Bytes of a kept copy: its flits. -/
def copyBytes (c : ReplCopy) : Nat := 64 * c.pkt.flits

/-- Bytes of an Erg die's replay buffer in use (R360). -/
def replayBytes (s : State) (die : Nat) : Nat :=
  (upTo (16 * die) 16).foldl (fun n k =>
    ((mapGet s.erg.repl { copies := [], resends := 0 } k).copies.map copyBytes).foldl (· + ·) n) 0

/-- A request to write into a PRIMARY range waits while the die's 4 MiB replay buffer has no room for its copy
(R354, R360). -/
def lacksReplay (s : State) (die : Nat) (p : Pkt) : Bool :=
  let h := p.hdr
  let k := hKind h
  let primary := (replFind s die 0 (hndRegion h.w4) (hndOffset h.w4)).any (fun n => !replDegraded s die n)
  ergLive s die && (k == kPut || k == kBulkPut || k == kAtomic) && primary
    && decide (4 * 2 ^ 20 < replayBytes s die + 64 * (1 + hFlits h))

/-- The oldest packet of a die's consumers that need not wait, once it is whole and of the kind a row takes. A packet
marked bad is discarded (R69). -/
def takeHead (s : State) (die : Nat) (want : Header → Bool) (f : Pkt → State → State) : State :=
  match pickFrom (lacksReplay s die) [] (getInbox s die) with
  | none => s
  | some (p, rest) =>
    if p.complete && want p.hdr && !(dieOff s die && decide (die < 26)) && !scanOpen s die then
      let s := setInbox s die rest
      if p.bad then stompAt s p else f p s
    else s

/-- A request taken by its owning die. -/
def takeRequest (s : State) (die : Nat) (want : Header → Bool) (f : Header → List Byte → State → State) : State :=
  takeHead s die want (fun p s =>
    if ergLive s die then f p.hdr (padTo (hPayloadLen p.hdr) p.payload) s else refuseFor s die p.hdr)

/-- An event at an Erg die. -/
def atErg (die : Nat) (s : State) : Res :=
  if 26 ≤ die ∧ die < 30 then .next s else .refused (.noSuchUnit "Erg die")

/-! ### Checks (R352) -/

/-- Orders 1 and 2: the handle and what may reach its region. -/
def handleStatus (w : Word) (reaches : Bool) : Nat :=
  if hndFeid w ≠ ownFeid ∨ hndRegion w = 0 ∨ 4 < hndRegion w then stBadParam
  else if reaches then stOk else stDenied

/-- Order 3 for n bytes of region 1 or 2. -/
def rangeStatus (s : State) (die : Nat) (w : Word) (n : Nat) : Nat :=
  let o := hndOffset w
  let tier := hndRegion w - 1
  if n = 0 ∨ tierLimit s tier < o + n ∨ exposed s die tier ≤ pageOf o ∨ o / 4096 ≠ (o + n - 1) / 4096
  then stBadParam else stOk

/-- The first status that is not OK. -/
def firstOf : List Nat → Nat
  | [] => stOk
  | a :: r => if a = stOk then firstOf r else a

/-- Order 4 for an ordinary write. -/
def replicaStatus (s : State) (die : Nat) (w : Word) : Nat :=
  if (replFind s die 1 (hndRegion w) (hndOffset w)).isSome then stDenied else stOk

/-- Order 4 for a forwarded kind (R362). -/
def forwardStatus (s : State) (die : Nat) (h : Header) : Nat :=
  let n := wbits h.w7 51 48
  if replHas s die n 1 (hndRegion h.w4) (hndOffset h.w4) ∧ replPartner s die n = hSrc h then stOk else stDenied

/-- Order 6 for the bytes. -/
def backStatus (s : State) (w : Word) (n : Nat) (reads : Bool) : Nat :=
  let a := ergAddr s (hndRegion w - 1) (hndOffset w)
  if !backed s a || (if reads then anyBad s a n else partBad s a n) then stFaulted else stOk

/-- A handle of region 1 or 2. -/
def dataHandle (w : Word) : Bool := hndRegion w == 1 || hndRegion w == 2

/-- A legal counter handle of this Holmon (R345, R355). -/
def counterHandle (w : Word) : Bool :=
  hndFeid w == ownFeid && hndRegion w == 3 && hndOffset w % 64 == 0 && decide (hndOffset w < 64 * 65536)

/-- Counter of a handle, and its die. -/
def counterOf (w : Word) : Nat := hndOffset w / 64
def counterDie (n : Nat) : Nat := 26 + n % 4

/-- COUNTER of a write: order 3 and order 6. -/
def counterStatus3 (w : Word) : Nat := if w = 0 ∨ counterHandle w then stOk else stBadParam
def counterStatus6 (s : State) (w : Word) : Nat :=
  if w = 0 ∨ ergLive s (counterDie (counterOf w)) then stOk else stFaulted

/-! ### Replication (R359-R363) -/

/-- Key of a range. -/
def replKey (die n : Nat) : Nat := 16 * die + n
def getRepl (s : State) (die n : Nat) : Repl := mapGet s.erg.repl { copies := [], resends := 0 } (replKey die n)
def setRepl (s : State) (die n : Nat) (r : Repl) : State :=
  modErg s (fun e => { e with repl := mapPut e.repl { copies := [], resends := 0 } (replKey die n) r })

/-- TAG of a range's forwarded requests (R57). -/
def replTag (die n : Nat) : Nat := 3 * 2 ^ 28 + (die - 26) * 2 ^ 26 + n * 2 ^ 16

/-- Send a kept packet again. -/
def sendKept (s : State) (die : Nat) (p : Pkt) : State :=
  if anyPlane s then
    let (uid, s) := newUid s
    setReady s (linkOf die) (getReady s (linkOf die) ++ [{ p with uid := uid }])
  else s

/-- The answer of a write that has been applied: its bytes are counted first, if it names a counter (R355). With no
plane LIVE the count does not cross to another die, and the write is not answered (R22, R526). -/
def settleWrite (s : State) (die : Nat) (h : Option Header) (result : Word) (counted : Option (Nat × Nat)) : State :=
  match h, counted with
  | none, _ => s
  | some h, none => ergRespond s die h stOk result
  | some h, some (c, n) =>
    if counterDie c ≠ die ∧ !anyPlane s then s
    else modErg s (fun e => { e with counting := e.counting ++
      [{ counter := c, bytes := n, reply := some (h, stOk), die := die }] })

/-- An applied write of a PRIMARY range: kept, forwarded, and answered when the partner answers (R360). `f` is the
request as forwarded. -/
def forward (s : State) (die n : Nat) (h : Option Header) (f : Fields) (result : Word)
    (counted : Option (Nat × Nat)) : State :=
  if replDegraded s die n then
    match h with
    | some h => ergRespond s die h stFaulted result
    | none => s
  else
    let q := replSeq s die n
    let f := { f with ord := true, dst := replPartner s die n, tag := replTag die n, aux := q }
    let p := mkPkt 0 (linkOf die) (mkHeader f) f.payload
    let r := getRepl s die n
    let s := setRepl s die n { r with copies := r.copies ++
      [{ seq := BitVec.ofNat 32 q, pkt := p, original := h, result := result, counted := counted }] }
    let s := fset (fset s .replRangeSeq die 0 n 63 32 (q + 1)) .replRangeSeq die 0 n 31 0 (r.copies.length + 1)
    sendKept s die p

/-- A write of the owning die has been applied. -/
def applied (s : State) (die : Nat) (w : Word) (h : Option Header) (f : Fields) (result : Word)
    (counted : Option (Nat × Nat)) : State :=
  match replFind s die 0 (hndRegion w) (hndOffset w) with
  | none => settleWrite s die h result counted
  | some n => forward s die n h f result counted

/-- The partner's handle of the same bytes. -/
def partnerHandle (s : State) (die n : Nat) (w : Word) : Word :=
  word (replPartner s die n * 2 ^ 44 + w.toNat % 2 ^ 44)

/-- PUT_FWD of a write (R350). -/
def putFwdFields (s : State) (die : Nat) (w : Word) (d : List Byte) : Fields :=
  let n := (replFind s die 0 (hndRegion w) (hndOffset w)).getD 0
  { kind := kPutFwd, dst := 0, a4 := partnerHandle s die n w, a7 := word (n * 2 ^ 48), payload := d }

/-- ATOMIC_FWD of an atomic. -/
def atomicFwdFields (s : State) (die : Nat) (h : Header) : Fields :=
  let n := (replFind s die 0 (hndRegion h.w4) (hndOffset h.w4)).getD 0
  { kind := kAtomicFwd, dst := 0, a4 := partnerHandle s die n h.w4, a5 := h.w5, a6 := h.w6,
    a7 := word (wbits h.w7 3 0 + wbits h.w7 15 8 * 2 ^ 8 + n * 2 ^ 48) }

/-- Every copy not yet answered OK is sent again, or the range enters DEGRADED after 8 resends (R363). -/
def replResend (s : State) (die n : Nat) : State :=
  let r := getRepl s die n
  if r.copies = [] then s
  else if r.resends < 8 then
    r.copies.foldl (fun s c => sendKept s die c.pkt) (setRepl s die n { r with resends := r.resends + 1 })
  else
    let s := setRepl s die n { copies := [], resends := 0 }
    let s := fset (fset s .replRangeSeq die 0 n 31 0 0) .replRangeCtrl die 0 n 61 60 1
    let s := r.copies.foldl (fun s c => match c.original with
      | some h => ergRespond s die h stFaulted c.result
      | none => s) s
    raiseDetail s (srcRange die n) [word (rget s .replRangeCtrl die 0 n), word (rget s .replRangeSeq die 0 n)]

/-- The partner's ACK of a forwarded request reaches its range (R57, R360, R363). -/
def replAck (s : State) (die n : Nat) (seq : BitVec 32) (status : Nat) : State :=
  let r := getRepl s die n
  match r.copies.find? (fun c => c.seq == seq) with
  | none => s
  | some c =>
    if status = stOk then
      let s := setRepl s die n { copies := r.copies.filter (fun c => c.seq != seq), resends := 0 }
      let s := fset s .replRangeSeq die 0 n 31 0 (r.copies.length - 1)
      settleWrite s die c.original c.result c.counted
    else if status = stBusy then replResend s die n
    else
      let s := setRepl s die n { r with
        copies := r.copies.map (fun c => if c.seq = seq then { c with original := none } else c) }
      match c.original with
      | some h => ergRespond s die h stFaulted c.result
      | none => s

/-- REPL_TIMEOUT; a die that is not LIVE resends nothing (R441). -/
def execReplTimeout (die range : Nat) (s : State) : Res :=
  if range < 16 then atErg die (if ergLive s die then replResend s die range else s) else .refused (.noSuchUnit "replication range")

/-! ### GET and PUT -/

/-- A GET at its owning die. -/
def ergGet (s : State) (die : Nat) (h : Header) : State :=
  let w := h.w4
  let n := wbits h.w5 12 0
  let early := firstOf [handleStatus w (dataHandle w),
    if 4096 < n then stBadParam else rangeStatus s die w n]
  let a := ergAddr s (hndRegion w - 1) (hndOffset w)
  let s := if early = stOk ∧ backed s a then eccChecks s a n else s
  let st := firstOf [early, backStatus s w n true]
  if st = stOk then
    sendFrom (countAnswer s die stOk) die
      { kind := kGetData, ord := hOrd h, dst := hSrc h, tag := hTag h,
        a4 := word (stOk + kGet * 2 ^ 8), a5 := w, payload := memRead s.erg.mem a n }
  else ergRespond s die h st 0

/-- Status of a PUT, BULK_PUT or of an atomic's bytes. -/
def writeStatus (s : State) (die : Nat) (h : Header) (n : Nat) : Nat :=
  firstOf [handleStatus h.w4 (dataHandle h.w4), firstOf [rangeStatus s die h.w4 n, counterStatus3 h.w5],
    replicaStatus s die h.w4, backStatus s h.w4 n false, counterStatus6 s h.w5]

/-- A PUT or BULK_PUT at its owning die. -/
def ergPutReq (s : State) (die : Nat) (h : Header) (d : List Byte) : State :=
  let st := writeStatus s die h d.length
  if st = stOk then
    let s := ergPut s (ergAddr s (hndRegion h.w4 - 1) (hndOffset h.w4)) d
    let counted := if h.w5 = 0 then none else some (counterOf h.w5, d.length)
    applied s die h.w4 (some h) (putFwdFields s die h.w4 d) 0 counted
  else ergRespond s die h st 0

def execGet (die : Nat) (s : State) : Res :=
  atErg die (takeRequest s die (fun h => hKind h == kGet) (fun h _ s => ergGet s die h))

def execPut (die : Nat) (s : State) : Res :=
  atErg die (takeRequest s die (fun h => hKind h == kPut) (fun h d s => ergPutReq s die h d))

def execBulkPut (die : Nat) (s : State) : Res :=
  atErg die (takeRequest s die (fun h => hKind h == kBulkPut) (fun h d s => ergPutReq s die h d))

/-! ### Atomics (R356, R357) -/

def atop (h : Header) : Nat := wbits h.w7 3 0
def atomFmt (h : Header) : Nat := wbits h.w7 15 8
def atomMode (h : Header) : Nat := wbits h.w6 3 0
def atomFloor (h : Header) : Int := signed 9 (wbits h.w6 16 8)

/-- Bytes an atomic names. -/
def atomBytes (h : Header) : Nat := if atop h = 1 then accBytes (atomMode h) else fmtBits (atomFmt h) / 8

/-- Alignment, ATOP, FMT and MODE within R356 and R357. -/
def atomForm (h : Header) : Bool :=
  let f := atomFmt h
  let o := hndOffset h.w4
  if atop h = 1 then
    let m := atomMode h
    (if m = modeEx then isPlainFloat f && o % 8 == 0 && wbits h.w6 16 8 == 0
     else if m = modeWx then isPlainFloat f && o % 16 == 0 && decide (-149 ≤ atomFloor h) && decide (atomFloor h ≤ 143)
     else m == modeIx && isInteger f && o % 4 == 0 && wbits h.w6 16 8 == 0)
  else if 2 ≤ atop h ∧ atop h ≤ 5 then
    (f == 0x11 || f == 0x12 || (atop h == 5 && (f == 0x1A || f == 0x1B))) && o % atomBytes h == 0
  else false

/-- What an atomic stores in place of the old bytes' number. -/
def atomNew (h : Header) (old : Nat) : Nat :=
  let w := fmtBits (atomFmt h)
  let x := bits h.w5.toNat (w - 1) 0
  match atop h with
  | 1 =>
    let m := atomMode h
    let a := (accIn m (atomFloor h) (atomFmt h) x).1
    accWord m (accMerge m 1 (wordAcc m old) a).1
  | 2 => (old + x) % 2 ^ w
  | 3 => if signed w old < signed w x then x else old
  | 4 => if signed w x < signed w old then x else old
  | _ => if old = bits h.w6.toNat (w - 1) 0 then x else old

/-- RESULT of an atomic: the old value but for ADD_EXACT. -/
def atomResult (h : Header) (old : Nat) : Word := if atop h = 1 then 0 else word old

/-- Apply an atomic to the bytes at an address: RESULT and the state. -/
def atomApply (s : State) (h : Header) : Word × State :=
  let a := ergAddr s (hndRegion h.w4 - 1) (hndOffset h.w4)
  let n := atomBytes h
  let old := bytesNat (memRead s.erg.mem a n)
  (atomResult h old, ergPut s a (natBytes n (atomNew h old)))

/-- An ATOMIC with ATOP 0-5 or 8-15 at its owning die. -/
def ergAtomic (s : State) (die : Nat) (h : Header) : State :=
  let w := h.w4
  let early := firstOf [handleStatus w (dataHandle w && decide (1 ≤ atop h) && decide (atop h ≤ 5)),
    if atomForm h then rangeStatus s die w (atomBytes h) else stBadParam, replicaStatus s die w]
  let a := ergAddr s (hndRegion w - 1) (hndOffset w)
  let s := if early = stOk ∧ backed s a then eccChecks s a (atomBytes h) else s
  let st := firstOf [early, backStatus s w (atomBytes h) true]
  if st = stOk then
    let (r, s) := atomApply s h
    applied s die w (some h) (atomicFwdFields s die h) r none
  else ergRespond s die h st 0

/-- Takes an ATOMIC of one operation. -/
def takeAtomic (s : State) (die : Nat) (want : Nat → Bool) (f : Header → State → State) : State :=
  takeRequest s die (fun h => hKind h == kAtomic && want (atop h)) (fun h _ s => f h s)

def execAddExact (die : Nat) (s : State) : Res :=
  atErg die (takeAtomic s die (fun a => a == 1 || a == 0 || decide (8 ≤ a)) (fun h s => ergAtomic s die h))

def execFetchAdd (die : Nat) (s : State) : Res := atErg die (takeAtomic s die (· == 2) (fun h s => ergAtomic s die h))

def execAtomMax (die : Nat) (s : State) : Res := atErg die (takeAtomic s die (· == 3) (fun h s => ergAtomic s die h))

def execAtomMin (die : Nat) (s : State) : Res := atErg die (takeAtomic s die (· == 4) (fun h s => ergAtomic s die h))

def execCas (die : Nat) (s : State) : Res := atErg die (takeAtomic s die (· == 5) (fun h s => ergAtomic s die h))

/-! ### Bobbin pools (R366-R368) -/

/-- Pool p of a handle of region 4, and its die. -/
def poolOf (w : Word) : Nat := hndOffset w / 64
def poolDie (p : Nat) : Nat := 26 + p % 4
def poolEnabled (s : State) (p : Nat) : Bool := fget s .poolConfig (poolDie p) p 0 63 63 == 1
def poolSize (s : State) (p : Nat) : Nat :=
  match fget s .poolConfig (poolDie p) p 0 62 61 with
  | 0 => 4096
  | 1 => 65536
  | _ => 2097152
def poolBase (s : State) (p : Nat) : Nat := fget s .poolConfig (poolDie p) p 0 39 0
def poolRegion (s : State) (p : Nat) : Nat := 1 + fget s .poolConfig (poolDie p) p 0 60 60
def poolCount (s : State) (p : Nat) : Nat := fget s .poolCount (poolDie p) p 0 20 0
/-- Allocated bobbins; the bitmaps of R367 hold the others. -/
def poolUsed (s : State) (p : Nat) : SMap Unit := mapGet s.erg.pools [] p
/-- FREE: 0 for a disabled pool. -/
def poolFree (s : State) (p : Nat) : Nat := if poolEnabled s p then poolCount s p - (poolUsed s p).length else 0
def setPool (s : State) (p : Nat) (u : SMap Unit) : State :=
  modErg s (fun e => { e with pools := mapPut e.pools [] p u })

/-- Keep LOW_FREE the lowest FREE. -/
def noteLow (s : State) (p : Nat) : State :=
  if poolFree s p < fget s .poolStatus (poolDie p) p 0 52 32
  then fset s .poolStatus (poolDie p) p 0 52 32 (poolFree s p) else s

/-- Lowest number from i on that a rising store does not hold. -/
def lowestFree (i : Nat) : SMap Unit → Nat
  | [] => i
  | (j, _) :: r => if i = j then lowestFree (i + 1) r else i

/-- Handle of bobbin i. -/
def bobbin (s : State) (p i : Nat) : Word := ownHandle (poolRegion s p) (poolBase s p + i * poolSize s p)

/-- ALLOC: STATUS, RESULT and the state (R367). -/
def poolAlloc (s : State) (p : Nat) : Nat × Word × State :=
  if !poolEnabled s p then (stBadParam, 0, s)
  else if poolFree s p = 0 then (stEmpty, 0, fadd s .poolEvents (poolDie p) p 0 63 32 1)
  else
    let u := poolUsed s p
    let i := lowestFree 0 u
    (stOk, bobbin s p i, noteLow (setPool s p (mapIns u i ())) p)

/-- FREE of a handle, asked by `src`: STATUS and the state (R367). -/
def poolRelease (s : State) (p : Nat) (h : Word) (src : Nat) : Nat × State :=
  let o := hndOffset h
  let i := (o - poolBase s p) / poolSize s p
  if !poolEnabled s p ∨ poolCount s p ≤ i ∨ o < poolBase s p ∨ h ≠ bobbin s p i then (stBadParam, s)
  else if mapGet ((poolUsed s p).map (fun e => (e.1, true))) false i
  then (stOk, setPool s p (mapDel (poolUsed s p) i))
  else (stBadParam, raiseDetail (fadd s .poolEvents (poolDie p) p 0 31 0 1) (srcPool p 0) [h, word src])

/-- Status of an ATOMIC with ATOP 6 or 7 before the pool acts. -/
def poolStatusOf (s : State) (h : Header) : Nat :=
  firstOf [handleStatus h.w4 (hndRegion h.w4 == 4),
    if hndOffset h.w4 % 64 = 0 ∧ hndOffset h.w4 < 64 * 256 ∧ atomFmt h = 0 then stOk else stBadParam,
    if unitContained s (poolDie (poolOf h.w4)) 0x1C (poolOf h.w4) then stFaulted else stOk]

/-- ALLOC at its die. -/
def ergAlloc (s : State) (die : Nat) (h : Header) : State :=
  let st := poolStatusOf s h
  if st = stOk then
    let (st, r, s) := poolAlloc s (poolOf h.w4)
    ergRespond s die h st r
  else ergRespond s die h st 0

/-- FREE at its die. -/
def ergFree (s : State) (die : Nat) (h : Header) : State :=
  let st := poolStatusOf s h
  if st = stOk then
    let (st, s) := poolRelease s (poolOf h.w4) h.w5 (hSrc h)
    ergRespond s die h st 0
  else ergRespond s die h st 0

def execAlloc (die : Nat) (s : State) : Res := atErg die (takeAtomic s die (· == 6) (fun h s => ergAlloc s die h))

def execFree (die : Nat) (s : State) : Res := atErg die (takeAtomic s die (· == 7) (fun h s => ergFree s die h))

/-! ### Forwarded requests at the replica (R361, R362) -/

/-- Distance of a forwarded request from E. -/
def fwdDistance (s : State) (die : Nat) (h : Header) : Nat :=
  (hAux h + 2 ^ 32 - replSeq s die (wbits h.w7 51 48)) % 2 ^ 32

/-- A forwarded request: `early` the statuses of orders 1 to 3, `n` its bytes, `run` its effect. -/
def ergForwarded (s : State) (die : Nat) (h : Header) (early n : Nat) (reads : Bool) (run : State → State) : State :=
  let st := firstOf [early, forwardStatus s die h]
  let d := fwdDistance s die h
  if st ≠ stOk then ergRespond s die h st 0
  else if 2 ^ 31 ≤ d then ergRespond s die h stOk 0
  else if 1 ≤ d then ergRespond s die h stBusy 0
  else
    let a := ergAddr s (hndRegion h.w4 - 1) (hndOffset h.w4)
    let s := if reads && backed s a then eccChecks s a n else s
    let st := backStatus s h.w4 n reads
    if st ≠ stOk then ergRespond s die h st 0
    else
      let k := wbits h.w7 51 48
      ergRespond (fset (run s) .replRangeSeq die 0 k 63 32 (replSeq s die k + 1)) die h stOk 0

def execPutFwd (die : Nat) (s : State) : Res :=
  atErg die (takeRequest s die (fun h => hKind h == kPutFwd) (fun h d s =>
    ergForwarded s die h (firstOf [handleStatus h.w4 (dataHandle h.w4), rangeStatus s die h.w4 d.length])
      d.length false (fun s => ergPut s (ergAddr s (hndRegion h.w4 - 1) (hndOffset h.w4)) d)))

def execAtomicFwd (die : Nat) (s : State) : Res :=
  atErg die (takeRequest s die (fun h => hKind h == kAtomicFwd) (fun h _ s =>
    ergForwarded s die h (firstOf [handleStatus h.w4 (dataHandle h.w4),
        if atomForm h then rangeStatus s die h.w4 (atomBytes h) else stBadParam])
      (atomBytes h) true (fun s => (atomApply s h).2)))

/-! ### Signal counters (R324-R327, R355) -/

def getCounter (s : State) (n : Nat) : Counter := mapGet s.erg.counters Counter.init n
def setCounter (s : State) (n : Nat) (c : Counter) : State :=
  modErg s (fun e => { e with counters := mapPut e.counters Counter.init n c })
def counterReady (c : Counter) : Bool := c.version == 0x10

/-- A signal at its counter's die. -/
def ergSignal (s : State) (die : Nat) (h : Header) : State :=
  let n := counterOf h.w4
  let c := getCounter s n
  let st := firstOf [handleStatus h.w4 (hndRegion h.w4 == 3),
    if counterHandle h.w4 then stOk else stBadParam,
    if counterReady c then stOk else stBadParam,
    if c.armed then stBusy else stOk]
  if st = stOk then
    setCounter s n { c with armed := true, expected := wbits h.w5 47 0, feid := hSrc h, ord := hOrd h,
                            isBulk := hKind h == kBulkSignal, tag := BitVec.ofNat 32 (hTag h) }
  else ergRespond s die h st 0

def execSignal (die : Nat) (s : State) : Res :=
  atErg die (takeRequest s die (fun h => hKind h == kSignal) (fun h _ s => ergSignal s die h))

def execBulkSignal (die : Nat) (s : State) : Res :=
  atErg die (takeRequest s die (fun h => hKind h == kBulkSignal) (fun h _ s => ergSignal s die h))

/-- Put a raise of a die on its way to a logical spindle (R318); to another die it crosses a core plane (R22, R526). -/
def sendRaise (s : State) (die logical flag : Nat) : State :=
  if 10 + logical / 16 = die ∨ anyPlane s then { s with sync := s.sync ++ [.raise logical flag] } else s

/-- Fire a counter with a status (R326). -/
def fireCounter (s : State) (n status : Nat) : State :=
  let c := getCounter s n
  let die := counterDie n
  let c' := { c with count := 0, armed := false,
                     fires := if status = stTimeout then c.fires else c.fires + 1,
                     timeouts := if status = stTimeout then c.timeouts + 1 else c.timeouts }
  let s := sendFrom (countAnswer (setCounter s n c') die status) die
    { kind := kAck, ord := c.ord, dst := c.feid, tag := c.tag.toNat,
      a4 := word (status + (if c.isBulk then kBulkSignal else kSignal) * 2 ^ 8), a5 := ownHandle 3 (64 * n) }
  if c.fireEn ∧ status = stOk then sendRaise s die c.fireSpindle c.fireFlag else s

/-- Fire an armed counter whose count has reached EXPECTED. -/
def checkCounter (s : State) (n : Nat) : State :=
  let c := getCounter s n
  if c.armed ∧ ergLive s (counterDie n) then
    if c.count = c.expected then fireCounter s n stOk
    else if c.expected < c.count then fireCounter s n stBadParam else s
  else s

/-- An event at a signal counter. -/
def atCounter (n : Nat) (s : State) : Res := if n < 65536 then .next s else .refused (.noSuchUnit "counter")

def execFire (counter : Nat) (s : State) : Res := atCounter counter (checkCounter s counter)

/-- The timer of an armed counter expires; a count reached in the same cycle wins. -/
def expireCounter (s : State) (n : Nat) : State :=
  let c := getCounter s n
  if c.armed ∧ c.timeoutUs ≠ 0 ∧ ergLive s (counterDie n) then
    if c.expected ≤ c.count then checkCounter s n else fireCounter s n stTimeout
  else s

def execSignalTimeout (counter : Nat) (s : State) : Res := atCounter counter (expireCounter s counter)

/-- Add a count of bytes. -/
def countBytes (s : State) (n bytes : Nat) : State :=
  let c := getCounter s n
  if counterReady c then setCounter s n { c with count := satAdd 48 c.count bytes } else s

/-- Remove the first element that a test takes. -/
def removeFirst {α : Type} (t : α → Bool) : List α → List α
  | [] => []
  | x :: r => if t x then r else x :: removeFirst t r

/-- The oldest byte count on its way to a counter arrives; its write is answered. -/
def deliverCount (s : State) (n : Nat) : State :=
  match s.erg.counting.find? (fun m => m.counter == n) with
  | none => s
  | some m =>
    let s := modErg s (fun e => { e with counting := removeFirst (fun m => m.counter == n) e.counting })
    let live := ergLive s (counterDie n)
    let s := if live then countBytes s n m.bytes else s
    match m.reply with
    | some (h, _) => ergRespond s m.die h (if live then stOk else stFaulted) 0
    | none => s

def execCountedWrite (counter : Nat) (s : State) : Res := atCounter counter (deliverCount s counter)

end Sys2Proof.Machine
end

