-- ==== Sys2Proof/Machine/Hank.lean ====
section
/-! DEFINITION. Hanks: acceptance of parts, the sequencer's bursts, the life of a chunk, timers, poison received,
barriers and EXCHANGE (R170-R210, R227-R229, R299-R301, R334-R338). -/

namespace Sys2Proof.Machine

/-! ### Members, sequences, slots -/

/-- Index and entry of the member on a switch port. -/
def memberAt (d : HankDesc) (port : Nat) : Option (Nat × Member) :=
  ((d.members.zipIdx).map (fun e => (e.2, e.1))).find? (fun e => e.2.port == port)

/-- PARTS of a format (R185). -/
def partsOf (fmt : Nat) : Nat := if fmt = 0x12 ∨ fmt = 0x1B then 2 else 1

/-- Elements and tally groups of chunk c (R174). -/
def chunkEls (d : HankDesc) (c : Nat) : Nat := min 1024 (d.capacity - 1024 * c)
def chunkGroups (d : HankDesc) (c : Nat) : Nat := (chunkEls d c + 15) / 16

/-- Sequence of a packet's chunk (R174); a step below the base step has none. -/
def seqOf (h : Hank) (step chunk : Nat) : Nat := (step - h.base) * nchunks h.d + chunk

/-- Store slot j of a hank. -/
def putSlot (h : Hank) (j : Nat) (v : Slot) : Hank := { h with slots := mapPut h.slots (slotInit j) j v }

/-- Store round r of a hank. -/
def roundInit : Round := { chunksDone := 0, timer := false, outA := 0, outB := 0, inA := 0, inB := 0 }
def getRound (h : Hank) (r : Nat) : Round := (mapFind h.rounds r).getD roundInit
def putRound (h : Hank) (r : Nat) (v : Round) : Hank := { h with rounds := mapIns h.rounds r v }

/-- The round timer starts at the first accepted part of a round. -/
def startRound (h : Hank) (r : Nat) : Hank :=
  match mapFind h.rounds r with
  | some _ => h
  | none => putRound h r { roundInit with timer := true }

/-- Every expected member's chunk is counted in a slot (R179, R190). -/
def slotCounted (d : HankDesc) (c : Nat) (sl : Slot) : Bool :=
  (d.members.zipIdx).all (fun e =>
    (d.type == 3 && !e.1.source)
      || (if e.1.trunk then decide (chunkGroups d c ≤ mapGet sl.groups 0 e.2)
          else (upTo 0 (partsOf d.inFormat)).all (fun p => sl.parts.contains (2 * e.2 + p))))

/-- Physical spindle of slot j. -/
def slotKey (s : State) (d : HankDesc) (j : Nat) : Nat := spindleOf s (slotSpindle d j)

/-- Give a spindle's sequencer work. -/
def addWork (s : State) (key : Nat) (w : Work) : State := modSp s key (fun sp => { sp with work := sp.work ++ [w] })

/-- Count in a hank. -/
def countStale (s : State) (hank : Nat) : State := staleHank s hank
def countDropped (s : State) (hank n : Nat) : State :=
  modHank s hank (fun h => { h with dropped := satAdd 48 h.dropped n })

/-! ### Parts (R185, R188, R189) -/

/-- Fields of a CONTRIB (R184). -/
def cAttempt (h : Header) : Nat := wbits h.w4 7 0
def cPart (h : Header) : Nat := wbits h.w4 8 8
def cFirst (h : Header) : Nat := wbits h.w4 25 16
def cCount (h : Header) : Nat := wbits h.w4 36 26

/-- The part obeys R185. -/
def partForm (d : HankDesc) (h : Header) (pl : List Byte) : Bool :=
  let p := cPart h
  let n := cCount h
  let lo := if partsOf d.inFormat = 2 then 512 * p else 0
  let hi := if partsOf d.inFormat = 2 then 512 * p + 511 else 1023
  if partsOf d.inFormat ≤ p ∨ 1024 < n then false
  else if n = 0 then pl == [0]
  else if cFirst h < lo ∨ hi < cFirst h + n - 1 then false
  else if isMx d.inFormat then cFirst h % 32 == 0 && pl.length == mxChunkBytes d.inFormat
  else pl.length == n * (fmtBits d.inFormat / 8)

/-- Positions and raw bits of a part's elements. -/
def partRaw (d : HankDesc) (h : Header) (pl : List Byte) : List (Nat × Nat) :=
  let w := fmtBits d.inFormat
  (upTo (cFirst h) (cCount h)).map (fun p =>
    (p, if isMx d.inFormat then unpackEl w (pl.drop 32) p else unpackEl w pl (p - cFirst h)))

/-- An element as it enters the slot, and whether it left the WX128 window. -/
def elementIn (d : HankDesc) (pl : List Byte) (e : Nat × Nat) : Acc × Bool :=
  if isMx d.inFormat then accOfFloat d.mode d.floorF (mxChunkEl d.inFormat pl e.1)
  else accIn d.mode d.floorF d.inFormat e.2

/-- An element at output index n of a member is kept (R189). -/
def kept (d : HankDesc) (m : Member) (n : Nat) : Bool :=
  let seg := d.param.toNat
  decide (n < d.capacity)
    && (d.type != 4 || (decide (m.rank * seg ≤ n) && decide (n < m.rank * seg + seg)))

/-- Input digest of a part's bits as received (R168, R169). -/
def partDigest (d : HankDesc) (h : Header) (pl : List Byte) (c : Nat) : Digest :=
  let els := partRaw d h pl
  let base := digestSum (els.map (fun e => digestEl (fmtBits d.inFormat) (1024 * c + e.1) e.2))
  if isMx d.inFormat ∧ cCount h ≠ 0 then
    let b0 := cFirst h / 32
    let blocks := upTo b0 ((cFirst h + cCount h + 31) / 32 - b0)
    base.add (digestSum (blocks.map (fun b =>
      digestAt (scaleIndex (32 * c + b)) ((pl.drop b).headD 0).toNat)))
  else base

/-- Once every member's chunk of slot j is counted, the chunk's end is queued. -/
def completeSlot (s : State) (hank j c : Nat) : State :=
  match getHank s hank with
  | none => s
  | some h =>
    let sl := hankSlot h j
    if slotCounted h.d c sl ∧ !sl.complete then
      let s := setHank s hank (putSlot h j { sl with complete := true })
      addWork s (slotKey s h.d j) (if h.d.extendsUp then .formUp hank j 0 else .finish hank j 0)
    else s

/-- An accepted CONTRIB part (R189, R192). -/
def acceptPart (s : State) (hank : Nat) (h : Hank) (mi : Nat) (m : Member) (q : Nat) (hd : Header) (pl : List Byte) :
    State :=
  let j := q % h.d.slotBudget
  let c := hAux hd
  let r := q / nchunks h.d
  let els := (partRaw h.d hd pl).map (fun e => (e.1, elementIn h.d pl e))
  let keepEls := els.filter (fun e => kept h.d m (1024 * c + e.1))
  let outside := (keepEls.filter (fun e => e.2.2)).length
  let sl := hankSlot h j
  let h := putSlot h j { sl with started := true, parts := sl.parts ++ [2 * mi + cPart hd] }
  let h := startRound h r
  let rd := getRound h r
  let dg := partDigest h.d hd pl c
  let h := if h.d.digestIn then putRound h r { rd with inA := rd.inA + dg.a, inB := rd.inB + dg.b } else h
  let h := { h with dropped := satAdd 48 h.dropped (els.length - keepEls.length),
                    windowOverflow := satAdd 48 h.windowOverflow outside }
  let s := setHank s hank h
  let s := if els = [] then s
    else addWork s (slotKey s h.d j) (.merge hank j h.d.inFormat (keepEls.map (fun e => (e.1, e.2.1))))
  completeSlot s hank j c

/-- An accepted TALLY_UP. -/
def acceptTally (s : State) (hank : Nat) (h : Hank) (mi q c first : Nat) (els : List Acc) : State :=
  let j := q % h.d.slotBudget
  let sl := hankSlot h j
  let n := els.length / 16
  let h := putSlot h j { sl with started := true, groups := mapPut sl.groups 0 mi (first + n) }
  let h := startRound h (q / nchunks h.d)
  let s := setHank s hank h
  let s := if els = [] then s
    else addWork s (slotKey s h.d j) (.tally hank j ((upTo (16 * first) els.length).zip els))
  completeSlot s hank j c

/-! ### EXCHANGE parts (R203-R205, R299, R300) -/

/-- Fields of an EXCHANGE CONTRIB. -/
def xItemCount (h : Header) : Nat := wbits h.w4 35 16
def xFirst (h : Header) : Nat := wbits h.w5 19 0
def xCount (h : Header) : Nat := wbits h.w5 41 32
def itemBytes (d : HankDesc) : Nat := d.param.toNat % 4096
def itemSize (d : HankDesc) : Nat := 8 + itemBytes d

/-- Items of a packet: destination rank, PAD, KEY, payload. -/
def xItems (d : HankDesc) (pl : List Byte) (n : Nat) : List (Nat × Bool × Nat × List Byte) :=
  (chunksOf (itemSize d) n pl).map (fun b =>
    let w := wordAt b 0
    (wbits w 17 0, wbit w 18, wbits w 63 32, b.drop 8))

/-- The packet obeys R203 and R204 but for FIRST_ITEM. -/
def xForm (h : Hank) (mi : Nat) (hd : Header) (pl : List Byte) : Bool :=
  let n := xCount hd
  let e := mapGet h.exch.expected 0 mi
  if !hOrd hd ∨ 512 < n ∨ (e ≠ 0 ∧ e ≠ xItemCount hd + 1) then false
  else if n = 0 then xItemCount hd == 0 && e == 0 && pl == [0]
  else decide (xFirst hd + n ≤ xItemCount hd) && pl.length == n * itemSize h.d
    && (xItems h.d pl n).all (fun i => !i.2.1)

/-- Tuple order of R299. -/
def itemBefore (a b : Item) : Bool :=
  decide (a.key < b.key) || (a.key == b.key && (decide (a.srcRank < b.srcRank)
    || (a.srcRank == b.srcRank && decide (a.index < b.index))))

/-- Insert in tuple order. -/
def insItem (t : Item) : List Item → List Item
  | [] => [t]
  | x :: r => if itemBefore t x then t :: x :: r else x :: insItem t r

/-- Rank one item within its destination; whether one was dropped (R300). -/
def rankItem (cap : Nat) (l : List Item) (t : Item) : List Item × Bool :=
  let l := insItem t l
  if cap < l.length then (l.dropLast, true) else (l, false)

/-- One item of a packet enters a hank. -/
def takeItem (srcRank : Nat) (h : Hank) (e : (Nat × Bool × Nat × List Byte) × Nat) : Hank :=
  let (i, idx) := e
  match ((h.d.members.zipIdx).map (fun e => (e.2, e.1))).find? (fun m => m.2.rank == i.1) with
  | none => { h with unrouted := satAdd 32 h.unrouted 1 }
  | some (k, _) =>
    let (l, dropped) := rankItem h.d.capacity (mapGet h.exch.kept [] k)
      { key := i.2.2.1, srcRank := srcRank, index := idx, payload := i.2.2.2 }
    { h with exch := { h.exch with kept := mapPut h.exch.kept [] k l },
             xdropped := satAdd 32 h.xdropped (b2n dropped) }

/-- Bobbins of staging per member (R206). -/
def stagingPer (d : HankDesc) : Nat := (d.capacity * itemSize d + 65535) / 65536

/-- The staging of a hank can be reached. -/
def stagingOk (s : State) (h : Hank) : Bool :=
  anyPlane s && h.exch.staging.all (fun w => ergReadable s (hndRegion w - 1) (hndOffset w) 65536)

/-- Bytes of bobbin k of a staging, as free values. [27] -/
def stagingBytes (ctr k : Nat) : List Byte := (upTo (65536 * k) 65536).map (Config.stagingByte ctr)

/-- The kept items and the working state of a ranking are written to the staging: any byte of it may change (R206,
R301). [27] -/
def stageItems (s : State) (staging : List Word) : State :=
  staging.zipIdx.foldl (fun t e => ergStore t (hndRegion e.1 - 1) (hndOffset e.1) (stagingBytes s.freeCtr e.2))
    { s with freeCtr := s.freeCtr + 1 }

/-- An accepted EXCHANGE packet. -/
def acceptItems (s : State) (hank : Nat) (h : Hank) (mi : Nat) (m : Member) (hd : Header) (pl : List Byte) : State :=
  let n := xCount hd
  let items := (xItems h.d pl n).zip (upTo (xFirst hd) n)
  let h := { h with exch := { h.exch with
    accepted := mapPut h.exch.accepted 0 mi (mapGet h.exch.accepted 0 mi + n),
    expected := mapPut h.exch.expected 0 mi (xItemCount hd + 1) } }
  let h := items.foldl (takeItem m.rank) (startRound h h.current)
  let s' := setHank s hank h
  if n = 0 then s'
  else if stagingOk s h then stageItems s' h.exch.staging
  else foundPoison s' hank 0 (hankStep h) 12

/-- Every member of an EXCHANGE is counted (R204). -/
def exchCounted (h : Hank) : Bool :=
  (upTo 0 h.d.members.length).all (fun k =>
    mapGet h.exch.expected 0 k == mapGet h.exch.accepted 0 k + 1)

/-! ### R188 -/

/-- Orders 7 to 11 for a CONTRIB of a hank that claims slots. -/
def decidePart (s : State) (hank : Nat) (h : Hank) (mi : Nat) (m : Member) (hd : Header) (pl : List Byte) : State :=
  let q := seqOf h (hStep hd) (hAux hd)
  let sl := hankSlot h (q % h.d.slotBudget)
  if sl.awaits < q then foundPoison s hank (hAux hd) (hStep hd) 10
  else if q < sl.awaits then countStale s hank
  else if sl.parts.contains (2 * mi + cPart hd) then foundPoison s hank (hAux hd) (hStep hd) 5
  else if partForm h.d hd pl then acceptPart s hank h mi m q hd pl
  else foundPoison s hank (hAux hd) (hStep hd) 5

/-- Orders 7 to 11 for an EXCHANGE packet. -/
def decideItems (s : State) (hank : Nat) (h : Hank) (mi : Nat) (m : Member) (hd : Header) (pl : List Byte) : State :=
  let q := hStep hd - h.base
  if h.current < q then foundPoison s hank 0 (hStep hd) 10
  else if q < h.current then countStale s hank
  else if xFirst hd ≠ mapGet h.exch.accepted 0 mi then foundPoison s hank 0 (hStep hd) 11
  else if xForm h mi hd pl then acceptItems s hank h mi m hd pl
  else foundPoison s hank 0 (hStep hd) 5

/-- A packet for machinery that is not there is discarded as HANK_NOT_OPEN. -/
def notOpen (s : State) (p : Pkt) : State :=
  match p.inPort with
  | some q => discardAt s q 7 p.hdr p.raw
  | none => s

/-- The open hank a packet names, of its job. -/
def namedHank (s : State) (hd : Header) : Option Hank :=
  match getHank s (hHank hd) with
  | some h => if h.d.job = hJob hd then some h else none
  | none => none

/-- The member a packet arrives from. -/
def senderOf (h : Hank) (p : Pkt) : Option (Nat × Member) :=
  match p.inPort with
  | some q => memberAt h.d q
  | none => none

/-- A CONTRIB reaches the hank machinery (R188). -/
def hankContrib (s : State) (p : Pkt) : State :=
  let hd := p.hdr
  let pl := padTo (hPayloadLen hd) p.payload
  match namedHank s hd with
  | none => notOpen s p
  | some h =>
    match senderOf h p with
    | none => notOpen s p
    | some (mi, m) =>
      if m.trunk then notOpen s p
      else if cAttempt hd ≠ (getJob s h.d.job).attempt ∨ hStep hd < h.base then countStale s h.d.hank
      else if h.d.type = 3 ∧ !m.source then
        modHank s h.d.hank (fun h => { h with nonSource := satAdd 32 h.nonSource 1 })
      else if nchunks h.d ≤ hAux hd then
        countDropped s h.d.hank (if h.d.type = 6 then xCount hd else cCount hd)
      else if h.d.type = 6 then decideItems s h.d.hank h mi m hd pl
      else decidePart s h.d.hank h mi m hd pl

/-- Fields of a TALLY_UP. -/
def tFirst (h : Header) : Nat := wbits h.w4 21 16
def tCount (h : Header) : Nat := wbits h.w4 28 22

/-- Orders 7 to 11 for a TALLY_UP. -/
def decideTally (s : State) (hank : Nat) (h : Hank) (mi : Nat) (hd : Header) (pl : List Byte) : State :=
  let c := hAux hd
  let q := seqOf h (hStep hd) c
  let sl := hankSlot h (q % h.d.slotBudget)
  if sl.awaits < q then foundPoison s hank c (hStep hd) 10
  else if q < sl.awaits then countStale s hank
  else if tFirst hd ≠ mapGet sl.groups 0 mi ∨ chunkGroups h.d c < tFirst hd + tCount hd
      ∨ groupsLen (tCount hd) pl ≠ some pl.length then
    foundPoison s hank c (hStep hd) 3
  else
    match decodeGroups h.d.mode h.d.inFormat (tCount hd) pl with
    | none => foundPoison s hank c (hStep hd) 3
    | some els => acceptTally s hank h mi q c (tFirst hd) els

/-- A TALLY_UP reaches the hank machinery (R188). A BARRIER hank has no chunks, so order 4 asks nothing of the poison
of its round (R198). -/
def hankTally (s : State) (p : Pkt) : State :=
  let hd := p.hdr
  match namedHank s hd with
  | none => notOpen s p
  | some h =>
    match senderOf h p with
    | none => notOpen s p
    | some (mi, m) =>
      if !m.trunk then notOpen s p
      else if cAttempt hd ≠ (getJob s h.d.job).attempt ∨ hStep hd < h.base then countStale s h.d.hank
      else if h.d.type = 3 ∧ !m.source then
        modHank s h.d.hank (fun h => { h with nonSource := satAdd 32 h.nonSource 1 })
      else if nchunks h.d ≤ hAux hd ∧ !(h.d.type = 5 ∧ wbit hd.w4 8) then countDropped s h.d.hank (16 * tCount hd)
      else if wbit hd.w4 8 then
        poison s h.d.hank (cAttempt hd) (hAux hd) (hStep hd) (wbits hd.w4 39 32) (wbits hd.w6 19 0) true
      else if wbits hd.w5 31 0 ≠ h.d.check.toNat then foundPoison s h.d.hank (hAux hd) (hStep hd) 9
      else decideTally s h.d.hank h mi hd (padTo (hPayloadLen hd) p.payload)

/-- A CHUNK_NOTICE acts when it carries poison (R56, R198). -/
def hankNotice (s : State) (p : Pkt) : State :=
  let hd := p.hdr
  match namedHank s hd with
  | none => s
  | some h =>
    if wbit hd.w6 8 then
      poison s h.d.hank (wbits hd.w6 7 0) (hAux hd) (hStep hd) (wbits hd.w6 23 16) (wbits hd.w7 19 0) false
    else s

/-- The oldest packet of a spindle die, unless the die relocks its clock (R444). -/
def takeHank (die kind : Nat) (s : State) (f : Pkt → State → State) : State :=
  if (getDie s die).relock.isSome then s else takeHead s die (fun h => hKind h == kind) f

/-- An event at a spindle die. -/
def atSpindleDie (die : Nat) (s : State) : Res :=
  if 10 ≤ die ∧ die < 26 then .next s else .refused (.noSuchUnit "spindle die")

def execContrib (die : Nat) (s : State) : Res :=
  atSpindleDie die (takeHank die kContrib s (fun p s => hankContrib s p))

def execTallyUp (die : Nat) (s : State) : Res :=
  atSpindleDie die (takeHank die kTallyUp s (fun p s => hankTally s p))

def execChunkNotice (die : Nat) (s : State) : Res :=
  atSpindleDie die (takeHank die kChunkNotice s (fun p s => hankNotice s p))

/-- A RESULT is consumed with no further effect. -/
def execResult (die : Nat) (s : State) : Res :=
  atSpindleDie die (takeHank die kResult s (fun _ s => s))

/-! ### The end of a chunk (R187, R192, R202) -/

/-- Round r is complete: it is reported, and the rounds that are complete at the front are left behind. -/
def nextRounds : Nat → Hank → Hank
  | 0, h => h
  | fuel + 1, h =>
    if (getRound h h.current).chunksDone = nchunks h.d then
      nextRounds fuel { h with rounds := mapDel h.rounds h.current, current := h.current + 1 }
    else h

/-- HANK_ROUND event (R202). -/
def reportRound (s : State) (h : Hank) (r : Nat) (rd : Round) : State :=
  let out := !h.d.extendsUp && h.d.digestOut
  if out || h.d.digestIn then
    sendEventW s (activeDie s) 5
      [h.d.job, h.d.hank, roundStep h r, (getJob s h.d.job).attempt, b2n out + 2 * b2n h.d.digestIn,
       if out then rd.outA.toNat else 0, if out then rd.outB.toNat else 0, rd.inA.toNat, rd.inB.toNat]
  else s

/-- Slot j frees after sequence q: it awaits q + SLOT_BUDGET and the round counts the chunk. -/
def chunkDone (s : State) (hank j : Nat) (out : Digest) : State :=
  match getHank s hank with
  | none => s
  | some h =>
    let q := (hankSlot h j).awaits
    let r := q / nchunks h.d
    let h := { h with slots := mapIns h.slots j { slotInit j with awaits := q + h.d.slotBudget } }
    let rd := getRound h r
    let rd := { rd with chunksDone := rd.chunksDone + 1, outA := rd.outA + out.a, outB := rd.outB + out.b }
    let h := putRound h r rd
    if rd.chunksDone = nchunks h.d then
      let h := { putRound h r { rd with timer := false } with roundsDone := satAdd 48 h.roundsDone 1 }
      let s := setHank s hank (nextRounds (h.rounds.length + 1) h)
      reportRound s h r rd
    else setHank s hank h

/-- Elements of a slot, positions 0 to n − 1. -/
def slotEls (sl : Slot) (n : Nat) : List Acc := (upTo 0 n).map (fun k => mapGet sl.els .ident k)

/-- Whole groups that fit one TALLY_UP: their number. -/
def groupsFit : Nat → List (List Byte) → Nat
  | _, [] => 0
  | room, g :: r => if g.length ≤ room then 1 + groupsFit (room - g.length) r else 0

/-- Send a packet of a hank's attempt; once a loss has aborted the attempt, nothing more of it is sent (R198). -/
def sendOf (s : State) (job attempt die : Nat) (f : Fields) : State :=
  if (getJob s job).attempt = attempt then sendFrom s die f else s

/-- The slot frees after its chunk, unless an abort has freed it (R192, R198). -/
def slotDone (s : State) (hank j awaits : Nat) (out : Digest) : State :=
  match getHank s hank with
  | none => s
  | some h => if (hankSlot h j).awaits = awaits ∧ (hankSlot h j).complete then chunkDone s hank j out else s

/-- TALLY_UP packets of a chunk, in group order. -/
def sendTallies (die : Nat) (f : Fields) (h : Hank) (attempt : Nat) : Nat → Nat → List (List Byte) → State → State
  | 0, _, _, s => s
  | fuel + 1, first, gs, s =>
    match gs with
    | [] => s
    | _ =>
      let n := max 1 (groupsFit 4096 gs)
      let s := sendOf s h.d.job attempt die { f with
        a4 := word (attempt + first * 2 ^ 16 + n * 2 ^ 22), a5 := word h.d.check.toNat,
        payload := (gs.take n).flatten }
      sendTallies die f h attempt fuel (first + n) (gs.drop n) s

/-- The tally of slot j goes up and the slot frees (R192). -/
def sendUp (s : State) (hank j : Nat) : State :=
  match getHank s hank with
  | none => s
  | some h =>
    let sl := hankSlot h j
    let c := sl.awaits % nchunks h.d
    let g := chunkGroups h.d c
    let els := slotEls sl (chunkEls h.d c) ++ List.replicate (16 * g - chunkEls h.d c) .ident
    let groups := (chunksOf 16 g els).map (encodeGroup h.d.mode)
    let f : Fields := { kind := kTallyUp, ord := true, dst := h.d.parentFeid, job := h.d.job, hank := hank,
                        step := roundStep h (sl.awaits / nchunks h.d), aux := c }
    let die := slotKey s h.d j / 32
    let s := sendTallies die f h (getJob s h.d.job).attempt (g + 1) 0 groups s
    slotDone s hank j sl.awaits { a := 0, b := 0 }

/-- Rounded bytes of a chunk, and its output digest. -/
def roundChunk (d : HankDesc) (step c : Nat) (els : List Acc) : List Byte × Digest :=
  let stream := BitVec.ofNat 32 (d.job * 65536 + d.hank)
  let us := els.zipIdx.map (fun e => (e.1, cardU d.seed stream step (1024 * c + e.2)))
  let bs := accOutBytes d.mode d.op d.round d.floorF d.outFormat us
  let w := fmtBits d.outFormat
  let body := if isMx d.outFormat then bs.drop 32 else bs
  let dg := digestSum ((upTo 0 els.length).map (fun p => digestEl w (1024 * c + p) (unpackEl w body p)))
  let sc := if isMx d.outFormat
    then digestSum ((upTo 0 ((els.length + 31) / 32)).map (fun b =>
      digestAt (scaleIndex (32 * c + b)) ((bs.drop b).headD 0).toNat))
    else { a := 0, b := 0 }
  (bs, if d.digestOut then dg.add sc else { a := 0, b := 0 })

/-- Bytes of a whole chunk in a format. -/
def chunkBytes (fmt : Nat) : Nat := if isMx fmt then mxChunkBytes fmt else 1024 * (fmtBits fmt / 8)

/-- The result copy of a chunk lies within the exposure of its tier and can be written. -/
def copyOk (s : State) (tier o n : Nat) : Bool :=
  decide (o + n ≤ tierLimit s tier)
    && (pieces o n).all (fun p => decide (pageOf p.1 < exposed s (26 + bits p.1 13 12) tier))
    && ergWritable s tier o n

/-- RESULT parts of a rounded chunk (R187). -/
def sendResults (s : State) (die : Nat) (d : HankDesc) (attempt step c n : Nat) (bs : List Byte) : State :=
  let two := partsOf d.outFormat == 2
  let w := fmtBits d.outFormat / 8
  (upTo 0 (if two && decide (512 < n) then 2 else 1)).foldl (fun s p =>
    let first := 512 * p
    let cnt := if two then min 512 (n - first) else n
    sendOf s d.job attempt die
    { kind := kResult, dst := d.resultDest, job := d.job, hank := d.hank, step := step, aux := c,
      a4 := word (attempt + p * 2 ^ 8 + first * 2 ^ 16 + cnt * 2 ^ 26),
      payload := if isMx d.outFormat then bs else (bs.drop (first * w)).take (cnt * w) }) s

/-- The root rounds slot j, copies, sends and notifies, and the slot frees (R192). With no plane LIVE the copy is not
made, and the lost results poison the chunk (R22, R526). -/
def finishRoot (s : State) (hank j : Nat) : State :=
  match getHank s hank with
  | none => s
  | some h =>
    let d := h.d
    let sl := hankSlot h j
    let c := sl.awaits % nchunks d
    let step := roundStep h (sl.awaits / nchunks d)
    let n := chunkEls d c
    let (bs, dg) := roundChunk d step c (slotEls sl n)
    let o := hndOffset d.resultHandle + c * chunkBytes d.outFormat
    let tier := hndRegion d.resultHandle - 1
    let copies := decide (d.resultHandle ≠ 0) && anyPlane s
    if copies && !copyOk s tier o bs.length then foundPoison s hank c step 12
    else
      let s := if copies then ergStore s tier o bs else s
      let die := slotKey s d j / 32
      let attempt := (getJob s d.job).attempt
      let s := sendResults s die d attempt step c n bs
      let s := if d.syncEn ∧ (getJob s d.job).attempt = attempt then sendRaise s die d.syncSpindle d.syncFlag else s
      let s := sendOf s d.job attempt die
          { kind := kChunkNotice, dst := groupFeid d.noticeGroup, job := d.job, hank := hank,
            step := step, aux := c, a4 := dg.a, a5 := dg.b,
            a6 := word (attempt + b2n d.digestOut * 2 ^ 9) }
      slotDone s hank j sl.awaits dg

/-! ### Bursts of the hank sequencer (R228, R232) -/

/-- Elements of one burst, and elements per cycle, of the conversion of a format. -/
def convBurst (mode fmt : Nat) : Nat :=
  if fmt = 1 ∧ mode ≠ modeKey then 256 else if partsOf fmt = 2 then 512 else 1024
/-- The same at the ACC.C rate of a mode. -/
def mergeBurst (mode : Nat) : Nat := if mode = modeEx then 256 else if mode = modeWx then 512 else 1024

/-- Merge elements into a slot. -/
def mergeEls (mode op : Nat) (sl : Slot) (els : List (Nat × Acc)) : Slot :=
  { sl with els := els.foldl (fun m e => mapPut m .ident e.1 (accMerge mode op (mapGet m .ident e.1) e.2).1) sl.els }

/-- Cycles of a burst of `n` elements of which `full` take 32 cycles. -/
def burstCycles (n full : Nat) : Nat := (32 * n + full - 1) / full

/-- Put work back at the front of a spindle's sequencer. -/
def setWork (s : State) (key : Nat) (l : List Work) : State := modSp s key (fun sp => { sp with work := l })

/-- A burst's cycles: HANK_BURST_CYCLES counts them. A running Arithmetic engine is HELD with cause 4 for them, until its
command comes to issue again (R215, R242). -/
def countBurst (s : State) (key cycles : Nat) : State :=
  let s := fadd s .hankBurstCycles (key / 32) (key % 32) 0 47 0 cycles
  if (getEng s key 1).state = .running then
    modEng (eadd s .heldCycles key 1 0 47 0 cycles) key 1 (fun e => { e with state := .held, hold := 4 })
  else s

/-- A burst has held the Arithmetic engine, whose command issues before the next burst begins (R229). -/
def burstWaits (s : State) (key : Nat) : Bool := (getEng s key 1).state == .held && (getEng s key 1).hold == 4

/-- Merge the first elements of work on a slot, as many as one burst holds. -/
def burstMerge (s : State) (key hank j full : Nat) (els : List (Nat × Acc)) (rest : List Work)
    (left : List (Nat × Acc) → Work) : State :=
  match getHank s hank with
  | none => setWork s key rest
  | some h =>
    let now := els.take full
    let later := els.drop full
    let s := countBurst s key (burstCycles now.length full)
    let s := setHank s hank (putSlot h j (mergeEls h.d.mode h.d.op (hankSlot h j) now))
    setWork s key (if later = [] then rest else left later :: rest)

/-- Hank and slot that work is for. -/
def workSlot : Work → Nat × Nat
  | .merge h j _ _ => (h, j)
  | .tally h j _ => (h, j)
  | .finish h j _ => (h, j)
  | .formUp h j _ => (h, j)

/-- The local-store checker reads a slot: what injections make it see (R492). Whether it finds an uncorrectable
error. -/
def slotCheck (s : State) (key : Nat) : Bool × State :=
  let (_, s) := injected s (srcSpindle key 0) []
  injected s (srcSpindle key 1) []

/-- An uncorrectable error in a slot poisons its chunk (R197). -/
def poisonSlot (s : State) (attempt : Nat) (h : Hank) (j : Nat) : State :=
  let q := (hankSlot h j).awaits
  poison s h.d.hank attempt (q % nchunks h.d) (roundStep h (q / nchunks h.d)) 8 ownFeid true

/-- The work of one burst of a spindle's sequencer. -/
def burstWork (s : State) (key : Nat) : State :=
  match (getSp s key).work with
  | [] => s
  | .merge hank j fmt els :: rest => 
    let full := match getHank s hank with
      | some h => convBurst h.d.mode fmt
      | none => 1024
    burstMerge s key hank j full els rest (.merge hank j fmt)
  | .tally hank j els :: rest =>
    let full := match getHank s hank with
      | some h => mergeBurst h.d.mode
      | none => 1024
    burstMerge s key hank j full els rest (.tally hank j)
  | .finish hank j done :: rest =>
    match getHank s hank with
    | none => setWork s key rest
    | some h =>
      let n := chunkEls h.d ((hankSlot h j).awaits % nchunks h.d)
      let s := countBurst s key (burstCycles (min 512 (n - done)) 512)
      if done + 512 < n then setWork s key (.finish hank j (done + 512) :: rest)
      else finishRoot (setWork s key rest) hank j
  | .formUp hank j done :: rest =>
    match getHank s hank with
    | none => setWork s key rest
    | some h =>
      let full := mergeBurst h.d.mode / 16
      let n := chunkGroups h.d ((hankSlot h j).awaits % nchunks h.d)
      let s := countBurst s key (burstCycles (min full (n - done)) full)
      if done + full < n then setWork s key (.formUp hank j (done + full) :: rest)
      else sendUp (setWork s key rest) hank j

/-- One burst of a spindle's sequencer. -/
def burst (s : State) (key : Nat) : State :=
  match (getSp s key).work with
  | [] => s
  | w :: _ =>
    match slotCheck s key, getHank s (workSlot w).1 with
    | (true, t), some h => poisonSlot t (getJob s h.d.job).attempt h (workSlot w).2
    | (_, t), _ => burstWork t key

/-- An event at a logical spindle. -/
def atSpindle (l : Nat) (s : State) : Res := if l < 256 then .next s else .refused (.noSuchUnit "spindle")

/-- HANK_BURST at a logical spindle. -/
def execHankBurst (spindle : Nat) (s : State) : Res :=
  atSpindle spindle
    (let key := spindleOf s spindle
     if unitContained s (key / 32) 0x10 (key % 32) || (getDie s (key / 32)).relock.isSome || burstWaits s key
     then s else burst s key)

/-! ### Timers (R195, R337) -/

/-- No spindle cycle passes on a die that relocks its clock (R444). -/
def relocking (s : State) (die : Nat) : Bool := (getDie s die).relock.isSome

/-- The chunk timer of slot j expires; it ticks in the clock of the slot's die, that of an EXCHANGE in its hank's. -/
def chunkExpire (s : State) (hank j : Nat) : State :=
  match getHank s hank with
  | none => s
  | some h =>
    if h.d.type = 6 then
      if j = 0 ∧ (mapFind h.rounds h.current).isSome ∧ !exchCounted h ∧ !relocking s (hankDie h.d)
      then foundPoison s hank 0 (hankStep h) 1 else s
    else
      let sl := hankSlot h j
      if sl.started ∧ !sl.complete ∧ !relocking s (slotKey s h.d j / 32) then
        foundPoison s hank (sl.awaits % nchunks h.d) (roundStep h (sl.awaits / nchunks h.d)) 1
      else s

def execChunkTimeout (hank slot : Nat) (s : State) : Res := .next (chunkExpire s hank slot)

/-- The round timer of a round expires. -/
def roundExpire (s : State) (hank r : Nat) : State :=
  match getHank s hank with
  | none => s
  | some h => if (getRound h r).timer ∧ !relocking s (hankDie h.d) then foundPoison s hank 0 (roundStep h r) 2 else s

def execRoundTimeout (hank round : Nat) (s : State) : Res := .next (roundExpire s hank round)

/-! ### BARRIER (R334-R338) -/

/-- Every member's bit of the current round is set. -/
def barrFull (h : Hank) : Bool := (upTo 0 h.d.members.length).all (fun k => h.barr.cur.contains k)

/-- RELEASE of the current round to every member. -/
def sendReleases (s : State) (h : Hank) : State :=
  (h.d.members.zipIdx).foldl (fun s e =>
    let dst := if e.1.trunk then mapGet h.barr.childFeid 0 e.2 else endpointFeid s e.1.port
    sendFrom s (hankDie h.d)
    { kind := kRelease, dst := dst, job := h.d.job, hank := h.d.hank, step := hankStep h,
      a4 := word ((getJob s h.d.job).attempt + h.current % 2 * 2 ^ 8) }) s

/-- Release the current round (R336). -/
def releaseRound (s : State) (hank : Nat) : State :=
  match getHank s hank with
  | none => s
  | some h =>
    let s := sendReleases s h
    let s := if h.d.syncEn ∧ !h.d.extendsUp then sendRaise s (hankDie h.d) h.d.syncSpindle h.d.syncFlag else s
    let h' := { h with rounds := mapDel h.rounds h.current, current := h.current + 1,
                       roundsDone := satAdd 48 h.roundsDone 1,
                       barr := { h.barr with cur := h.barr.next, next := [], sentUp := false } }
    setHank s hank (if h.barr.next = [] then h' else startRound h' h'.current)

/-- ARRIVE to the parent. -/
def arriveUp (s : State) (h : Hank) : State :=
  let hd : Fields :=
  { kind := kArrive, ord := true, xlated := true, dst := h.d.parentFeid, job := h.d.job,
    hank := h.d.hank, step := hankStep h,
    a4 := word ((getJob s h.d.job).attempt + h.current % 2 * 2 ^ 8 + 2 ^ 9) }
  setHank (sendFrom s (hankDie h.d) hd) h.d.hank { h with barr := { h.barr with sentUp := true } }

/-- What a hank does once its arrivals are complete; a root may release twice. -/
def settleBarrier : Nat → State → Nat → State
  | 0, s, _ => s
  | fuel + 1, s, hank =>
    match getHank s hank with
    | none => s
    | some h =>
      if !barrFull h || h.barr.sentUp then s
      else if h.d.extendsUp then arriveUp s h
      else settleBarrier fuel (releaseRound s hank) hank

/-- An ARRIVE reaches its BARRIER hank (R335). -/
def hankArrive (s : State) (p : Pkt) : State :=
  let hd := p.hdr
  match namedHank s hd with
  | none => notOpen s p
  | some h =>
    match senderOf h p with
    | none => notOpen s p
    | some (mi, m) =>
      let r := hStep hd - h.base
      let hank := h.d.hank
      if h.d.type ≠ 5 ∨ wbit hd.w4 9 ≠ m.trunk then notOpen s p
      else if cAttempt hd ≠ (getJob s h.d.job).attempt ∨ hStep hd < hankStep h then countStale s hank
      else if wbits hd.w4 8 8 ≠ r % 2 then poisonRound s hank 5
      else if h.current + 2 ≤ r then
        raiseDetail s (srcSpindleMap (10 + hank % 16) 0)
          [word h.d.job, word hank, word (p.inPort.getD 0), word (hStep hd)]
      else if (if r = h.current then h.barr.cur else h.barr.next).contains mi then poisonRound s hank 5
      else
        let b := h.barr
        let b := if r = h.current then { b with cur := insNat b.cur mi } else { b with next := insNat b.next mi }
        let b := if m.trunk then { b with childFeid := mapPut b.childFeid 0 mi (hSrc hd) } else b
        let h := { h with barr := b }
        settleBarrier 2 (setHank s hank (if r = h.current then startRound h r else h)) hank

def execArrive (die : Nat) (s : State) : Res :=
  atSpindleDie die (takeHank die kArrive s (fun p s => hankArrive s p))

/-- A RELEASE from the parent (R336). -/
def hankRelease (s : State) (p : Pkt) : State :=
  let hd := p.hdr
  match namedHank s hd with
  | none => s
  | some h =>
    if h.d.type ≠ 5 then s
    else if hSrc hd ≠ h.d.parentFeid ∨ !h.d.extendsUp ∨ hStep hd ≠ hankStep h ∨ !h.barr.sentUp
    then countStale s h.d.hank
    else settleBarrier 1 (releaseRound s h.d.hank) h.d.hank

def execRelease (die : Nat) (s : State) : Res :=
  atSpindleDie die (takeHank die kRelease s (fun p s => hankRelease s p))

/-! ### EXCHANGE output (R207) -/

/-- Bytes of an outbound item. -/
def itemOut (t : Item) : List Byte := wordBytes (word (t.srcRank + t.key * 2 ^ 32)) ++ t.payload
/-- Bytes of a pad. -/
def padOut (d : HankDesc) (rank : Nat) : List Byte :=
  wordBytes (word (rank + 2 ^ 18 + 0xFFFFFFFF * 2 ^ 32)) ++ List.replicate (itemBytes d) 0

/-- Items of one RESULT packet. -/
def itemsPer (d : HankDesc) : Nat := min 512 (4096 / itemSize d)

/-- One member's RESULT packets. -/
def sendItems (s : State) (h : Hank) (attempt : Nat) (e : Member × Nat) : State :=
  let l := mapGet h.exch.kept [] e.2
  let out := l.map itemOut ++ List.replicate (h.d.capacity - l.length) (padOut h.d e.1.rank)
  let n := itemsPer h.d
  ((chunksOf n out.length out).zipIdx).foldl (fun s c =>
    sendOf s h.d.job attempt (hankDie h.d)
    { kind := kResult, ord := true, dst := endpointFeid s e.1.port, job := h.d.job,
      hank := h.d.hank, step := hankStep h,
      a4 := word (attempt + l.length * 2 ^ 16), a5 := word (n * c.2 + c.1.length * 2 ^ 32),
      payload := c.1.flatten }) s

/-- The round of an EXCHANGE ends: results, notice, empty staging. -/
def exchangeEnd (s : State) (hank : Nat) : State :=
  match getHank s hank with
  | none => s
  | some h =>
    if h.d.type ≠ 6 ∨ !exchCounted h ∨ relocking s (hankDie h.d) then s
    else if !stagingOk s h then foundPoison s hank 0 (hankStep h) 12
    else
      let attempt := (getJob s h.d.job).attempt
      let s := (h.d.members.zipIdx).foldl (fun s e => sendItems s h attempt e) s
      let s := sendOf s h.d.job attempt (hankDie h.d)
          { kind := kChunkNotice, dst := groupFeid h.d.noticeGroup, job := h.d.job,
            hank := hank, step := hankStep h, a6 := word attempt }
      if (getJob s h.d.job).attempt ≠ attempt then s
      else
        let pads := (upTo 0 h.d.members.length).foldl (fun n k =>
          n + (h.d.capacity - (mapGet h.exch.kept [] k).length)) 0
        modHank s hank (fun h => { h with
          exch := exchInit h.exch.staging, rounds := mapDel h.rounds h.current, current := h.current + 1,
          roundsDone := satAdd 48 h.roundsDone 1, padded := satAdd 32 h.padded pads })

def execExchangeSend (hank : Nat) (s : State) : Res := .next (exchangeEnd s hank)

/-! ### Opening and closing (R175-R182, R206, R225, R226) -/

/-- Words of a descriptor. -/
def descWord (bs : List Byte) (k : Nat) : Word := wordAt bs (8 * k)

/-- CHECK (R177). -/
def descCheck (bs : List Byte) : BitVec 32 :=
  (upTo 0 6).foldl (fun c k =>
    let w := descWord bs k
    c ^^^ BitVec.ofNat 32 (wbits w 31 0) ^^^ BitVec.ofNat 32 (wbits w 63 32)) 0

/-- A member table entry (R176). -/
def memberOf (w : Word) : Member :=
  { port := wbits w 6 0, trunk := wbit w 7, source := wbit w 8, rank := wbits w 33 16 }

/-- The descriptor, unpacked (R175). -/
def descOf (bs : List Byte) : HankDesc :=
  let w := descWord bs
  { type := wbits (w 0) 11 8, op := wbits (w 0) 15 12, mode := wbits (w 0) 19 16, round := wbits (w 0) 21 20,
    chunkLog2 := wbits (w 0) 25 22, inFormat := wbits (w 0) 39 32, outFormat := wbits (w 0) 47 40,
    floorF := signed 9 (wbits (w 0) 56 48), hank := wbits (w 1) 15 0, job := wbits (w 1) 27 16,
    window := wbits (w 1) 47 32, digestOut := wbit (w 1) 48, digestIn := wbit (w 1) 49,
    capacity := wbits (w 2) 31 0, param := word (wbits (w 2) 63 32), step := wbits (w 3) 47 0, seed := w 4,
    resultDest := wbits (w 5) 19 0, noticeGroup := wbits (w 5) 35 20, memberCount := wbits (w 6) 7 0,
    extendsUp := wbit (w 6) 8, parentFeid := wbits (w 6) 35 16, spindleBase := wbits (w 6) 43 36,
    spindleSpan := wbits (w 6) 52 44, slotBudget := wbits (w 7) 15 0, chunkTimeout := wbits (w 7) 31 16,
    roundTimeout := wbits (w 7) 47 32, syncSpindle := wbits (w 7) 55 48, syncFlag := wbits (w 7) 61 56,
    syncEn := wbit (w 7) 62, resultHandle := w 8, check := descCheck bs,
    members := (upTo 0 (wbits (w 6) 7 0)).map (fun k => memberOf (wordAt bs (80 + 8 * k))) }

/-- Types that claim slots. -/
def claimsSlots (d : HankDesc) : Bool := decide (1 ≤ d.type) && decide (d.type ≤ 4)

/-- Check 2: type, operation, mode, rounding and formats (R178). -/
def descKind (d : HankDesc) : Bool :=
  if d.type = 1 ∨ d.type = 2 then
    d.chunkLog2 == 10 && legalCombo d.op d.mode d.inFormat d.outFormat && legalRound d.mode d.round
  else if d.type = 3 ∨ d.type = 4 then
    d.chunkLog2 == 10 && d.op == 5 && d.mode == modeKey && isRaw d.inFormat && d.inFormat == d.outFormat
      && d.round == 0
  else if d.type = 5 ∨ d.type = 6 then
    d.chunkLog2 == (if d.type = 5 then 0 else 10) && d.op == 0 && d.mode == 0 && d.round == 0 && d.inFormat == 0
      && d.outFormat == 0
  else false

/-- Head fields within R175. -/
def descFields (d : HankDesc) : Bool :=
  d.hank != 0
    && (if d.mode = modeWx then decide (-149 ≤ d.floorF) && decide (d.floorF ≤ 143) else decide (d.floorF = 0))
    && (if claimsSlots d then decide (1 ≤ d.window) && decide (d.window ≤ d.slotBudget)
        else if d.type = 6 then d.window == 1 else d.window == 0)
    && (if d.type = 5 then d.capacity == 0 else if d.type = 6 then decide (1 ≤ d.capacity) && decide (d.capacity ≤ 65536)
        else decide (1 ≤ d.capacity))
    && (match d.type with
        | 3 => true
        | 4 => decide (1 ≤ d.param.toNat) && decide (d.param.toNat ≤ d.capacity)
        | 6 => decide (itemBytes d ≤ 4088) && itemBytes d % 8 == 0
        | _ => d.param == 0)
    && (match d.type with
        | 1 => !isGroup d.resultDest && d.resultDest != 0xFFFFF
        | 2 => isGroup d.resultDest
        | 3 => isGroup d.resultDest
        | 4 => d.resultDest != 0xFFFFF
        | _ => d.resultDest == 0)
    && (d.type != 5 || d.noticeGroup == 0)
    && decide (1 ≤ d.memberCount) && decide (d.memberCount ≤ 128)
    && (if d.extendsUp then !isGroup d.parentFeid && d.parentFeid != 0xFFFFF else d.parentFeid == 0)
    && (if d.type = 5 then d.spindleSpan == 0 && d.spindleBase == 0
        else decide (1 ≤ d.spindleSpan) && decide (d.spindleSpan ≤ 256))
    && (if claimsSlots d then decide (1 ≤ d.slotBudget) && decide (d.slotBudget ≤ 8192) else d.slotBudget == 0)
    && (if d.type = 5 then d.chunkTimeout == 0 else d.chunkTimeout != 0) && d.roundTimeout != 0
    && (d.syncEn || (d.syncSpindle == 0 && d.syncFlag == 0))

/-- RESULT_HANDLE within R175. -/
def descHandle (d : HankDesc) : Bool :=
  d.resultHandle == 0
    || (claimsSlots d && !d.extendsUp && hndFeid d.resultHandle == ownFeid && dataHandle d.resultHandle
        && hndOffset d.resultHandle % 64 == 0)

/-- UP_PORTS of the Holmon's active image, of the lowest plane that holds one. -/
def upPortsOf (s : State) : Nat :=
  match s.planeA.active, s.planeB.active with
  | some a, _ => a.upPorts.toNat
  | none, some b => b.upPorts.toNat
  | none, none => 0

/-- A rank of a job, mapped (R61). -/
def rankFeid (s : State) (job rank : Nat) : Option Nat :=
  let e := (rankEntry s job rank).toNat
  if e.testBit 31 ∧ bits e 19 0 ≠ 0xFFFFF then some (bits e 19 0) else none

/-- Member table within R175, R176 and R178. -/
def descMembers (s : State) (d : HankDesc) : Bool :=
  let ports := d.members.map (·.port)
  ports.eraseDups.length == ports.length
    && d.members.all (fun m =>
      m.trunk != isEdge s m.port && !(upPortsOf s).testBit m.port
        && (if m.trunk then m.rank == 0 && d.type != 6
            else rankFeid s d.job m.rank == some (endpointFeid s m.port)))
    && (if d.type = 3 then
          (d.members.filter (·.source)).length == 1
            && d.members.all (fun m => !m.source || m.trunk || m.rank == bits d.param.toNat 17 0)
        else d.members.all (fun m => !m.source))
    && !(d.type == 6 && d.extendsUp)

/-- POOL of an EXCHANGE names an enabled pool of 64 KiB bobbins (R369). -/
def exchPool (d : HankDesc) : Nat := bits d.param.toNat 23 16
def descPool (s : State) (d : HankDesc) : Bool :=
  d.type != 6 || (poolEnabled s (exchPool d) && poolSize s (exchPool d) == 65536)

/-- Granules of a slot (R225). -/
def slotGranules (mode : Nat) : Nat := if mode = modeEx then 10 else if mode = modeWx then 4 else 3

/-- Local-store address of granule g of a spindle (R225). -/
def granuleAddr (s : State) (key g : Nat) : Nat := 0x300000 - 4096 * (fget s .slotLimit (key / 32) (key % 32) 0 11 0 - g)

/-- Bytes of a reduction slot: element k at 40k, 16k or 12k, by mode (R151). -/
def slotBytes (h : Hank) (j : Nat) : List Byte :=
  (slotEls (hankSlot h j) 1024).flatMap (fun a => natBytes (accBytes h.d.mode) (accWord h.d.mode a))

/-- The slot area of a spindle with the bytes of the slots claimed in it. -/
def withSlots (s : State) (key : Nat) (cl : List Claim) : List Host.Cell :=
  cl.foldl (fun m c => match getHank s c.hank with
    | some h => memWrite m (granuleAddr s key c.start) (slotBytes h c.slot)
    | none => m) (getSp s key).ls

/-- The local store of a spindle as it can be read, reduction slots included. -/
def localStore (s : State) (key : Nat) : List Host.Cell := withSlots s key (getSp s key).claims

/-- A run of granules is free. -/
def runFree (cl : List Claim) (limit start len : Nat) : Bool :=
  decide (start + len ≤ limit) && cl.all (fun c => decide (c.start + c.len ≤ start) || decide (start + len ≤ c.start))

/-- The lowest start of a free run of granules. -/
def lowestRun (cl : List Claim) (limit len : Nat) : Option Nat :=
  ((0 :: cl.map (fun c => c.start + c.len)).filter (fun a => runFree cl limit a len)).foldl
    (fun m a => match m with
      | none => some a
      | some b => some (min a b)) none

/-- Claim slot j of a hank on its spindle; none when it cannot be placed (R226). -/
def claimSlot (s : State) (d : HankDesc) (j : Nat) : Option State :=
  let key := slotKey s d j
  let sp := getSp s key
  let limit := fget s .slotLimit (key / 32) (key % 32) 0 11 0
  match lowestRun sp.claims limit (slotGranules d.mode) with
  | none => none
  | some a => some (setSp s key { sp with
      claims := sp.claims ++ [{ hank := d.hank, slot := j, start := a, len := slotGranules d.mode }] })

/-- Claim the slots of a list. -/
def claimSlots (s : State) (d : HankDesc) : List Nat → Option State
  | [] => some s
  | j :: r => (claimSlot s d j).bind (fun s => claimSlots s d r)

/-- Claim `n` bobbins; none when the pool cannot supply them, or is contained (R487). -/
def claimBobbins (p : Nat) : Nat → State → List Word → Option (List Word × State)
  | 0, s, l => some (l, s)
  | n + 1, s, l =>
    if unitContained s (poolDie p) 0x1C p then none
    else match poolAlloc s p with
    | (0, w, s) => claimBobbins p n s (l ++ [w])
    | _ => none

/-- BARRIER hanks held by a spindle die's table (R338). -/
def barrierCount (s : State) (die : Nat) : Nat :=
  (s.hanks.filter (fun e => e.2.d.type == 5 && hankDie e.2.d == die)).length

/-- Base step at open (R173). -/
def openBase (s : State) (d : HankDesc) : Nat :=
  match (getJob s d.job).committed with
  | some c => max d.step ((c + 1) % 2 ^ 48)
  | none => d.step

/-- A hank as it opens. -/
def hankInit (d : HankDesc) (base : Nat) (staging : List Word) : Hank :=
  { d := d, base := base, current := 0, slots := [], rounds := [], exch := exchInit staging, barr := barrInit,
    roundsDone := 0, dropped := 0, stale := 0, nonSource := 0, windowOverflow := 0, xdropped := 0, unrouted := 0,
    padded := 0, lastReason := 0xFF, aborts := 0 }

/-- `hank.open`: STATUS, CHECK and the state (R180). -/
def hankOpen (s : State) (bs : List Byte) : Nat × Nat × State :=
  let d := descOf bs
  if wbits (descWord bs 0) 7 0 ≠ 0x10 then (stNotSupported, 1, s)
  else if !descKind d then (stNotSupported, 2, s)
  else if !descFields d || !descHandle d || decide (bs.length < 80 + 8 * d.memberCount) || !descMembers s d
      || !descPool s d then (stBadParam, 3, s)
  else if (getHank s d.hank).isSome then (stBusy, 4, s)
  else if 4096 ≤ s.hanks.length then (stNoSlots, 5, s)
  else if (upTo d.spindleBase d.spindleSpan).any (fun l => !logicalAvailable s (l % 256))
      || (d.syncEn && !logicalAvailable s d.syncSpindle) then (stFaulted, 6, s)
  else if d.type = 5 ∧ 256 ≤ barrierCount s (hankDie d) then (stNoSlots, 7, s)
  else
    match claimSlots s d (upTo 0 d.slotBudget) with
    | none => (stNoSlots, 7, s)
    | some s' =>
      let n := if d.type = 6 then d.memberCount * stagingPer d else 0
      match claimBobbins (exchPool d) n s' [] with
      | none => (stEmpty, 8, s)
      | some (l, s') => (stOk, 0, setHank s' d.hank (hankInit d (openBase s d) l))

/-- The hank holds a part of its current round (R181). -/
def holdsPart (h : Hank) : Bool :=
  (mapFind h.rounds h.current).isSome
    && (h.d.type == 5 || h.d.type == 6
        || h.slots.any (fun e => e.2.started && e.2.awaits / max (nchunks h.d) 1 == h.current))

/-- `hank.close`: STATUS, CHECK and the state. -/
def hankClose (s : State) (hank : Nat) : Nat × Nat × State :=
  match getHank s hank with
  | none => (stBadParam, 0, s)
  | some h =>
    if holdsPart h then (stBusy, 0, s)
    else
      let t := delHank s hank
      let t := { t with spindles := mapAll s.spindles Spindle.init (fun k sp =>
        { dropWork [hank] sp with claims := sp.claims.filter (fun c => c.hank != hank),
                                  ls := withSlots s k (sp.claims.filter (fun c => c.hank == hank)) }) }
      (stOk, 0, h.exch.staging.foldl (fun s w => (poolRelease s (exchPool h.d) w ownFeid).2) t)

/-- Record of `hank.query` (R210). -/
def hankRecord (s : State) (h : Hank) : List Word :=
  let j := getJob s h.d.job
  [word (0x10 + j.attempt * 2 ^ 8 + b2n j.committed.isSome * 2 ^ 16), word (hankStep h),
   word (j.committed.getD 0), word (h.base % 2 ^ 48), word h.roundsDone, word h.dropped,
   word (h.stale + h.nonSource * 2 ^ 32), word h.windowOverflow, word (h.xdropped + h.unrouted * 2 ^ 32),
   word (h.padded + h.lastReason * 2 ^ 32 + h.aborts * 2 ^ 40)]

/-- Some round of the job up to a step has an accepted part and is not complete (R201). -/
def roundOpen (s : State) (job step : Nat) : Bool :=
  (jobHanks s job).any (fun h =>
    h.rounds.any (fun e => decide (roundStep h e.1 ≤ step) && (e.2.timer || e.2.chunksDone != max (nchunks h.d) 1)))

/-- `step.commit`: STATUS, CHECK and the state (R201). -/
def stepCommit (s : State) (job step attempt : Nat) : Nat × Nat × State :=
  let j := getJob s job
  if j.committed.any (fun c => decide (step < c)) then (stBadParam, 1, s)
  else if roundOpen s job step then (stBusy, 2, s)
  else (stOk, 0, setJob s job { j with committed := some step, attempt := attempt % 256 })

/-- `step.abort` (R198, R199). -/
def stepAbort (s : State) (job step attempt : Nat) : State :=
  let j := getJob s job
  let hs := jobHanks s job
  if attempt ≠ j.attempt ∨ j.committed.any (fun c => decide (step ≤ c))
  then hs.foldl (fun s h => countStale s h.d.hank) s
  else abortJob s job hs true 0 0 step 0 ownFeid

end Sys2Proof.Machine
end

