-- ==== Sys2Proof/Machine/Ingress.lean ====
section
/-! DEFINITION. A packet at the port die it enters by: the checks of R68, rank translation and its cache, the route
lookup and its cache (R54, R58-R72, R87-R92). -/

namespace Sys2Proof.Machine

/-! ### Receive-buffer credits (R387, R388) -/

/-- CREDIT word of VC or shared credits. -/
def creditWord (vc pool n : Nat) : Nat := 3 + vc * 2 ^ 4 + pool * 2 ^ 8 + n * 2 ^ 16

/-- Return a frame's credits in kind; a draining port withholds them (R499). -/
def returnCredits (s : State) (p vc ded shared : Nat) : State :=
  if !portUp s p then s
  else if (getPort s p).draining then modPort s p (fun q => { q with withheld := q.withheld ++ [(vc, ded, shared)] })
  else
    let s := if ded = 0 then s else sendWord s p (creditWord vc 0 ded)
    if shared = 0 then s else sendWord s p (creditWord vc 1 shared)

/-- A frame whose packet leaves the receive buffer before its last flit has come. -/
def leaveFrame (uid : Nat) (f : RxFrame) : RxFrame := if f.uid = some uid then { f with left := true } else f

/-- The packet's flits leave the port's receive buffer (R388). -/
def releaseRx (s : State) (p uid : Nat) : State :=
  let q := getPort s p
  match q.rxBuf.find? (fun e => e.1 == uid) with
  | some (_, vc, ded, sh) =>
    returnCredits (modPort s p (fun q => { q with rxBuf := q.rxBuf.filter (fun e => e.1 != uid) })) p vc ded sh
  | none =>
    modPort s p (fun q => { q with rxFrame := q.rxFrame.map (leaveFrame uid), rxHeld := q.rxHeld.map (leaveFrame uid) })

/-! ### Discards (R68, R72, R484) -/

/-- Count a discard at the port a packet came by, raising the EDGE source its reason has. -/
def dropCounted (s : State) (p reason : Nat) (hdr raw : Header) : State := dropRaising raiseFault s p reason hdr raw

/-- The frame of a discarded packet. -/
def dropFrame (uid reason : Nat) (h : Header × Header) (f : RxFrame) : RxFrame :=
  if f.uid = some uid then { f with uid := none, reason := some reason, taken := some h, left := true } else f

/-- The record of a sampled packet whose last flit has come, once the checks of R68 are done with it (R133). -/
def settleSample (s : State) (k : Pkt) (reason : Option Nat) : State :=
  match k.sample, k.inPort with
  | true, some p => takeSample s p 0 k.bad reason k.chargeVc k.flits (hBytes k.raw ++ k.payload)
  | _, _ => s

/-- Discard a packet at its port die. While its last flit is still to come the discard is noted with its frame, and
counted once the frame has passed the checks of that flit (R386). -/
def discardPkt (s : State) (p reason : Nat) (k : Pkt) : State :=
  let s := releaseRx s p k.uid
  if k.complete then settleSample (dropCounted s p reason k.hdr k.raw) k (some reason)
  else modPort s p (fun q => { q with rxFrame := q.rxFrame.map (dropFrame k.uid reason (k.hdr, k.raw)),
                                      rxHeld := q.rxHeld.map (dropFrame k.uid reason (k.hdr, k.raw)) })

/-! ### Checks on the header flit (R46, R49, R51, R52, R54, R64, R68) -/

/-- Hank kinds, which must name a hank where they come by a port (R49, R184). -/
def hankKind (k : Nat) : Bool :=
  k == kStepAbort || k == kContrib || k == kArrive || k == kTallyUp || k == kResult || k == kChunkNotice || k == kRelease

/-- The header as the port die takes it up: an edge port writes SRC_FEID, and XLATED in FEID-form kinds (R54, R63). -/
def edgeHeader (s : State) (p : Nat) (h : Header) : Header :=
  if isEdge s p then
    let h := hSetSrc h (endpointFeid s p)
    if rankForm (hKind h) then h else hSetXlated h false
  else h

/-- LENGTH: the form of R46 against the flits that START declares. -/
def lengthOk (h : Header) (data : Bool) (flits : Nat) : Bool :=
  flits == 1 + hFlits h
    && (if data then decide (1 ≤ hFlits h) && decide (hFlits h ≤ 64) else hFlits h == 0 && hPad h == 0)

/-- The first failing check among VERSION, KIND, LENGTH, UNBOUND, KIND_NOT_PERMITTED, and what a trunk port checks of
ranks. -/
def headerCheck (s : State) (p : Nat) (h : Header) (flits : Nat) : Option Nat :=
  if hVersion h ≠ 0x10 then some 0
  else
    match kindRow (hKind h) with
    | none => some 1
    | some row =>
      if !lengthOk h row.data flits then some 2
      else if isEdge s p ∧ fget s .edgeBind (p / 16) 0 (p % 16) 20 20 = 0 then some 3
      else if isEdge s p ∧ row.holmonOnly then some 4
      else if !isEdge s p ∧ hankKind (hKind h) ∧ hHank h = 0 then some 7
      else if !isEdge s p ∧ rankForm (hKind h) ∧ !hXlated h then some 8
      else none

/-! ### The rank cache (R62, R65) -/

/-- Insert into a 4-way cache of sets given by `set`: the oldest entry of a full set goes. [10] -/
def cacheInsert {α : Type} (set : α → Nat) (l : List α) (x : α) : List α :=
  let same := l.filter (fun y => set y == set x)
  if 4 ≤ same.length then removeFirst (fun y => set y == set x) l ++ [x] else l ++ [x]

/-- A lookup: none on a miss, otherwise the FEID or none where the rank is unmapped. `counted` counts it. -/
def rankLookup (s : State) (die job rank : Nat) (counted : Bool) : Option (Option Nat) × State :=
  match (getPortDie s die).rankCache.find? (fun e => e.1 == job && e.2.1 == rank) with
  | some (_, _, e, _) =>
    let s := if counted then fwrap s .rankCacheStatus die 0 0 31 0 1 else s
    let n := e.toNat
    (some (if n.testBit 31 ∧ bits n 19 0 ≠ 0xFFFFF then some (bits n 19 0) else none), s)
  | none => (none, if counted then fwrap s .rankCacheStatus die 0 0 63 32 1 else s)

/-- What R62 makes of a rank-form packet. -/
inductive Trans where
  | ok (h : Header)
  | discard (reason : Nat)
  | wait (stage rank : Nat)
  deriving DecidableEq, Repr

/-- A hank is open for a job with a port as a member. -/
def hankMember (s : State) (h : Header) (p : Nat) : Bool :=
  match namedHank s h with
  | some k => (memberAt k.d p).isSome
  | none => false

/-- R62 for a packet of an edge port, whose SRC_FEID is the endpoint the port was bound to when it came; lookups up to the one that stage `after` waited for have been counted. -/
def translate (s : State) (p : Nat) (h : Header) (after : Nat) : Trans × State :=
  let die := p / 16
  match rankLookup s die (hJob h) (hSrcRank h) (after == 0) with
  | (none, s) => (.wait 1 (hSrcRank h), s)
  | (some none, s) => (.discard 5, s)
  | (some (some f), s) =>
    if f ≠ hSrc h then (.discard 6, s)
    else if hKind h = kPutRank then
      match rankLookup s die (hJob h) (hDstRank h) (after != 3) with
      | (none, s) => (.wait 3 (hDstRank h), s)
      | (some none, s) => (.discard 5, s)
      | (some (some f), s) => (.ok (hSetXlated (hSetDst h f) true), s)
    else if hHank h = 0 ∨ !hankMember s h p then (.discard 7, s)
    else (.ok (hSetXlated (hSetDst h ownFeid) true), s)

/-! ### Routes (R84-R92) -/

def entryAction (e : BitVec 32) : Nat := bits e.toNat 1 0
def entryDown (e : BitVec 32) : Nat := bits e.toNat 8 2
def entrySet (e : BitVec 32) : Nat := bits e.toNat 12 9

/-- The active image route fetches read: plane A's while it is LIVE. -/
def routeImage (s : State) : Option RouteImage :=
  if planeLive s 0 ∧ s.planeA.active.isSome then s.planeA.active else if planeLive s 1 then s.planeB.active else none

/-- The entry of an FEID (R85). -/
def routeEntry (s : State) (feid : Nat) : BitVec 32 :=
  match routeImage s with
  | none => 0
  | some img => if feid = 0xFFFFF ∨ isGroup feid then 0 else mapGet img.entries 0 feid

/-- Route hash (R92). -/
def routeHash (src dst seed : Nat) : Nat :=
  let d := (dst * 2 ^ 7 + dst / 2 ^ 13) % 2 ^ 20
  let a := (src % 2 ^ 20) ^^^ d
  (bits a 19 10 ^^^ bits a 9 0) ^^^ seed

/-- Plane of an ordered packet under an image (R92). -/
def hashPlane (img : RouteImage) (hash : Nat) : Nat :=
  if img.ordPlanes = 1 then 0 else if img.ordPlanes = 2 then 1 else b2n (hash.testBit 9)

/-- A packet with the entry it carries. -/
def withEntry (s : State) (k : Pkt) (e : BitVec 32) : Pkt :=
  match routeImage s with
  | none => { k with entry := e }
  | some img =>
    { k with entry := e, upSet := (img.upSets.drop (entrySet e)).headD 0,
             descends := (match k.inPort with
               | some p => img.upPorts.toNat.testBit p
               | none => false),
             hash := routeHash (hSrc k.hdr) (hDst k.hdr) img.hashSeed.toNat,
             ordPlane := hashPlane img (routeHash (hSrc k.hdr) (hDst k.hdr) img.hashSeed.toNat) }

/-- Kinds that a Holmon consumes itself (R56). -/
def consumes (k : Nat) : Bool :=
  [kPut, kGet, kAtomic, kPutFwd, kAtomicFwd, kBulkPut, kContrib, kArrive, kTallyUp, kResult, kChunkNotice, kRelease,
   kSignal, kBulkSignal, kGetData, kAck, kAtomicRsp].contains k

/-- A packet stands in line for a core plane. -/
def enqueueReady (s : State) (k : Pkt) : State := setReady s k.link (getReady s k.link ++ [k])

/-- A packet that waits, ahead of those behind it on its VC. -/
def waitFirst (s : State) (die : Nat) (w : Waiter) : State :=
  modPortDie s die (fun d => { d with waiting := w :: d.waiting })

/-- The packet's route entry is known. -/
def routed (s : State) (p : Nat) (k : Pkt) (e : BitVec 32) : State :=
  if entryAction e = 0 ∨ (entryAction e = 3 ∧ !consumes (hKind k.hdr)) then discardPkt s p 9 k
  else enqueueReady s (withEntry s k e)

/-- Checks 11 and 9 and the route lookup. -/
def lookUp (s : State) (p : Nat) (k : Pkt) : State :=
  let dst := hDst k.hdr
  if !anyPlane s then discardPkt s p 11 k
  else if dst = 0xFFFFF then discardPkt s p 9 k
  else if isGroup dst then
    if mayMulticast (hKind k.hdr) then enqueueReady s (withEntry s k 0) else discardPkt s p 9 k
  else
    match (getPortDie s (p / 16)).routeCache.find? (fun e => e.1 == dst) with
    | some (_, e) => routed s p k e
    | none => waitFirst s (p / 16) { pkt := k, stage := 2, rank := 0, gen := 0, lost := false }

/-- A packet at the head of its VC is translated and looked up; `after` is the stage it has waited in. -/
def begin (s : State) (p : Nat) (k : Pkt) (after : Nat) : State :=
  if k.edge ∧ rankForm (hKind k.hdr) ∧ after ≠ 2 then
    match translate s p k.hdr after with
    | (.ok h, s) => lookUp s p { k with hdr := h }
    | (.discard r, s) => discardPkt s p r k
    | (.wait st r, s) =>
      waitFirst s (p / 16)
        { pkt := k, stage := st, rank := r, gen := jobGeneration s (hJob k.hdr), lost := !anyPlane s }
  else lookUp s p k

/-! ### Waiting at the head of a VC -/

/-- A waiter stands on a VC of a port. -/
def waitsOn (p vc : Nat) (w : Waiter) : Bool := w.pkt.inPort == some p && w.pkt.vc == vc

/-- The first packet that waits on a VC of a port. -/
def headWaiter (s : State) (p vc : Nat) : Option Waiter := (getPortDie s (p / 16)).waiting.find? (waitsOn p vc)

/-- Take it out. -/
def dropWaiter (s : State) (p vc : Nat) : State :=
  modPortDie s (p / 16) (fun d => { d with waiting := removeFirst (waitsOn p vc) d.waiting })

/-- Packets behind one that has gone on are taken up, until one must wait. -/
def advanceVc : Nat → State → Nat → Nat → State
  | 0, s, _, _ => s
  | n + 1, s, p, vc =>
    match headWaiter s p vc with
    | none => s
    | some w =>
      if w.stage = 0 then advanceVc n (begin (dropWaiter s p vc) p w.pkt 0) p vc else s

/-- As many as wait. -/
def advance (s : State) (p vc : Nat) : State := advanceVc (getPortDie s (p / 16)).waiting.length s p vc

/-- A new packet on a VC: behind those that wait there, or taken up at once. -/
def arrivePkt (s : State) (p : Nat) (k : Pkt) : State :=
  match headWaiter s p k.vc with
  | some _ => modPortDie s (p / 16) (fun d => { d with
      waiting := d.waiting ++ [{ pkt := k, stage := 0, rank := 0, gen := 0, lost := false }] })
  | none => begin s p k 0

/-- A switch port's event on a VC. -/
def atPortVc (p vc : Nat) (s : State) : Res :=
  if p < 128 ∧ vc < 14 then .next s else .refused (.noSuchUnit "port VC")

/-- A route entry fetched for the head packet of a VC returns (R89); with no plane LIVE by then, none can (R526). -/
def routeReturn (s : State) (p vc : Nat) : State :=
  match headWaiter s p vc with
  | none => s
  | some w =>
    if w.stage = 2 then
      if !anyPlane s then advance (discardPkt (dropWaiter s p vc) p 11 w.pkt) p vc
      else
      let dst := hDst w.pkt.hdr
      let e := routeEntry s dst
      let s := dropWaiter s p vc
      let s := modPortDie s (p / 16) (fun d => { d with
        routeCache := cacheInsert (fun x => (Config.routeSet x.1).toNat) d.routeCache (dst, e) })
      advance (routed s p w.pkt e) p vc
    else s

def execRouteFetch (port vc : Nat) (s : State) : Res := atPortVc port vc (routeReturn s port vc)

/-- A fetch reads the job's directory entry and the rank's entry, and meets their uncorrectable blocks (R60, R370). -/
def fetchRank (s : State) (job rank : Nat) : State := eccCheck (eccCheck s (directoryAddr s job)) (rankAddr s job rank)

/-- A fetched rank entry can be read (R346, R370). -/
def rankReadable (s : State) (job rank : Nat) : Bool :=
  backed s (directoryAddr s job) && !anyBad s (directoryAddr s job) 16
    && backed s (rankAddr s job rank) && !anyBad s (rankAddr s job rank) 4

/-- Cache a fetched rank entry. -/
def cacheRank (s : State) (die job rank : Nat) : State :=
  modPortDie s die (fun d => { d with
    rankCache := cacheInsert (fun x => (Config.rankSet x.1 x.2.1).toNat) d.rankCache
      (job, rank, rankEntry s job rank, jobGeneration s job) })

/-- A fetch whose packet is gone: a whole one is cached and serves later packets. -/
def orphanReturn (s : State) (p vc : Nat) (o : Nat × Nat × Nat × BitVec 32) : State :=
  let s := modPortDie s (p / 16) (fun d => { d with orphans := removeFirst (fun o => o.1 == 16 * p + vc) d.orphans })
  if !anyPlane s then s
  else
    let s := fetchRank s o.2.1 o.2.2.1
    if rankReadable s o.2.1 o.2.2.1 ∧ o.2.2.2 = jobGeneration s o.2.1 then cacheRank s (p / 16) o.2.1 o.2.2.1 else s

/-- A rank fetch returns to the packet that waits for it: with an error status or beyond RANK_COUNT the packet is
discarded, with an older generation it is sent again, and otherwise the packet goes on. -/
def rankArrives (s : State) (p vc : Nat) (w : Waiter) : State :=
  let job := hJob w.pkt.hdr
  let s := fetchRank (dropWaiter s p vc) job w.rank
  if !rankReadable s job w.rank ∨ rankCount s job ≤ w.rank then advance (discardPkt s p 5 w.pkt) p vc
  else if w.gen ≠ jobGeneration s job then waitFirst s (p / 16) { w with gen := jobGeneration s job }
  else advance (begin (cacheRank s (p / 16) job w.rank) p w.pkt w.stage) p vc

/-- A rank fetch returns to a VC of a port (R65, R66); one discarded for want of a plane never does (R526). -/
def rankReturn (s : State) (p vc : Nat) : State :=
  match (getPortDie s (p / 16)).orphans.find? (fun o => o.1 == 16 * p + vc) with
  | some o => orphanReturn s p vc o
  | none =>
    match headWaiter s p vc with
    | none => s
    | some w =>
      if (w.stage = 1 ∨ w.stage = 3) ∧ !w.lost then
        if anyPlane s then rankArrives s p vc w else waitFirst (dropWaiter s p vc) (p / 16) { w with lost := true }
      else s

def execRankFetch (port vc : Nat) (s : State) : Res := atPortVc port vc (rankReturn s port vc)

/-- A packet has waited 1 us for its rank fetch (R65). -/
def rankExpire (s : State) (p vc : Nat) : State :=
  match headWaiter s p vc with
  | none => s
  | some w =>
    if w.stage = 1 ∨ w.stage = 3 then
      let s := dropWaiter s p vc
      let s := if w.lost then s else modPortDie s (p / 16) (fun d => { d with
        orphans := d.orphans ++ [(16 * p + vc, hJob w.pkt.hdr, w.rank, w.gen)] })
      advance (discardPkt s p 5 w.pkt) p vc
    else s

def execRankWaitTimeout (port vc : Nat) (s : State) : Res := atPortVc port vc (rankExpire s port vc)

end Sys2Proof.Machine
end

