-- ==== Sys2Proof/Machine/Link.lean ====
section
/-! DEFINITION. The link layer of a fabric port: frames and their checks, retry, credits, training, lanes, egress
arbitration and shaping (R76, R83, R121-R127, R378-R403). -/

namespace Sys2Proof.Machine

/-! ### Receiving frames (R384-R391) -/

/-- The link of a port is UP and its unit LIVE. -/
def whenUp (s : State) (p : Nat) (f : State) : State := if portUp s p then f else s

/-- A transmission error in the expected frame: NAK, and units are discarded until it is resent (R390). A frame whose
header flit has come waits for the resent one (R391). -/
def rxError (s : State) (p : Nat) : State :=
  let q := getPort s p
  let s := padd s .linkCount p 0 47 0 1
  let s := sendWord s p (5 + q.rxSeq * 2 ^ 16)
  let held := match q.rxFrame with
    | some f => if f.hdr.isSome then some f else q.rxHeld
    | none => q.rxHeld
  setPort s p { q with rxFrame := none, rxHeld := held, rxDiscard := true }

/-- A frame as its START opens it; a frame that waits for its resending goes on. -/
def openFrame (q : Port) (w : Word) : RxFrame :=
  match q.rxHeld with
  | some f => { f with word := w, hdr := none, resumed := true }
  | none =>
    { word := w, seq := wbits w 27 16, vc := wbits w 7 4, detour := wbit w 8, flits := wbits w 38 32,
      shared := wbits w 46 40, hdr := none, uid := none, reason := none, taken := none, sample := false, left := false,
      resumed := false }

/-- START. -/
def rxStart (s : State) (p : Nat) (w : Word) : State :=
  let q := getPort s p
  if wbits w 27 16 = q.rxSeq ∧ q.rxFrame = none ∧ 1 ≤ wbits w 38 32 ∧ wbits w 38 32 ≤ 65 then
    setPort s p { q with rxFrame := some (openFrame q w), rxHeld := none, rxDiscard := false }
  else if q.rxDiscard && wbits w 27 16 != q.rxSeq then s
  else rxError s p

def execFrameStart (port : Nat) (word : Word) (s : State) : Res :=
  if port < 128 then .next (whenUp s port (rxStart s port word)) else atPort port s

/-- Dedicated credits a frame used. -/
def frameDed (f : RxFrame) : Nat := f.flits - f.shared

/-- What discards a frame at its header flit: a VC that is reserved (16) or not of the packet's class (17) by R386, or a
check of R68 on the header as the port takes it up. -/
def headerReason (s : State) (p : Nat) (f : RxFrame) (h : Header) : Option Nat :=
  if 14 ≤ f.vc then some 16
  else if ((kindRow (hKind h)).any (fun r => r.cls != f.vc / 2)) || (hOrd h && f.vc % 2 == 0) then some 17
  else headerCheck s p (edgeHeader s p h) f.flits

/-- A header flit that opens a new packet: the sampler counts it; a discard is noted with the frame. -/
def takeHeader (s : State) (p : Nat) (f : RxFrame) (h : Header) : State :=
  let (samp, left) := sampleTick s p 0 (getPort s p).sampIn
  let h' := edgeHeader s p h
  let f := { f with hdr := some h, sample := samp }
  match headerReason s p f h with
  | some r =>
    modPort s p (fun q => { q with
      sampIn := left, rxFrame := some { f with reason := some r, taken := some (h', h), left := true } })
  | none =>
    let (uid, s) := newUid s
    let k : Pkt := { mkPkt uid (linkOf (p / 16)) h' [] with
      raw := h, flits := f.flits, vc := f.vc, chargeVc := f.vc, detour := f.detour, complete := false,
      inPort := some p, edge := isEdge s p }
    arrivePkt (modPort s p (fun q => { q with sampIn := left, rxFrame := some { f with uid := some uid } })) p k

/-- A header flit. -/
def rxHeader (s : State) (p : Nat) (h : Header) : State :=
  match (getPort s p).rxFrame with
  | none => s
  | some f =>
    if f.hdr.isSome then s
    else if f.resumed then modPort s p (fun q => { q with rxFrame := some { f with hdr := some h } })
    else takeHeader s p f h

def execHeaderFlit (port : Nat) (h : Header) (s : State) : Res :=
  if port < 128 then .next (whenUp s port (rxHeader s port h)) else atPort port s

/-- The packet still stands at its port die, not yet taken by a plane. -/
def stillHere (s : State) (p uid : Nat) : Bool :=
  (getReady s (linkOf (p / 16))).any (fun k => k.uid == uid)
    || (getPortDie s (p / 16)).waiting.any (fun w => w.pkt.uid == uid)

/-- Take a packet of a damaged frame out of the port die. -/
def forget (s : State) (p uid : Nat) : State :=
  let l := linkOf (p / 16)
  let s := setReady s l ((getReady s l).filter (fun k => k.uid != uid))
  modPortDie s (p / 16) (fun d => { d with waiting := d.waiting.filter (fun w => w.pkt.uid != uid) })

/-- What was forwarded of a frame's packet ends bad, with the declared flits; a packet that nothing was forwarded of is
dropped (R69, R391). -/
def endBad (s : State) (p u : Nat) (f : Pkt → Pkt) : State :=
  if stillHere s p u then forget s p u else packetWhole s u (fun k => { f k with bad := true })

/-- The CRC fails on a frame whose flits were all decoded: a transmission error; what was forwarded of it ends bad
(R391). -/
def rxCrcFail (s : State) (p : Nat) (f : RxFrame) : State :=
  let s := modPort (rxError s p) p (fun q => { q with rxHeld := none })
  match f.uid with
  | none => s
  | some u =>
    if stillHere s p u then forget s p u
    else raiseFault (endBad (padd s .linkCount p 2 47 0 1) p u id) (srcPort p 7)

/-- A frame whose CRC is right has another number of flits than START declares: a transmission error, and, of a packet
that passed the checks on its header, LENGTH (R69, R386). [100] -/
def rxLength (s : State) (p : Nat) (f : RxFrame) (h : Header) (flits : List Byte) : State :=
  let s := modPort (rxError s p) p (fun q => { q with rxHeld := none })
  match f.uid with
  | none => s
  | some u =>
    let s := if stillHere s p u then forget s p u
      else raiseFault (endBad s p u (fun k => { k with payload := padTo (64 * (f.flits - 1)) flits })) (srcPort p 7)
    dropCounted s p 2 (edgeHeader s p h) h

/-- A sampled frame is whole: its record is made now, or once the checks of R68 are done with its packet (R133). -/
def sampleFrame (s : State) (p : Nat) (f : RxFrame) (bad : Bool) (flits : List Byte) : State :=
  match f.sample, f.hdr, f.uid with
  | true, some h, some u =>
    if stillHere s p u then markPkt s u (fun k => { k with sample := true })
    else takeSample s p 0 bad none f.vc f.flits (hBytes h ++ flits)
  | true, some h, none => takeSample s p 0 bad (f.reason.filter (· < 16)) f.vc f.flits (hBytes h ++ flits)
  | _, _, _ => s

/-- The frame is whole: its packet is complete, its credits go back if it has left, it is acknowledged, and a discard is
counted. -/
def rxWhole (s : State) (p : Nat) (f : RxFrame) (bad : Bool) (flits : List Byte) : State :=
  let s := modPort s p (fun q => { q with rxSeq := (q.rxSeq + 1) % 4096, rxFrame := none })
  let s := sendWord s p (4 + f.seq * 2 ^ 16)
  let s := match f.uid with
    | some u => if f.left then returnCredits s p f.vc (frameDed f) f.shared
        else modPort s p (fun q => { q with rxBuf := q.rxBuf ++ [(u, f.vc, frameDed f, f.shared)] })
    | none => countFrame raiseFault (returnCredits s p f.vc (frameDed f) f.shared) p f
  let s := match f.uid with
    | some u => packetWhole s u (fun k => { k with bad := bad || k.bad, payload := flits })
    | none => s
  sampleFrame s p f bad flits

/-- END, with the payload flits received. -/
def rxEnd (s : State) (p : Nat) (w : Word) (flits : List Byte) : State :=
  match (getPort s p).rxFrame with
  | none => if (getPort s p).rxDiscard then s else rxError s p
  | some f =>
    match f.hdr with
    | none => rxError s p
    | some h =>
      let crcOk := decide ((frameCrc f.word (hBytes h ++ flits)).toNat = wbits w 63 32)
      if wbits w 27 16 ≠ f.seq then rxError s p
      else if 64 * (f.flits - 1) ≠ flits.length then if crcOk then rxLength s p f h flits else rxError s p
      else if crcOk then rxWhole s p f (wbit w 8) flits
      else rxCrcFail s p f

def execFrameEnd (port : Nat) (word : Word) (flits : List Byte) (s : State) : Res :=
  if port < 128 then .next (whenUp s port (rxEnd s port word flits)) else atPort port s

/-! ### Sending, acknowledgement and retry (R390) -/

/-- Flits in the replay buffer. -/
def replayFlits (q : Port) : Nat := q.replay.foldl (fun n t => n + t.pkt.flits) 0

/-- A loss of the link, with the records of its die cycle. -/
def linkFails (s : State) (p cause : Nat) : State := oneCycle (fun s => linkLost raiseWith s p cause) s

/-- Resend frames from one on. A frame resent debits no bucket, adds nothing to the caravan round and is not counted by
the sampler again. [101] -/
def resendFrom (s : State) (p seq : Nat) : State :=
  let q := getPort s p
  let keep := q.replay.takeWhile (fun t => t.seq != seq)
  let again := q.replay.drop keep.length
  let s := setPort s p { q with replay := keep ++ again.map (fun t => { t with resent := t.resent + 1 }) }
  again.foldl (fun s t =>
    let s := padd (emit s (.frame p (startWord t.pkt t.seq t.shared) t.pkt)) .linkCount p 1 47 0 1
    if t.pkt.complete then emit s (.frameEnd p (endWord t)) else s) s

/-- A frame must be sent again: at RETRY_LIMIT the link goes down (R390, R396). -/
def retryFrom (s : State) (p seq : Nat) : State :=
  match (getPort s p).replay.find? (fun t => t.seq == seq) with
  | none => s
  | some t =>
    if max 1 (pget s .portCtrl p 0 39 32) ≤ t.resent then linkFails s p 7 else resendFrom s p seq

/-- NAK. -/
def execLinkWordNak (port : Nat) (word : Word) (s : State) : Res :=
  if port < 128 then .next (whenUp s port (retryFrom s port (wbits word 27 16))) else atPort port s

/-- ACK: every frame up to SEQ leaves the replay buffer. -/
def ackUpTo (s : State) (p seq : Nat) : State :=
  modPort s p (fun q =>
    if q.replay.any (fun t => t.seq == seq) then
      { q with replay := (q.replay.dropWhile (fun t => t.seq != seq)).drop 1 }
    else q)

def execLinkWordAck (port : Nat) (word : Word) (s : State) : Res :=
  if port < 128 then .next (whenUp s port (ackUpTo s port (wbits word 27 16))) else atPort port s

/-- No ACK has advanced past the oldest frame for 4 us. -/
def replayExpire (s : State) (p : Nat) : State :=
  match (getPort s p).replay with
  | [] => s
  | t :: _ => retryFrom s p t.seq

def execReplayTimeout (port : Nat) (s : State) : Res :=
  if port < 128 then .next (whenUp s port (replayExpire s port)) else atPort port s

/-! ### Credits (R388, R389) -/

/-- CREDIT. -/
def rxCredit (s : State) (p : Nat) (w : Word) : State :=
  let vc := wbits w 7 4
  let n := wbits w 31 16
  if wbit w 8 then modPort s p (fun q => { q with credShared := q.credShared + n, stallRaised := [] })
  else modPort s p (fun q => { q with
    credDed := countAdd q.credDed vc n, stallRaised := q.stallRaised.filter (· != vc) })

def execCredit (port : Nat) (word : Word) (s : State) : Res :=
  if port < 128 then .next (whenUp s port (rxCredit s port word)) else atPort port s

/-- The partner holds credit for n flits on a VC. -/
def hasCredit (q : Port) (vc n : Nat) : Bool := decide (n ≤ mapGet q.credDed 0 vc + q.credShared)

/-- Oldest staged packet of a VC (R121). -/
def stageHead (q : Port) (vc : Nat) : Option Pkt := (q.stage.find? (fun e => e.2.vc == vc)).map (·.2)

/-- A packet on a VC waits for credit. -/
def vcStalled (q : Port) (vc : Nat) : Bool := (stageHead q vc).any (fun k => !hasCredit q vc k.flits)

/-- The credit watchdog of a VC expires (R389). -/
def creditExpire (s : State) (p vc : Nat) : State :=
  let q := getPort s p
  if pget s .portCtrl p 0 31 16 ≠ 0 ∧ vcStalled q vc ∧ !q.stallRaised.contains vc then
    let s := setPort s p { q with stallRaised := insNat q.stallRaised vc }
    raisePort (padd s .linkCount p 8 47 0 1) p 2
  else s

def execCreditStall (port vc : Nat) (s : State) : Res :=
  if port < 128 ∧ vc < 14 then .next (whenUp s port (creditExpire s port vc)) else atPortVc port vc s

/-! ### Egress arbitration (R121-R125, R132) -/

/-- Frame bytes of a packet. -/
def frameBytes (k : Pkt) : Nat := 64 * k.flits

/-- A head packet may be sent: credit and replay room. -/
def sendable (q : Port) (vc : Nat) : Option Pkt :=
  match stageHead q vc with
  | some k => if hasCredit q vc k.flits && decide (replayFlits q + k.flits ≤ 2048) then some k else none
  | none => none

/-- Candidate of a class: its wadi before its adaptive VC. -/
def classCandidate (q : Port) (c : Nat) : Option Pkt :=
  match sendable q (2 * c + 1) with
  | some k => some k
  | none => sendable q (2 * c)

/-- Bucket contents: `k` is c for the committed and 8 + c for the peak bucket of class c. -/
def bucket (q : Port) (k : Nat) : Int := mapGet q.tokens 65536 k

/-- Reset value of a shaper setting (R136): rate of bucket k at k, size at 16 + k, FRAME_OVERHEAD at 32. -/
def shapeReset (k : Nat) : Nat := if k = 4 ∨ k = 5 then 10000 else if k < 16 then 0 else if k < 32 then 1024 else 20

/-- A shaper setting in effect: as the last refill found it (R126). -/
def shaped (q : Port) (k : Nat) : Nat := (mapFind q.shape k).getD (shapeReset k)

/-- The peak bucket of a class lets it send (R124, R127). -/
def peakOpen (q : Port) (c : Nat) : Bool := shaped q (8 + c) == 0 || decide (0 < bucket q (8 + c))

/-- A caravan packet at the head of a VC, within its caravan's share of the round. -/
def caravanHead (s : State) (q : Port) (vc : Nat) : Option Pkt :=
  (sendable q vc).filter (fun k =>
    match k.caravan.bind (mapFind s.caravans) with
    | none => false
    | some v => decide (mapGet q.caravanUsed 0 (k.caravan.getD 0) + frameBytes k ≤ 4160 * v.rate))

/-- Tier 1: a caravan packet, the wadi before the adaptive VC. -/
def caravanChoice (s : State) (q : Port) : Option Pkt := [13, 12].findSome? (caravanHead s q)

/-- Tier 2: CDN, then CUP, while both buckets are positive. -/
def priorityChoice (q : Port) : Option Pkt :=
  [5, 4].findSome? (fun c => if decide (0 < bucket q c) && peakOpen q c then classCandidate q c else none)

/-- Weight of a class (R136). -/
def weight (s : State) (p c : Nat) : Nat := max 1 (pget s .shapeWeight p 0 (8 * c + 7) (8 * c))

/-- Candidate of a class in the shared tier; a packet of a caravan beyond its share waits there while BLK's peak bucket is
not positive. [101] -/
def sharedCandidate (q : Port) (c : Nat) : Option Pkt := if peakOpen q c then classCandidate q c else none

/-- Deficit round robin from class `c` on: the packet and the port with the deficits it leaves. `drr` is 1 + the
class being visited. A class with nothing to send keeps its deficit. [101] -/
def drrFrom (s : State) (p : Nat) : Nat → Port → Nat → Option (Pkt × Port)
  | 0, _, _ => none
  | n + 1, q, c =>
    match sharedCandidate q c with
    | none => drrFrom s p n q ((c + 1) % 7)
    | some k =>
      let d := mapGet q.deficit 0 c + 4160 * (weight s p c : Int)
      if (frameBytes k : Int) ≤ d then
        some (k, { q with deficit := mapPut q.deficit 0 c (d - frameBytes k), drr := c + 1 })
      else drrFrom s p n { q with deficit := mapPut q.deficit 0 c d } ((c + 1) % 7)

/-- Tier 3. -/
def sharedChoice (s : State) (p : Nat) (q : Port) : Option (Pkt × Port) :=
  if q.drr = 0 then drrFrom s p 7 q 0
  else
    let c := q.drr - 1
    match sharedCandidate q c with
    | some k =>
      if (frameBytes k : Int) ≤ mapGet q.deficit 0 c then
        some (k, { q with deficit := mapPut q.deficit 0 c (mapGet q.deficit 0 c - frameBytes k) })
      else drrFrom s p 7 q ((c + 1) % 7)
    | none => drrFrom s p 7 q ((c + 1) % 7)

/-- The next frame of a port: its packet, its tier and the port after the choice (R122, R123). -/
def egressChoice (s : State) (p : Nat) : Option (Pkt × Nat × Port) :=
  let q := getPort s p
  let shared := sharedChoice s p q
  let third := shared.map (fun e => (e.1, 3, { e.2 with run := 0 }))
  if 15 ≤ q.run ∧ shared.isSome then third
  else
    match caravanChoice s q with
    | some k => some (k, 1, { q with run := q.run + 1 })
    | none =>
      match priorityChoice q with
      | some k => some (k, 2, { q with run := q.run + 1 })
      | none => third

/-- Counted length of a frame (R125). -/
def countedBytes (s : State) (p : Nat) (k : Pkt) : Int :=
  frameBytes k + (if pget s .portStatus p 0 9 8 = 1 then shaped (getPort s p) 32 else 0 : Nat)

/-- Count frame bytes sent while the class's committed bucket is zero or negative (R127). -/
def countExcess (s : State) (p : Nat) (k : Pkt) : State :=
  let c := pktClass k
  if bucket (getPort s p) c ≤ 0 then padd s .excessBytes p c 47 0 (frameBytes k) else s

/-- Debit both buckets of a class. -/
def debit (s : State) (p : Nat) (k : Pkt) : State :=
  let c := pktClass k
  let n := countedBytes s p k
  modPort s p (fun q => { q with
    tokens := mapPut (mapPut q.tokens 65536 c (bucket q c - n)) 65536 (8 + c) (bucket q (8 + c) - n) })

/-- Advance the caravan round by a frame. The bytes of a frame that crosses the end of a round count in the next one, and
none of it is charged to a caravan's new allowance. [101] -/
def roundAdd (q : Port) (k : Pkt) (tier : Nat) : Port :=
  let used := match tier, k.caravan with
    | 1, some c => countAdd q.caravanUsed c (frameBytes k)
    | _, _ => q.caravanUsed
  let n := q.roundBytes + frameBytes k
  if 266240 ≤ n then { q with roundBytes := n - 266240, caravanUsed := [] }
  else { q with roundBytes := n, caravanUsed := used }

/-- A packet of an open caravan: it is not shaped and debits no bucket, in whichever tier it goes (R123, R124). -/
def rideCaravan (s : State) (k : Pkt) : Bool := k.caravan.any (fun c => (mapFind s.caravans c).isSome)

/-- Send a staged packet. -/
def sendFrame (s : State) (p : Nat) (k : Pkt) (tier : Nat) : State :=
  let s := countExcess s p k
  let s := if rideCaravan s k then s else debit s p k
  let q := getPort s p
  let ded := min k.flits (mapGet q.credDed 0 k.vc)
  let (samp, left) := sampleTick s p 1 q.sampOut
  let t : TxFrame := { seq := q.txSeq, pkt := k, shared := k.flits - ded, resent := 0, sample := samp && !k.complete }
  let q := { q with
    stage := removeFirst (fun e => e.2.uid == k.uid && e.2.vc == k.vc) q.stage,
    credDed := countSub q.credDed k.vc ded, credShared := q.credShared - (k.flits - ded),
    txSeq := (q.txSeq + 1) % 4096, replay := q.replay ++ [t], sampOut := left }
  let s := setPort s p (roundAdd q k tier)
  let s := emit s (.frame p (startWord k t.seq (k.flits - ded)) k)
  if k.complete then frameGone s p { t with sample := samp } else s

/-- A packet marked bad is discarded by the port die that faces its endpoint (R69); a capture shows that port. [102] -/
def dropStaged (s : State) (p : Nat) (k : Pkt) : State :=
  let s := modPort s p (fun q => { q with stage := removeFirst (fun e => e.2.uid == k.uid && e.2.vc == k.vc) q.stage })
  discardAt s p 10 k.hdr k.raw

/-- One choice of the egress arbiter. -/
def egress (s : State) (p : Nat) : State :=
  match egressChoice s p with
  | none => s
  | some (k, tier, q) =>
    if k.bad ∧ isEdge s p then dropStaged s p k else sendFrame (setPort s p q) p k tier

def execEgressArbitration (port : Nat) (s : State) : Res :=
  if port < 128 then .next (whenUp s port (egress s port)) else atPort port s

/-! ### Shapers (R126, R127, R131) -/

/-- Size of a bucket in bytes, and its rate in bytes per refill, as the last refill found them. -/
def bucketSize (q : Port) (k : Nat) : Int := (64 * max 1 (shaped q (16 + k)) : Nat)
def bucketRate (q : Port) (k : Nat) : Int := (shaped q k : Nat)

/-- Numbers of the fourteen buckets. -/
def buckets : List Nat := upTo 0 7 ++ upTo 8 7

/-- The shaper registers of a port as settings. -/
def shapeNow (s : State) (p : Nat) : SMap Nat :=
  let put (m : SMap Nat) (k v : Nat) := if v = shapeReset k then m else mapIns m k v
  let m := (upTo 0 7).foldl (fun m c =>
    put (put (put (put m c (pget s .shapeRate p c 15 0)) (8 + c) (pget s .shapeRate p c 31 16))
      (16 + c) (pget s .shapeSize p c 15 0)) (24 + c) (pget s .shapeSize p c 31 16)) []
  put m 32 (pget s .shapeConfig p 0 7 0)

/-- A refill with the settings that the registers hold. -/
def refill (s : State) (p : Nat) : State :=
  modPort s p (fun q =>
    let q := { q with shape := shapeNow s p }
    { q with tokens := buckets.foldl (fun m k =>
        mapPut m 65536 k (min (mapGet m 65536 k + bucketRate q k) (bucketSize q k))) q.tokens })

def execShaperRefill (port : Nat) (s : State) : Res :=
  if port < 128 then .next (refill s port) else atPort port s

/-- Buckets at their full size. -/
def fullBuckets (q : Port) : SMap Int := buckets.foldl (fun m k => mapPut m 65536 k (bucketSize q k)) []

/-! ### Training (R392-R396) -/

/-- Lanes a port may use: enabled, and not contained (R487). -/
def usableLanes (s : State) (p : Nat) : Nat :=
  let ok (l : Nat) := (pget s .portCtrl p 0 5 4).testBit l && !(unitContained s (p / 16) 0x02 (2 * (p % 16) + l))
  b2n (ok 0) + 2 * b2n (ok 1)

/-- A LIVE port with lanes trains; any other is DOWN (R393). -/
def startTraining (s : State) (p : Nat) : State :=
  if portLive s p ∧ usableLanes s p ≠ 0 then
    setLink (modPort s p (fun q => { q with phase := 1, equalised := 0, aligned := 0 })) p 1
  else setLink (modPort s p (fun q => { q with phase := 0 })) p 0

/-- Bring-up has reached B6 (R395). -/
def pastB6 (s : State) : Bool := decide (6 ≤ s.module.phase)

/-- LANE number on its die of a port lane. -/
def dieLane (p l : Nat) : Nat := 2 * (p % 16) + l

/-- ALIGN on a port lane; its codeword count is a free value (R382, R383). [96] -/
def sendAlignOn (s : State) (p l : Nat) : State :=
  let (w, s) := freeWord s
  sendWord s p (6 + l * 2 ^ 4 + wbits w 31 0 * 2 ^ 16)

/-- Receive flits dedicated to each VC, and shared, of a port's receiver of 2,048 flits (R387). -/
def rxDedicated : Nat := 65
def rxSharedFlits : Nat := 2048 - 14 * rxDedicated

/-- The HELLO of a port (R387, R392). -/
def helloWord (s : State) (p : Nat) : Nat :=
  7 + 0x10 * 2 ^ 4 + 0b0010 * 2 ^ 12 + 2 ^ 16 + pget s .portCtrl p 0 7 7 * 2 ^ 17 + ownFeid * 2 ^ 18
    + rxDedicated * 2 ^ 38 + rxSharedFlits * 2 ^ 45 + popCount 2 (usableLanes s p) * 2 ^ 57

/-- Phase 2 begins: ALIGN on every lane that trained. -/
def toPhase2 (s : State) (p : Nat) : State :=
  let s := modPort s p (fun q => { q with phase := 2 })
  let e := (getPort s p).equalised.toNat &&& usableLanes s p
  ((upTo 0 2).filter (fun l => e.testBit l)).foldl (fun s l => sendAlignOn s p l) s

/-- Phase 3 begins: HELLO. -/
def toPhase3 (s : State) (p : Nat) : State := sendWord (modPort s p (fun q => { q with phase := 3 })) p (helloWord s p)

/-- Phases 1 and 2 end once every usable lane has done their work. -/
def advanceTraining (s : State) (p : Nat) : State :=
  let u := usableLanes s p
  let s := if (getPort s p).phase = 1 ∧ pastB6 s ∧ (getPort s p).equalised.toNat &&& u = u ∧ u ≠ 0
    then toPhase2 s p else s
  let q := getPort s p
  let e := q.equalised.toNat &&& u
  if q.phase = 2 ∧ q.aligned.toNat &&& e = e then toPhase3 s p else s

/-- Training fails: FAIL_CAUSE, a count, and a wait of 100 ms. -/
def trainFail (s : State) (p cause : Nat) : State :=
  let s := padd (pset s .portStatus p 0 31 28 cause) .linkCount p 7 47 0 1
  raisePort (modPort s p (fun q => { q with phase := 5, equalised := 0, aligned := 0 })) p 1

/-- The limit of a phase, or the wait, ends. A phase that some usable lane has done goes on with that lane (R394). -/
def trainLimit (s : State) (p : Nat) : State :=
  let q := getPort s p
  let u := usableLanes s p
  let e := q.equalised.toNat &&& u
  match q.phase with
  | 1 =>
    if !pastB6 s then s
    else if e ≠ 0 then advanceTraining (toPhase2 s p) p
    else trainFail s p (if q.signal.toNat &&& u = 0 then 1 else 2)
  | 2 => if q.aligned.toNat &&& e ≠ 0 then toPhase3 s p else trainFail s p 3
  | 3 => trainFail s p 3
  | 5 => startTraining s p
  | _ => s

def execTrainingLimit (port : Nat) (s : State) : Res :=
  if port < 128 then .next (trainLimit s port) else atPort port s

/-- An event at a port lane. -/
def atPortLane (p l : Nat) (s : State) : Res :=
  if p < 128 ∧ l < 2 then .next s else .refused (.noSuchUnit "port lane")

def setBit2 (v : BitVec 2) (l : Nat) : BitVec 2 := v ||| BitVec.ofNat 2 (2 ^ l)
def clearBit2 (v : BitVec 2) (l : Nat) : BitVec 2 := v &&& ~~~(BitVec.ofNat 2 (2 ^ l))

/-- SIGNAL_DETECT. -/
def execSignalDetect (port lane : Nat) (s : State) : Res :=
  atPortLane port lane (modPort s port (fun q => { q with signal := setBit2 q.signal lane }))

/-- Both sides resume the two-lane layout (R400). -/
def rejoin (s : State) (p l : Nat) : State :=
  let s := pset s .portStatus p 0 19 18 3
  let s := pset s .portStatus p 0 9 8 (pget s .portCtrl p 0 1 0)
  let s := fset s .laneStatus (p / 16) (dieLane p l) 0 2 2 0
  modPort (padd s .linkCount p 6 47 0 1) p (fun q => { q with recal := none })

/-- A recalibration whose handshake is complete: the side that began it names the codeword. -/
def recalReady (s : State) (p : Nat) : State :=
  match (getPort s p).recal with
  | none => s
  | some (l, st) =>
    if st.testBit 0 ∧ st.testBit 1 ∧ st.testBit 2 ∧ st.testBit 3 ∧ (usableLanes s p).testBit l then
      let (w, s) := freeWord s
      rejoin (sendWord s p (9 + l * 2 ^ 4 + wbits w 31 0 * 2 ^ 16)) p l
    else s

/-- Note a step of the recalibration of lane l. -/
def recalNote (s : State) (p l b : Nat) : State :=
  match (getPort s p).recal with
  | none => s
  | some (k, st) =>
    if k = l then recalReady (modPort s p (fun q => { q with recal := some (k, st ||| 2 ^ b) })) p else s

/-- A recalibration fails: the port stays in RECOVERY (R400). -/
def recalFails (s : State) (p cause : Nat) : State :=
  raisePort (pset (clearRecal s p) .portStatus p 0 31 28 cause) p 4

/-- Equalisation of a lane is complete: PMD lock, and the polarity it found, a free value (R379). [96] -/
def laneEqualised (s : State) (p l : Nat) : State :=
  let (n, s) := freeBelow 2 s
  fset (fset s .laneStatus (p / 16) (dieLane p l) 0 0 0 1) .laneStatus (p / 16) (dieLane p l) 0 3 3 n

/-- EQUALISATION_COMPLETE: in training, or in a recalibration. -/
def equalised (s : State) (p l : Nat) : State :=
  let q := getPort s p
  if q.phase = 1 ∧ (usableLanes s p).testBit l then
    advanceTraining (modPort (laneEqualised s p l) p (fun q => { q with
      equalised := setBit2 q.equalised l, signal := setBit2 q.signal l })) p
  else if portUp s p ∧ q.recal.any (fun r => r.1 == l) then
    let s := sendWord (laneEqualised s p l) p (10 + l * 2 ^ 4 + 2 ^ 5)
    recalNote (sendAlignOn s p l) p l 0
  else s

def execEqualisationComplete (port lane : Nat) (s : State) : Res := atPortLane port lane (equalised s port lane)

/-- Our port lane that a partner's LANE names (R381). -/
def ownLane (s : State) (p : Nat) (w : Word) : Nat :=
  if pget s .portStatus p 0 17 17 = 1 then 1 - wbits w 4 4 else wbits w 4 4

/-- ALIGN on a lane: lock, deskew and lane-swap detection. -/
def rxAlign (s : State) (p l : Nat) (w : Word) : State :=
  let q := getPort s p
  if q.phase = 2 ∧ q.equalised.getLsbD l then
    let s := fset s .laneStatus (p / 16) (dieLane p l) 0 1 1 1
    let s := pset s .portStatus p 0 17 17 (b2n (wbits w 4 4 != l))
    advanceTraining (modPort s p (fun q => { q with aligned := setBit2 q.aligned l })) p
  else if portUp s p ∧ q.recal.any (fun r => r.1 == l) then
    recalNote (fset s .laneStatus (p / 16) (dieLane p l) 0 1 1 1) p l 3
  else s

def execAlign (port lane : Nat) (word : Word) (s : State) : Res := atPortLane port lane (rxAlign s port lane word)

/-- The partner's HELLO. -/
def partnerOf (w : Word) : PartnerHello :=
  { version := wbits w 11 4, levels := wbits w 15 12, role := wbits w 16 16, degrade := wbit w 17,
    feid := wbits w 37 18, rxDedicated := wbits w 44 38, rxShared := wbits w 56 45, lanes := wbits w 58 57 }

/-- Cause of a failing check of phase 4; none where the checks pass. -/
def helloCause (s : State) (p : Nat) (h : PartnerHello) : Option Nat :=
  if h.version ≠ 0x10 ∨ !h.levels.testBit 1 then some 4
  else if isEdge s p ∧ h.role = 1 ∨ !isEdge s p ∧ h.role = 0 then some 5
  else if h.rxDedicated < 65 then some 6
  else none

/-- Lane layout of R394: 0 where none is possible. -/
def layout (s : State) (p : Nat) (h : PartnerHello) : Nat :=
  let q := getPort s p
  let t := q.equalised.toNat &&& q.aligned.toNat &&& usableLanes s p
  if t = 3 ∧ h.lanes = 2 then 3
  else if pget s .portCtrl p 0 7 7 = 1 ∧ (h.degrade ∨ h.lanes = 1) then
    (if t.testBit 0 then 1 else if t.testBit 1 then 2 else 0)
  else 0

/-- The place of an output in the 64-slot calendar of a plane starts afresh. -/
def freshSlot (out : Nat) (pl : Plane) : Plane := { pl with slot := mapDel pl.slot out }

/-- The port comes UP (R131, R385, R388, R394). -/
def comeUp (s : State) (p : Nat) (h : PartnerHello) (lanes : Nat) : State :=
  let mode := if lanes = 3 then pget s .portCtrl p 0 1 0 else 3
  let s := pset (pset (pset s .portStatus p 0 19 18 lanes) .portStatus p 0 9 8 mode) .portStatus p 0 27 24 1
  let q := getPort s p
  let s := setPort s p { Port.init with
    signal := q.signal, equalised := q.equalised, aligned := q.aligned, partner := some h, rxBuf := q.rxBuf,
    credDed := (upTo 0 14).foldl (fun m v => mapPut m 0 v h.rxDedicated) [], credShared := h.rxShared,
    tokens := fullBuckets q, shape := q.shape }
  setLink { s with planeA := freshSlot p s.planeA, planeB := freshSlot p s.planeB } p 2

/-- HELLO in phase 3, and phase 4. -/
def rxHello (s : State) (p : Nat) (w : Word) : State :=
  if (getPort s p).phase ≠ 3 then s
  else
    let h := partnerOf w
    let s := pset s .portStatus p 0 16 16 h.role
    let s := rset s .partnerInfo (p / 16) (p % 16) 0
      (h.feid + b2n h.degrade * 2 ^ 32 + h.rxDedicated * 2 ^ 33 + h.rxShared * 2 ^ 40)
    match helloCause s p h with
    | some c => trainFail s p c
    | none => if layout s p h = 0 then trainFail s p 9 else comeUp s p h (layout s p h)

def execHello (port : Nat) (word : Word) (s : State) : Res :=
  if port < 128 then .next (rxHello s port word) else atPort port s

/-! ### Lanes (R398-R400) -/

/-- Begin to recalibrate a lane that carries nothing (R400); `own` when this side begins. -/
def recalBegin (s : State) (p l : Nat) (own : Bool) : State :=
  if pget s .portStatus p 0 19 18 = 2 - l ∧ (usableLanes s p).testBit l ∧ (getPort s p).partner.any (fun h => h.lanes == 2)
      ∧ (getPort s p).recal = none then
    let s := fset (fset s .laneStatus (p / 16) (dieLane p l) 0 2 2 1) .laneStatus (p / 16) (dieLane p l) 0 1 0 0
    let s := if own then sendWord s p (10 + l * 2 ^ 4) else s
    modPort s p (fun q => { q with recal := some (l, 4 * b2n own) })
  else s

/-- The partner's LANE_DROP: the answer to ours, after which the lane is to rejoin (R400), or its own. -/
def rxLaneDrop (s : State) (p : Nat) (w : Word) : State :=
  let l := ownLane s p w
  match (getPort s p).dropping with
  | some k =>
    if k = l then recalBegin (modPort s p (fun q => { q with dropping := none })) p l true else linkFails s p 8
  | none =>
    if pget s .portStatus p 0 19 18 = 3 then
      modPort (oneCycle (fun s => dropLane raiseWith s p l) s) p (fun q => { q with dropping := none })
    else if pget s .portStatus p 0 19 18 = 2 ^ l then linkFails s p 8
    else s

def execLaneDrop (port : Nat) (word : Word) (s : State) : Res :=
  if port < 128 then .next (whenUp s port (rxLaneDrop s port word)) else atPort port s

/-- No answer to LANE_DROP within 10 us. -/
def execLaneDropTimeout (port : Nat) (s : State) : Res :=
  if port < 128 then
    .next (whenUp s port (if (getPort s port).dropping.isSome then linkFails s port 8 else s))
  else atPort port s

/-- RECAL_REQ. -/
def rxRecalReq (s : State) (p : Nat) (w : Word) : State :=
  let l := ownLane s p w
  if wbit w 5 then recalNote s p l 1 else recalBegin s p l false

def execRecalReq (port : Nat) (word : Word) (s : State) : Res :=
  if port < 128 then .next (whenUp s port (rxRecalReq s port word)) else atPort port s

/-- LANE_ADD from the side that began the recalibration. -/
def rxLaneAdd (s : State) (p : Nat) (w : Word) : State :=
  let l := ownLane s p w
  match (getPort s p).recal with
  | some (k, st) =>
    if k = l ∧ st.testBit 0 ∧ !st.testBit 2 ∧ (usableLanes s p).testBit l then rejoin s p l else s
  | none => s

def execLaneAdd (port : Nat) (word : Word) (s : State) : Res :=
  if port < 128 then .next (whenUp s port (rxLaneAdd s port word)) else atPort port s

/-- An event at a lane of a port die. -/
def atLane (die l : Nat) (s : State) : Res := if die < 8 ∧ l < 32 then .next s else .refused (.noSuchUnit "lane")

/-- A lane loses PMD or codeword lock (R398, R400, R484). -/
def loseLock (s : State) (die lane : Nat) (cw : Bool) : State :=
  let p := 16 * die + lane / 2
  let l := lane % 2
  let s := fset s .laneStatus die lane 0 1 1 0
  let s := if cw then s else fset s .laneStatus die lane 0 0 0 0
  let s := oneCycle (fun s =>
    let s := raiseWith s (srcLane die lane (b2n cw))
    if portUp s p then dropLane raiseWith s p l
    else modPort s p (fun q => { q with
      aligned := clearBit2 q.aligned l,
      equalised := if cw then q.equalised else clearBit2 q.equalised l,
      signal := if cw then q.signal else clearBit2 q.signal l })) s
  if (getPort s p).recal.any (fun r => r.1 == l) then recalFails s p (if cw then 3 else 2) else s

def execLockLoss (die lane : Nat) (cw : Bool) (s : State) : Res := atLane die lane (loseLock s die lane cw)

/-- More uncorrected codewords than DEGRADE_THRESHOLD in a millisecond: LANE_FEC counts them, and LANE kind 2 reports
them (R379, R398). How many more, and how many were corrected, are free values. [96] -/
def degrade (s : State) (die lane : Nat) : State :=
  let n := fget s .laneCtrl die lane 0 15 0
  if n = 0 then s
  else
    let (u, s) := freeBelow (2 ^ 32) s
    let (c, s) := freeBelow (2 ^ 32) s
    let s := fadd (fadd s .laneFec die lane 0 63 32 (n + 1 + u)) .laneFec die lane 0 31 0 c
    let p := 16 * die + lane / 2
    oneCycle (fun s =>
      let s := raiseWith s (srcLane die lane 2)
      whenUp s p (dropLane raiseWith s p (lane % 2))) s

def execDegradeThreshold (die lane : Nat) (s : State) : Res := atLane die lane (degrade s die lane)

end Sys2Proof.Machine
end

