-- ==== Sys2Proof/Machine/Switch.lean ====
section
/-! DEFINITION. The core planes: the choice of a plane, routing and replication, credits, output scheduling and the
move onto a wadi (R23, R93-R95, R103-R109, R112-R120). -/

namespace Sys2Proof.Machine

/-! ### Credits and cells of a plane -/

/-- Free credits of the link from a die to a plane, over its VCs. -/
def linkCredits (pl : Plane) (link : Nat) : Nat := (upTo (16 * link) 16).foldl (fun n k => n + mapGet pl.credits 0 k) 0

/-- The plane a packet crosses (R23); none when neither is LIVE. -/
def planeFor (s : State) (k : Pkt) : Option Nat :=
  let want := if hOrd k.hdr then k.ordPlane
    else if linkCredits s.planeA k.link < linkCredits s.planeB k.link then 1 else 0
  if planeLive s want then some want else if planeLive s (1 - want) then some (1 - want) else none

/-- ALPHA_c of a plane. -/
def alphaOf (s : State) (pl c : Nat) : Nat := fget s .bufferAlpha (8 + pl) 0 0 (4 * c + 3) (4 * c)

/-- Shared-region cells one (input, VC) may have beyond its floor while `free` are free (R116). -/
def alphaLimit (a free : Nat) : Nat := free * 2 ^ a / 128

/-- Credits returned to an input's VC, up to `n`: the credits then outstanding and the free shared cells (R116). A wadi
VC has its floor alone (R117). -/
def giveCredits (adaptive : Bool) (alpha held : Nat) : Nat → Nat → Nat → Nat
  | 0, out, _ => out
  | n + 1, out, free =>
    if held + out < 65 then giveCredits adaptive alpha held n (out + 1) free
    else if adaptive ∧ 1 ≤ free ∧ held + out - 65 < alphaLimit alpha free then
      giveCredits adaptive alpha held n (out + 1) (free - 1)
    else out

/-- PLANE_CREDIT: credits for one packet of the greatest length. -/
def planeCredit (s : State) (pl link vc : Nat) : State :=
  let p := getPlane s pl
  let k := 16 * link + vc
  let out := mapGet p.credits 0 k
  let out' := giveCredits (vc % 2 == 0) (alphaOf s pl (vc / 2)) (mapGet p.held 0 k) 65 out (sharedFree p)
  noteFree (setPlane s pl { p with credits := mapPut p.credits 0 k out' }) pl

def execPlaneCredit (plane link vc : Nat) (s : State) : Res :=
  if plane < 2 ∧ link < 28 ∧ vc < 14 then .next (if planeLive s plane then planeCredit s plane link vc else s)
  else .refused (.noSuchUnit "plane input")

/-! ### Output queues -/

/-- Cells of a port's staging used by a plane on a VC (R121). -/
def stagedCells (s : State) (pl port vc : Nat) : Nat :=
  (getPort s port).stage.foldl (fun n e => if e.1 = pl ∧ e.2.vc = vc then n + e.2.flits else n) 0

/-- Die that receives a crossbar output (R112). -/
def outputDie (out : Nat) : Nat := if out < 128 then out / 16 else out - 118

/-- Free cells at the next receiver of an output; the dies inside always have room. What is for an Erg die that is off
goes on, and is answered on its behalf (R487). -/
def roomAt (s : State) (pl out vc n : Nat) : Bool :=
  if dieOff s (outputDie out) then decide (26 ≤ outputDie out)
  else if out < 128 then portUp s out && decide (stagedCells s pl out vc + n ≤ 65)
  else true

/-- Wadi packets of an output move, in order of arrival, to its reserve of `room` cells (R117): copies of a multicast
packet and packets moved under R94 stay where they are charged. -/
def claimReserve (vc : Nat) : Nat → List Pkt → List Pkt
  | _, [] => []
  | room, p :: r =>
    if p.inReserve || p.chargeVc != vc || isGroup (hDst p.hdr) then p :: claimReserve vc room r
    else if p.flits ≤ room then { p with inReserve := true } :: claimReserve vc (room - p.flits) r
    else p :: r

/-- Packets of a list that R117 has just moved. -/
def newlyReserved (old new : List Pkt) : List Pkt :=
  ((old.zip new).filter (fun e => e.2.inReserve && !e.1.inReserve)).map (·.2)

/-- R117 on one wadi queue of a plane. -/
def settleReserve (pl : Plane) (out vc : Nat) : Plane :=
  if vc % 2 = 0 then pl
  else
    let k := 16 * out + vc
    let old := mapGet pl.queues [] k
    let new := claimReserve vc (65 - mapGet pl.reserve 0 k) old
    (newlyReserved old new).foldl (fun pl p =>
        { pl with reserve := countAdd pl.reserve k p.flits,
                  held := countSub pl.held (16 * p.link + p.chargeVc) p.flits })
      { pl with queues := mapPut pl.queues [] k new }

/-- A packet, or a copy, joins an output queue (R119). -/
def enqueueOut (s : State) (pl out : Nat) (k : Pkt) : State :=
  modPlane s pl (fun p =>
    let q := 16 * out + k.vc
    settleReserve { p with queues := mapPut p.queues [] q (mapGet p.queues [] q ++ [k]) } out k.vc)

/-! ### Routing (R93, R104, R105, R108) -/

/-- Count a routing event of a plane (R110). -/
def routeCount (s : State) (pl k : Nat) : State := fadd s .routeCount (8 + pl) 0 k 47 0 1

/-- Members of a set of switch ports, ascending. -/
def portsOf (set : BitVec 128) : List Nat := (upTo 0 128).filter (fun p => set.toNat.testBit p)

/-- Free staging cells on a VC of a port, of one plane. -/
def stagingFree (s : State) (pl vc port : Nat) : Nat := 65 - stagedCells s pl port vc

/-- The member with the most free credits, ties going to the first of the list. -/
def mostFree (s : State) (pl vc : Nat) : List Nat → Option Nat
  | [] => none
  | p :: r =>
    match mostFree s pl vc r with
    | none => some p
    | some q => if stagingFree s pl vc p < stagingFree s pl vc q then some q else some p

/-- The adaptive choice of R93, and the state with the rotating pointer advanced. -/
def adaptivePort (s : State) (pl : Nat) (k : Pkt) : Option Nat × State :=
  let ptr := (getPlane s pl).pointer
  let live := (portsOf k.upSet).filter (portUp s)
  let order := live.filter (fun p => decide (ptr ≤ p)) ++ live.filter (fun p => decide (p < ptr))
  match mostFree s pl k.vc order with
  | none => (none, s)
  | some p => (some p, modPlane s pl (fun q => { q with pointer := (q.pointer + 1) % 128 }))

/-- The hashed member of a set (R92). -/
def hashedPort (k : Pkt) (l : List Nat) : Option Nat := l[k.hash % max l.length 1]?

/-- What R93 makes of a packet. -/
inductive Choice where
  | out (port : Nat) (k : Pkt)
  | drop (count : Nat)
  deriving DecidableEq, Repr

/-- A caravan packet's egress port (R108). -/
def caravanEgress (s : State) (k : Pkt) : Option Nat :=
  k.caravan.bind (fun c => (mapFind s.caravans c).map (·.egress))

/-- The port ACTION UP leads to. -/
def upPort (s : State) (pl : Nat) (k : Pkt) : Option Nat × State :=
  match caravanEgress s k with
  | some e => (some e, s)
  | none =>
    if hOrd k.hdr then ((hashedPort k (portsOf k.upSet)).filter (portUp s), s)
    else if k.vc % 2 = 1 then (hashedPort k ((portsOf k.upSet).filter (portUp s)), s)
    else adaptivePort s pl k

/-- R93 for ACTION DOWN and UP; a detour taken is counted, and so is the turn upward of a descending packet, which sets
the detour mark. [102] -/
def choosePort (s : State) (pl : Nat) (k : Pkt) : Choice × State :=
  if entryAction k.entry = 1 then
    if portUp s (entryDown k.entry) then (.out (entryDown k.entry) k, s)
    else if k.vc % 2 = 0 ∧ fget s .routeConfig (8 + pl) 0 0 0 0 = 1 ∧ !k.detour then
      match adaptivePort s pl k with
      | (some p, s) => (.out p { k with detour := true }, routeCount s pl 2)
      | (none, s) => (.drop 0, s)
    else (.drop 0, s)
  else if k.descends ∧ (k.vc % 2 = 1 ∨ k.detour) then (.drop 1, s)
  else
    match upPort s pl k with
    | (none, s) => (.drop 0, s)
    | (some p, s) =>
      if k.descends then (.out p { k with detour := true }, routeCount s pl 2) else (.out p k, s)

/-- A packet discarded in a plane is counted and lost. -/
def routeDrop (s : State) (pl k : Nat) (hdr : Header) : State := lostHeader (routeCount s pl k) hdr

/-- Cells of a packet that gets no output queue come free. -/
def dropHeld (s : State) (pl : Nat) (k : Pkt) : State :=
  modPlane s pl (fun p => { p with held := countSub p.held (16 * k.link + k.chargeVc) k.flits })

/-- Crossbar output of the consumer of a packet delivered here (R56). -/
def consumerOutput (s : State) (h : Header) : Nat :=
  let k := hKind h
  let hankOut (f : Hank → Nat) : Nat := match getHank s (hHank h) with
    | some hk => outputOf (f hk)
    | none => outputOf 10
  if [kPut, kGet, kAtomic, kPutFwd, kAtomicFwd, kBulkPut, kSignal, kBulkSignal].contains k then outputOf (ownerOf h.w4)
  else if k = kContrib ∨ k = kTallyUp then
    hankOut (fun hk => if hk.d.type = 5 ∨ hk.d.type = 6 then hankDie hk.d
      else slotKey s hk.d (seqOf hk (hStep h) (hAux h) % hk.d.slotBudget) / 32)
  else if k = kGetData ∨ k = kAck ∨ k = kAtomicRsp then
    let o := bits (hTag h) 31 28
    if o = 1 ∨ o = 2 then outputOf (10 + bits (hTag h) 27 24)
    else if o = 3 then outputOf (26 + bits (hTag h) 27 26)
    else outputOf 10
  else hankOut (fun hk => hankDie hk.d)

/-- Caravans open in a plane: its die forgets them in a reset of its own (R107, R500). -/
def planeCaravans (s : State) (pl : Nat) : SMap Caravan :=
  s.caravans.filter (fun e => !(getPlane s pl).forgotten.contains e.1)

/-- The caravan a packet belongs to in a plane (R108): the lowest-numbered of those that it fits. [22] -/
def caravanOf (s : State) (pl : Nat) (k : Pkt) : Option Nat :=
  if kindClass (hKind k.hdr) ≠ 6 ∨ hOrd k.hdr then none
  else
    ((planeCaravans s pl).find? (fun e =>
      k.inPort == some e.2.ingress && decide (e.2.feidLo ≤ hDst k.hdr) && decide (hDst k.hdr ≤ e.2.feidHi)
        && ((entryAction k.entry == 1 && entryDown k.entry == e.2.egress)
          || (entryAction k.entry == 2 && k.upSet.toNat.testBit e.2.egress && portUp s e.2.egress)))).map (·.1)

/-- A unicast packet in a plane. -/
def routeOne (s : State) (pl : Nat) (k : Pkt) : State :=
  if entryAction k.entry = 3 then enqueueOut s pl (consumerOutput s k.hdr) k
  else
    match choosePort s pl { k with caravan := caravanOf s pl k } with
    | (.out p k, s) => enqueueOut s pl p k
    | (.drop n, s) => routeDrop (dropHeld s pl k) pl n k.hdr

/-- The multicast entry of a group in a plane; 0 while the bank is empty. -/
def mcastEntry (p : Plane) (feid : Nat) : Nat :=
  match p.mcActive with
  | none => 0
  | some img => (mapGet img.entries 0 (feid - 0xE0000)).toNat

/-- Copies of a multicast packet, one per masked port; `sent` tells whether some copy stands in a queue. -/
def mcastCopies (pl : Nat) (k : Pkt) : List Nat → State × Bool → State × Bool
  | [], r => r
  | p :: rest, (s, sent) =>
    if portUp s p then mcastCopies pl k rest (enqueueOut s pl p k, true)
    else mcastCopies pl k rest (routeCount s pl 0, sent)

/-- A multicast packet in a plane (R103-R105). A copy towards a port that is not LIVE is lost. -/
def routeMany (s : State) (pl : Nat) (k : Pkt) : State :=
  let e := mcastEntry (getPlane s pl) (hDst k.hdr)
  if !e.testBit 128 then
    let s := dropHeld s pl k
    match k.inPort with
    | some p => discardAt s p 9 k.hdr k.raw
    | none => lostHeader s k.hdr
  else if e % 2 ^ 128 = 0 ∧ !e.testBit 129 then routeCount (dropHeld s pl k) pl 4
  else
    let ports := portsOf (BitVec.ofNat 128 e)
    let lost := ports.any (fun p => !portUp s p)
    let (s, sent) := mcastCopies pl k ports (s, false)
    let s := if e.testBit 129 then enqueueOut s pl (consumerOutput s k.hdr) k else s
    let s := if sent ∨ e.testBit 129 then s else dropHeld s pl k
    if lost then lostHeader s k.hdr else s

/-! ### Arrival at a plane -/

/-- Take a packet out of its input link's line. -/
def takeReady (s : State) (k : Pkt) : State :=
  setReady s k.link (removeFirst (fun x => x.uid == k.uid) (getReady s k.link))

/-- A packet whose sender finds no plane LIVE (R526). -/
def noPlane (s : State) (k : Pkt) : State :=
  match k.inPort with
  | some p => discardPkt (takeReady s k) p 11 k
  | none => lostHeader (takeReady s k) k.hdr

/-- The packet with its entry: a die looks up what it originates here; none where it has no route (R53, R55, R102). -/
def entered (s : State) (k : Pkt) : Option Pkt :=
  match k.inPort with
  | some _ => some k
  | none =>
    let dst := hDst k.hdr
    if isGroup dst then (if mayMulticast (hKind k.hdr) then some (withEntry s k 0) else none)
    else
      let e := routeEntry s dst
      if entryAction e = 0 ∨ (entryAction e = 3 ∧ !consumes (hKind k.hdr)) then none else some (withEntry s k e)

/-- Packets of one input port and VC: their order is kept where they leave by one output and VC (R78). -/
def sameInput (k x : Pkt) : Bool := k.inPort.isSome && x.inPort == k.inPort && x.chargeVc == k.vc

/-- Ordered packets of one class, source and destination (R99). -/
def sameFlow (k x : Pkt) : Bool :=
  hOrd k.hdr && hOrd x.hdr && pktClass x == pktClass k && hSrc x.hdr == hSrc k.hdr && hDst x.hdr == hDst k.hdr

/-- A packet is held at its input while an older one that it may not overtake stands in the other plane, or waits in this
one for another consumer (R78, R99). [103] -/
def mustWait (s : State) (pl : Nat) (k : Pkt) : Bool :=
  (getPlane s (1 - pl)).queues.any (fun e => e.2.any (sameInput k))
    || (entryAction k.entry == 3 && (getPlane s pl).queues.any (fun e =>
        decide (128 ≤ e.1 / 16) && e.1 / 16 != consumerOutput s k.hdr && e.2.any (sameFlow k)))

/-- The packet crosses to a plane that has its cells; the checks of R68 are done with it. -/
def cross (s : State) (pl : Nat) (k : Pkt) : State :=
  let key := 16 * k.link + k.vc
  let p := getPlane s pl
  if mapGet p.credits 0 key < k.flits ∨ mustWait s pl k then s
  else
    let s := settleSample (takeReady s k) k none
    let k := { k with ordPlane := pl, sample := false }
    let s := match k.inPort with
      | some q => releaseRx s q k.uid
      | none => s
    let s := modPlane s pl (fun p => { p with credits := countSub p.credits key k.flits,
                                              held := countAdd p.held key k.flits })
    let s := noteFree s pl
    if isGroup (hDst k.hdr) then routeMany s pl k else routeOne s pl k

/-- Die a crossbar input comes from (R112). -/
def inputDie (link : Nat) : Nat := if link < 8 then link else link + 2

/-- PLANE_ROUTE. A die that is off sends nothing; for an Erg die the planes answer (R487). -/
def planeRoute (s : State) (link vc : Nat) : State :=
  if dieOff s (inputDie link) ∧ inputDie link < 26 then s
  else match (getReady s link).find? (fun k => k.vc == vc) with
  | none => s
  | some k =>
    if !anyPlane s then noPlane s k
    else
      match entered s k with
      | none => lostHeader (takeReady s k) k.hdr
      | some k =>
        match planeFor s k with
        | none => s
        | some pl => cross s pl k

def execPlaneRoute (link vc : Nat) (s : State) : Res :=
  if link < 28 ∧ vc < 14 then .next (planeRoute s link vc) else .refused (.noSuchUnit "crossbar input")

/-! ### Output scheduling (R120) -/

/-- Head of a VC queue of an output. -/
def queueHead (p : Plane) (out vc : Nat) : Option Pkt := (mapGet p.queues [] (16 * out + vc)).head?

/-- The head of a VC queue for which the next receiver has room. -/
def ready (s : State) (pl out vc : Nat) : Option Pkt :=
  (queueHead (getPlane s pl) out vc).filter (fun k => roomAt s pl out vc k.flits)

/-- The caravan that holds calendar slot `n`, its caravans laid out in the order of their numbers. -/
def slotCaravan (out : Nat) : List (Nat × Caravan) → Nat → Option Nat
  | [], _ => none
  | (c, v) :: r, n =>
    if v.egress ≠ out then slotCaravan out r n
    else if n < v.rate then some c
    else slotCaravan out r (n - v.rate)

/-- VCs in round-robin order from `next` on. -/
def rotate (next : Nat) (l : List Nat) : List Nat :=
  l.filter (fun v => decide (next ≤ v)) ++ l.filter (fun v => decide (v < next))

/-- The queue head R120 chooses, and the round-robin pointer it moves. -/
def scheduleChoice (s : State) (pl out : Nat) : Option (Pkt × Option Nat) :=
  let p := getPlane s pl
  let reservedFor := slotCaravan out (planeCaravans s pl) (mapGet p.slot 0 out)
  let car := [13, 12].findSome? (fun vc =>
    (ready s pl out vc).filter (fun k => k.caravan.isSome && k.caravan == reservedFor))
  match car with
  | some k => some (k, none)
  | none =>
    let rr (tier : Nat) (l : List Nat) : Option (Pkt × Option Nat) :=
      ((rotate (mapGet p.rr 0 (2 * out + tier)) l).findSome? (ready s pl out)).map (fun k => (k, some (2 * out + tier)))
    match rr 0 [1, 3, 5, 7, 9, 11, 13] with
    | some r => some r
    | none =>
      match [10, 8].findSome? (ready s pl out) with
      | some k => some (k, none)
      | none => rr 1 [0, 2, 4, 6, 12]

/-- The chosen packet goes to its output's receiver. -/
def dispatchOut (s : State) (pl out : Nat) (k : Pkt) : State :=
  let s := modPlane s pl (fun p =>
    let q := 16 * out + k.vc
    let p := { p with queues := mapPut p.queues [] q ((mapGet p.queues [] q).drop 1) }
    settleReserve (freeCells p out k) out k.vc)
  let s := modPlane s pl (fun p => { p with stalled := p.stalled.filter (· != out) })
  if out < 128 then modPort s out (fun q => { q with stage := q.stage ++ [(pl, k)] })
  else setInbox s (outputDie out) (getInbox s (outputDie out) ++ [k])

/-! ### The move onto a wadi (R94) -/

/-- WADI_MOVE of the head of an adaptive queue. -/
def wadiMove (s : State) (pl out vc : Nat) : State :=
  match queueHead (getPlane s pl) out vc with
  | none => s
  | some k =>
    if roomAt s pl out vc k.flits || !roomAt s pl out (vc + 1) k.flits then s
    else
      let s := modPlane s pl (fun p =>
        { p with queues := mapPut p.queues [] (16 * out + vc) ((mapGet p.queues [] (16 * out + vc)).drop 1) })
      let s := routeCount s pl 3
      let k := { k with vc := vc + 1 }
      if isGroup (hDst k.hdr) ∨ 128 ≤ out then enqueueOut s pl out k
      else
        match choosePort s pl k with
        | (.out p k, s) => enqueueOut s pl p k
        | (.drop n, s) => routeDrop (modPlane s pl (fun p => freeCells p out k)) pl n k.hdr

def execWadiMove (plane output vc : Nat) (s : State) : Res :=
  if plane < 2 ∧ output < 148 ∧ vc < 14 ∧ vc % 2 = 0 then
    .next (if planeLive s plane then wadiMove s plane output vc else s)
  else .refused (.noSuchUnit "adaptive queue")

/-! ### Scheduling decisions (R120) -/

/-- WADI_WAIT is 0: an adaptive head that this scheduling attempt finds without credit moves at once (R94). -/
def moveAtOnce (s : State) (pl out : Nat) : State :=
  if fget s .routeConfig (8 + pl) 0 0 31 16 = 0 then
    [0, 2, 4, 6, 8, 10, 12].foldl (fun s vc => wadiMove s pl out vc) s
  else s

/-- One scheduling decision of an output. -/
def schedule (s : State) (pl out : Nat) : State :=
  let s := moveAtOnce s pl out
  let choice := scheduleChoice s pl out
  let s := modPlane s pl (fun p => { p with slot := mapPut p.slot 0 out ((mapGet p.slot 0 out + 1) % 64) })
  match choice with
  | none => s
  | some (k, r) =>
    let s := match r with
      | some t => modPlane s pl (fun p => { p with rr := mapPut p.rr 0 t (k.vc + 1) })
      | none => s
    dispatchOut s pl out k

/-- An event at an output of a plane. -/
def atOutput (plane out : Nat) (s : State) : Res :=
  if plane < 2 ∧ out < 148 then .next s else .refused (.noSuchUnit "plane output")

def execSchedule (plane output : Nat) (s : State) : Res :=
  atOutput plane output (if planeLive s plane && !scanOpen s (8 + plane) then schedule s plane output else s)

/-! ### The output-stall watchdog (R494) -/

/-- Packets wait at an output. -/
def outputWaits (p : Plane) (out : Nat) : Bool := (upTo 0 14).any (fun vc => (queueHead p out vc).isSome)

/-- OUTPUT_WD elapses with packets waiting and none sent: one event in an episode. -/
def outputStall (s : State) (pl out : Nat) : State :=
  let p := getPlane s pl
  if fget s .outputWd (8 + pl) 0 0 15 0 ≠ 0 ∧ outputWaits p out ∧ !p.stalled.contains out then
    raiseFault (setPlane s pl { p with stalled := insNat p.stalled out }) (srcOutput pl out)
  else s

def execOutputStall (plane output : Nat) (s : State) : Res :=
  atOutput plane output (if planeLive s plane then outputStall s plane output else s)

end Sys2Proof.Machine
end

