-- ==== Sys2Proof/Machine/Views.lean ====
section
/-! DEFINITION. What a register reads as: the registers whose fields show other state of the part, and R35's read of
one register (R28, R39, R110, R111, R135, R136, R241, R242, R287, R342, R374-R376, R402, R435, R449, R450, R481, R482,
R503-R507). -/

namespace Sys2Proof.Machine

/-! ### Core dies -/

/-- ROUTE_GEN and MCAST_GEN: generation of the active image, shadow state, active bank. -/
def genWord (gen : Option (BitVec 32)) (shadow loading : Bool) (bank : Nat) : Nat :=
  (gen.map (·.toNat)).getD 0 * 2 ^ 32 + (if loading then 1 else 2 * b2n shadow) * 2 + bank

/-- A running table load of a route image, and whether it names a multicast image. -/
def mcastLoading (s : State) : Bool :=
  s.ops.any (fun e => e.2.state == 0 && e.2.code == 1 && e.2.params.headD 0 == 1 && e.2.params.getD 3 0xF != 0xF)

/-- ROUTE_TOPOLOGY. -/
def topologyWord (img : Option RouteImage) : Nat :=
  match img with
  | none => 0
  | some i => i.treeLevels + i.switchLevel * 4 + i.ordPlanes * 16 + i.hashSeed.toNat * 64

/-- Word k of a set of switch ports. -/
def setWord (v : BitVec 128) (k : Nat) : Nat := v.toNat / 2 ^ (64 * k) % 2 ^ 64

/-- CARAVAN_A_n and CARAVAN_B_n. -/
def caravanWordA (c : Option Caravan) : Nat :=
  match c with
  | none => 0
  | some v => 2 ^ 63 + v.rate * 2 ^ 16 + v.egress * 2 ^ 8 + v.ingress
def caravanWordB (c : Option Caravan) : Nat :=
  match c with
  | none => 0
  | some v => v.feidHi * 2 ^ 20 + v.feidLo

/-! ### Spindle dies -/

/-- The engine is stopped: IDLE or HALTED. -/
def engineStopped (e : Engine) : Bool := e.state == .idle || e.state == .halted

/-- The flags of a spindle, without those that waits which have ended clear (R320). -/
def flagsNow (sp : Spindle) : Word := sp.flags &&& ~~~sp.clearing

/-- An IN.GET is outstanding or an Outlet packet unanswered. -/
def fetchBusy (sp : Spindle) : Bool :=
  sp.engines.any (fun e => e.2.gets != [] || e.2.sent.any (fun r => r.answered.isNone))

/-- SPINDLE_STATUS. -/
def spindleStatusWord (s : State) (key : Nat) : Nat :=
  let sp := getSp s key
  let l := logicalOf s key
  (upTo 0 4).foldl (fun n e => n + b2n (engineStopped (spEngine sp e)) * 2 ^ e) 0
    + b2n sp.imageLoaded * 2 ^ 5 + b2n (sp.queues == []) * 2 ^ 6 + b2n (fetchBusy sp) * 2 ^ 7
    + l.getD 0 * 2 ^ 16 + b2n (spindleLive s key) * 2 ^ 24 + b2n l.isSome * 2 ^ 25

/-- Length of the free run of granules that starts at `a`. -/
def freeRun (cl : List Claim) (limit a : Nat) : Nat :=
  if cl.any (fun c => decide (c.start ≤ a) && decide (a < c.start + c.len)) then 0
  else (cl.foldl (fun n c => if a ≤ c.start then min n c.start else n) limit) - a

/-- SLOT_USED. -/
def slotUsedWord (s : State) (key : Nat) : Nat :=
  let cl := (getSp s key).claims
  let limit := fget s .slotLimit (key / 32) (key % 32) 0 11 0
  let largest := ((0 :: cl.map (fun c => c.start + c.len)).map (freeRun cl limit)).foldl max 0
  cl.foldl (fun n c => n + c.len) 0 + largest * 2 ^ 16

/-- Code of an engine state (R242). -/
def stateCode : EState → Nat
  | .idle => 0
  | .running => 1
  | .held => 2
  | .waiting => 3
  | .halted => 4
  | .faulted => 5

/-- ENGINE_STATUS. -/
def engineStatusWord (e : Engine) : Nat := e.pc % 8192 + stateCode e.state * 2 ^ 13 + e.hold * 2 ^ 16

/-- WHORL_STATUS. -/
def whorlStatusWord (e : Engine) : Nat :=
  let on := (upTo 0 4).filter (fun n => (mapGet e.lreg whorlInit n).active)
  on.length + on.foldl (fun m n => m + 2 ^ (4 + n)) 0
where
  whorlInit : Whorl := { programmed := 0, remaining := 0, first := 0, last := 0, active := false, level := 0 }

/-- PC_TRACE_n. -/
def traceWord (t : Option (Nat × Nat)) : Nat :=
  match t with
  | none => 0
  | some (c, pc) => c % 2 ^ 32 * 2 ^ 32 + 2 ^ 13 + pc

/-- Barchan b of a spindle. -/
def getBarchan (sp : Spindle) (b : Nat) : Barchan := mapGet sp.barchans Barchan.init b

/-- BARCHAN_STATE_b. -/
def barchanStateWord (b : Barchan) : Nat :=
  b2n b.sense + popCount 64 b.cur.toNat * 2 ^ 8 + popCount 64 b.next.toNat * 2 ^ 16 + b.releases.toNat * 2 ^ 32

/-! ### Erg dies -/

/-- Pages of a tier that are exposed or of the management area (R346, R349). -/
def pageServes (s : State) (die tier p : Nat) : Bool :=
  decide (p < exposed s die tier) || (tier == 0 && decide (48128 ≤ p))

/-- Tier of a channel, and its physical pages. -/
def channelTier (ch : Nat) : Nat := if ch < 32 then 0 else 1
def channelPages (ch : Nat) : Nat := if ch < 32 then 1536 else 4096

/-- Pages that serve and lie on a channel. -/
def mappedPages (s : State) (die ch : Nat) : List Nat :=
  (upTo 0 49152).filter (fun p =>
    pageServes s die (channelTier ch) p && pageHome s die (channelTier ch) p / 8192 == ch)

/-- Key of a physical page among the retired ones. -/
def physKey (die ch page : Nat) : Nat := chanKey die ch * 8192 + page

/-- Physical pages of a channel that are retired. -/
def retiredPages (s : State) (die ch : Nat) : Nat :=
  if unitState s die 0x19 ch = .retired then channelPages ch
  else (s.erg.retired.filter (fun e => e.1 / 8192 == chanKey die ch)).length

/-- CHANNEL_STATUS. -/
def channelStatusWord (s : State) (die ch : Nat) : Nat :=
  let mapped := (mappedPages s die ch).length
  let state := if unitContained s die 0x19 ch then 3
    else match unitState s die 0x19 ch with
      | .live => 0
      | .retired => 2
      | _ => 1
  state + (channelPages ch - mapped - retiredPages s die ch) * 2 ^ 16 + mapped * 2 ^ 32
    + retiredPages s die ch * 2 ^ 48

/-- PAGE_QUERY. -/
def pageQueryWord (s : State) (die : Nat) : Nat :=
  let v := rget s .pageQuery die 0 0
  let page := bits v 15 0
  let tier := bits v 16 16
  let m := pageHome s die tier page
  bits v 16 0 + m / 8192 * 2 ^ 24 + m % 8192 * 2 ^ 32 + b2n (tier == 0 && decide (48128 ≤ page)) * 2 ^ 48
    + b2n (decide (page < exposed s die tier)) * 2 ^ 49

/-! ### Ports -/

/-- SHAPE_TOKENS_c: both buckets, each modulo 2^32. [101] -/
def tokensWord (q : Port) (c : Nat) : Nat := unsigned 32 (bucket q c) + unsigned 32 (bucket q (8 + c)) * 2 ^ 32

/-! ### Control dies -/

/-- Firmware image banks of a module as shipped: Lumori's release images in CURRENT and PREVIOUS (R524). [6] -/
def shippedBoot (die : Nat) : Boot :=
  let k := dieKind die
  { current := some { dieKind := k, svn := 0, authentic := true, measurement := padTo 64 (Config.releaseMeasurement (2 * k)) },
    previous := some { dieKind := k, svn := 0, authentic := true,
                       measurement := padTo 64 (Config.releaseMeasurement (2 * k + 1)) },
    staged := none, bank := 0, running := none, verifyFailed := false }

/-- Boot state of a die. -/
def getBoot (s : State) (die : Nat) : Boot := (mapFind s.sec.boot die).getD (shippedBoot die)
def setBoot (s : State) (die : Nat) (b : Boot) : State := modSec s (fun c => { c with boot := mapIns c.boot die b })

/-- FW_STATUS_d. -/
def fwStatusWord (b : Boot) : Nat :=
  ((b.running.map (·.svn)).getD 0) % 2 ^ 16 + b.bank * 2 ^ 16 + b2n b.staged.isSome * 2 ^ 18 + b2n b.verifyFailed * 2 ^ 19

/-- Code of a key slot's state. -/
def keyCode : KeyState → Nat
  | .empty => 0
  | .active => 1
  | .revoked => 2

/-- OWNER_SLOTS. -/
def ownerSlots (s : State) : Nat :=
  (s.sec.keys.zipIdx).foldl (fun n e => n + keyCode e.1.1 * 4 ^ e.2) 0

/-- Level of the open session. -/
def debugLevel (s : State) : Nat := (s.sec.session.map (·.level)).getD 0

/-- What IDCODE of the test access port reads (R518). -/
def tapIdcode : BitVec 32 := 0x190324A7

/-- The dies the module's test chain passes through, in ascending number; every other die is bypassed, and
outside a D3 session the chain offers IDCODE and BYPASS only (R470, R518). -/
def tapChain (s : State) : List Nat :=
  match s.sec.session with
  | none => []
  | some x => if x.level = 3 then (List.range 32).filter (fun d => x.dies.toNat.testBit d) else []

/-- SEC_STATUS. -/
def secStatusWord (s : State) : Nat :=
  s.sec.lifecycle + ownerSlots s * 2 ^ 8 + debugLevel s * 2 ^ 16 + s.sec.history.toNat * 2 ^ 20
    + b2n s.sec.zeroising * 2 ^ 24 + s.sec.bootCount.toNat * 2 ^ 32

/-- The 11 ASCII bytes of R453. -/
def idLabel : List Byte := [0x4C, 0x4D, 0x48, 0x2D, 0x39, 0x30, 0x33, 0x32, 0x2D, 0x49, 0x44]

/-- Identity private key (R453). -/
def identityKey : List Byte := shake256 57 (padTo 32 Config.identitySeed ++ idLabel)

/-- Identity public key. -/
def identityPublicKey : List Byte := edPublic identityKey

/-- Containable units of a die (R487): class and count. -/
def containable (die : Nat) : List (Nat × Nat) :=
  match dieKind die with
  | 0 => [(0x01, 16), (0x02, 32)]
  | 2 => [(0x10, 17)]
  | 3 => [(0x19, 44), (0x1A, 2), (0x1B, 3), (0x1C, 256)]
  | _ => []

/-- Units of a die that are contained (R487, R503). -/
def containedUnits (s : State) (die : Nat) : Nat :=
  (containable die).foldl (fun n e =>
    n + ((upTo 0 e.2).filter (fun i => unitExists die e.1 i && unitContained s die e.1 i)).length) 0

/-- CP_STATUS; the control port is DOWN until B0 has it train (R411). -/
def cpStatusWord (s : State) (die : Nat) : Nat :=
  let ph := s.module.phase * 2 ^ 16
  if die = activeDie s then
    (if cpUp s then 2 else if s.module.phase = 0 then 0 else 1) + b2n (cpUp s) * 2 ^ 4 + s.cp.laneLock.toNat * 2 ^ 8 + 2 ^ 15 + ph
  else ph

/-- A value of a clock read as the rest of a word. -/
def withFree (s : State) (base shift n : Nat) : Word × State :=
  let (v, s) := freeBelow n s
  (word (base + v * 2 ^ shift), s)

/-! ### One register -/

/-- What a register reads as: die, instance, index (R35). -/
def readReg (s : State) (r : Reg) (die inst k : Nat) : Word × State :=
  let v := rget s r die inst k
  let key := 32 * die + inst
  let ekey := 32 * die + inst / 4
  let out (n : Nat) : Word × State := (word n, s)
  match r with
  | .stewardInfo => out (0x100000 + dieKind die * 2 ^ 8 + die)
  | .localCycleCount => freeCycle s
  | .dieClock => out (v + b2n ((getDie s die).relock.isNone && !(getDie s die).unlocked) * 2 ^ 16)
  | .routeGen =>
    let p := getPlane s (die - 8)
    out (genWord (p.active.map (·.generation)) p.shadow.isSome p.loading p.bank)
  | .routeTopology => out (topologyWord (getPlane s (die - 8)).active)
  | .upPorts => out (setWord (((getPlane s (die - 8)).active.map (·.upPorts)).getD 0) k)
  | .upSet => out (setWord ((((getPlane s (die - 8)).active.map (·.upSets)).getD []).getD (k / 2) 0) (k % 2))
  | .caravanA => out (caravanWordA (mapFind (planeCaravans s (die - 8)) k))
  | .caravanB => out (caravanWordB (mapFind (planeCaravans s (die - 8)) k))
  | .mcastGen =>
    let p := getPlane s (die - 8)
    out (genWord (p.mcActive.map (·.generation)) p.mcShadow.isSome (p.loading && mcastLoading s) p.mcBank)
  | .bufferFree => out (bits v 53 32 * 2 ^ 32 + sharedFree (getPlane s (die - 8)))
  | .shapeTokens => out (tokensWord (getPort s (16 * die + inst)) k)
  | .spindleStatus => out (spindleStatusWord s key)
  | .slotUsed => out (slotUsedWord s key)
  | .engineStatus => out (engineStatusWord (getEng s ekey (inst % 4)))
  | .whorlStatus => out (whorlStatusWord (getEng s ekey (inst % 4)))
  | .syncFlags => out (flagsNow (getSp s key)).toNat
  | .barchanMembers => out (getBarchan (getSp s key) k).members.toNat
  | .barchanCur => out (getBarchan (getSp s key) k).cur.toNat
  | .barchanNext => out (getBarchan (getSp s key) k).next.toNat
  | .barchanState => out (barchanStateWord (getBarchan (getSp s key) k))
  | .pageQuery => out (pageQueryWord s die)
  | .channelStatus => out (channelStatusWord s die inst)
  | .poolStatus => out (bits v 52 32 * 2 ^ 32 + poolFree s inst)
  | .creditVc =>
    let q := getPort s (16 * die + inst)
    out (mapGet q.credDed 0 k % 128 + b2n (vcStalled q k) * 2 ^ 16)
  | .creditShared =>
    let q := getPort s (16 * die + inst)
    out (q.credShared % 4096 + replayFlits q % 4096 * 2 ^ 16)
  | .cpStatus => out (cpStatusWord s die)
  | .eventQueue => out (min (eventBytes s.cp) 8388607 + bits v 55 32 * 2 ^ 32)
  | .moduleState => out (s.module.state + b2n s.module.tripped * 8 + s.module.resetCause * 2 ^ 8)
  | .thermalStatus => out (v + b2n (dieKind die == 4 && s.module.tripSeen) * 2 ^ 17)
  | .secStatus => out (secStatusWord s)
  | .debugScope => out ((s.sec.session.map (·.dies.toNat)).getD 0)
  | .debugRemaining =>
    match s.sec.session.bind (·.lifetime) with
    | none => out 0
    | some n => withFree s 0 0 (min (n + 1) (2 ^ 48))
  | .secNonce => (wordAt s.sec.nonce (8 * k), s)
  | .minSvn => out (s.sec.minSvn.getD k 0)
  | .ownerHash => (wordAt (((s.sec.keys.map (·.2)).getD (k / 8) [])) (8 * (k % 8)), s)
  | .identityPublic => (wordAt identityPublicKey (8 * k), s)
  | .fwStatus => out (fwStatusWord (getBoot s k))
  | .pcTrace => out (traceWord ((getEng s ekey (inst % 4)).trace[k]?))
  | .engineS => (mapGet (getEng s ekey (inst % 4)).sreg 0 k, s)
  | .engineP => out (getEng s ekey (inst % 4)).preg.toNat
  | .containment => out (b2n (getDie s die).contained + containedUnits s die * 2 ^ 32)
  | .watchdogStatus =>
    let e := getEng s ekey (inst % 4)
    if e.state = .waiting ∨ e.state = .held then withFree s (bits v 63 32 * 2 ^ 32) 0 (2 ^ 32)
    else out (bits v 63 32 * 2 ^ 32)
  | .failoverStatus => out (s.module.standby + s.module.failovers % 2 ^ 32 * 2 ^ 32)
  | .errCtrl => out (v + b2n s.module.errLow * 2 ^ 33 - bits v 33 33 * 2 ^ 33)
  | .faultStore => out (oldestRecord s + s.nextRecord.toNat * 2 ^ 32)
  | .spindleMapStatus => out (v % 2 ^ 22 + b2n (spareReady s die) * 2 ^ 22)
  | .stopStatus => out (s.module.stopId * 2 ^ 48 + b2n s.module.stopHeld)
  | .unitRelease => out 0
  | .secRequest => out 0
  | .dieReboot => out 0
  | _ => out v

/-- COUNT registers of one unit from an offset on, each taken by itself (R421). -/
def readRegs : State → List (Reg × Nat) → Nat → Nat → List Word × State
  | s, [], _, _ => ([], s)
  | s, (r, k) :: rest, die, inst =>
    let (w, s) := readReg s r die inst k
    let (ws, s) := readRegs s rest die inst
    (w :: ws, s)

end Sys2Proof.Machine
end

