-- ==== Sys2Proof/Machine/Secure.lean ====
section
/-! DEFINITION. The security root: verified boot, signed objects, security requests, debug sessions and attestation
(R451-R482). -/

namespace Sys2Proof.Machine

/-! ### Verified boot (R461-R465) -/

/-- An image verifies for a die (R462). -/
def fwVerifies (s : State) (die : Nat) (i : FwImage) : Bool :=
  i.authentic && i.dieKind == dieKind die && decide (s.sec.minSvn.getD (dieKind die) 0 ≤ i.svn)

/-- A bank that holds an image that verifies; and one that holds an image that does not. -/
def bankGood (s : State) (die : Nat) (b : Option FwImage) : Bool := b.any (fwVerifies s die)
def bankBad (s : State) (die : Nat) (b : Option FwImage) : Bool := b.any (fun i => !fwVerifies s die i)

/-- R463: the boot state after the loader has run, and the number of verifications that failed. -/
def loaderRun (s : State) (die : Nat) (b : Boot) : Boot × Nat :=
  if bankGood s die b.staged then
    ({ b with previous := b.current, current := b.staged, staged := none, bank := 0, running := b.staged,
              verifyFailed := false }, 0)
  else
    let n := b2n (bankBad s die b.staged)
    let b := { b with staged := none }
    if bankGood s die b.current then
      ({ b with bank := 0, running := b.current, verifyFailed := decide (0 < n) }, n)
    else
      let n := n + b2n (bankBad s die b.current)
      if bankGood s die b.previous then
        ({ b with bank := 1, running := b.previous, verifyFailed := decide (0 < n) }, n)
      else
        let n := n + b2n (bankBad s die b.previous)
        ({ b with bank := 2, running := none, verifyFailed := decide (0 < n) }, n)

/-- DETAIL of BOOT_VERIFY: FW_STATUS of the die (R490). -/
def fwDetail (s : State) (die : Nat) : List Word := [word (fwStatusWord (getBoot s die))]

/-- `n` events of a die's boot-verification source. -/
def raiseBoot (die : Nat) : Nat → State → State
  | 0, s => s
  | n + 1, s => raiseBoot die n (raiseDetail s (srcSteward die 1) (fwDetail s die))

/-- Boot a die: whether it has a running image. Each verification that fails raises an event, but the one a caller
keeps for its own report when no image verifies. -/
def bootDie (s : State) (die : Nat) : Bool × State :=
  let (b, n) := loaderRun s die (getBoot s die)
  let s := setBoot s die b
  if b.running.isSome then (true, raiseBoot die n s) else (false, raiseBoot die (n - 1) s)

/-- The die runs no code. -/
def stopCode (s : State) (die : Nat) : State := setBoot s die { getBoot s die with running := none, bank := 2 }

/-- A fresh attestation key (R467). -/
def newAttestKey (s : State) : State :=
  let (n, s) := takeNoise 57 s
  modSec s (fun c => { c with attestKey := some (shake256 57 (n ++ natBytes 4 c.bootCount.toNat)) })

/-- What the security root does at every cold or warm reset (R458, R467, R480). -/
def securityReset (s : State) : State :=
  let s := newNonce s
  modSec s (fun c => { c with bootCount := c.bootCount + 1, session := none, history := 0, zeroising := false,
                              attestKey := none })

/-! ### Signed objects (R456, R457) -/

/-- Fields of a signed object. -/
def objByte (o : List Byte) (k : Nat) : Nat := (o.getD k 0).toNat
def objSlice (o : List Byte) (k n : Nat) : List Byte := padTo n (o.drop k)
def objKind (o : List Byte) : Nat := objByte o 1
def objSlot (o : List Byte) : Nat := objByte o 2
def objArg (o : List Byte) : Nat := bytesNat (objSlice o 4 4)
def objLifetime (o : List Byte) : Nat := bytesNat (objSlice o 48 8)
def objDies (o : List Byte) : Nat := bytesNat (objSlice o 56 4)
def objSigner (o : List Byte) : List Byte := objSlice o 64 57
def objSubject (o : List Byte) : List Byte := objSlice o 128 57

/-- State and hash of an owner-key slot. -/
def keySlot (s : State) (k : Nat) : KeyState × List Byte := s.sec.keys.getD k (.empty, [])

/-- SERIAL and NONCE are the module's. -/
def objHere (s : State) (o : List Byte) : Bool :=
  wordAt o 8 == Config.serial && objSlice o 16 32 == padTo 32 s.sec.nonce

/-- The signer is valid (R457). -/
def objSignerOk (s : State) (o : List Byte) : Bool :=
  (decide (objSlot o < 4) && (keySlot s (objSlot o)).1 == .active && hash64 (objSigner o) == (keySlot s (objSlot o)).2)
    || (objKind o == 2 && s.sec.lifecycle == 0 && objSlot o == 0xFF && objSigner o == objSubject o)

/-- SIGNATURE verifies. -/
def objSigned (o : List Byte) : Bool := edVerify (objSigner o) (objSlice o 0 192) (objSlice o 192 114)

/-! ### Security requests (R459, R460) -/

/-- SEC_OBJECT as bytes. -/
def secObject (s : State) : List Byte := (upTo 0 40).flatMap (fun k => natBytes 8 (rget s .secObject 30 0 k))

/-- ARG0 within R456 for a request kind. -/
def objArgOk (o : List Byte) : Bool :=
  let a := objArg o
  match objKind o with
  | 2 => decide (a < 4)
  | 3 => decide (a < 4)
  | 6 => decide (bits a 15 0 ≤ 4)
  | _ => a == 0

/-- The lifecycle state permits a kind. -/
def objPermitted (s : State) (k : Nat) : Bool :=
  let l := s.sec.lifecycle
  if k = 2 then decide (l ≤ 2) else if k = 4 then l == 1 else l == 1 || l == 2

/-- Owner-key slots that are ACTIVE. -/
def activeKeys (s : State) : Nat := (s.sec.keys.filter (fun e => e.1 == .active)).length

/-- Row 8: what the kind asks of its slot or its minimum. -/
def objApplies (s : State) (o : List Byte) : Bool :=
  let a := objArg o
  match objKind o with
  | 2 => (keySlot s a).1 == .empty
  | 3 => (keySlot s a).1 == .active && decide (1 < activeKeys s)
  | 6 => decide (s.sec.minSvn.getD (bits a 2 0) 0 ≤ bits a 31 16)
  | _ => true

/-- A stepped operation is running. -/
def opRunning (s : State) : Bool := s.ops.any (fun e => e.2.state == 0)

/-- The first failing row of R459, as STATUS and CHECK; `kind` is the kind a row of the opcode table executes. -/
def requestCheck (s : State) (o : List Byte) : Nat × Nat :=
  if objByte o 0 ≠ 0x10 then (stNotSupported, 1)
  else if objKind o < 2 ∨ 6 < objKind o ∨ !objArgOk o then (stBadParam, 2)
  else if s.sec.session.isSome || opRunning s || (objKind o == 5 && s.module.state != 1) then (stBusy, 3)
  else if !objPermitted s (objKind o) then (stDenied, 4)
  else if !objHere s o then (stDenied, 5)
  else if !objSignerOk s o then (stDenied, 6)
  else if !objSigned o then (stDenied, 7)
  else if !objApplies s o then (stDenied, 8)
  else (stOk, 0)

/-- Set a key slot. -/
def setKey (s : State) (k : Nat) (v : KeyState × List Byte) : State :=
  modSec s (fun c => { c with keys := listMod c.keys k (fun _ => v) })

/-- ADD_KEY. -/
def addKey (s : State) (o : List Byte) : State :=
  let s := setKey s (objArg o) (.active, hash64 (objSubject o))
  if s.sec.lifecycle = 0 then modSec s (fun c => { c with lifecycle := 1 }) else s

/-- REVOKE_KEY. -/
def revokeKey (s : State) (o : List Byte) : State := setKey s (objArg o) (.revoked, (keySlot s (objArg o)).2)

/-- DEPLOY. -/
def deploy (s : State) : State := modSec s (fun c => { c with lifecycle := 2 })

/-- RAISE_SVN. -/
def raiseSvn (s : State) (o : List Byte) : State :=
  modSec s (fun c => { c with minSvn := listMod c.minSvn (bits (objArg o) 2 0) (fun _ => bits (objArg o) 31 16) })

/-- RETURN: keys revoked, secrets zeroised. -/
def returnModule (s : State) : State :=
  let s := modSec s (fun c => { c with
    lifecycle := 3, attestKey := none, nonce := List.replicate 32 0,
    keys := c.keys.map (fun e => if e.1 = .active then (.revoked, e.2) else e) })
  let s := { s with regs := s.regs.filter (fun e => !(addrCls e.1 == 0x22 && decide (0x200 ≤ addrOff e.1) && decide (addrOff e.1 < 0x340))),
                    ops := [] }
  modCp s (fun c => { c with
    remembered := [], queue := c.queue.filter (fun m => m.type != 3),
    unacked := c.unacked.filter (fun e => e.2.1.type != 3), lost := [] })

/-- The effect of an accepted request; SEC_NONCE is then replaced (R458). -/
def requestEffect (s : State) (o : List Byte) : State :=
  newNonce (match objKind o with
    | 2 => addKey s o
    | 3 => revokeKey s o
    | 4 => deploy s
    | 5 => returnModule s
    | _ => raiseSvn s o)

/-! ### Debug sessions (R470-R473) -/

/-- The open level reaches a die. -/
def debugReaches (s : State) (level die : Nat) : Bool :=
  match s.sec.session with
  | none => false
  | some x => decide (level ≤ x.level) && x.dies.toNat.testBit die

/-- A stack or device that is neither retired nor contained is PARKED. -/
def deviceParked (s : State) : Bool :=
  (upTo 26 4).any (fun d =>
    (upTo 0 2).any (fun k => !unitContained s d 0x1A k && unitState s d 0x1A k == .parked)
      || (upTo 0 3).any (fun k => !unitContained s d 0x1B k && unitState s d 0x1B k == .parked))

/-- The checks of R472, as STATUS and CHECK. -/
def debugOpenCheck (s : State) (level dies : Nat) (token : List Byte) : Nat × Nat :=
  let deployed := s.sec.lifecycle == 2
  if level = 0 ∨ 3 < level ∨ dies = 0 ∨ 2 ^ 32 ≤ dies ∨ (level = 3 ∧ (dies.testBit 30 ∨ dies.testBit 31)) then (stBadParam, 1)
  else if s.sec.session.isSome then (stBusy, 2)
  else if level = 3 ∧ (s.module.state ≠ 3 ∨ opRunning s ∨ s.caravans ≠ [] ∨ deviceParked s) then (stBusy, 3)
  else if deployed && objByte token 0 != 0x10 then (stNotSupported, 4)
  else if deployed && (objKind token != 1 || objLifetime token == 0 || !objHere s token || !objSignerOk s token
      || !objSigned token) then (stDenied, 5)
  else if deployed && (decide (bits (objArg token) 1 0 < level) || dies &&& objDies token != dies) then (stDenied, 6)
  else if (upTo 0 32).any (fun d => dies.testBit d && (getDie s d).contained) then (stFaulted, 7)
  else (stOk, 0)

/-- LIFETIME of the session that a token opens: only a deployed module reads it (R473). -/
def tokenLife (s : State) (token : List Byte) : Option Nat :=
  if s.sec.lifecycle = 2 then some (objLifetime token) else none

/-- The session opens (R472, R473): a deployed module has accepted a signed object, and draws a new SEC_NONCE (R458). -/
def openSession (s : State) (level dies : Nat) (life : Option Nat) : State :=
  let s := modSec s (fun c => { c with
    session := some { level := level, dies := BitVec.ofNat 32 dies, lifetime := life },
    history := c.history ||| BitVec.ofNat 3 (2 ^ (level - 1)) })
  if s.sec.lifecycle = 2 then newNonce s else s

/-- LIFETIME: the count of a deployed session reaches its limit. -/
def execLifetime (s : State) : Res :=
  .next (if (s.sec.session.bind (·.lifetime)).isSome then endSession raiseFault s else s)

/-! ### Attestation (R468, R469) -/

/-- A die's running image as the report shows it. -/
def reportImage (s : State) (die : Nat) : Option FwImage :=
  let d := getDie s die
  if d.contained || !d.powered then none else (getBoot s die).running

/-- Bytes 0 to 2,431 of the report. -/
def reportBody (s : State) (nonce key : List Byte) : List Byte :=
  let pub := edPublic key
  let serial := wordBytes Config.serial
  let count := natBytes 4 s.sec.bootCount.toNat
  let cert := edSign identityKey (serial ++ count ++ pub)
  let b (n : Nat) : Byte := BitVec.ofNat 8 n
  [b 0x10, b s.sec.lifecycle, b (debugLevel s), b s.sec.history.toNat, b (ownerSlots s), b (activeDie s),
   b s.module.state, 0] ++ serial ++ padTo 16 count ++ padTo 32 nonce ++ padTo 64 pub ++ padTo 128 cert
    ++ (upTo 0 32).flatMap (fun d => padTo 64 (((reportImage s d).map (·.measurement)).getD []))
    ++ (upTo 0 32).flatMap (fun d => natBytes 2 (((reportImage s d).map (·.svn)).getD 0))
    ++ padTo 64 identityPublicKey

/-- The signed report, 2,560 bytes. -/
def attestReport (s : State) (nonce key : List Byte) : List Byte :=
  let body := reportBody s nonce key
  padTo 2560 (body ++ edSign key body)

end Sys2Proof.Machine
end

