-- ==== Sys2Proof/Machine/OpSlots.lean ====
section
/-! DEFINITION. The slots of stepped operations: what an operation claims, its handle, its record, its start and its
end (R424-R428, R430). -/

namespace Sys2Proof.Machine

/-! ### Targets (R425) -/

/-- A run of things an operation claims, of one kind: 0 the shadow banks of both planes, 1 rank tables by job,
2 counters, 3 bytes of the Erg by 2^40 * region + offset, 4 physical pages by 8,192 * channel of the module + page,
5 logical spindles, 6 switch ports, 7 staged banks by die. -/
structure OpTarget where
  kind : Nat
  lo : Nat
  len : Nat
  deriving DecidableEq, Repr

/-- Two runs have a member in common. -/
def targetMeets (a b : OpTarget) : Bool :=
  a.kind == b.kind && decide (a.lo < b.lo + b.len) && decide (b.lo < a.lo + a.len)

/-- The k-th parameter of an operation. -/
def param (ps : List Nat) (k : Nat) : Nat := ps.getD k 0

/-- Position of a handle among the Erg bytes an operation claims. -/
def handlePos (w : Nat) : Nat := w % 2 ^ 44

/-- Program area of a logical spindle, and size of its context (R222, R237). -/
def programBytes (s : State) (l : Nat) : Nat :=
  let k := spindleOf s l
  0x300000 - 4096 * fget s .slotLimit (k / 32) (k % 32) 0 11 0
def contextSize (s : State) (l : Nat) : Nat := 0x20000 + programBytes s l

/-- Bytes from the handle on that the contexts of n logical spindles reach, each at a multiple of its own size (R236). -/
def contextsSize (s : State) (l n : Nat) : Nat := (upTo 0 n).foldl (fun m i => max m ((i + 1) * contextSize s (l + i))) 0

/-- Channels SCRUB and RETIRE name. -/
def scrubChannels (ch : Nat) : List Nat := if ch = 255 then upTo 0 44 else [ch]
def retireChannels (kind number : Nat) : List Nat :=
  match kind with
  | 2 => deviceChannels 0x1A number
  | 3 => deviceChannels 0x1B number
  | _ => [number]

/-- Physical pages of a channel as a target. -/
def pageTarget (die ch first n : Nat) : OpTarget := { kind := 4, lo := 8192 * chanKey die ch + first, len := n }

/-- What an operation claims, by its OP_CODE and parameters. -/
def opTargets (s : State) (code : Nat) (ps : List Nat) : List OpTarget :=
  let p := param ps
  match code with
  | 1 =>
    match p 0 with
    | 1 => [{ kind := 0, lo := 0, len := 1 }]
    | 2 => [{ kind := 1, lo := p 3, len := 1 }]
    | 3 => [{ kind := 2, lo := p 3, len := p 2 / 64 }]
    | _ => [{ kind := 3, lo := handlePos (p 3), len := p 2 }]
  | 2 => [{ kind := 0, lo := 0, len := 1 }]
  | 3 => (scrubChannels (p 1)).map (fun c => pageTarget (p 0) c (p 2) (p 3))
  | 4 =>
    if p 1 = 0 then [pageTarget (p 0) (p 2) (p 3) 1]
    else (retireChannels (p 1) (p 2)).map (fun c => pageTarget (p 0) c 0 8192)
  | 5 => [{ kind := 3, lo := handlePos (p 0), len := p 2 }, { kind := 3, lo := handlePos (p 1), len := p 2 }]
  | 6 => [{ kind := 5, lo := p 0, len := p 1 }, { kind := 3, lo := handlePos (p 2), len := contextsSize s (p 0) (p 1) }]
  | 7 => [{ kind := 5, lo := p 0, len := p 1 }, { kind := 3, lo := handlePos (p 2), len := contextsSize s (p 0) (p 1) }]
  | 8 => [{ kind := 5, lo := 16 * (p 0 - 10), len := 16 }]
  | 9 => [{ kind := 6, lo := 16 * p 0 + p 1, len := 1 }]
  | 10 => [{ kind := 6, lo := 16 * p 0 + p 1 / 2, len := 1 }]
  | _ => [{ kind := 7, lo := p 0, len := 1 }]

/-- Targets of the operations that run. -/
def claimedTargets (s : State) : List OpTarget :=
  (s.ops.filter (fun e => e.2.state == 0)).flatMap (fun e => opTargets s e.2.code e.2.params)

/-- Some target of a list is claimed. -/
def targetsBusy (s : State) (l : List OpTarget) : Bool := (claimedTargets s).any (fun a => l.any (targetMeets a))

/-- Runs of everything a port, core, spindle or control die holds. -/
def dieTargets (die : Nat) : List OpTarget :=
  match dieKind die with
  | 0 => [{ kind := 6, lo := 16 * die, len := 16 }, { kind := 7, lo := die, len := 1 }]
  | 1 => [{ kind := 0, lo := 0, len := 1 }, { kind := 7, lo := die, len := 1 }]
  | 2 => [{ kind := 5, lo := 16 * (die - 10), len := 16 }, { kind := 7, lo := die, len := 1 }]
  | _ => [{ kind := 7, lo := die, len := 1 }]

/-- Some granule of a run of Erg bytes lies where `f` says, by its address in Erg memory. -/
def granulesOn (s : State) (t : OpTarget) (f : Nat → Bool) : Bool :=
  (pieces (t.lo % 2 ^ 40) t.len).any (fun p => f (ergAddr s (t.lo / 2 ^ 40 - 1) p.1))

/-- A run lies on an Erg die: a rank table may be placed on any. [41] -/
def targetOnErg (s : State) (die : Nat) (t : OpTarget) : Bool :=
  match t.kind with
  | 1 => true
  | 2 => (upTo t.lo (min t.len 4)).any (fun n => counterDie n == die)
  | 3 => granulesOn s t (fun a => (addrDieCh a).1 == die)
  | 4 => targetMeets t { kind := 4, lo := 8192 * chanKey die 0, len := 44 * 8192 }
  | 7 => t.lo == die
  | _ => false

/-- A run lies on channels of an Erg die. -/
def targetOnChannels (s : State) (die : Nat) (chs : List Nat) (t : OpTarget) : Bool :=
  match t.kind with
  | 3 => granulesOn s t (fun a => (addrDieCh a).1 == die && chs.contains (addrDieCh a).2)
  | 4 => chs.any (fun c => targetMeets t (pageTarget die c 0 8192))
  | _ => false

/-- A running operation targets a die (R500). -/
def opOnDie (s : State) (die : Nat) : Bool :=
  if dieKind die = 3 then (claimedTargets s).any (targetOnErg s die) else targetsBusy s (dieTargets die)

/-- A unit `power.set` names has a running operation (R440). -/
def opOnUnit (s : State) (die cls inst : Nat) : Bool :=
  match cls with
  | 0x01 => targetsBusy s [{ kind := 6, lo := 16 * die + inst, len := 1 }]
  | 0x08 => targetsBusy s [{ kind := 0, lo := 0, len := 1 }]
  | 0x10 =>
    match logicalOf s (32 * die + inst) with
    | none => false
    | some l => targetsBusy s [{ kind := 5, lo := l, len := 1 }]
  | 0x1A => (claimedTargets s).any (targetOnChannels s die (deviceChannels cls inst))
  | 0x1B => (claimedTargets s).any (targetOnChannels s die (deviceChannels cls inst))
  | _ => opOnDie s die

/-- Dies whose stewards carry out an operation's steps (R32). A staged image goes to a boot store, on no die but the
control dies. [16] -/
def opDies (code : Nat) (ps : List Nat) : List Nat :=
  let p := param ps
  match code with
  | 1 => if p 0 = 1 then [8, 9] else [26, 27, 28, 29]
  | 2 => [8, 9]
  | 5 => [26, 27, 28, 29]
  | 6 => (upTo (p 0) (p 1)).map (fun l => 10 + l % 256 / 16)
  | 7 => (upTo (p 0) (p 1)).map (fun l => 10 + l % 256 / 16)
  | 11 => []
  | _ => [p 0]

/-- A steward that an operation's step needs does not answer (R36): the step stays unfinished. [16] -/
def opHangs (s : State) (o : Op) : Bool := (opDies o.code o.params).any (fun d => (getDie s d).hung && !dieOff s d)

/-- Staging buffers an operation names (R424). -/
def opBuffers (code : Nat) (ps : List Nat) : List Nat :=
  match code with
  | 1 => if param ps 0 = 1 ∧ param ps 3 ≠ 0xF then [param ps 1, param ps 3] else [param ps 1]
  | 11 => [param ps 1]
  | _ => []

/-- A command that awaits a steward names a staging buffer. -/
def awaitsBuffer (b : Nat) : Awaiting → Bool
  | .steward _ _ _ l => l == some b
  | _ => false

/-- A staging buffer is locked: by an operation that runs, or by a command not yet answered (R424). -/
def bufferLocked (s : State) (b : Nat) : Bool :=
  s.ops.any (fun e => e.2.state == 0 && (opBuffers e.2.code e.2.params).contains b)
    || s.cp.awaiting.any (awaitsBuffer b)

/-! ### Handles and records (R425, R426) -/

/-- HANDLE of the present use of a slot. -/
def opHandle (s : State) (slot : Nat) : Nat := mapGet s.opUses 0 slot * 64 + slot

/-- The operation a handle names, with its slot. -/
def opOf (s : State) (handle : Nat) : Option (Nat × Op) :=
  let slot := handle % 64
  match mapFind s.ops slot with
  | some o => if opHandle s slot = handle then some (slot, o) else none
  | none => none

/-- Word 0 of a record. -/
def opWord0 (o : Op) : Word :=
  word (0x10 + o.code * 2 ^ 8 + o.state * 2 ^ 16 + b2n o.cancelReq * 2 ^ 18
    + (if o.state = 0 then 0 else o.status) * 2 ^ 24 + o.check % 65536 * 2 ^ 32)

/-- The 6-word record. -/
def opRecord (o : Op) : List Word :=
  [opWord0 o, word (o.done % 2 ^ 32 + o.total % 2 ^ 32 * 2 ^ 32)] ++ (o.result ++ List.replicate 4 0).take 4

/-- Lowest slot that holds no operation. -/
def freeSlot (s : State) : Option Nat := (upTo 0 64).find? (fun k => (mapFind s.ops k).isNone)

/-- Store the operation of a slot. -/
def putOp (s : State) (slot : Nat) (o : Op) : State := { s with ops := mapIns s.ops slot o }

/-- An operation ends: OP_DONE, and its record is kept (R430). -/
def endOp (s : State) (slot : Nat) (o : Op) (state status check : Nat) : State :=
  let s := putOp s slot { o with state := state, status := status, check := check }
  let s := { s with episodes := s.episodes.filter (fun e => e != 128 + slot) }
  sendEventW s (activeDie s) 6 [opHandle s slot, o.code, status]

/-- An operation that is about to start. -/
def newOp (code total : Nat) (ps : List Nat) : Op :=
  { code := code, params := ps, state := 0, cancelReq := false, status := 0, check := 0, done := 0, total := total,
    result := [] }

/-- `op.start`: claims the targets and takes a slot, or answers BUSY; `start` is what the start does besides. The
operation ends at once where `atOnce` gives its status and check. -/
def startOp (s : State) (tag code total : Nat) (ps : List Nat) (targets : List OpTarget) (atOnce : Option (Nat × Nat))
    (start : State → State) : State :=
  if targetsBusy s targets then fail8 s tag 0x48 stBusy 0
  else
    match freeSlot s with
    | none => fail8 s tag 0x48 stBusy 0
    | some k =>
      let uses := mapGet s.opUses 0 k
      let s := { s with opUses := mapPut s.opUses 0 k (if uses + 1 = 2 ^ 26 then 1 else uses + 1) }
      let o := newOp code total ps
      let s := start (answerOk (putOp s k o) tag 0x48 [word (opHandle s k)])
      match atOnce with
      | none => s
      | some (st, ck) => endOp s k o 1 st ck

/-- `op.poll` (R426, R430). -/
def pollOp (s : State) (tag handle : Nat) : State :=
  match opOf s handle with
  | none => fail8 s tag 0x49 stBadParam 0
  | some (k, o) =>
    let s := answerOk s tag 0x49 (opRecord o)
    if o.state = 0 then s else { s with ops := mapDel s.ops k }

/-- Operations that the table of R428 marks as not cancellable. -/
def cancellable (code : Nat) : Bool := code != 2 && code != 8 && code != 10

/-- `op.cancel` (R427). -/
def cancelOp (s : State) (tag handle : Nat) : State :=
  match opOf s handle with
  | none => fail8 s tag 0x4A stBadParam 0
  | some (k, o) =>
    if o.state ≠ 0 then answerOk s tag 0x4A [opWord0 o]
    else if !cancellable o.code then fail8 s tag 0x4A stBusy 0
    else
      let o := { o with cancelReq := true }
      answerOk (putOp s k o) tag 0x4A [opWord0 o]

end Sys2Proof.Machine
end

