-- ==== Sys2Proof/Machine/Power.lean ====
section
/-! DEFINITION. Power states of units and of the module, resets and pins, bring-up, die reboot and thermal protection
(R436-R450, R493, R496, R500, R513, R516, R517). -/

namespace Sys2Proof.Machine

/-! ### Parking units and making them LIVE (R441) -/

/-- A port is parked: flushed, and it sends no signal. -/
def parkPort (s : State) (p : Nat) : State := setUnit (oneCycle (fun s => linkEnds raiseWith s p 0) s) (p / 16) 0x01 (p % 16) .parked

/-- What a port holds when it enters LIVE (R131): empty queues, full buckets, no deficit, a new round of its calendars,
and samplers that reload. -/
def freshPort (s : State) (p : Nat) : State :=
  let s := modPort s p (fun q => { q with
    tokens := fullBuckets q, deficit := [], drr := 0, roundBytes := 0, caravanUsed := [], run := 0, sampIn := 0, sampOut := 0 })
  { s with planeA := freshSlot p s.planeA, planeB := freshSlot p s.planeB }

/-- A port becomes LIVE and trains. -/
def livePort (s : State) (p : Nat) : State :=
  startTraining (freshPort (setUnit s (p / 16) 0x01 (p % 16) .live) p) p

/-- A core plane is parked: what it holds is discarded. -/
def parkPlane (s : State) (pl : Nat) : State := discardPlane (setUnit s (8 + pl) 0x08 0 .parked) pl

/-- A core plane becomes LIVE with an empty buffer. -/
def livePlane (s : State) (pl : Nat) : State := modPlane (setUnit s (8 + pl) 0x08 0 .live) pl planeEmptied

/-- Units of a list that are in one state go to another. -/
def moveUnits (s : State) (die cls : Nat) (old new : UnitState) : List Nat → State
  | [] => s
  | k :: r => moveUnits (if unitState s die cls k = old then setUnit s die cls k new else s) die cls old new r

/-- A stack or device is parked with its channels; or becomes LIVE with those not retired or contained. -/
def parkDevice (s : State) (die cls k : Nat) : State :=
  moveUnits (setUnit s die cls k .parked) die 0x19 .live .parked (deviceChannels cls k)
def liveDevice (s : State) (die cls k : Nat) : State :=
  moveUnits (setUnit s die cls k .live) die 0x19 .parked .live (deviceChannels cls k)

/-- Stacks and devices of an Erg die, by class and number. -/
def ergDevices : List (Nat × Nat) := [(0x1A, 0), (0x1A, 1), (0x1B, 0), (0x1B, 1), (0x1B, 2)]

/-- An Erg die is parked with its stacks and devices. -/
def parkErg (s : State) (die : Nat) : State :=
  ergDevices.foldl (fun s e =>
    if unitState s die e.1 e.2 = .live then parkDevice s die e.1 e.2 else s) (setUnit s die 0x00 0 .parked)

/-- An Erg die becomes LIVE with its stacks and devices. -/
def liveErg (s : State) (die : Nat) : State :=
  ergDevices.foldl (fun s e =>
    if unitState s die e.1 e.2 = .parked then liveDevice s die e.1 e.2 else s) (setUnit s die 0x00 0 .live)

/-- A unit is parked. -/
def parkUnit (s : State) (die cls inst : Nat) : State :=
  match cls with
  | 0x01 => parkPort s (16 * die + inst)
  | 0x08 => parkPlane s (die - 8)
  | 0x1A => parkDevice s die cls inst
  | 0x1B => parkDevice s die cls inst
  | 0x00 => parkErg s die
  | _ => setUnit s die cls inst .parked

/-- A `power.set` parks the unit it names; an Erg die leaves a debug session (R479). -/
def parkNamed (s : State) (die cls inst : Nat) : State :=
  let s := parkUnit s die cls inst
  if cls = 0x00 then narrowSession raiseFault s die else s

/-- A unit `power.set` names becomes LIVE. -/
def liveUnit (s : State) (die cls inst : Nat) : State :=
  match cls with
  | 0x01 => livePort s (16 * die + inst)
  | 0x08 => livePlane s (die - 8)
  | 0x1A => liveDevice s die cls inst
  | 0x1B => liveDevice s die cls inst
  | 0x00 => liveErg s die
  | _ => setUnit s die cls inst .live

/-- Die, class and instance of a unit key. -/
def keyDie (k : Nat) : Nat := addrDie (k * 2 ^ 24)
def keyCls (k : Nat) : Nat := addrCls (k * 2 ^ 24)
def keyInst (k : Nat) : Nat := addrInst (k * 2 ^ 24)

/-- Keys of the units that are LIVE. -/
def liveKeys (s : State) : List Nat :=
  (s.units.filter (fun e => e.2 == .live && !(getDie s (keyDie e.1)).contained)).map (·.1)

/-- Park every unit of a list of keys that is LIVE still. -/
def parkKeys (s : State) (l : List Nat) : State :=
  l.foldl (fun s k => if unitState s (keyDie k) (keyCls k) (keyInst k) = .live
    then parkUnit s (keyDie k) (keyCls k) (keyInst k) else s) s

/-- Make LIVE again what was LIVE: ports and planes as R441, any other unit as it is. -/
def restoreKeys (s : State) (l : List Nat) : State :=
  l.foldl (fun s k =>
    let d := keyDie k
    let c := keyCls k
    let i := keyInst k
    if unitState s d c i ≠ .parked ∨ c = 0x10 then s
    else if c = 0x01 ∨ c = 0x08 then liveUnit s d c i
    else setUnit s d c i .live) s

/-- Slots of the spindle dies that the map uses. -/
def mappedSpindles (s : State) : List Nat := (upTo 0 256).map (spindleOf s)

/-- READY to ACTIVE: every mapped spindle that is not contained becomes LIVE. -/
def liveSpindles (s : State) : State :=
  (mappedSpindles s).foldl (fun s k =>
    if unitContained s (k / 32) 0x10 (k % 32) then s else setUnit s (k / 32) 0x10 (k % 32) .live) s

/-- Every LIVE spindle is parked. -/
def parkSpindles (s : State) : State :=
  { s with units := mapAll s.units .parked (fun k u => if keyCls k = 0x10 ∧ u = .live then .parked else u) }

/-! ### The module loses power or is reset (R436, R443, R445, R513, R516, R517) -/

/-- Every die is without power: what stays is in fuses, in the boot store, and in the always-on logic. -/
def unpowered (s : State) : State :=
  { State.reset with
    pending := s.pending, freeCtr := s.freeCtr, nextUid := s.nextUid, out := s.out,
    dies := (upTo 0 32).map (fun d => (d, { Die.init with powered := false })),
    cp := ControlPort.init,
    sec := { s.sec with session := none, history := 0, zeroising := false, attestKey := none,
                        boot := s.sec.boot.map (fun e => (e.1, bootReset e.2)) },
    module := { Module.init with
      state := 0, pwrEn := s.module.pwrEn, rstN := s.module.rstN, inputOk := s.module.inputOk,
      resetCause := s.module.resetCause, tripFlag := s.module.tripFlag, errLow := s.module.errLow, activeKd := 30 } }

/-- OFF: the debug session ends, power goes, ERR_N is released. -/
def powerOff (s : State) : State := setErr (unpowered s) false

/-- RST_N holds the 32 dies in reset (R516, R517): the cause the cold reset will record is noted. -/
def holdReset (s : State) (cause : Nat) : State :=
  setErr (modModule (unpowered s) (fun m => { m with held := true, resetCause := cause })) true

/-- A cold reset (R445): the trip flag of R448 takes the place of the cause. -/
def coldReset (s : State) (cause : Nat) : State :=
  let u := unpowered s
  let s := { u with
    dies := [],
    module := { Module.init with
      pwrEn := u.module.pwrEn, rstN := u.module.rstN, inputOk := u.module.inputOk, errLow := u.module.errLow,
      resetCause := if u.module.tripFlag then 3 else cause } }
  sendBringup (securityReset (setErr s true)) 0 0 0

/-- The 30 dies other than the control dies are powered and reset, and bring-up runs from B2 (R442, R445, R489). -/
def warmReset (s : State) : State :=
  let s := dataDies.foldl resetDie s
  let s := dataDies.foldl (fun s d => modDie s d (fun x => { x with powered := true, contained := false })) s
  let s := modModule (loseErg (loseWork s)) (fun m => { m with
    state := 1, phase := 2, stopped := false, warm := true, resetCause := 4, stopHeld := false, failed := [],
    before := [], reboot := none, tripSeen := m.tripSeen || m.tripNoted })
  newAttestKey (sendBringup (securityReset s) 2 0 0)

/-- Entry to STANDBY: every hank and caravan closed, the 30 dies unpowered, a session ended (R442, R479). -/
def enterStandby (s : State) : State :=
  modModule (unpowerData (endSession raiseFault s)) (fun m => { m with state := 1, before := [], reboot := none })

/-- The part is powered and neither OFF nor held in reset. -/
def running (s : State) : Bool := s.module.inputOk && !s.module.held && decide (0 < s.module.state)

/-- PWR_EN_LOW. -/
def execPwrEnLow (s : State) : Res :=
  let s := modModule s (fun m => { m with pwrEn := false })
  .next (if s.module.inputOk then powerOff s else s)

/-- PWR_EN_RISING: high after at least ten samples low. -/
def execPwrEnRising (s : State) : Res :=
  if s.module.pwrEn then .next s
  else
    let s := modModule s (fun m => { m with pwrEn := true })
    .next (if !s.module.inputOk then s
      else if s.module.rstN then coldReset s 1
      else holdReset s (if s.module.tripFlag then 3 else 1))

/-- RST_N_LOW: no effect with PWR_EN low, nor after a control die's trip (R448). -/
def execRstNLow (s : State) : Res :=
  let s := modModule s (fun m => { m with rstN := false })
  .next (if s.module.inputOk ∧ s.module.pwrEn ∧ !s.module.tripFlag ∧ !s.module.held then holdReset s 2 else s)

/-- RST_N_RISING. -/
def execRstNRising (s : State) : Res :=
  let s := modModule s (fun m => { m with rstN := true })
  .next (if s.module.held then coldReset s s.module.resetCause else s)

/-- INPUT_LOSS: the always-on logic loses its trip flag with the input (R448, R513). -/
def execInputLoss (s : State) : Res :=
  .next (if s.module.inputOk then
      powerOff (modModule s (fun m => { m with inputOk := false, tripFlag := false, resetCause := 0 }))
    else s)

/-- INPUT_RESTORE. -/
def execInputRestore (s : State) : Res :=
  if s.module.inputOk then .next s
  else
    let s := modModule s (fun m => { m with inputOk := true })
    .next (if s.module.pwrEn then coldReset s 0 else s)

/-- POWER_REMOVAL: after the OFF response (R443). -/
def execPowerRemoval (s : State) : Res := .next (if s.module.offPending then powerOff s else s)

/-! ### `power.set` (R439-R444) -/

/-- TARGET of the module. -/
def moduleTarget : Nat := 2 ^ 48 - 1

/-- Classes `power.set` can park: port, plane, spindle, stack, device, and an Erg die by its STEWARD. -/
def powerClass (die cls : Nat) : Bool :=
  cls == 0x01 || cls == 0x08 || cls == 0x10 || cls == 0x1A || cls == 0x1B || (cls == 0x00 && dieKind die == 3)

/-- A spindle die named for its frequency. -/
def clockTarget (t : Nat) : Bool := addrCls t == 0x00 && dieKind (addrDie t) == 2

/-- Row 1 holds: the target, STATE and FREQ_MHZ are those of R439. -/
def powerLegal (t st freq : Nat) : Bool :=
  if t = moduleTarget then decide (st ≤ 4) && freq == 0
  else
    addrOff t == 0 && unitExists (addrDie t) (addrCls t) (addrInst t)
      && (if clockTarget t then st == 1 && (freq == 0 || (decide (800 ≤ freq) && decide (freq ≤ 1700) && freq % 25 == 0))
          else powerClass (addrDie t) (addrCls t) && decide (st ≤ 1) && freq == 0)

/-- A retired channel lies on a stack or device. -/
def deviceRetired (s : State) (die cls k : Nat) : Bool :=
  (cls == 0x1A || cls == 0x1B) && (deviceChannels cls k).any (fun c => unitState s die 0x19 c == .retired)

/-- Row 2: the target is unmapped, retired or contained. -/
def powerFaulted (s : State) (die cls inst : Nat) : Bool :=
  (cls == 0x10 && (logicalOf s (32 * die + inst)).isNone) || deviceRetired s die cls inst || unitContained s die cls inst

/-- The target is in the named state at the named frequency. -/
def powerThere (s : State) (t st freq : Nat) : Bool :=
  if clockTarget t then freq == 0 || freq == fget s .dieClock (addrDie t) 0 0 15 0
  else unitState s (addrDie t) (addrCls t) (addrInst t) == (if st = 1 then .live else .parked)

/-- Row 3 for a unit. -/
def powerBusy (s : State) (t st : Nat) : Bool :=
  opOnUnit s (addrDie t) (addrCls t) (addrInst t)
    || (!clockTarget t && st == 1 && (decide (s.module.state < 3) || (addrCls t == 0x10 && s.module.state != 4)))

/-- An engine of a spindle is neither IDLE nor HALTED. -/
def spindleRuns (s : State) (key : Nat) : Bool := (upTo 0 4).any (fun e => !engineStopped (getEng s key e))

/-- Row 4: what R441 refuses to park. -/
def powerHeld (s : State) (die cls inst st : Nat) : Bool :=
  st == 0 && (match cls with
    | 0x08 => !planeLive s (9 - die) && (upTo 0 128).any (portLive s)
    | 0x10 => spindleRuns s (32 * die + inst) || (getSp s (32 * die + inst)).claims != []
    | 0x00 => (upTo 0 256).any (fun p => poolDie p == die && poolEnabled s p && decide (poolFree s p < poolCount s p))
    | _ => false)

/-- An engine of any spindle is neither IDLE nor HALTED. -/
def enginesRun (s : State) : Bool := s.spindles.any (fun e => spindleRuns s e.1)

/-- R442: the transition is refused. -/
def moduleRefused (s : State) (new : Nat) : Bool :=
  let cur := s.module.state
  if new = 0 then false
  else if s.module.stopHeld && new != 1 && !(cur == 1 && new == 3) then true
  else match cur, new with
    | 4, 3 => s.hanks != [] || enginesRun s
    | 4, 2 => s.hanks != [] || enginesRun s
    | 3, 2 => s.hanks != [] || s.caravans != []
    | 2, 3 => false
    | 3, 4 => false
    | 4, 1 => opRunning s
    | 3, 1 => opRunning s
    | 2, 1 => opRunning s
    | 1, 3 => s.module.tripped
    | _, _ => true

/-- R442: the effect of a transition. -/
def moduleMove (s : State) (new : Nat) : State :=
  match s.module.state, new with
  | _, 0 => modModule (endSession raiseFault s) (fun m => { m with offPending := true })
  | _, 1 => enterStandby s
  | 1, 3 => warmReset s
  | _, 2 =>
    let l := liveKeys s
    modModule (parkKeys s l) (fun m => { m with state := 2, before := l })
  | 2, 3 => modModule (restoreKeys s s.module.before) (fun m => { m with state := 3, before := [] })
  | 3, 4 => modModule (liveSpindles s) (fun m => { m with state := 4 })
  | _, _ => modModule (parkSpindles s) (fun m => { m with state := 3 })

/-- `power.set` of the module. -/
def powerModule (s : State) (tag st : Nat) : State :=
  if st = s.module.state then answerOk s tag 0x40 []
  else if moduleRefused s st then fail8 s tag 0x40 stBusy 3
  else answerOk (moduleMove s st) tag 0x40 []

/-- A spindle die's frequency changes: its clock stops and it relocks (R444). -/
def startRelock (s : State) (tag die freq : Nat) : State :=
  let s := modDie s die (fun d => { d with relock := some freq })
  modCp s (fun c => { c with awaiting := c.awaiting ++ [.relock tag die] })

/-- `power.set` in the order of R440. -/
def powerSet (s : State) (tag target st freq : Nat) : State :=
  let t := target % 2 ^ 48
  let die := addrDie t
  let cls := addrCls t
  let inst := addrInst t
  if !powerLegal t st freq then fail8 s tag 0x40 stBadParam 1
  else if t = moduleTarget then powerModule s tag st
  else if powerFaulted s die cls inst then fail8 s tag 0x40 stFaulted 2
  else if powerThere s t st freq then answerOk s tag 0x40 []
  else if powerBusy s t st then fail8 s tag 0x40 stBusy 3
  else if clockTarget t then startRelock s tag die freq
  else if powerHeld s die cls inst st then fail8 s tag 0x40 stBusy 4
  else answerOk (if st = 1 then liveUnit s die cls inst else parkNamed s die cls inst) tag 0x40 []

/-- The commands a relock of a die answers. -/
def relockTags (die : Nat) (l : List Awaiting) : List Nat :=
  l.filterMap (fun a => match a with
    | .relock t d => if d = die then some t else none
    | _ => none)

/-- RELOCK: the die's loop is locked; it runs at its new frequency, and the command is answered. -/
def execRelock (die : Nat) (s : State) : Res :=
  if 10 ≤ die ∧ die < 26 then
    let s := modDie s die (fun d => { d with unlocked := false })
    .next (match (getDie s die).relock with
      | none => s
      | some f =>
        let tags := relockTags die s.cp.awaiting
        let s := modDie (fset s .dieClock die 0 0 15 0 f) die (fun d => { d with relock := none })
        let s := modCp s (fun c => { c with awaiting := c.awaiting.filter (fun a => relockTags die [a] == []) })
        tags.foldl (fun s t => answerOk s t 0x40 []) s)
  else atSpindleDie die s

/-! ### Bring-up (R446) -/

/-- The record of a unit that fails its phase: stored whatever the severity, with the effect R446 gives. -/
def failRecord (s : State) (id action : Nat) (detail : List Word) : State :=
  record (countSource s id) id (fget s .faultSource (id / 2048) 0 (id % 2048) 2 0) action false (sourceUnit id) detail

/-- A unit is left PARKED. -/
def noteFailed (s : State) (key : Nat) : State := modModule s (fun m => { m with failed := insNat m.failed key })

/-- A die that has no image that verifies (B2). -/
def failBoot (s : State) (die : Nat) : State :=
  let s := failRecord s (srcSteward die 1) 2 (fwDetail s die)
  sendBringup (oneCycle (fun s => containDie raiseWith s die) s) 2 2 (unitAddr die 0 0)

/-- Stack or device of a channel: class and number. -/
def channelDevice (ch : Nat) : Nat × Nat := if ch < 32 then (0x1A, ch / 16) else (0x1B, (ch - 32) / 4)

/-- A channel that does not train (B3), with its stack or device. -/
def failChannel (s : State) (die ch : Nat) : State :=
  let s := noteFailed (failRecord s (srcChannel die ch 2) 0 []) (unitKey die 0x19 ch)
  let s := sendBringup s 3 2 (unitAddr die 0x19 ch)
  let (cls, k) := channelDevice ch
  if s.module.failed.contains (unitKey die cls k) then s
  else failRecord (noteFailed s (unitKey die cls k)) (if cls = 0x1A then srcStack die k 0 else srcDevice die k 0) 0 []

/-- A unit whose scrub or test fails (B4); where the catalogue gives its memories several kinds, which of them is free. -/
def failScrub (s : State) (die cls inst : Nat) : State :=
  let key := unitKey die cls inst
  let a := unitAddr die cls inst
  let (k, s) := freeBelow 2 s
  let park (s : State) (id : Nat) : State := sendBringup (noteFailed (failRecord s id 0 []) key) 4 2 a
  let contain (s : State) (id : Nat) : State :=
    sendBringup (oneCycle (fun s => containDie raiseWith s die) (failRecord s id 2 [])) 4 2 a
  match cls with
  | 0x01 => park s (srcPort (16 * die + inst) 6)
  | 0x08 => park s (srcPlane (die - 8) 1)
  | 0x10 =>
    if (logicalOf s (32 * die + inst)).isNone
    then park (fset s .spindleMapStatus die 0 0 22 22 0) (srcSpindle (32 * die + inst) 6)
    else park s (srcSpindle (32 * die + inst) (1 + k))
  | 0x19 => park s (srcChannel die inst 1)
  | 0x03 => contain s (srcEdge die k)
  | 0x09 => contain s (srcRoute (die - 8) 1)
  | 0x0A => contain s (srcMcast (die - 8) 1)
  | _ => s

/-- A lane whose calibration fails (B5) is disabled in LANE_ENABLE; a port left with no lane is DOWN (R395). -/
def failLane (s : State) (die lane : Nat) : State :=
  let s := failRecord s (srcLane die lane 3) 0 []
  let s := fset s .portCtrl die (lane / 2) 0 (4 + lane % 2) (4 + lane % 2) 0
  let p := 16 * die + lane / 2
  let s := if usableLanes s p = 0 then oneCycle (fun s => linkEnds raiseWith s p 0) s else s
  sendBringup s 5 2 (unitAddr die 0x02 lane)

/-- A unit fails a phase from B3 on; an address that names no unit of that phase's work changes nothing. -/
def failUnit (s : State) (p a : Nat) : State :=
  let die := addrDie a
  let cls := addrCls a
  let inst := addrInst a
  if !unitExists die cls inst ∨ addrOff a ≠ 0 ∨ (getDie s die).contained then s
  else match p with
    | 3 => if cls = 0x19 then failChannel s die inst else s
    | 4 => failScrub s die cls inst
    | 5 => if cls = 0x02 then failLane s die inst else s
    | _ => s

/-- B2: every other die is booted; the control dies are passed over in a warm reset. -/
def bootAll (s : State) (failed : List Nat) : State :=
  let l := if s.module.warm then dataDies else (upTo 0 32).filter (fun d => d != activeDie s && !(getDie s d).contained)
  l.foldl (fun s d =>
    let (ok, s) := bootDie s d
    if ok && !failed.contains (unitAddr d 0 0) then s else failBoot (stopCode s d) d) s

/-- B1: the ROM of die 30, then that of die 31, boots (R464); a die that KD1 takes over from is contained (R446). -/
def bootControl (s : State) : Bool × State :=
  let (ok, s) := bootDie s 30
  if ok then (true, modModule s (fun m => { m with activeKd := 30, standby := 2 }))
  else
    let failed := fwDetail s 30
    let (ok, s) := bootDie s 31
    if ok then
      let s := failRecord s (srcSteward 30 1) 2 failed
      (true, modModule (modDie s 30 (fun d => { d with contained := true })) (fun m => { m with activeKd := 31, standby := 0 }))
    else
      let s := failRecord s (srcSteward 30 1) 0 failed
      (false, failRecord s (srcSteward 31 1) 0 (fwDetail s 31))

/-- Ports send equalisation training frames (R395). -/
def portsTrain (s : State) : State :=
  (upTo 0 128).foldl (fun s p =>
    if usableLanes s p = 0 ∨ (getDie s (p / 16)).contained ∨ s.module.failed.contains (unitKey (p / 16) 0x01 (p % 16)) then s
    else setLink (modPort s p (fun q => { q with phase := 1, equalised := 0, aligned := 0 })) p 1) s

/-- A unit passed bring-up and may be LIVE. -/
def passed (s : State) (die cls inst : Nat) : Bool :=
  unitState s die cls inst == .parked && !(getDie s die).contained && !s.module.failed.contains (unitKey die cls inst)

/-- A unit that passed becomes LIVE. -/
def liveIfPassed (s : State) (die cls inst : Nat) : State :=
  if passed s die cls inst then setUnit s die cls inst .live else s

/-- Erg dies, stacks, devices and channels that passed become LIVE. -/
def ergLives (s : State) : State :=
  (upTo 26 4).foldl (fun s d =>
    let s := liveIfPassed s d 0x00 0
    let s := ergDevices.foldl (fun s e => liveIfPassed s d e.1 e.2) s
    (upTo 0 44).foldl (fun s c =>
      let (cls, k) := channelDevice c
      if unitState s d cls k = .live then liveIfPassed s d 0x19 c else s) s) s

/-- Ports that passed become LIVE and go on with their training; the others send nothing. -/
def portsLive (s : State) : State :=
  (upTo 0 128).foldl (fun s p =>
    let s := liveIfPassed s (p / 16) 0x01 (p % 16)
    if !portLive s p then oneCycle (fun s => linkEnds raiseWith s p 0) s
    else
      let s := freshPort s p
      if (getPort s p).phase = 1 then advanceTraining s p else startTraining s p) s

/-- B6: the module enters READY. -/
def enterReady (s : State) : State :=
  let s := sendBringup s 6 0 0
  let s := modModule s (fun m => { m with state := 3 })
  let s := ergLives (liveIfPassed (liveIfPassed s 8 0x08 0) 9 0x08 0)
  sendBringup (portsLive s) 6 1 0

/-- A phase begins. -/
def startPhase (s : State) (p : Nat) : State :=
  let s := modModule s (fun m => { m with phase := p })
  if p = 6 then enterReady s
  else
    let s := sendBringup s p 0 0
    if p = 1 then newAttestKey s else if p = 5 then portsTrain s else s

/-- Bring-up stops in B0 or B1. -/
def bringupStops (s : State) (p : Nat) : State := modModule (sendBringup s p 2 0) (fun m => { m with stopped := true })

/-- The phase under way ends; `late` when its limit has passed. -/
def endPhase (s : State) (failed : List Nat) (late : Bool) : State :=
  if !running s || s.module.stopped || decide (6 ≤ s.module.phase) || s.module.state != 1 then s
  else
    let p := s.module.phase
    if p = 0 then
      if late ∨ failed ≠ [] then bringupStops s 0
      else
        let s := sendBringup s 0 1 0
        startPhase (settleErr (modModule s (fun m => { m with phase := 1 }))) 1
    else if p = 1 then
      if late ∨ failed ≠ [] then bringupStops s 1
      else
        match bootControl s with
        | (true, s) => startPhase (sendBringup s 1 1 0) 2
        | (false, s) => bringupStops s 1
    else
      let s := if p = 2 then bootAll s failed else failed.foldl (fun s a => failUnit s p a) s
      startPhase (sendBringup s p 1 0) (p + 1)

/-- BRINGUP_PHASE. -/
def execBringupPhase (failed : List Nat) (s : State) : Res := .next (endPhase s failed false)

/-- BRINGUP_LIMIT. -/
def execBringupLimit (failed : List Nat) (s : State) : Res := .next (endPhase s failed true)

/-! ### Die reboot (R500) and resynchronisation (R496) -/

/-- Registers of a control die that its reset clears: those the mirror holds stay. -/
def mirroredReg (a : Nat) : Bool :=
  addrCls a == 0x20 || addrCls a == 0x22 || addrCls a == 0x23 || (addrCls a == 0x21 && addrOff a == 8)

/-- A die is reset for its reboot; Erg contents and, for a control die, what the mirror holds are kept. -/
def rebootReset (s : State) (die : Nat) : State :=
  if dieKind die = 4 then
    modDie { s with regs := s.regs.filter (fun e => addrDie e.1 != die || mirroredReg e.1) } die
      (fun d => { d with eventSeq := 0, hung := false })
  else resetDie s die

/-- Phases of a reboot, by kind of die; a control die boots through its ROM. -/
def rebootPhases (die : Nat) : List Nat :=
  match dieKind die with
  | 0 => [2, 4, 5]
  | 3 => [2, 3]
  | 4 => [1]
  | _ => [2, 4]

/-- DIE_REBOOT_STATUS. -/
def setReboot (s : State) (die phase st : Nat) : State :=
  rset s .dieRebootStatus 30 0 0 (die * 2 ^ 16 + phase * 2 ^ 8 + st)

/-- A phase of a reboot begins. -/
def rebootStart (s : State) (die p : Nat) : State :=
  let s := modModule (setReboot s die p 1) (fun m => { m with reboot := some (die, p) })
  sendBringup s p 0 (unitAddr die 0 0)

/-- Row 2 of R500: a unit of the die that `power.set` can park is LIVE. -/
def rebootHeld (s : State) (die : Nat) : Bool :=
  !(getDie s die).contained && (match dieKind die with
    | 0 => (upTo 0 16).any (fun k => unitState s die 0x01 k == .live)
    | 1 => unitState s die 0x08 0 == .live
    | 2 => (upTo 0 17).any (fun k => unitState s die 0x10 k == .live)
    | 3 => ergDevices.any (fun e => unitState s die e.1 e.2 == .live)
    | _ => false)

/-- The reboot of a die begins. -/
def startReboot (s : State) (die : Nat) : State :=
  rebootStart (rebootReset s die) die ((rebootPhases die).headD 2)

/-- The reboot fails: the die is contained. -/
def rebootFails (s : State) (die p : Nat) : State :=
  let s := if die = 61 - activeDie s then modModule s (fun m => { m with standby := 0 }) else s
  let s := modModule (setReboot (oneCycle (fun s => containDie raiseWith s die) s) die p 3) (fun m => { m with reboot := none })
  sendBringup s p 2 (unitAddr die 0 0)

/-- The reboot succeeds: the die leaves containment with every unit PARKED; a control die resynchronises. -/
def rebootDone (s : State) (die p : Nat) : State :=
  let s := modDie s die (fun d => { d with contained := false })
  let s := if dieKind die = 4 then modModule s (fun m => { m with standby := 1 }) else s
  modModule (setReboot s die p 2) (fun m => { m with reboot := none })

/-- The phase after p of a die's reboot. -/
def rebootNext (die p : Nat) : Option Nat := (rebootPhases die).find? (fun q => p < q)

/-- A phase of the reboot ends. -/
def rebootPhase (s : State) (ok : Bool) : State :=
  match s.module.reboot with
  | none => s
  | some (die, p) =>
    let (good, s) := if p ≤ 2 then bootDie s die else (true, s)
    if !(ok && good) then
      let s := if p ≤ 2 then raiseDetail (stopCode s die) (srcSteward die 1) (fwDetail (stopCode s die) die) else s
      rebootFails s die p
    else
      let s := sendBringup s p 1 (unitAddr die 0 0)
      match rebootNext die p with
      | some q => rebootStart s die q
      | none => rebootDone s die p

/-- REBOOT_PHASE. -/
def execRebootPhase (ok : Bool) (s : State) : Res := .next (if running s then rebootPhase s ok else s)

/-- RESYNCHRONISE: a former active die boots first, and stays contained when it cannot (R496). -/
def resync (s : State) : State :=
  let die := 61 - activeDie s
  if s.module.standby ≠ 1 then s
  else if !(getDie s die).contained then modModule s (fun m => { m with standby := 2 })
  else
    match bootDie (rebootReset s die) die with
    | (true, s) =>
      modModule (modDie s die (fun d => { d with contained := false })) (fun m => { m with standby := 2 })
    | (false, s) =>
      modModule (raiseDetail s (srcSteward die 1) (fwDetail s die)) (fun m => { m with standby := 0 })

def execResynchronise (s : State) : Res := .next (if running s then resync s else s)

/-! ### Thermal protection (R447, R448, R450) and clocks (R484) -/

/-- THERMAL event. -/
def sendThermal (s : State) (die kind : Nat) (temp : BitVec 16) (limit : Nat) : State :=
  sendEventW s die 9 [die, kind, temp.toNat, limit]

/-- A die trips: a STOP event whose record carries ACTION 5, and power goes. -/
def trip (s : State) (die : Nat) (temp : BitVec 16) (limit : Nat) : State :=
  let id := srcSteward die 2
  let s := countSource (sendThermal s die 2 temp limit) id
  let s := pulseErr (oneCycle (fun s => noteRecord (stopModule raiseWith s id).1 id 5 5 false (unitAddr die 0 0) []) s)
  if dieKind die = 4 then powerOff (modModule (endSession raiseFault s) (fun m => { m with tripFlag := true }))
  else modModule (enterStandby s) (fun m => { m with tripped := true, tripNoted := true, phase := 6, stopped := false })

/-- The warning of a reading: set at WARN_C or above, cleared 5 degrees below it. -/
def warnAt (s : State) (die : Nat) (temp : BitVec 16) : State :=
  let warn := fget s .thermalCtrl die 0 0 7 0
  let t := temp.toInt
  if fget s .thermalStatus die 0 0 16 16 = 1 then
    if t ≤ 8 * ((warn : Int) - 5) then sendThermal (fset s .thermalStatus die 0 0 16 16 0) die 1 temp warn else s
  else if warn < fget s .thermalCtrl die 0 0 15 8 ∧ (8 * warn : Nat) ≤ t then
    sendThermal (fset s .thermalStatus die 0 0 16 16 1) die 0 temp warn
  else s

/-- A reading of a die's junction temperature: a rise past both thresholds sends the warning, then trips (R447). -/
def reading (s : State) (die : Nat) (temp : BitVec 16) : State :=
  let s := warnAt (fset s .thermalStatus die 0 0 15 0 temp.toNat) die temp
  let tripC := fget s .thermalCtrl die 0 0 15 8
  if (8 * tripC : Nat) ≤ temp.toInt then trip s die temp tripC else s

/-- THERMAL: an unpowered die reads nothing, and a relock pauses the count of its readings. -/
def execThermal (die : Nat) (temp : BitVec 16) (s : State) : Res :=
  if die < 32 then
    .next (if running s ∧ (getDie s die).powered ∧ (getDie s die).relock = none ∧ !scanOpen s die then reading s die temp
      else s)
  else atUnit "die" 0 32 die s

/-- CLOCK_LOCK: a loss of lock outside a commanded relock; LOCKED reads 0 from then on (R28). -/
def execClockLock (die : Nat) (s : State) : Res :=
  if die < 32 then
    .next (if running s ∧ (getDie s die).powered ∧ (getDie s die).relock = none ∧ !scanOpen s die
      then raiseFault (modDie s die (fun d => { d with unlocked := true })) (srcSteward die 5) else s)
  else atUnit "die" 0 32 die s

end Sys2Proof.Machine
end

