-- ==== Sys2Proof/Machine/Engine.lean ====
section
/-! DEFINITION. The engines of a spindle: registers by name, address operands, results in flight and their landing, the
slub checker, exceptions, whorl ends, and the issue of one repeat of a command (R211-R218, R243-R263, R278-R283). -/

namespace Sys2Proof.Machine

/-! ### Commands (R243-R245) -/

/-- Instruction-memory word of an engine. -/
def imemWord (sp : Spindle) (e i : Nat) : Nat := (mapGet sp.imem 0 (8192 * e + i)).toNat

/-- Opcode of a command word. -/
def opcode (c : Nat) : Nat := bits c 7 0

/-- Engines an opcode is available to, one bit each (R244); 0 for an opcode that Holmon does not recognise. -/
def opEngines (op : Nat) : Nat :=
  if 0x01 ≤ op ∧ op ≤ 0x04 then 0xF
  else if 0x10 ≤ op ∧ op ≤ 0x12 then 0xF
  else if 0x20 ≤ op ∧ op ≤ 0x23 then 0xF
  else if 0x30 ≤ op ∧ op ≤ 0x33 then 1
  else if 0x40 ≤ op ∧ op ≤ 0x43 then 6
  else if 0x50 ≤ op ∧ op ≤ 0x54 then 6
  else if 0x55 ≤ op ∧ op ≤ 0x59 then 2
  else if 0x60 ≤ op ∧ op ≤ 0x62 then 2
  else if 0x70 ≤ op ∧ op ≤ 0x72 then 2
  else if 0x80 ≤ op ∧ op ≤ 0x86 then 4
  else if 0x90 ≤ op ∧ op ≤ 0x94 then 8
  else 0

/-- The opcode is one of the engine's commands. -/
def opValid (e op : Nat) : Bool := (opEngines op).testBit e

/-- The command repeats (R244). -/
def opRepeats (op : Nat) : Bool :=
  op == 0x01 || (decide (0x30 ≤ op) && op != 0x94)

/-- Register name that is not reserved (R247). -/
def nameOk (n : Nat) : Bool := decide (n < 20) || decide (24 ≤ n)

/-- Element formats of V arithmetic. -/
def isVFmt (c : Nat) : Bool := decide (1 ≤ c) && decide (c ≤ 3)

/-- Elements of a V.CVT conversion: parts of E elements (R268). -/
def cvtEls (c d : Nat) : Nat := 2048 / max (fmtBits c) (fmtBits d)

/-- The part lies within a register. -/
def partOk (c els k : Nat) : Bool := decide ((k + 1) * els ≤ 2048 / max 1 (fmtBits c))

/-- Operand formats of the tensor array (R230). -/
def isMmFmt (c : Nat) : Bool := (decide (2 ≤ c) && decide (c ≤ 5)) || isMx c

/-- The format pairs of R230. -/
def mmPair (a b : Nat) : Bool :=
  isMmFmt a && (a == b || (a, b) == (4, 5) || (a, b) == (5, 4) || (a, b) == (8, 9) || (a, b) == (9, 8))

/-- FLOOR_F of a command. -/
def cmdFloor (c : Nat) : Int := signed 9 (bits c 64 56)

/-- FLOOR_F within its range, and 0 outside WX128 (R272). -/
def floorOk (c mode : Nat) : Bool :=
  if mode = modeWx then decide (-149 ≤ cmdFloor c) && decide (cmdFloor c ≤ 143) else bits c 64 56 == 0

/-- A format that goes with another of its mode (R142). -/
def otherFmt (mode f : Nat) : Nat := if mode = modeKey then f else if mode = modeIx then 0x11 else 1

/-- Formats of FILT and COMPACT (R294). -/
def isFiltFmt (c : Nat) : Bool := isPlainFloat c || isInteger c || isRaw c

/-- ATOP with FMT of R356. -/
def atopFmt (op f : Nat) : Bool :=
  match op with
  | 1 => isPlainFloat f || isInteger f
  | 2 => f == 0x11 || f == 0x12
  | 3 => f == 0x11 || f == 0x12
  | 4 => f == 0x11 || f == 0x12
  | 5 => f == 0x11 || f == 0x12 || f == 0x1A || f == 0x1B
  | 6 => f == 0
  | 7 => f == 0
  | _ => false

/-- No field of the command holds an invalid or reserved value, and its combinations are legal. -/
def fieldsOk (c : Nat) : Bool :=
  match opcode c with
  | 0x03 => bits c 35 34 != 3 && bits c 52 40 != 0
  | 0x10 => nameOk (bits c 36 32)
  | 0x11 => nameOk (bits c 36 32) && nameOk (bits c 41 37) && (bit c 47 || nameOk (bits c 46 42))
      && decide (bits c 52 48 ≤ 17)
  | 0x12 => decide (bits c 38 36 ≤ 4) && (bit c 39 || nameOk (bits c 44 40))
  | 0x22 => bits c 43 40 == 0
  | 0x23 => bits c 43 40 == 0
  | 0x50 => isVFmt (bits c 63 56)
  | 0x51 => isVFmt (bits c 63 56)
  | 0x52 => isVFmt (bits c 63 56)
  | 0x53 => isVFmt (bits c 63 56)
  | 0x54 =>
    let f := bits c 63 56
    let g := bits c 71 64
    isPlainFloat f && isPlainFloat g && partOk g (cvtEls f g) (bits c 73 72) && partOk f (cvtEls f g) (bits c 75 74)
  | 0x55 => isVFmt (bits c 63 56)
  | 0x56 => isVFmt (bits c 63 56)
  | 0x57 => isVFmt (bits c 63 56)
  | 0x58 => isVFmt (bits c 63 56)
  | 0x61 => mmPair (bits c 59 52) (bits c 67 60)
  | 0x62 => isVFmt (bits c 47 40)
  | 0x70 =>
    let m := bits c 55 52
    legalCombo (bits c 51 48) m (bits c 47 40) (otherFmt m (bits c 47 40)) && floorOk c m
  | 0x71 =>
    let m := bits c 55 52
    let op := bits c 51 48
    (op == 1 && decide (1 ≤ m) && decide (m ≤ 3)) || (decide (2 ≤ op) && decide (op ≤ 6) && m == modeKey)
  | 0x72 =>
    let m := bits c 55 52
    legalCombo (bits c 51 48) m (otherFmt m (bits c 47 40)) (bits c 47 40) && floorOk c m
      && legalRound m (bits c 66 65)
  | 0x82 => isFiltFmt (bits c 79 72) && decide (bits c 83 80 ≤ 7)
  | 0x83 => isFiltFmt (bits c 79 72)
  | 0x84 => isMmFmt (bits c 79 72)
  | 0x85 => isMmFmt (bits c 79 72)
  | 0x92 => atopFmt (bits c 55 52) (bits c 63 56)
  | _ => true

/-- A command of the engine that does not raise ILLEGAL (R245). -/
def cmdLegal (e c : Nat) : Bool :=
  opValid e (opcode c) && (bit c 12 || bits c 11 8 == 0) && fieldsOk c

/-! ### Registers (R246, R247, R251, R258) -/

def aInit : AReg := { base := 0, stride := 0, wrap := 0, count := 0 }
def wInit : Whorl := { programmed := 0, remaining := 0, first := 0, last := 0, active := false, level := 0 }
def aReg (e : Engine) (n : Nat) : AReg := mapGet e.areg aInit n
def sReg (e : Engine) (n : Nat) : Word := mapGet e.sreg 0 n
def lReg (e : Engine) (n : Nat) : Whorl := mapGet e.lreg wInit n
def vReg (e : Engine) (n : Nat) : Nat := (mapGet e.vreg (0 : BitVec 2048) n).toNat
def setA (e : Engine) (n : Nat) (a : AReg) : Engine := { e with areg := mapPut e.areg aInit n a }
def setL (e : Engine) (n : Nat) (w : Whorl) : Engine := { e with lreg := mapPut e.lreg wInit n w }

/-- Tile elements in row order. -/
def tileEls (e : Engine) (n : Nat) : List (BitVec 32) := (upTo (1024 * n) 1024).map (mapGet e.tiles 0)

/-- Value of a register name. -/
def nameVal (e : Engine) (n : Nat) : Word :=
  if n < 16 then sReg e n
  else if n < 20 then
    let w := lReg e (n - 16)
    if w.active then word w.remaining.toNat else 0
  else word (b2n (e.preg.toNat.testBit (n - 24)))

/-- Class and number of a register: class 0 S, 1 A, 2 V, 3 P, 4 L, 5 ACC (R287). -/
def nameReg (n : Nat) : Nat × Nat := if n < 16 then (0, n) else if n < 20 then (4, n - 16) else (3, n - 24)

/-- Where a value written to a register name lands. -/
def nameTarget (n : Nat) (v : Word) : Target :=
  if n < 16 then .sreg n v
  else if n < 20 then .lreg (n - 16) (BitVec.ofNat 32 v.toNat)
  else .preg (n - 24) (wbit v 0)

/-! ### Local store and address operands (R221, R251-R253) -/

/-- Bytes of a physical spindle's program area. -/
def areaBytes (s : State) (key : Nat) : Nat := 0x300000 - 4096 * fget s .slotLimit (key / 32) (key % 32) 0 11 0

/-- An address operand of a repeat: its address, and the exceptions it meets with their EXC_ADDRESS. -/
structure Opd where
  addr : Nat
  errs : List (Nat × Word)

/-- STRIDE × COUNT. -/
def stepOff (a : AReg) : Int := a.stride.toInt * (a.count.toNat : Int)

/-- A local-store address of `n` bytes with an alignment: LS_RANGE and ALIGN; no check for zero bytes. -/
def localAt (area ea n align : Nat) : Opd :=
  { addr := ea,
    errs := if n = 0 then [] else
      (if area < ea + n then [(3, word ea)] else []) ++ (if ea % align ≠ 0 then [(4, word ea)] else []) }

/-- A local-store operand. -/
def localOpd (area : Nat) (a : AReg) (n align : Nat) : Opd :=
  localAt area (unsigned 64 ((a.base.toNat : Int) + stepOff a)) n align

/-- A handle operand: HANDLE_RANGE. -/
def handleOpd (a : AReg) (n : Nat) : Opd :=
  let off : Int := (wbits a.base 39 0 : Int) + stepOff a
  let ea := unsigned 64 ((wbits a.base 63 40 : Int) * ((2 ^ 40 : Nat) : Int) + off)
  { addr := ea,
    errs := if n ≠ 0 ∧ (off < 0 ∨ ((2 ^ 40 : Nat) : Int) < off + n) then [(5, word ea)] else [] }

/-- COUNT after a step. -/
def nextCount (a : AReg) : BitVec 24 := if a.wrap ≠ 0 ∧ a.wrap.toNat ≤ a.count.toNat + 1 then 0 else a.count + 1

/-! ### Landing (R217, R248, R249) -/

/-- Class, number and field of the register a result lands in; none for the local store and a queue. -/
def tgtField : Target → Option (Nat × Nat × Nat)
  | .sreg n _ => some (0, n, 0)
  | .preg n _ => some (3, n, 0)
  | .lreg n _ => some (4, n, 0)
  | .aField n f _ => some (1, n, f)
  | .aStep n _ => some (1, n, 4)
  | .aBase n _ => some (1, n, 0)
  | .vreg n _ => some (2, n, 0)
  | .tile n _ => some (5, n, 0)
  | .store _ _ _ => none
  | .push _ _ => none

/-- Write one field of an address register: 0 BASE, 2 STRIDE, 3 WRAP, 4 COUNT. -/
def putField (a : AReg) (f : Nat) (v : Word) : AReg :=
  match f with
  | 0 => { a with base := v }
  | 2 => { a with stride := BitVec.ofNat 24 v.toNat }
  | 3 => { a with wrap := BitVec.ofNat 16 v.toNat }
  | _ => { a with count := BitVec.ofNat 24 v.toNat }

/-- Set a bit of the predicates. -/
def putP (p : BitVec 8) (n : Nat) (v : Bool) : BitVec 8 :=
  let m := BitVec.ofNat 8 (2 ^ n)
  if v then p ||| m else p &&& ~~~m

/-- Set a tile. -/
def putTile (e : Engine) (n : Nat) (els : List (BitVec 32)) : Engine :=
  { e with tiles := (els.zipIdx).foldl (fun m x => mapPut m 0 (1024 * n + x.2) x.1) e.tiles }

/-- Queue contents. -/
def getQueue (sp : Spindle) (q : Nat) : List (BitVec 2048) := mapGet sp.queues [] q
def setQueue (sp : Spindle) (q : Nat) (l : List (BitVec 2048)) : Spindle := { sp with queues := mapPut sp.queues [] q l }

/-- A result lands. -/
def landTarget (sp : Spindle) (i : Nat) (t : Target) : Spindle :=
  let e := spEngine sp i
  match t with
  | .sreg n v => spSetEngine sp i { e with sreg := mapPut e.sreg 0 n v }
  | .preg n v => spSetEngine sp i { e with preg := putP e.preg n v }
  | .lreg n v => spSetEngine sp i (setL e n { lReg e n with programmed := v })
  | .aField n f v => spSetEngine sp i (setA e n (putField (aReg e n) f v))
  | .aStep n c => spSetEngine sp i (setA e n { aReg e n with count := c })
  | .aBase n b => spSetEngine sp i (setA e n { aReg e n with base := b })
  | .vreg n v => spSetEngine sp i { e with vreg := mapPut e.vreg 0 n v }
  | .tile n els => spSetEngine sp i (putTile e n els)
  | .store a d _ => spWrite sp a d
  | .push q v => setQueue sp q (getQueue sp q ++ [v])

/-- A hazard of the slub checker (R278): its cycle, kind, class, number, cycles early, program counter, first byte of the
line, and the effective address of the operand that reads it. -/
structure Hazard where
  cycle : Nat
  kind : Nat
  cls : Nat
  num : Nat
  early : Nat
  pc : Nat
  line : Nat
  ea : Nat

/-- Rank of a class in the order P, S, L, A, V, ACC, local store (R279). -/
def classRank (c : Nat) : Nat :=
  match c with
  | 3 => 0
  | 0 => 1
  | 4 => 2
  | 1 => 3
  | 2 => 4
  | 5 => 5
  | _ => 6

/-- Order in which hazards are captured: by cycle, and in one cycle as R279 says; of lines the lowest. -/
def hazardBefore (a b : Hazard) : Bool :=
  let ka := a.kind * 16 + classRank a.cls
  let kb := b.kind * 16 + classRank b.cls
  decide (a.cycle < b.cycle) || (a.cycle == b.cycle && (decide (ka < kb) || (ka == kb && (decide (a.num < b.num)
    || (a.num == b.num && decide (a.line < b.line))))))

/-- Put a hazard in its place. -/
def insHazard (h : Hazard) : List Hazard → List Hazard
  | [] => [h]
  | x :: r => if hazardBefore x h then x :: insHazard h r else h :: x :: r

/-- SLUB_CAPTURE of a hazard. -/
def captureWord (h : Hazard) : Nat :=
  2 ^ 63 + min h.early 255 * 2 ^ 40 + h.kind * 2 ^ 32 + h.num % 32 * 2 ^ 24 + h.cls * 2 ^ 20 + h.pc % 8192

/-- Count a hazard, capture the first, and raise its event (R279). -/
def countHazard (s : State) (key e : Nat) (h : Hazard) : State :=
  let s := eadd s .slubCount key e 0 47 0 1
  let s := if eget s .slubCapture key e 0 63 63 = 1 then s
    else eset (eset s .slubCapture key e 0 63 0 (captureWord h)) .slubCaptureAddr key e 0 63 0 h.line
  raiseDetail s (srcEngine key e 1)
    [word (eget s .slubCapture key e 0 63 0), word (eget s .slubCaptureAddr key e 0 63 0)]

/-- Count hazards, in the order of capture. -/
def countHazards (s : State) (key e : Nat) (l : List Hazard) : State :=
  (l.foldr insHazard []).foldl (fun s h => countHazard s key e h) s

/-- The hazard of a result that lands after one issued later (KIND 2). -/
def lateHazard (f : Flight) : List Hazard :=
  if f.late = 0 then [] else
    match tgtField f.tgt with
    | some (c, n, _) => [{ cycle := f.due, kind := 2, cls := c, num := n, early := f.late, pc := f.pc, line := 0, ea := 0 }]
    | none => []

/-- The flight that lands next: the earliest due, and of those the first issued. -/
def firstDue : List Flight → Option Flight
  | [] => none
  | f :: r =>
    match firstDue r with
    | none => some f
    | some g => if g.due < f.due ∨ (g.due = f.due ∧ g.seq < f.seq) then some g else some f

/-- Land every result due at cycle `c` or before, at most `fuel` of them; with the late landings met. -/
def landDue (c i : Nat) : Nat → Spindle → List Hazard → Spindle × List Hazard
  | 0, sp, hs => (sp, hs)
  | fuel + 1, sp, hs =>
    let e := spEngine sp i
    match firstDue e.flight with
    | none => (sp, hs)
    | some f =>
      if c < f.due then (sp, hs)
      else
        let sp := spSetEngine sp i { e with flight := e.flight.filter (fun g => g.seq != f.seq) }
        landDue c i fuel (landTarget sp i f.tgt) (hs ++ lateHazard f)

/-- The spindle with every result due by a cycle landed, and the late landings met. -/
def landed (s : State) (key i c : Nat) : Spindle × List Hazard :=
  let sp := getSp s key
  landDue c i (spEngine sp i).flight.length sp []

/-- Land every result due by a cycle. -/
def landBy (s : State) (key i c : Nat) : State :=
  let r := landed s key i c
  countHazards (setSp s key r.1) key i r.2

/-- The cycle in which the last result in flight lands; the present one when there is none. -/
def lastDue (e : Engine) : Nat := e.flight.foldl (fun n f => max n f.due) e.now

/-- Let everything in flight land, counting advancing cycles. -/
def drainAll (s : State) (key i : Nat) : State :=
  let e := getEng s key i
  let d := lastDue e
  let s := landBy (eadd s .advanceCycles key i 0 47 0 (d - e.now)) key i d
  modEng s key i (fun e => { e with now := d })

/-! ### Hazards of a repeat -/

/-- Registers a result lands in meet a register read. -/
def flightOf (cls num : Nat) (f : Flight) : Bool :=
  match tgtField f.tgt with
  | some (c, n, _) => c == cls && n == num
  | none => false

/-- Least cycle of a list, above the present one. -/
def leastDue (l : List Flight) : Nat := l.foldl (fun n f => if n = 0 then f.due else min n f.due) 0

/-- KIND 1: a register read before a result due to it has landed. -/
def readHazards (e : Engine) (c pc : Nat) (reads : List (Nat × Nat)) : List Hazard :=
  reads.eraseDups.flatMap (fun r =>
    let l := e.flight.filter (fun f => decide (c < f.due) && flightOf r.1 r.2 f)
    if l.isEmpty then []
    else [{ cycle := c, kind := 1, cls := r.1, num := r.2, early := leastDue l - c, pc := pc, line := 0, ea := 0 }])

/-- 64-byte lines of a range of bytes. -/
def linesOf (a n : Nat) : List Nat := if n = 0 then [] else upTo (a / 64) ((a + n - 1) / 64 - a / 64 + 1)

/-- A byte range meets another; no bytes meet none. -/
def meets (a n b m : Nat) : Bool := decide (0 < n) && decide (0 < m) && decide (a < b + m) && decide (b < a + n)

/-- A store in flight into a line. -/
def storesLine (line : Nat) (f : Flight) : Bool :=
  match f.tgt with
  | .store a d _ => !d.isEmpty && decide (a / 64 ≤ line) && decide (line ≤ (a + d.length - 1) / 64)
  | _ => false

/-- A store of the exact lanes in flight over accumulator bytes of a repeat of theirs (R273). -/
def storesAcc (accs : List (Nat × Nat × Bool)) (f : Flight) : Bool :=
  match f.tgt with
  | .store a d acc => acc && accs.any (fun r => meets r.1 r.2.1 a d.length)
  | _ => false

/-- An operand reads a line. -/
def readsLine (line : Nat) (r : Nat × Nat × Bool) : Bool := (linesOf r.1 r.2.1).contains line

/-- KIND 3: one hazard for each line of the local store read before a write due to it has landed. Ranges marked are
accumulators of the exact lanes, which see the writes of their own lanes that overlap them (R273). -/
def lineHazards (e : Engine) (c pc : Nat) (ranges : List (Nat × Nat × Bool)) : List Hazard :=
  let accs := ranges.filter (·.2.2)
  ((ranges.flatMap (fun r => linesOf r.1 r.2.1)).eraseDups).flatMap (fun x =>
    let due (f : Flight) : Bool := decide (c < f.due) && storesLine x f
    let plain := e.flight.filter due
    let seen := plain.filter (fun f => !storesAcc accs f)
    match ranges.find? (fun r => readsLine x r && (if r.2.2 then !seen.isEmpty else !plain.isEmpty)) with
    | none => []
    | some r =>
      let l := if ranges.any (fun r => readsLine x r && !r.2.2) then plain else seen
      [{ cycle := c, kind := 3, cls := 6, num := 0, early := leastDue l - c, pc := pc, line := 64 * x, ea := r.1 }])

/-! ### Whorls (R258-R262) -/

/-- Active whorls. -/
def activeWhorls (e : Engine) : List Nat := (upTo 0 4).filter (fun n => (lReg e n).active)

/-- The innermost active whorl. -/
def innermost (e : Engine) : Option Nat :=
  (activeWhorls e).find? (fun n => (activeWhorls e).all (fun m => decide ((lReg e m).level ≤ (lReg e n).level)))

/-- A whorl ends. -/
def endWhorl (e : Engine) (n : Nat) : Engine := setL e n { lReg e n with active := false, level := 0 }

/-- The engine at the command that follows the one at `p` in the run of the program (R260). -/
def followed (p : Nat) : Nat → Engine → Engine
  | 0, e => { e with pc := p + 1 }
  | fuel + 1, e =>
    match innermost e with
    | none => { e with pc := p + 1 }
    | some n =>
      let w := lReg e n
      if w.last.toNat ≠ p then { e with pc := p + 1 }
      else
        let r := w.remaining - 1
        let e := setL e n { w with remaining := r }
        if r ≠ 0 then { e with pc := w.first.toNat } else followed p fuel (endWhorl e n)

/-- A command has issued its last repeat, has been skipped or has been passed over. -/
def advancePc (e : Engine) : Engine := { followed e.pc 4 e with rep := 0, count := none, waitBegun := false, ended := none }

/-- A taken J: whorls whose body does not hold the target end. -/
def jumpTo (t : Nat) (e : Engine) : Engine :=
  let l := (activeWhorls e).filter (fun n => decide (t < (lReg e n).first.toNat) || decide ((lReg e n).last.toNat < t))
  { l.foldl endWhorl e with pc := t, rep := 0, count := none }

/-! ### Exceptions (R280-R283) -/

/-- The exception that waits for outstanding IN.GETs is taken once there is none: the engine is FAULTED, and the
exception is recorded and raised. -/
def takeFault (s : State) (key i : Nat) : State :=
  let e := getEng s key i
  match e.faulting with
  | none => s
  | some (code, rep, addr) =>
  if e.gets ≠ [] then s
  else
  let (free, s) := if e.pc < 8192 then (e.pc, s) else freeBelow 8192 s
  let s := modEng s key i (fun e => { e with state := .faulted, hold := 0, debugHalt := false, faulting := none })
  let s := eset s .excStatus key i 0 63 0 (2 ^ 63 + rep % 2 ^ 32 * 2 ^ 24 + code * 2 ^ 16 + free)
  let s := eset s .excAddress key i 0 63 0 addr.toNat
  raiseDetail s (srcEngine key i 0)
    [word (eget s .excStatus key i 0 63 0), word (eget s .excAddress key i 0 63 0)]

/-- The engine faults: what is in flight lands, outstanding IN.GETs complete, and the exception is taken (R281). An IN.GET
cut in its repeats raises no flag. -/
def fault (s : State) (key i code rep : Nat) (addr : Word) : State :=
  let e := getEng s key i
  let cut := if 0 < e.rep ∧ opcode (imemWord (getSp s key) i e.pc) = 0x30
    then [(e.reqNumber - BitVec.ofNat 20 e.rep).toNat] else []
  takeFault (modEng (drainAll s key i) key i (fun e =>
    { e with state := .running, hold := 0, rep := 0, count := none, passed := false, waitBegun := false, ended := none,
             badGroups := e.badGroups ++ cut, faulting := some (code, rep, addr) })) key i

/-- The lowest code of a list of exceptions, and of equal ones the first (R280). -/
def lowestErr : List (Nat × Word) → Option (Nat × Word)
  | [] => none
  | x :: r =>
    match lowestErr r with
    | none => some x
    | some y => if y.1 < x.1 then some y else some x

/-! ### Issue (R214-R216, R248, R255-R257) -/

/-- What a repeat does when it issues: the hold of its queues or limits (0 none), the local-store bytes it touches, the
exceptions it meets, its occupancy, the registers and bytes it reads, its results with their latencies, the address
registers it steps, its other effects, and where the program goes on when that is not the next command. -/
structure Plan where
  hold : Nat := 0
  touches : List (Nat × Nat) := []
  errs : List (Nat × Word) := []
  occ : Nat := 1
  reads : List (Nat × Nat) := []
  lines : List (Nat × Nat × Bool) := []
  results : List (Nat × Target) := []
  steps : List Nat := []
  act : State → State := id
  next : Option (Engine → Engine) := none

/-- A destination of an outstanding IN.GET is touched (R224). -/
def getOverlap (sp : Spindle) (l : List (Nat × Nat)) : Bool :=
  (spEngine sp 0).gets.any (fun g => l.any (fun r => meets r.1 r.2 g.addr g.bytes))

/-- An engine that can issue: its spindle is LIVE and its clock runs. -/
def engineClocked (s : State) (key : Nat) : Bool := spindleLive s key && (getDie s (key / 32)).relock.isNone

/-- The engine runs a program. -/
def engineActive (e : Engine) : Bool := e.state == .running || e.state == .held || e.state == .waiting

/-- The engine has a command to issue. -/
def engineIssues (e : Engine) : Bool := engineActive e && e.faulting.isNone

/-- A held cycle (R215). -/
def holdFor (s : State) (key i cause : Nat) : State :=
  modEng (eadd s .heldCycles key i 0 47 0 1) key i (fun e => { e with state := .held, hold := cause })

/-- A waiting cycle at a drain point (R218). -/
def waitFor (s : State) (key i : Nat) : State :=
  modEng (eadd s .waitingCycles key i 0 47 0 1) key i (fun e => { e with state := .waiting, hold := 0 })

/-- Cycles that issue takes: the engine is RUNNING, and its watchdog's count is back at 0 (R494). -/
def spend (s : State) (key i n : Nat) : State :=
  modEng (eadd s .advanceCycles key i 0 47 0 n) key i
    (fun e => { e with now := e.now + n, state := .running, hold := 0, passed := false, wdRaised := false })

/-- Note a command in the PC trace (R482). -/
def traceCmd (s : State) (key i : Nat) : State :=
  let c := eget s .advanceCycles key i 0 47 0
  modEng s key i (fun e => { e with trace := ((c, e.pc) :: e.trace).take 32 })

/-- Put a result in flight; results of the same register due later than it become late (R249). -/
def fly (c : Nat) (e : Engine) (r : Nat × Target) : Engine :=
  let due := c + r.1
  let mark (f : Flight) : Flight :=
    if (tgtField f.tgt).isSome ∧ tgtField f.tgt = tgtField r.2 ∧ due < f.due
    then { f with late := max f.late (f.due - due) } else f
  { e with flight := e.flight.map mark ++ [{ due := due, seq := e.seq, pc := e.pc, late := 0, tgt := r.2 }],
           seq := e.seq + 1 }

/-- Steps of a repeat's address registers, as results of latency 1. -/
def stepResults (e : Engine) (l : List Nat) : List (Nat × Target) :=
  l.eraseDups.map (fun n => (1, .aStep n (nextCount (aReg e n))))

/-- The predicate of a command (R243). -/
def predicate (e : Engine) (c : Nat) : Bool :=
  !(bit c 12) || (e.preg.toNat.testBit (bits c 10 8) != bit c 11)

/-- Registers read for the predicate, and for the count. -/
def predReads (c : Nat) : List (Nat × Nat) := if bit c 12 then [(3, bits c 10 8)] else []
def countReads (c : Nat) : List (Nat × Nat) :=
  if opRepeats (opcode c) ∧ bit c 13 then [(0, bits c 19 16)] else []

/-- Repeat count of a command. -/
def repeatCount (e : Engine) (c : Nat) : Nat :=
  if !opRepeats (opcode c) then 1 else if bit c 13 then (sReg e (bits c 19 16)).toNat else bits c 31 16

/-- STOP_ON_HAZARD of the command that issues. -/
def stopOnHazard (s : State) (key i : Nat) : Bool := (getEng s key i).control.testBit 1

/-- A repeat issues at cycle `c` as its plan says. -/
def perform (s : State) (key i n : Nat) (p : Plan) : State :=
  let e := getEng s key i
  let c := e.now
  let s := if e.rep = 0 then traceCmd s key i else s
  let s := modEng s key i (fun e => (p.results ++ stepResults e p.steps).foldl (fly c) e)
  let s := p.act (spend s key i p.occ)
  modEng s key i (fun e =>
    match p.next with
    | some f => f { e with rep := 0, count := none }
    | none => if n ≤ e.rep + 1 then advancePc e else { e with rep := e.rep + 1, count := some n })

/-- The command is skipped by its predicate (R255). -/
def skip (s : State) (key i : Nat) : State := modEng (spend (traceCmd s key i) key i 1) key i advancePc

/-- The command is passed over (R256): the first in a cycle takes no time, a further one waits for the next cycle. -/
def passOver (s : State) (key i : Nat) : State :=
  let s := if (getEng s key i).passed then spend s key i 1 else s
  modEng (traceCmd s key i) key i (fun e => { advancePc e with passed := true, state := .running, hold := 0 })

/-- One repeat comes to issue with its count known and every result of its cycle landed. -/
def issueRepeat (s : State) (key i n : Nat) (first : List (Nat × Nat)) (hs : List Hazard) (p : Plan) : State :=
  let e := getEng s key i
  let found := readHazards e e.now e.pc (first ++ p.reads ++ p.steps.map (fun a => (1, a))) ++ lineHazards e e.now e.pc p.lines
  let stop : List (Nat × Word) :=
    if stopOnHazard s key i then
      match found.foldr insHazard [] with
      | [] => []
      | h :: _ => [(13, word h.ea)]
    else []
  match lowestErr (p.errs ++ stop) with
  | some (code, a) => fault (countHazards s key i hs) key i code e.rep a
  | none => perform (countHazards s key i (found ++ hs)) key i n p

/-- The hold that keeps a repeat from issuing; 0 for none. -/
def holdCause (sp : Spindle) (p : Plan) : Nat := if p.hold ≠ 0 then p.hold else if getOverlap sp p.touches then 2 else 0

/-- A command that is not a drain point comes to issue: `plan` gives what repeat `rep` does. `s` has landed what is due
before the present cycle. -/
def issueCmd (s : State) (key i cmd : Nat) (plan : State → Nat → Plan) : State :=
  let e0 := getEng s key i
  let (sp, hs) := landed s key i e0.now
  let t := setSp s key sp
  let e := getEng t key i
  match e.count with
  | some n =>
    let p := plan t e.rep
    if holdCause sp p = 0 then issueRepeat t key i n [] hs p else holdFor s key i (holdCause sp p)
  | none =>
    if !predicate e cmd then
      skip (countHazards t key i (readHazards e e.now e.pc (predReads cmd) ++ hs)) key i
    else
      let n := repeatCount e cmd
      let first := predReads cmd ++ countReads cmd
      if 2 ^ 32 ≤ n then fault (countHazards t key i hs) key i 6 0 0
      else if n = 0 then passOver (countHazards t key i (readHazards e e.now e.pc first ++ hs)) key i
      else
        let p := plan t 0
        if holdCause sp p = 0 then issueRepeat t key i n first hs p else holdFor s key i (holdCause sp p)

/-- A spindle cycle begins: the flags that waits which ended in it clear become 0 (R320). -/
def newCycle (s : State) (key : Nat) : State :=
  modSp s key (fun sp => { sp with flags := flagsNow sp, clearing := 0 })

/-- An engine comes to a cycle of its own: of a command that has not begun, EXC_CONTROL as it stands then holds for the
whole (R33). -/
def beginCycle (s : State) (key i : Nat) : State :=
  let v := eget s .excControl key i 0 1 0
  modEng (newCycle s key) key i (fun e => if e.count.isNone then { e with control := v } else e)

/-- The row of command `op` at an engine: it acts when the engine comes to issue such a command, or one that raises
ILLEGAL or PC_RANGE whatever the row. -/
def atCommand (s : State) (key i op : Nat) (k : State → Nat → State) : State :=
  let e := getEng s key i
  if !engineClocked s key || !engineIssues e then s
  else if e.state = .held ∧ e.hold = 5 then holdFor s key i 5
  else
    let s := landBy (beginCycle s key i) key i (e.now - 1)
    if 8192 ≤ e.pc then fault s key i 2 0 0
    else
      let c := imemWord (getSp s key) i e.pc
      if opValid i (opcode c) ∧ opcode c ≠ op then s
      else if !cmdLegal i c then fault s key i 1 0 0
      else k s c

/-- An engine event of a repeated command or a control command. -/
def execCmd (die slot i op : Nat) (plan : Nat → Nat → Nat → State → Nat → Plan) (s : State) : Res :=
  if 10 ≤ die ∧ die < 26 ∧ slot < 17 ∧ i < 4 then
    let key := spKey die slot
    .next (atCommand s key i op (fun s c => issueCmd s key i c (plan key i c)))
  else atEngine die slot i s

/-- LANDING: the next result in flight lands, once its cycle has passed. -/
def execLanding (die slot engine : Nat) (s : State) : Res :=
  if 10 ≤ die ∧ die < 26 ∧ slot < 17 ∧ engine < 4 then
    let key := spKey die slot
    let e := getEng s key engine
    .next (match firstDue e.flight with
      | none => s
      | some f =>
        if !engineClocked s key || decide (e.now ≤ f.due) then s
        else
          let s := modEng s key engine (fun e => { e with flight := e.flight.filter (fun g => g.seq != f.seq) })
          countHazards (modSp s key (fun sp => landTarget sp engine f.tgt)) key engine (lateHazard f))
  else atEngine die slot engine s

end Sys2Proof.Machine
end

