-- ==== Sys2Proof/Machine/Sync.lean ====
section
/-! DEFINITION. Sync flags, barchans and the drain points of every engine: SYNC.RAISE, SYNC.WAIT, BAR.ARRIVE, BAR.WAIT
and HALT, with the arrival of raises and of barchan arrivals (R218, R318-R333). -/

namespace Sys2Proof.Machine

/-! ### Drain points (R218, R280) -/

/-- The error a drain point raises, lowest code first; OUTLET only at OUT.FENCE and HALT. -/
def drainErr (e : Engine) (outlet : Bool) : Option (Nat × Word) :=
  lowestErr ((e.errExact.map (fun a => (9, a))).toList ++ (e.errFetch.map (fun a => (10, a.2))).toList
    ++ (if outlet then (e.errOutlet.map (fun a => (11, a.2))).toList else []) ++ (e.errSparse.map (fun a => (12, a))).toList)

/-- An error raised is no longer kept. -/
def clearErr (code : Nat) (e : Engine) : Engine :=
  match code with
  | 9 => { e with errExact := none }
  | 10 => { e with errFetch := none }
  | 11 => { e with errOutlet := none }
  | _ => { e with errSparse := none }

/-- SPARSE_FORMAT of a spindle that feeds a hank poisons the hank's round (R314). -/
def sparsePoison (s : State) (key : Nat) : State :=
  let v := rget s .sparsePoison (key / 32) (key % 32) 0
  let hank := bits v 15 0
  match getHank s hank with
  | none => s
  | some h => if bit v 32 ∧ hank ≠ 0 ∧ h.d.job = bits v 27 16 then poisonRound s hank 4 else s

/-- A drain point raises an error in place of issuing. -/
def drainFault (s : State) (key i code : Nat) (a : Word) : State :=
  let s := fault (modEng s key i (clearErr code)) key i code 0 a
  if code = 12 then sparsePoison s key else s

/-- The drain point issues: one cycle, then the next command. -/
def finishDrain (s : State) (key i : Nat) : State := modEng (spend s key i 1) key i advancePc

/-- A wait is over: the drain point issues, or raises BARCHAN with the address of the refusal that ended it. -/
def afterWait (s : State) (key i a : Nat) : State := if a = 0 then finishDrain s key i else fault s key i 14 0 (word a)

/-- The engine is held by the debugger as soon as its wait ends, before it issues (R475). -/
def heldAfter (ended : Option Nat) (e : Engine) : Engine :=
  { e with state := .held, hold := 5, debugHalt := false, ended := ended }

/-- A wait ends. -/
def endWait (s : State) (key i a : Nat) : State :=
  if (getEng s key i).debugHalt then modEng s key i (heldAfter (some a)) else afterWait s key i a

/-- A drain point begins to wait. -/
def beginWait (s : State) (key i : Nat) : State :=
  modEng s key i (fun e => { e with state := .waiting, hold := 0, waitBegun := true })

/-- A drain point that has begun goes on: its wait has ended, or `k` acts. -/
def resumeDrain (s : State) (key i : Nat) (k : State → State) : State :=
  match (getEng s key i).ended with
  | some a => afterWait s key i a
  | none => k s

/-- A drain point comes to issue: its predicate is read, then everything in flight lands, then `k` acts. -/
def drainCmd (s : State) (key i cmd : Nat) (k : State → State) : State :=
  if (getEng s key i).count.isSome then resumeDrain s key i k
  else
    let e0 := getEng s key i
    let (sp, hs) := landed s key i e0.now
    let t := setSp s key sp
    let e := getEng t key i
    let found := readHazards e e.now e.pc (predReads cmd)
    if !predicate e cmd then skip (countHazards t key i (found ++ hs)) key i
    else if stopOnHazard t key i ∧ found ≠ [] then fault (countHazards t key i hs) key i 13 0 0
    else
      let t := traceCmd (countHazards t key i (found ++ hs)) key i
      k (modEng (drainAll t key i) key i (fun e => { e with count := some 1, state := .running, hold := 0 }))

/-- An engine event of a drain point. -/
def execDrain (die slot i op : Nat) (k : Nat → Nat → Nat → State → State) (s : State) : Res :=
  if 10 ≤ die ∧ die < 26 ∧ slot < 17 ∧ i < 4 then
    let key := spKey die slot
    .next (atCommand s key i op (fun s c => drainCmd s key i c (k key i c)))
  else atEngine die slot i s

/-- A drain point that raises an error found before it, or acts. -/
def unlessErr (s : State) (key i : Nat) (outlet : Bool) (k : State → State) : State :=
  match drainErr (getEng s key i) outlet with
  | some (code, a) => drainFault s key i code a
  | none => k s

/-- The command an engine waits at, when it is of an opcode. -/
def waitsAt (sp : Spindle) (i op : Nat) : Option Nat :=
  let e := spEngine sp i
  let c := imemWord sp i e.pc
  if e.state = .waiting ∧ e.waitBegun ∧ opcode c = op then some c else none

/-! ### Flags (R318-R321) -/

/-- A flag of a spindle. -/
def flagOf (s : State) (key n : Nat) : Bool := (getSp s key).flags.toNat.testBit n

/-- A flag that the next spindle cycle clears. -/
def flagClearing (s : State) (key n : Nat) : Bool := (getSp s key).clearing.toNat.testBit n

/-- Set or clear a flag. -/
def putFlag (s : State) (key n : Nat) (v : Bool) : State :=
  let m := BitVec.ofNat 64 (2 ^ n)
  modSp s key (fun sp => { sp with flags := if v then sp.flags ||| m else sp.flags &&& ~~~m })

/-- Engines of a spindle that wait for a flag, each with whether it clears it. -/
def flagWaiters (s : State) (key n : Nat) : List (Nat × Bool) :=
  (upTo 0 4).filterMap (fun i =>
    (waitsAt (getSp s key) i 0x21).bind (fun c => if bits c 45 40 = n then some (i, bit c 48) else none))

/-- Waits that see their flag at 1 end, all in the next spindle cycle; in that cycle the flag becomes 0 when one of them
clears it. -/
def settleFlag (s : State) (key n : Nat) : State :=
  let l := flagWaiters s key n
  if flagOf s key n ∧ engineClocked s key then
    let s := l.foldl (fun s w => endWait s key w.1 0) s
    if l.any (·.2) then modSp s key (fun sp => { sp with clearing := sp.clearing ||| BitVec.ofNat 64 (2 ^ n) }) else s
  else s

/-- A raise takes effect. Where a wait that the flag's last raise ended is to clear it, this raise arrives in the cycle of
that raise, or in a later one: which of the two is free. -/
def raiseFlag (s : State) (key n : Nat) : State :=
  let (later, s) := if flagClearing s key n then let (b, s) := freeBelow 2 s; (b == 1, s) else (false, s)
  let s := if later then newCycle s key else s
  settleFlag (putFlag s key n true) key n

def execSyncRaise (die slot engine : Nat) (s : State) : Res :=
  execDrain die slot engine 0x20 (fun key i c s =>
    unlessErr s key i false (fun s => finishDrain (sendRaise s die (bits c 39 32) (bits c 45 40)) key i)) s

/-- SYNC.WAIT after its drain: it waits, and ends in the cycle after it sees its flag at 1. -/
def syncWait (s : State) (key i c : Nat) : State :=
  if (getEng s key i).waitBegun then
    let n := bits c 45 40
    if flagOf s key n then newCycle (settleFlag s key n) key else waitFor s key i
  else unlessErr s key i false (fun s => waitFor (beginWait s key i) key i)

def execSyncWait (die slot engine : Nat) (s : State) : Res :=
  execDrain die slot engine 0x21 (fun key i c s => syncWait s key i c) s

/-- The oldest message of a kind on the sync lanes, and the others. -/
def takeSync (want : SyncMsg → Bool) (l : List SyncMsg) : Option (SyncMsg × List SyncMsg) :=
  (l.find? want).map (fun m => (m, removeFirst want l))

/-- A raise for a logical spindle. -/
def isRaise (l : Nat) : SyncMsg → Bool
  | .raise k _ => k == l
  | _ => false

/-- A CONTEXT_RESTORE that covers a spindle is running (R340). -/
def restoring (s : State) (l : Nat) : Bool :=
  s.ops.any (fun e => e.2.code == 7 && e.2.state == 0 &&
    decide (e.2.params.getD 0 0 ≤ l) && decide (l < e.2.params.getD 0 0 + e.2.params.getD 1 0))

/-- The oldest raise for a spindle arrives: it takes effect, or is dropped and counted where the spindle is
unavailable; it waits while the spindle's context is restored. -/
def arriveRaise (s : State) (l : Nat) : State :=
  match takeSync (isRaise l) s.sync with
  | some (.raise _ n, rest) =>
    let die := 10 + l / 16
    let t := { s with sync := rest }
    if (getDie s die).relock.isSome || restoring s l then s
    else if !logicalAvailable s l then fadd t .syncDrops die 0 0 31 0 1
    else raiseFlag t (spindleOf s l) n
  | _ => s

/-- RAISE. -/
def execRaise (spindle : Nat) (s : State) : Res :=
  if spindle < 256 then .next (arriveRaise s spindle) else atUnit "spindle" 0 256 spindle s

/-! ### Barchans (R328-R333) -/

/-- Set barchan b of a physical spindle. -/
def setBarchan (s : State) (key b : Nat) (v : Barchan) : State :=
  modSp s key (fun sp => { sp with barchans := mapPut sp.barchans Barchan.init b v })

/-- Local index carried by a slot's spindle. -/
def localIndex (s : State) (key : Nat) : Nat := (logicalOf s key).getD 0 % 16

/-- Participant number of an engine. -/
def participant (s : State) (key i : Nat) : Nat := 4 * localIndex s key + i

/-- Physical key of a local index of a die. -/
def localSpindle (s : State) (die home : Nat) : Nat := spindleOf s (16 * (die - 10) + home)

/-- An arrival at barchan b of a local index: 0 accepted, or the cause of its refusal, and the state (R330). -/
def applyArrival (s : State) (die home b p : Nat) : Nat × State :=
  let key := localSpindle s die home
  let v := getBarchan (getSp s key) b
  let m : Word := word (2 ^ p)
  if !logicalAvailable s (16 * (die - 10) + home) then (3, s)
  else if !(wbit v.members p) then (1, s)
  else if !(wbit v.cur p) then (0, setBarchan s key b { v with cur := v.cur ||| m })
  else if !(wbit v.next p) then (0, setBarchan s key b { v with next := v.next ||| m })
  else (2, s)

/-- The arrivals of a participant have all been released. -/
def barDone (v : Barchan) (p : Nat) : Bool := !(wbit v.cur p) && !(wbit v.next p)

/-- The BAR.WAITs at a barchan whose arrivals have been released end (R332). -/
def settleBarWaits (s : State) (die home b : Nat) : State :=
  let v := getBarchan (getSp s (localSpindle s die home)) b
  (upTo 0 64).foldl (fun s p =>
    let key := localSpindle s die (p / 4)
    match waitsAt (getSp s key) (p % 4) 0x23 with
    | some c => if bits c 43 32 = 16 * home + b ∧ barDone v p ∧ engineClocked s key then endWait s key (p % 4) 0 else s
    | none => s) s

/-- One release of a barchan (R331). -/
def release (s : State) (key b : Nat) : State :=
  let v := getBarchan (getSp s key) b
  let s := setBarchan s key b { v with sense := !v.sense, cur := v.next, next := 0, releases := v.releases + 1 }
  match logicalOf s key with
  | some l => settleBarWaits s (key / 32) (l % 16) b
  | none => s

/-- The barchan releases where every member has arrived. -/
def releaseDue (s : State) (key b : Nat) : State :=
  let v := getBarchan (getSp s key) b
  if v.members ≠ 0 ∧ popCount 64 v.cur.toNat = popCount 64 v.members.toNat then release s key b else s

/-- The answer of the home reaches the engine that arrived. -/
def arrivalAnswer (s : State) (die home b p cause : Nat) : State :=
  let key := localSpindle s die (p / 4)
  if (waitsAt (getSp s key) (p % 4) 0x22).isNone || !engineClocked s key then s
  else endWait s key (p % 4) (if cause = 0 then 0 else cause * 2 ^ 12 + 16 * home + b)

/-- A BAR.ARRIVE sends its arrival once and waits for the answer. -/
def barArrive (s : State) (key i c : Nat) : State :=
  if (getEng s key i).waitBegun then waitFor s key i
  else unlessErr s key i false (fun s =>
    let m := SyncMsg.arrival (key / 32) (bits c 39 36) (bits c 35 32) (participant s key i)
    waitFor (beginWait { s with sync := s.sync ++ [m] } key i) key i)

def execBarArrive (die slot engine : Nat) (s : State) : Res :=
  execDrain die slot engine 0x22 (fun key i c s => barArrive s key i c) s

/-- BAR.WAIT: refused at its issue for causes 1 and 3. -/
def barWait (s : State) (key i c : Nat) : State :=
  let die := key / 32
  let home := bits c 39 36
  let v := getBarchan (getSp s (localSpindle s die home)) (bits c 35 32)
  let p := participant s key i
  let go (s : State) : State :=
    if barDone v p then finishDrain s key i else waitFor (beginWait s key i) key i
  if (getEng s key i).waitBegun then go s
  else unlessErr s key i false (fun s =>
    if !logicalAvailable s (16 * (die - 10) + home) then fault s key i 14 0 (word (3 * 2 ^ 12 + bits c 43 32))
    else if !(wbit v.members p) then fault s key i 14 0 (word (2 ^ 12 + bits c 43 32))
    else go s)

def execBarWait (die slot engine : Nat) (s : State) : Res :=
  execDrain die slot engine 0x23 (fun key i c s => barWait s key i c) s

/-- An arrival at a barchan of a die. -/
def isArrival (die : Nat) : SyncMsg → Bool
  | .arrival d _ _ _ => d == die
  | _ => false

/-- The oldest arrival of a die reaches its home. -/
def homeArrival (s : State) (die : Nat) : State :=
  match takeSync (isArrival die) s.sync with
  | some (.arrival _ home b p, rest) =>
    if (getDie s die).relock.isSome then s
    else
      let (cause, s) := applyArrival { s with sync := rest } die home b p
      let s := arrivalAnswer s die home b p cause
      if cause = 0 then releaseDue s (localSpindle s die home) b else s
  | _ => s

/-- BARCHAN_ARRIVAL. -/
def execBarchanArrival (die : Nat) (s : State) : Res :=
  if 10 ≤ die ∧ die < 26 then .next (homeArrival s die) else atSpindleDie die s

/-- FURTHER_RELEASE: the check of the next spindle cycle. -/
def execFurtherRelease (die slot b : Nat) (s : State) : Res :=
  if 10 ≤ die ∧ die < 26 ∧ slot < 17 ∧ b < 16 then
    .next (if unitContained s die 0x10 slot ∨ (getDie s die).relock.isSome then s else releaseDue s (spKey die slot) b)
  else .refused (.noSuchUnit "barchan")

/-! ### HALT (R234) -/

/-- Packets of an Outlet that await an answer. -/
def unanswered (e : Engine) : Nat := (e.sent.filter (fun r => r.answered.isNone)).length

/-- HALT waits for outstanding IN.GETs and unanswered Outlet packets. -/
def haltWaits (e : Engine) : Bool := e.gets != [] || unanswered e != 0

/-- A drain point that waits for the network: it waits, is held once its wait ends where the debugger asked for that,
or goes on. -/
def networkWait (s : State) (key i : Nat) (waits : Bool) (k : State → State) : State :=
  if waits then waitFor (beginWait s key i) key i
  else if (getEng s key i).debugHalt then modEng s key i (heldAfter none)
  else unlessErr s key i true k

/-- HALT: the engine is HALTED at the command after it. -/
def haltEngine (s : State) (key i : Nat) : State :=
  networkWait s key i (haltWaits (getEng s key i)) (fun s =>
    modEng (spend s key i 1) key i (fun e => { advancePc e with state := .halted }))

def execHalt (die slot engine : Nat) (s : State) : Res :=
  execDrain die slot engine 0x04 (fun key i _ s => haltEngine s key i) s

end Sys2Proof.Machine
end

