-- ==== Sys2Proof/Machine/Scalar.lean ====
section
/-! DEFINITION. The control and scalar commands of every engine: NOP, J, WHORL, S.LI, S.OP and A.SET (R254, R258-R264). -/

namespace Sys2Proof.Machine

/-- NOP. -/
def planNop (_key _i _c : Nat) (_s : State) (_rep : Nat) : Plan := { occ := 1 }

def execNop (die slot engine : Nat) (s : State) : Res := execCmd die slot engine 0x01 planNop s

/-- J, taken. -/
def planJ (_key _i c : Nat) (_s : State) (_rep : Nat) : Plan := { occ := 3, next := some (jumpTo (bits c 44 32)) }

def execJ (die slot engine : Nat) (s : State) : Res := execCmd die slot engine 0x02 planJ s

/-- Count that a WHORL latches. -/
def whorlCount (e : Engine) (c : Nat) : Nat :=
  match bits c 35 34 with
  | 0 => bits c 95 64
  | 1 => (sReg e (bits c 39 36)).toNat
  | _ => (lReg e (bits c 33 32)).programmed.toNat

/-- The whorl a WHORL starts. -/
def startWhorl (c n : Nat) (e : Engine) : Engine :=
  let l := bits c 33 32
  let len := bits c 52 40
  if n = 0 then { e with pc := e.pc + len + 1 }
  else
    { setL e l { programmed := (lReg e l).programmed, remaining := BitVec.ofNat 32 n, first := BitVec.ofNat 13 (e.pc + 1),
                 last := BitVec.ofNat 13 (e.pc + len), active := true, level := (activeWhorls e).length + 1 }
      with pc := e.pc + 1 }

/-- WHORL: OPERAND, WHORL_DEPTH and WHORL_BOUND in the order of their codes. -/
def planWhorl (key i c : Nat) (s : State) (_rep : Nat) : Plan :=
  let e := getEng s key i
  let l := bits c 33 32
  let n := whorlCount e c
  let stop := e.pc + bits c 52 40
  { occ := 2,
    reads := match bits c 35 34 with
      | 0 => []
      | 1 => [(0, bits c 39 36)]
      | _ => [(4, l)],
    errs := (if 2 ^ 32 ≤ n then [(6, 0)] else [])
      ++ (if (lReg e l).active ∨ (activeWhorls e).length = 4 then [(7, 0)] else [])
      ++ (if 8191 < stop ∨ (activeWhorls e).any (fun m => decide ((lReg e m).last.toNat < stop)) then [(8, 0)] else []),
    next := some (startWhorl c n) }

def execWhorl (die slot engine : Nat) (s : State) : Res := execCmd die slot engine 0x03 planWhorl s

/-- S.LI. -/
def planSLi (_key _i c : Nat) (_s : State) (_rep : Nat) : Plan :=
  { results := [(1, nameTarget (bits c 36 32) (word (bits c 127 64)))] }

def execSLi (die slot engine : Nat) (s : State) : Res := execCmd die slot engine 0x10 planSLi s

/-- Result of S.OP (R264). -/
def scalarOp (op : Nat) (a b : Word) : Word :=
  match op with
  | 0 => a + b
  | 1 => a - b
  | 2 => a * b
  | 3 => a &&& b
  | 4 => a ||| b
  | 5 => a ^^^ b
  | 6 => a <<< (b.toNat % 64)
  | 7 => a >>> (b.toNat % 64)
  | 8 => a.sshiftRight (b.toNat % 64)
  | 9 => if a.toInt ≤ b.toInt then a else b
  | 10 => if a.toInt ≤ b.toInt then b else a
  | 11 => word (b2n (a == b))
  | 12 => word (b2n (a != b))
  | 13 => word (b2n (decide (a.toInt < b.toInt)))
  | 14 => word (b2n (decide (a.toInt ≤ b.toInt)))
  | 15 => word (b2n (decide (a.toNat < b.toNat)))
  | 16 => word (b2n (decide (a.toNat ≤ b.toNat)))
  | _ => b

/-- S.OP; MOV reads no operand A. -/
def planSOp (key i c : Nat) (s : State) (_rep : Nat) : Plan :=
  let e := getEng s key i
  let op := bits c 52 48
  let b := if bit c 47 then word (bits c 127 64) else nameVal e (bits c 46 42)
  { reads := (if op = 17 then [] else [nameReg (bits c 41 37)]) ++ (if bit c 47 then [] else [nameReg (bits c 46 42)]),
    results := [(2, nameTarget (bits c 36 32) (scalarOp op (nameVal e (bits c 41 37)) b))] }

def execSOp (die slot engine : Nat) (s : State) : Res := execCmd die slot engine 0x11 planSOp s

/-- A.SET: FIELD 1 adds to the BASE read at issue. -/
def planASet (key i c : Nat) (s : State) (_rep : Nat) : Plan :=
  let e := getEng s key i
  let n := bits c 35 32
  let f := bits c 38 36
  let v := if bit c 39 then word (bits c 127 64) else nameVal e (bits c 44 40)
  { reads := (if bit c 39 then [] else [nameReg (bits c 44 40)]) ++ (if f = 1 then [(1, n)] else []),
    results := [(2, if f = 1 then .aField n 0 ((aReg e n).base + v) else .aField n f v)] }

def execASet (die slot engine : Nat) (s : State) : Res := execCmd die slot engine 0x12 planASet s

end Sys2Proof.Machine
end

