-- ==== Sys2Proof/Machine/Intake.lean ====
section
/-! DEFINITION. The Intake commands: IN.GET, IN.COPY, IN.FILL and IN.PUSH (R224, R266). -/

namespace Sys2Proof.Machine

/-- A stream queue has no room: its entries and the pushes in flight fill it (R219, R220). -/
def queueFull (sp : Spindle) (i q : Nat) : Bool :=
  let n := ((spEngine sp i).flight.filter (fun f => match f.tgt with
    | .push k _ => k == q
    | _ => false)).length
  decide (16 ≤ (getQueue sp q).length + n)

/-- Bytes of the local store. -/
def lsRead (s : State) (key a n : Nat) : List Byte := memRead (getSp s key).ls a n

/-- Number of `k`-byte cycles of `n` bytes. -/
def cyclesOf (n k : Nat) : Nat := (n + k - 1) / k

/-- TAG of an engine's request (R57): ORIGIN 1 Intake, 2 Outlet. -/
def requestTag (s : State) (key origin number : Nat) : Nat :=
  origin * 2 ^ 28 + (logicalOf s key).getD 0 * 2 ^ 20 + number

/-- The next request number and place in issue order are taken. -/
def takeNumber (e : Engine) : Engine := { e with reqNumber := e.reqNumber + 1, seq := e.seq + 1 }

/-- An IN.GET repeat sends its GET and is outstanding. -/
def sendGet (s : State) (key c rep handle addr n : Nat) : State :=
  let e := getEng s key 0
  let g : GetOut := { number := e.reqNumber.toNat, handle := word handle, addr := addr, bytes := n,
                      group := (e.reqNumber - BitVec.ofNat 20 rep).toNat,
                      flag := if bit c 53 then some (bits c 59 54) else none, ord := e.seq }
  let s := modEng s key 0 (fun e => { takeNumber e with gets := e.gets ++ [g] })
  sendFrom s (key / 32)
    { kind := kGet, ord := bit c 52, dst := hndFeid (word handle), tag := requestTag s key 1 g.number,
      a4 := word handle, a5 := word n }

/-- IN.GET. -/
def planInGet (key i c : Nat) (s : State) (rep : Nat) : Plan :=
  let e := getEng s key i
  let n := bits c 51 40 + 1
  let src := handleOpd (aReg e (bits c 35 32)) n
  let dst := localOpd (areaBytes s key) (aReg e (bits c 39 36)) n 1
  { hold := if 32 ≤ e.gets.length then 3 else 0,
    touches := [(dst.addr, n)], errs := src.errs ++ dst.errs, occ := 2,
    steps := [bits c 35 32, bits c 39 36],
    act := fun s => sendGet s key c rep src.addr dst.addr n }

def execInGet (die slot engine : Nat) (s : State) : Res := execCmd die slot engine 0x30 planInGet s

/-- IN.COPY. -/
def planInCopy (key i c : Nat) (s : State) (_rep : Nat) : Plan :=
  let e := getEng s key i
  let n := bits c 55 40 + 1
  let src := localOpd (areaBytes s key) (aReg e (bits c 35 32)) n 1
  let dst := localOpd (areaBytes s key) (aReg e (bits c 39 36)) n 1
  let occ := cyclesOf n 128
  { touches := [(src.addr, n), (dst.addr, n)], errs := src.errs ++ dst.errs, occ := occ,
    lines := [(src.addr, n, false)], steps := [bits c 35 32, bits c 39 36],
    results := [(occ + 6, .store dst.addr (lsRead s key src.addr n) false)] }

def execInCopy (die slot engine : Nat) (s : State) : Res := execCmd die slot engine 0x31 planInCopy s

/-- `n` bytes of a pattern of 8, from byte `k` of its phase on. -/
def patternBytes (p : Word) (k n : Nat) : List Byte := (upTo k n).map (fun b => (wordBytes p).getD (b % 8) 0)

/-- IN.FILL. -/
def planInFill (key i c : Nat) (s : State) (_rep : Nat) : Plan :=
  let e := getEng s key i
  let n := bits c 55 40 + 1
  let dst := localOpd (areaBytes s key) (aReg e (bits c 39 36)) n 1
  let occ := cyclesOf n 128
  { touches := [(dst.addr, n)], errs := dst.errs, occ := occ, steps := [bits c 39 36],
    results := [(occ + 3, .store dst.addr (patternBytes (word (bits c 127 64)) 0 n) false)] }

def execInFill (die slot engine : Nat) (s : State) : Res := execCmd die slot engine 0x32 planInFill s

/-- IN.PUSH. -/
def planInPush (key i c : Nat) (s : State) (_rep : Nat) : Plan :=
  let e := getEng s key i
  let q := bits c 48 48
  let src := localOpd (areaBytes s key) (aReg e (bits c 35 32)) 256 64
  { hold := if queueFull (getSp s key) i q then 1 else 0,
    touches := [(src.addr, 256)], errs := src.errs, occ := 2, lines := [(src.addr, 256, false)],
    steps := [bits c 35 32],
    results := [(4, .push q (BitVec.ofNat 2048 (bytesNat (lsRead s key src.addr 256))))] }

def execInPush (die slot engine : Nat) (s : State) : Res := execCmd die slot engine 0x33 planInPush s

end Sys2Proof.Machine
end

