-- ==== Sys2Proof/Machine/Vector.lean ====
section
/-! DEFINITION. The vector commands of Arithmetic and Sift: loads, stores and queues, IEEE 754 arithmetic rounded once,
conversions and Carding outputs (R233, R257, R267, R268). -/

namespace Sys2Proof.Machine

/-! ### Exact arithmetic on decoded values (IEEE 754) -/

/-- Sum: opposite infinities give a NaN; an exact zero sum is −0 only when both addends are negative. -/
def fAdd (a b : FVal) : FVal :=
  match a, b with
  | .nan, _ => .nan
  | _, .nan => .nan
  | .inf x, .inf y => if x = y then .inf x else .nan
  | .inf x, _ => .inf x
  | _, .inf y => .inf y
  | .num x m e, .num y n f =>
    let d := dyAdd (fvalDy x m e) (fvalDy y n f)
    if d.m = 0 then .num (x && y) 0 0 else .num (decide (d.m < 0)) d.m.natAbs d.e

/-- Product. -/
def fMul (a b : FVal) : FVal :=
  match a, b with
  | .nan, _ => .nan
  | _, .nan => .nan
  | .inf x, .inf y => .inf (x != y)
  | .inf x, .num y n _ => if n = 0 then .nan else .inf (x != y)
  | .num x m _, .inf y => if m = 0 then .nan else .inf (x != y)
  | .num x m e, .num y n f => .num (x != y) (m * n) (e + f)

/-- Bits of a value rounded once under RNE; a rounded zero keeps its sign. -/
def roundRne (c : Nat) (v : FVal) : Nat := encodeF c 0 0 true v

/-- Integer square root: the bits of `n`'s root from bit k−1 down. -/
def isqrt (n : Nat) : Nat → Nat → Nat
  | 0, r => r
  | k + 1, r => if (r + 2 ^ k) * (r + 2 ^ k) ≤ n then isqrt n k (r + 2 ^ k) else isqrt n k r

/-- A quotient or root cut to an integer with one more bit that says whether anything was cut off. -/
def sticky (q : Nat) (exact : Bool) : Nat := 2 * q + b2n (!exact)

/-- Reciprocal (R233): 64 bits and a sticky bit beyond the operand's. -/
def fRcp (v : FVal) : FVal :=
  match v with
  | .nan => .nan
  | .inf x => .num x 0 0
  | .num x m e =>
    if m = 0 then .inf x
    else
      let k := flog2 m + 64
      .num x (sticky (2 ^ k / m) (2 ^ k % m == 0)) (-(k : Int) - 1 - e)

/-- Square root (R233). -/
def fSqrt (v : FVal) : FVal :=
  match v with
  | .nan => .nan
  | .inf x => if x then .nan else .inf false
  | .num x m e =>
    if m = 0 then v
    else if x then .nan
    else
      let (m, e) := if e % 2 = 0 then (m, e) else (2 * m, e - 1)
      let n := m * 2 ^ 128
      let r := isqrt n ((Nat.log2 n) / 2 + 1) 0
      .num false (sticky r (r * r == n)) (e / 2 - 65)

/-- Fraction bits of the fixed-point exponential. -/
abbrev expBits : Nat := 480

/-- Sum of y^k / k! in fixed point, from term k on. -/
def expSeries (y : Nat) : Nat → Nat → Nat → Nat → Nat
  | 0, _, _, sum => sum
  | n + 1, k, term, sum =>
    let t := term * y / 2 ^ expBits / k
    expSeries y n (k + 1) t (sum + t)

/-- Square a fixed-point number n times. -/
def expSquare : Nat → Nat → Nat
  | 0, v => v
  | n + 1, v => expSquare n (v * v / 2 ^ expBits)

/-- e^x in fixed point for x = m · 2^e below 256: the series at x / 512, squared nine times. -/
def expFixed (m : Nat) (e : Int) : Nat :=
  let sh := (expBits : Int) - 9 + e
  let y := if 0 ≤ sh then m * 2 ^ sh.toNat else m / 2 ^ (-sh).toNat
  expSquare 9 (expSeries y 96 1 (2 ^ expBits) (2 ^ expBits))

/-- Exponential (R233): no exponential of a non-zero dyadic number is dyadic, so that the bits cut off are never all
zero; beyond 256 in magnitude the result is past every format's range. -/
def fExp (v : FVal) : FVal :=
  match v with
  | .nan => .nan
  | .inf x => if x then .num false 0 0 else .inf false
  | .num x m e =>
    if m = 0 then .num false 1 0
    else if 8 ≤ e + (flog2 m : Int) then (if x then .num false 1 (-400) else .num false 1 400)
    else
      let v := expFixed m e
      let v := if x then 2 ^ (2 * expBits) / v - (if 2 ^ (2 * expBits) % v = 0 then 1 else 0) else v
      .num false (2 * v + 1) (-(expBits : Int) - 1)

/-! ### Registers -/

/-- Register an operand names in a repeat (R257). -/
def stepped (r : Nat) (st : Bool) (rep : Nat) : Nat := if st then (r + rep) % 32 else r

/-- VD, VA, VB and VC of a repeat. -/
def vdOf (c rep : Nat) : Nat := stepped (bits c 36 32) (bit c 52) rep
def vaOf (c rep : Nat) : Nat := stepped (bits c 41 37) (bit c 53) rep
def vbOf (c rep : Nat) : Nat := stepped (bits c 46 42) (bit c 54) rep
def vcOf (c rep : Nat) : Nat := stepped (bits c 51 47) (bit c 55) rep

/-- Element of `w` bits of a register's value. -/
def vEl (w v k : Nat) : Nat := bits v (w * k + w - 1) (w * k)

/-- A register's value made of elements of `w` bits. -/
def vPack (w : Nat) (els : List Nat) : BitVec 2048 := BitVec.ofNat 2048 (packBits w els)

/-- Element-by-element result of a format, from its elements' numbers. -/
def vMap (f : Nat) (g : Nat → Nat) : BitVec 2048 := vPack (fmtBits f) ((upTo 0 (2048 / max 1 (fmtBits f))).map g)

/-- FMT of a vector command. -/
def vFmt (c : Nat) : Nat := bits c 63 56

/-- Element k of operand B: of VB, or of the scalar register that BSCAL names. -/
def opB (e : Engine) (c rep k : Nat) : Nat :=
  let w := fmtBits (vFmt c)
  if bit c 76 then bits (sReg e (bits c 45 42)).toNat (w - 1) 0 else vEl w (vReg e (vbOf c rep)) k

/-- Register read for operand B. -/
def readB (c rep : Nat) : Nat × Nat := if bit c 76 then (0, bits c 45 42) else (2, vbOf c rep)

/-- A two-operand vector command. -/
def planV2 (f : Nat → Nat → Nat → Nat) (key i c : Nat) (s : State) (rep : Nat) : Plan :=
  let e := getEng s key i
  let fmt := vFmt c
  let a := vReg e (vaOf c rep)
  { reads := [(2, vaOf c rep), readB c rep],
    results := [(4, .vreg (vdOf c rep) (vMap fmt (fun k => f fmt (vEl (fmtBits fmt) a k) (opB e c rep k))))] }

/-! ### Loads, stores and queues -/

/-- V.LD. -/
def planVLd (key i c : Nat) (s : State) (rep : Nat) : Plan :=
  let e := getEng s key i
  let a := bits c 59 56
  let src := localOpd (areaBytes s key) (aReg e a) 256 64
  { touches := [(src.addr, 256)], errs := src.errs, lines := [(src.addr, 256, false)], steps := [a],
    results := [(6, .vreg (vdOf c rep) (BitVec.ofNat 2048 (bytesNat (lsRead s key src.addr 256))))] }

def execVLd (die slot engine : Nat) (s : State) : Res := execCmd die slot engine 0x40 planVLd s

/-- V.ST. -/
def planVSt (key i c : Nat) (s : State) (rep : Nat) : Plan :=
  let e := getEng s key i
  let a := bits c 59 56
  let dst := localOpd (areaBytes s key) (aReg e a) 256 64
  { touches := [(dst.addr, 256)], errs := dst.errs, reads := [(2, vaOf c rep)], steps := [a],
    results := [(4, .store dst.addr (natBytes 256 (vReg e (vaOf c rep))) false)] }

def execVSt (die slot engine : Nat) (s : State) : Res := execCmd die slot engine 0x41 planVSt s

/-- Queue of V.PUSH: SQ2 or SQ4 from Arithmetic, SQ3 or SQ5 from Sift. -/
def pushQueue (i c : Nat) : Nat := (if i = 1 then 2 else 3) + 2 * bits c 60 60

/-- Queue of V.POP: SQ0 or SQ3 into Arithmetic, SQ1 or SQ2 into Sift. -/
def popQueue (i c : Nat) : Nat := if i = 1 then 3 * bits c 60 60 else 1 + bits c 60 60

/-- V.PUSH. -/
def planVPush (key i c : Nat) (s : State) (rep : Nat) : Plan :=
  let e := getEng s key i
  let q := pushQueue i c
  { hold := if queueFull (getSp s key) i q then 1 else 0,
    reads := [(2, vaOf c rep)],
    results := [(3, .push q (BitVec.ofNat 2048 (vReg e (vaOf c rep))))] }

def execVPush (die slot engine : Nat) (s : State) : Res := execCmd die slot engine 0x42 planVPush s

/-- Take the oldest entry of a queue. -/
def popEntry (key q : Nat) (s : State) : State := modSp s key (fun sp => setQueue sp q ((getQueue sp q).drop 1))

/-- V.POP. -/
def planVPop (key i c : Nat) (s : State) (rep : Nat) : Plan :=
  let q := popQueue i c
  { hold := if getQueue (getSp s key) q = [] then 1 else 0,
    results := [(2, .vreg (vdOf c rep) ((getQueue (getSp s key) q).headD 0))],
    act := popEntry key q }

def execVPop (die slot engine : Nat) (s : State) : Res := execCmd die slot engine 0x43 planVPop s

/-! ### Arithmetic -/

/-- V.ADD of two elements. -/
def elAdd (f x y : Nat) : Nat := roundRne f (fAdd (decodeEl f 0 x) (decodeEl f 0 y))

def execVAdd (die slot engine : Nat) (s : State) : Res := execCmd die slot engine 0x50 (planV2 elAdd) s

/-- V.MUL of two elements. -/
def elMul (f x y : Nat) : Nat := roundRne f (fMul (decodeEl f 0 x) (decodeEl f 0 y))

def execVMul (die slot engine : Nat) (s : State) : Res := execCmd die slot engine 0x51 (planV2 elMul) s

/-- V.MAX and V.MIN: a NaN operand gives the canonical NaN, and −0 lies below +0. -/
def elPick (greater : Bool) (f x y : Nat) : Nat :=
  match keyOf f x, keyOf f y with
  | .fin a, .fin b => if decide (b ≤ a) = greater then x else y
  | _, _ => canonNan f

def execVMax (die slot engine : Nat) (s : State) : Res := execCmd die slot engine 0x52 (planV2 (elPick true)) s

def execVMin (die slot engine : Nat) (s : State) : Res := execCmd die slot engine 0x53 (planV2 (elPick false)) s

/-- Register of V.CVT: E elements converted into their part of VD. -/
def cvtValue (c va vd : Nat) : BitVec 2048 :=
  let f := vFmt c
  let g := bits c 71 64
  let n := cvtEls f g
  let w := fmtBits f
  let lo := bits c 75 74 * n
  vPack w ((upTo 0 (2048 / max 1 w)).map (fun k =>
    if lo ≤ k ∧ k < lo + n then roundRne f (decodeEl g 0 (vEl (fmtBits g) va (bits c 73 72 * n + (k - lo))))
    else vEl w vd k))

/-- V.CVT. -/
def planVCvt (key i c : Nat) (s : State) (rep : Nat) : Plan :=
  let e := getEng s key i
  { reads := [(2, vaOf c rep), (2, vdOf c rep)],
    results := [(4, .vreg (vdOf c rep) (cvtValue c (vReg e (vaOf c rep)) (vReg e (vdOf c rep))))] }

def execVCvt (die slot engine : Nat) (s : State) : Res := execCmd die slot engine 0x54 planVCvt s

/-- V.FMA: rounded once. -/
def planVFma (key i c : Nat) (s : State) (rep : Nat) : Plan :=
  let e := getEng s key i
  let f := vFmt c
  let w := fmtBits f
  let a := vReg e (vaOf c rep)
  let d := vReg e (vcOf c rep)
  { reads := [(2, vaOf c rep), readB c rep, (2, vcOf c rep)],
    results := [(6, .vreg (vdOf c rep) (vMap f (fun k =>
      roundRne f (fAdd (fMul (decodeEl f 0 (vEl w a k)) (decodeEl f 0 (opB e c rep k))) (decodeEl f 0 (vEl w d k))))))] }

def execVFma (die slot engine : Nat) (s : State) : Res := execCmd die slot engine 0x55 planVFma s

/-- V.EXP, V.RCP and V.SQRT. -/
def planVFun (g : FVal → FVal) (key i c : Nat) (s : State) (rep : Nat) : Plan :=
  let e := getEng s key i
  let f := vFmt c
  let a := vReg e (vaOf c rep)
  let occ := if f = 1 then 4 else 8
  { occ := occ, reads := [(2, vaOf c rep)],
    results := [(occ + 12, .vreg (vdOf c rep) (vMap f (fun k => roundRne f (g (decodeEl f 0 (vEl (fmtBits f) a k))))))] }

def execVExp (die slot engine : Nat) (s : State) : Res := execCmd die slot engine 0x56 (planVFun fExp) s

def execVRcp (die slot engine : Nat) (s : State) : Res := execCmd die slot engine 0x57 (planVFun fRcp) s

def execVSqrt (die slot engine : Nat) (s : State) : Res := execCmd die slot engine 0x58 (planVFun fSqrt) s

/-- Carding outputs of a repeat from an index on: word 0 of 64 indices, or all four words of 16. -/
def cardWords (seed : Word) (stream : BitVec 32) (stp idx rep : Nat) (all : Bool) : List Nat :=
  if all then (upTo 0 16).flatMap (fun k =>
    let (a, b, c, d) := carding seed stream stp ((idx + 16 * rep + k) % 2 ^ 40)
    [a.toNat, b.toNat, c.toNat, d.toNat])
  else (upTo 0 64).map (fun k => (carding seed stream stp ((idx + 64 * rep + k) % 2 ^ 40)).1.toNat)

/-- V.CARD. -/
def planVCard (key i c : Nat) (s : State) (rep : Nat) : Plan :=
  let e := getEng s key i
  let r (hi lo : Nat) : Word := sReg e (bits c hi lo)
  { occ := 4,
    reads := [(0, bits c 83 80), (0, bits c 87 84), (0, bits c 91 88), (0, bits c 95 92)],
    results := [(16, .vreg (vdOf c rep) (vPack 32 (cardWords (r 83 80) (BitVec.ofNat 32 (r 87 84).toNat)
      ((r 91 88).toNat % 2 ^ 48) ((r 95 92).toNat % 2 ^ 40) rep (bit c 96))))] }

def execVCard (die slot engine : Nat) (s : State) : Res := execCmd die slot engine 0x59 planVCard s

end Sys2Proof.Machine
end

