-- ==== Sys2Proof/Machine/Matrix.lean ====
section
/-! DEFINITION. The matrix commands (R230, R231, R269-R271) and the exact-lane commands (R232, R272-R274) of
Arithmetic. -/

namespace Sys2Proof.Machine

/-! ### Tensor array -/

/-- Values of the reduction index consumed per cycle (R230). -/
def mmK (f : Nat) : Nat := if f = 2 ∨ f = 3 then 1 else if f = 0x0C then 4 else 2

/-- Bytes of a slice. -/
def sliceBytes (f : Nat) : Nat := 4 * mmK f * fmtBits f

/-- MM.CLR. -/
def planMmClr (_key _i c : Nat) (_s : State) (_rep : Nat) : Plan :=
  { results := [(1, .tile (bits c 32 32) (List.replicate 1024 0))] }

def execMmClr (die slot engine : Nat) (s : State) : Res := execCmd die slot engine 0x60 planMmClr s

/-- The tile an MM.T repeat adds onto: the result of the last MM.T repeat into it that is in flight, or the tile. -/
def mmBase (e : Engine) (n : Nat) : List (BitVec 32) :=
  (e.flight.foldl (fun b f => match f.tgt with
    | .tile m els => if m = n then some els else b
    | _ => b) none).getD (tileEls e n)

/-- Element of a slice with its block scale; scale 0xFF makes it a NaN. -/
def mmEl (f : Nat) (slice scales : List Byte) (r kk : Nat) : FVal :=
  let v := unpackEl (fmtBits f) slice (mmK f * r + kk)
  if isMx f then
    let sc := (scales.getD r 0).toNat
    if sc = 255 then .nan else decodeEl f ((sc : Int) - 127) v
  else decodeEl f 0 v

/-- One element of the tile: the products added one at a time in ascending k, each sum rounded to FP32. -/
def mmSum (k : Nat) (a b : Nat → FVal) (acc : BitVec 32) : BitVec 32 :=
  BitVec.ofNat 32 ((upTo 0 k).foldl (fun x kk => roundRne 1 (fAdd (decodeEl 1 0 x) (fMul (a kk) (b kk)))) acc.toNat)

/-- The tile after a repeat. -/
def mmTile (fa fb : Nat) (a b sa sb : List Byte) (base : List (BitVec 32)) : List (BitVec 32) :=
  base.zipIdx.map (fun x => mmSum (mmK fa) (mmEl fa a sa (x.2 / 32)) (mmEl fb b sb (x.2 % 32)) x.1)

/-- MM.T: the scales of an MX format are read once in 32 values of k. -/
def planMmT (key i c : Nat) (s : State) (rep : Nat) : Plan :=
  let e := getEng s key i
  let fa := bits c 59 52
  let fb := bits c 67 60
  let n := sliceBytes fa
  let area := areaBytes s key
  let a := localOpd area (aReg e (bits c 39 36)) n 16
  let b := localOpd area (aReg e (bits c 43 40)) n 16
  let asc := localOpd area (aReg e (bits c 47 44)) 32 1
  let bsc := localOpd area (aReg e (bits c 51 48)) 32 1
  let scales := isMx fa && (mmK fa * rep) % 32 == 0
  let sa := if scales then lsRead s key asc.addr 32 else e.scaleA
  let sb := if scales then lsRead s key bsc.addr 32 else e.scaleB
  let ranges := [(a.addr, n), (b.addr, n)] ++ (if scales then [(asc.addr, 32), (bsc.addr, 32)] else [])
  { touches := ranges,
    errs := a.errs ++ b.errs ++ (if scales then asc.errs ++ bsc.errs else []),
    lines := ranges.map (fun r => (r.1, r.2, false)),
    steps := [bits c 39 36, bits c 43 40] ++ (if scales then [bits c 47 44, bits c 51 48] else []),
    results := [(8, .tile (bits c 32 32)
      (mmTile fa fb (lsRead s key a.addr n) (lsRead s key b.addr n) sa sb (mmBase e (bits c 32 32))))],
    act := fun s => modEng s key i (fun e => { e with scaleA := sa, scaleB := sb }) }

def execMmT (die slot engine : Nat) (s : State) : Res := execCmd die slot engine 0x61 planMmT s

/-- MM.ST: the tile in FP32, BF16 or FP16. -/
def planMmSt (key i c : Nat) (s : State) (_rep : Nat) : Plan :=
  let e := getEng s key i
  let f := bits c 47 40
  let sz := fmtBits f / 8
  let t := bits c 32 32
  let dst := localOpd (areaBytes s key) (aReg e (bits c 39 36)) (1024 * sz) 16
  let occ := if f = 1 then 16 else 8
  { touches := [(dst.addr, 1024 * sz)], errs := dst.errs, occ := occ, reads := [(5, t)], steps := [bits c 39 36],
    results := [(occ + 6, .store dst.addr
      ((tileEls e t).flatMap (fun x => natBytes sz (roundRne f (decodeEl 1 0 x.toNat)))) false)] }

def execMmSt (die slot engine : Nat) (s : State) : Res := execCmd die slot engine 0x62 planMmSt s

/-! ### Exact lanes -/

/-- Bytes of an accumulator array as the exact lanes see them: their own writes in flight are applied in issue order
(R273). -/
def overlay (a : Nat) (e : Engine) (bs : List Byte) : List Byte :=
  e.flight.foldl (fun bs f => match f.tgt with
    | .store b d acc =>
      if acc then bs.zipIdx.map (fun x => if b ≤ a + x.2 ∧ a + x.2 < b + d.length then d.getD (a + x.2 - b) 0 else x.1)
      else bs
    | _ => bs) bs

/-- The 32 accumulator elements at an address. -/
def accRead (s : State) (key i mode a : Nat) : List Acc :=
  let n := accBytes mode
  let bs := overlay a (getEng s key i) (lsRead s key a (32 * n))
  (upTo 0 32).map (fun k => wordAcc mode (bytesNat ((bs.drop (k * n)).take n)))

/-- Bytes of accumulator elements. -/
def accStore (mode : Nat) (els : List Acc) : List Byte := els.flatMap (fun a => natBytes (accBytes mode) (accWord mode a))

/-- Elements merged into others; the index of each that leaves its range. -/
def accInto (mode op : Nat) (old new : List Acc) : List Acc × List Nat :=
  let r := (old.zip new).map (fun x => accMerge mode op x.1 x.2)
  (r.map (·.1), (r.zipIdx.filter (fun x => x.1.2)).map (·.2))

/-- Elements left their range (R274): counted, and the earliest kept for the next drain point. -/
def exactRange (key i mode a : Nat) (left : List Nat) (s : State) : State :=
  match left with
  | [] => s
  | k :: _ =>
    let s := eadd s .exactRangeCount key i 0 47 0 left.length
    if (getEng s key i).control.testBit 0 then s
    else modEng s key i (fun e =>
      if e.errExact.isSome then e else { e with errExact := some (word (a + k * accBytes mode)) })

/-- Cycles of an ACC.C repeat. -/
def mergeCycles (mode : Nat) : Nat := if mode = modeEx then 4 else if mode = modeWx then 2 else 1

/-- ACC.X. -/
def planAccX (key i c : Nat) (s : State) (_rep : Nat) : Plan :=
  let e := getEng s key i
  let f := bits c 47 40
  let mode := bits c 55 52
  let area := areaBytes s key
  let n := 4 * fmtBits f
  let m := 32 * accBytes mode
  let src := localOpd area (aReg e (bits c 35 32)) n 8
  let dst := localOpd area (aReg e (bits c 39 36)) m 8
  let sc := localOpd area (aReg e (bits c 71 68)) 1 1
  let mx := isMx f
  let scale := ((lsRead s key sc.addr 1).headD 0).toNat
  let bs := lsRead s key src.addr n
  let new := (upTo 0 32).map (fun k =>
    let x := unpackEl (fmtBits f) bs k
    if mx then (if scale = 255 then Acc.nan else (accOfFloat mode (cmdFloor c) (decodeEl f ((scale : Int) - 127) x)).1)
    else (accIn mode (cmdFloor c) f x).1)
  let r := accInto mode (bits c 51 48) (accRead s key i mode dst.addr) new
  let occ := if f = 1 ∧ mode ≠ modeKey then 4 else if f = 0x12 ∨ f = 0x1B then 2 else 1
  { touches := [(src.addr, n), (dst.addr, m)] ++ (if mx then [(sc.addr, 1)] else []),
    errs := src.errs ++ dst.errs ++ (if mx then sc.errs else []), occ := occ,
    lines := [(src.addr, n, false), (dst.addr, m, true)] ++ (if mx then [(sc.addr, 1, false)] else []),
    steps := [bits c 35 32, bits c 39 36, bits c 71 68],
    results := [(occ + 10, .store dst.addr (accStore mode r.1) true)],
    act := exactRange key i mode dst.addr r.2 }

def execAccX (die slot engine : Nat) (s : State) : Res := execCmd die slot engine 0x70 planAccX s

/-- ACC.C. -/
def planAccC (key i c : Nat) (s : State) (_rep : Nat) : Plan :=
  let e := getEng s key i
  let mode := bits c 55 52
  let area := areaBytes s key
  let m := 32 * accBytes mode
  let src := localOpd area (aReg e (bits c 35 32)) m 8
  let dst := localOpd area (aReg e (bits c 39 36)) m 8
  let r := accInto mode (bits c 51 48) (accRead s key i mode dst.addr) (accRead s key i mode src.addr)
  let occ := mergeCycles mode
  { touches := [(src.addr, m), (dst.addr, m)], errs := src.errs ++ dst.errs, occ := occ,
    lines := [(src.addr, m, true), (dst.addr, m, true)], steps := [bits c 35 32, bits c 39 36],
    results := [(occ + 10, .store dst.addr (accStore mode r.1) true)],
    act := exactRange key i mode dst.addr r.2 }

def execAccC (die slot engine : Nat) (s : State) : Res := execCmd die slot engine 0x71 planAccC s

/-- Stochastic bits of the elements of an ACC.R repeat. -/
def accRandom (e : Engine) (c rep k : Nat) : Nat :=
  cardU (sReg e (bits c 75 72)) (BitVec.ofNat 32 (sReg e (bits c 79 76)).toNat) ((sReg e (bits c 83 80)).toNat % 2 ^ 48)
    (((sReg e (bits c 87 84)).toNat + 32 * rep + k) % 2 ^ 40)

/-- ACC.R: one MX block, or 32 elements of another format; stochastic rounding reads its four registers. -/
def planAccR (key i c : Nat) (s : State) (rep : Nat) : Plan :=
  let e := getEng s key i
  let f := bits c 47 40
  let mode := bits c 55 52
  let op := bits c 51 48
  let rnd := bits c 66 65
  let area := areaBytes s key
  let m := 32 * accBytes mode
  let n := 4 * fmtBits f
  let src := localOpd area (aReg e (bits c 35 32)) m 8
  let dst := localOpd area (aReg e (bits c 39 36)) n 8
  let sc := localOpd area (aReg e (bits c 71 68)) 1 1
  let mx := isMx f
  let sr := rnd == 2
  let bs := lsRead s key src.addr m
  let els := (upTo 0 32).map (fun k =>
    (wordAcc mode (bytesNat ((bs.drop (k * accBytes mode)).take (accBytes mode))), if sr then accRandom e c rep k else 0))
  let block := encodeBlock f rnd (els.map (fun x => (accVal mode (cmdFloor c) x.1, x.2)))
  { touches := [(src.addr, m), (dst.addr, n)] ++ (if mx then [(sc.addr, 1)] else []),
    errs := src.errs ++ dst.errs ++ (if mx then sc.errs else []), occ := 2,
    reads := if sr then [(0, bits c 75 72), (0, bits c 79 76), (0, bits c 83 80), (0, bits c 87 84)] else [],
    lines := [(src.addr, m, false)],
    steps := [bits c 35 32, bits c 39 36, bits c 71 68],
    results := if mx then
        [(16, .store dst.addr (packEls (fmtBits f) block.2) false),
         (16, .store sc.addr [BitVec.ofNat 8 block.1] false)]
      else [(16, .store dst.addr (els.flatMap (fun x =>
        natBytes (fmtBits f / 8) (accOut mode op rnd (cmdFloor c) f x.2 x.1))) false)] }

def execAccR (die slot engine : Nat) (s : State) : Res := execCmd die slot engine 0x72 planAccR s

end Sys2Proof.Machine
end

