-- ==== Sys2Proof/Machine/Sift.lean ====
section
/-! DEFINITION. The Sift commands: SORT.K, TOPK.K, FILT, COMPACT, PAD.C, TILE.EXP and TILE.CMP (R288-R309, R313). -/

namespace Sys2Proof.Machine

/-- COUNT of a Sift command, from its field or from the scalar register that CREG names; a count beyond the limit
raises OPERAND. -/
def siftCount (e : Engine) (c limit : Nat) : Nat × List (Nat × Word) :=
  let v := if bit c 60 then (sReg e (bits c 47 44)).toNat else bits c 59 44
  if limit < v then (0, [(6, 0)]) else (v, [])

/-- Scalar register read for COUNT. -/
def countReg (c : Nat) : List (Nat × Nat) := if bit c 60 then [(0, bits c 47 44)] else []

/-! ### Sorting (R291-R293) -/

/-- KEY of a pair. -/
def pairKey (sgn : Bool) (w : Nat) : Int := if sgn then signed 32 w else ((w % 2 ^ 32 : Nat) : Int)

/-- `x` may stand before `y`. -/
def pairLe (desc sgn : Bool) (x y : Nat) : Bool :=
  if desc then decide (pairKey sgn y ≤ pairKey sgn x) else decide (pairKey sgn x ≤ pairKey sgn y)

/-- Put a pair before the first that does not precede it. -/
def insPair (desc sgn : Bool) (x : Nat) : List Nat → List Nat
  | [] => [x]
  | y :: r => if pairLe desc sgn x y then x :: y :: r else y :: insPair desc sgn x r

/-- Pairs in key order; equal keys keep their order. -/
def sortPairs (desc sgn : Bool) (l : List Nat) : List Nat := l.foldr (insPair desc sgn) []

/-- The pairs of a source. -/
def pairsAt (s : State) (key a n : Nat) : List Nat :=
  (chunksOf 8 n (lsRead s key a (8 * n))).map bytesNat

/-- A sort of `n` pairs that keeps `k` of them, in `cyc` cycles. -/
def planPairs (key i c : Nat) (s : State) (n k cyc : Nat) (errs : List (Nat × Word)) : Plan :=
  let e := getEng s key i
  let area := areaBytes s key
  let src := localOpd area (aReg e (bits c 35 32)) (8 * n) 8
  let dst := localOpd area (aReg e (bits c 39 36)) (8 * k) 8
  { touches := [(src.addr, 8 * n), (dst.addr, 8 * k)], errs := src.errs ++ dst.errs ++ errs, occ := cyc,
    reads := countReg c, lines := [(src.addr, 8 * n, false)], steps := [bits c 35 32, bits c 39 36],
    results := [(cyc + 6, .store dst.addr
      (((sortPairs (bit c 109) (bit c 110) (pairsAt s key src.addr n)).take k).flatMap (natBytes 8)) false)] }

/-- SORT.K. -/
def planSortK (key i c : Nat) (s : State) (_rep : Nat) : Plan :=
  let (n, errs) := siftCount (getEng s key i) c 4096
  planPairs key i c s n n (if n ≤ 1 then 1 else 8 + cyclesOf n 32 * clog2 n) errs

def execSortK (die slot engine : Nat) (s : State) : Res := execCmd die slot engine 0x80 planSortK s

/-- TOPK.K: K beyond 4,096 raises OPERAND. -/
def planTopkK (key i c : Nat) (s : State) (_rep : Nat) : Plan :=
  let (n, errs) := siftCount (getEng s key i) c 4096
  let k := bits c 108 96
  planPairs key i c s n (min k n) (if n ≤ 1 then 1 else 8 + cyclesOf n 32 * clog2 (k + 1))
    (errs ++ (if 4096 < k then [(6, 0)] else []))

def execTopkK (die slot engine : Nat) (s : State) : Res := execCmd die slot engine 0x81 planTopkK s

/-! ### Filtering, compaction, padding (R294-R297) -/

/-- Comparison of two numbers, codes 0 to 5. -/
def cmpInt (cmp : Nat) (x y : Int) : Bool :=
  match cmp with
  | 0 => x == y
  | 1 => x != y
  | 2 => decide (x < y)
  | 3 => decide (x ≤ y)
  | 4 => decide (y < x)
  | _ => decide (y ≤ x)

/-- Key that orders floating-point numbers by value: both zeros are 0. -/
def valueKey (f n : Nat) : Option Int :=
  match ffmt f with
  | some g =>
    match decodeF g n with
    | .nan => none
    | _ =>
      let m : Int := ((n % signBit g : Nat) : Int)
      some (if n.testBit (g.eb + g.fb) then -m else m)
  | none => some (if isRaw f then (n : Int) else signed (fmtBits f) n)

/-- FILT keeps an element (R295). -/
def filtKeeps (f cmp x y : Nat) : Bool :=
  if cmp = 6 then x != 0
  else if cmp = 7 then (valueKey f x).isSome
  else
    match valueKey f x, valueKey f y with
    | some a, some b => cmpInt cmp a b
    | _, _ => cmp == 1

/-- Elements of `sz` bytes. -/
def elementsAt (s : State) (key a n sz : Nat) : List Nat := (chunksOf sz n (lsRead s key a n)).map bytesNat

/-- A selection of a source's elements, with an operand of its own. -/
def planSelect (key i c : Nat) (s : State) (n : Nat) (errs : List (Nat × Word)) (more : List (Nat × Nat)) (steps : List Nat)
    (reads : List (Nat × Nat)) (keep : Nat → Nat → Bool) : Plan :=
  let e := getEng s key i
  let area := areaBytes s key
  let sz := max 1 (fmtBits (bits c 79 72) / 8)
  let src := localOpd area (aReg e (bits c 35 32)) n 8
  let dst := localOpd area (aReg e (bits c 39 36)) n 8
  let odd : List (Nat × Word) := if n % sz ≠ 0 then [(6, 0)] else []
  let kept := ((elementsAt s key src.addr n sz).zipIdx.filter (fun x => keep x.1 x.2)).map (·.1)
  let occ := max 1 (cyclesOf n 128)
  { touches := [(src.addr, n), (dst.addr, n)] ++ more, errs := src.errs ++ dst.errs ++ errs ++ odd, occ := occ,
    reads := countReg c ++ reads, lines := (src.addr, n, false) :: more.map (fun r => (r.1, r.2, false)),
    steps := [bits c 35 32, bits c 39 36] ++ steps,
    results := (occ + 6, .store dst.addr (kept.flatMap (natBytes sz)) false)
      :: (if bit c 68 then [(occ + 6, .sreg (bits c 67 64) (word kept.length))] else []) }

/-- FILT. -/
def planFilt (key i c : Nat) (s : State) (_rep : Nat) : Plan :=
  let e := getEng s key i
  let (n, errs) := siftCount e c 65535
  let f := bits c 79 72
  let cmp := bits c 83 80
  let y := (sReg e (bits c 87 84)).toNat % 2 ^ fmtBits f
  planSelect key i c s n errs [] [] (if cmp ≤ 5 then [(0, bits c 87 84)] else []) (fun x _ => filtKeeps f cmp x y)

def execFilt (die slot engine : Nat) (s : State) : Res := execCmd die slot engine 0x82 planFilt s

/-- COMPACT. -/
def planCompact (key i c : Nat) (s : State) (_rep : Nat) : Plan :=
  let e := getEng s key i
  let (n, errs) := siftCount e c 65535
  let m := (n / max 1 (fmtBits (bits c 79 72) / 8) + 7) / 8
  let mask := localOpd (areaBytes s key) (aReg e (bits c 43 40)) m 8
  let bs := lsRead s key mask.addr m
  planSelect key i c s n (errs ++ mask.errs) [(mask.addr, m)] [bits c 43 40] []
    (fun _ k => (bs.getD (k / 8) 0).toNat.testBit (k % 8))

def execCompact (die slot engine : Nat) (s : State) : Res := execCmd die slot engine 0x83 planCompact s

/-- PAD.C. -/
def planPadC (key i c : Nat) (s : State) (_rep : Nat) : Plan :=
  let e := getEng s key i
  let (n, errs) := siftCount e c 65535
  let dst := localOpd (areaBytes s key) (aReg e (bits c 39 36)) n 8
  let v := min n (sReg e (bits c 43 40)).toNat
  let occ := max 1 (cyclesOf n 256)
  { touches := [(dst.addr, n)], errs := dst.errs ++ errs, occ := occ, reads := (0, bits c 43 40) :: countReg c,
    steps := [bits c 39 36],
    results := [(occ + 4, .store (dst.addr + v) (patternBytes (word (bits c 127 64)) v (n - v)) false)] }

def execPadC (die slot engine : Nat) (s : State) : Res := execCmd die slot engine 0x86 planPadC s

/-! ### Tiles (R302-R309, R313) -/

/-- Bytes of a tile's scales. -/
def tileScales (f : Nat) : Nat := if isMx f then 32 else 0

/-- Bytes of a dense tile. -/
def denseBytes (f : Nat) : Nat := tileScales f + 128 * fmtBits f

/-- Cycles of a tile command. -/
def tileCycles (f : Nat) : Nat :=
  if fmtBits f = 16 then 8 else if fmtBits f = 8 then 4 else if fmtBits f = 6 then 3 else 2

/-- Place of element (row, position) in the dense layout (R303). -/
def denseIndex (f r p : Nat) : Nat := 32 * mmK f * (p / mmK f) + mmK f * r + p % mmK f

/-- Elements of a dense tile in element order 32 × row + position. -/
def denseEls (f : Nat) (body : List Byte) : List Nat :=
  (upTo 0 1024).map (fun e => unpackEl (fmtBits f) body (denseIndex f (e / 32) (e % 32)))

/-- Row and position of a place in the dense layout. -/
def denseElement (f n : Nat) : Nat :=
  let k := mmK f
  32 * (n % (32 * k) / k) + (n / (32 * k) * k + n % k)

/-- Bytes of a dense tile's slices from its elements in element order. -/
def densePack (f : Nat) (els : Nat → Nat) : List Byte :=
  packEls (fmtBits f) ((upTo 0 1024).map (fun n => els (denseElement f n)))

/-- Bytes of a masked tile with `m` elements. -/
def maskedBytes (f m : Nat) : Nat := tileScales f + 128 + 8 * ((m * fmtBits f + 63) / 64)

/-- VALID_COLS of a header, 32 for 0. -/
def validCols (h : Nat) : Nat := if bits h 28 24 = 0 then 32 else bits h 28 24

/-- Fields of a tile header (R305). -/
def hdrEncoding (h : Nat) : Nat := bits h 9 8
def hdrBytes (h : Nat) : Nat := bits h 47 32

/-- The header check of R309. -/
def headerOk (f h : Nat) : Bool := bits h 7 0 == 0x10 && hdrEncoding h != 3 && bits h 23 16 == f

/-- Code of slot `sl` of group `g` of row `r` in a code area. -/
def pairCode (codes : List Byte) (r g sl : Nat) : Nat :=
  bits (bytesNat ((codes.drop (4 * r)).take 4)) (4 * g + 2 * sl + 1) (4 * g + 2 * sl)

/-- The elements a PAIRS24 tile expands to; none when a code is bad. -/
def expandPairs (f cols : Nat) (bs : List Byte) : Option (List Nat) :=
  let codes := bs.take 128
  let vals := bs.drop 128
  let val (r g sl : Nat) : Nat := unpackEl (fmtBits f) vals (16 * r + 2 * g + sl)
  let good := (upTo 0 256).all (fun n =>
    let r := n / 8
    let g := n % 8
    pairCode codes r g 0 != pairCode codes r g 1 &&
      (upTo 0 2).all (fun sl => val r g sl == 0 || decide (4 * g + pairCode codes r g sl < cols)))
  if good then
    some ((upTo 0 1024).map (fun e =>
      let r := e / 32
      let p := e % 32
      let g := p / 4
      if cols ≤ p then 0
      else if pairCode codes r g 0 = p % 4 then val r g 0
      else if pairCode codes r g 1 = p % 4 then val r g 1
      else 0))
  else none

/-- Elements by a mask: each set bit takes the next value. -/
def maskFill (f : Nat) (vals : List Byte) (mask : Nat) : Nat → Nat → Nat → List Nat
  | 0, _, _ => []
  | n + 1, e, k =>
    if mask.testBit e then unpackEl (fmtBits f) vals k :: maskFill f vals mask n (e + 1) (k + 1)
    else 0 :: maskFill f vals mask n (e + 1) k

/-- The elements a MASKED tile expands to; none when a bit stands at or beyond VALID_COLS. -/
def expandMask (f cols : Nat) (bs : List Byte) : Option (List Nat) :=
  let mask := bytesNat (bs.take 128)
  if (upTo 0 1024).all (fun e => !(mask.testBit e) || decide (e % 32 < cols)) then
    some (maskFill f (bs.drop 128) mask 1024 0 0)
  else none

/-- The dense tile that a header and its data expand to; none when the tile is malformed (R307, R309). -/
def expandTile (f h : Nat) (data : List Byte) : Option (List Byte) :=
  let sc := tileScales f
  let n := hdrBytes h
  let cols := validCols h
  if !headerOk f h then none
  else match hdrEncoding h with
    | 0 => if n = denseBytes f then some data else none
    | 1 =>
      if n ≠ sc + 128 + 64 * fmtBits f then none
      else (expandPairs f cols (data.drop sc)).map (fun els => data.take sc ++ densePack f (fun e => els.getD e 0))
    | _ =>
      if n < sc + 128 ∨ n ≠ maskedBytes f (popCount 1024 (bytesNat ((data.drop sc).take 128))) then none
      else (expandMask f cols (data.drop sc)).map (fun els => data.take sc ++ densePack f (fun e => els.getD e 0))

/-- A malformed tile is kept for the next drain point. -/
def badTile (key i a : Nat) (s : State) : State :=
  modEng s key i (fun e => if e.errSparse.isSome then e else { e with errSparse := some (word a) })

/-- TILE.EXP of a tile with its header at HDR. -/
def planTile (key i c : Nat) (s : State) : Plan :=
  let e := getEng s key i
  let area := areaBytes s key
  let f := bits c 79 72
  let hdr := localOpd area (aReg e (bits c 43 40)) 8 8
  let h := bytesNat (lsRead s key hdr.addr 8)
  let n := if headerOk f h then hdrBytes h else 0
  let src := localOpd area (aReg e (bits c 35 32)) n 8
  let dst := localOpd area (aReg e (bits c 39 36)) (denseBytes f) 8
  let out := expandTile f h (lsRead s key src.addr n)
  let occ := tileCycles f
  { touches := [(hdr.addr, 8), (src.addr, n), (dst.addr, denseBytes f)], errs := src.errs ++ dst.errs ++ hdr.errs,
    occ := occ, lines := [(hdr.addr, 8, false), (src.addr, n, false)],
    steps := [bits c 35 32, bits c 39 36, bits c 43 40],
    results := match out with
      | some bs => [(occ + 8, .store dst.addr bs false)]
      | none => [],
    act := if out.isNone then badTile key i src.addr else id }

/-- TILE.EXP that walks the records of a stream (R313). -/
def planRecord (key i c : Nat) (s : State) : Plan :=
  let e := getEng s key i
  let area := areaBytes s key
  let f := bits c 79 72
  let ha := aReg e (bits c 43 40)
  let ra := aReg e (bits c 35 32)
  let hdr := localAt area (unsigned 64 ((ha.base.toNat : Int) + (ha.count.toNat / 8 : Nat))) 1 1
  let present := ((lsRead s key hdr.addr 1).headD 0).toNat.testBit (ha.count.toNat % 8)
  let a := (localOpd area ra 8 8).addr
  let h := bytesNat (lsRead s key a 8)
  let n := if headerOk f h then hdrBytes h else 0
  let src := localOpd area ra (8 + n) 8
  let dst := localOpd area (aReg e (bits c 39 36)) (denseBytes f) 8
  let out := expandTile f h (lsRead s key (a + 8) n)
  let len := 64 * ((8 + hdrBytes h + 63) / 64)
  let occ := tileCycles f
  { touches := [(hdr.addr, 1), (dst.addr, denseBytes f)] ++ (if present then [(src.addr, 8 + n)] else []),
    errs := (if present then src.errs else []) ++ dst.errs ++ hdr.errs, occ := occ,
    reads := if present then [(1, bits c 35 32)] else [],
    lines := (hdr.addr, 1, false) :: (if present then [(src.addr, 8 + n, false)] else []),
    steps := [bits c 39 36, bits c 43 40],
    results := if present then
        match out with
        | some bs => [(occ + 8, .store dst.addr bs false), (1, .aBase (bits c 35 32) (ra.base + word len))]
        | none => []
      else [(occ + 8, .store dst.addr (List.replicate (denseBytes f) 0) false)],
    act := if present && out.isNone then badTile key i a else id }

/-- TILE.EXP. -/
def planTileExp (key i c : Nat) (s : State) (_rep : Nat) : Plan :=
  if bit c 62 then planRecord key i c s else planTile key i c s

def execTileExp (die slot engine : Nat) (s : State) : Res := execCmd die slot engine 0x84 planTileExp s

/-- Positions of the non-zero elements of a group below VALID_COLS. -/
def groupNonzero (els : List Nat) (cols r g : Nat) : List Nat :=
  (upTo 0 4).filter (fun k => decide (4 * g + k < cols) && els.getD (32 * r + 4 * g + k) 0 != 0)

/-- The two positions a group's slots take: its non-zeros, then the lowest not used; in ascending order. -/
def groupSlots (nz : List Nat) : List Nat :=
  let l := (nz ++ (upTo 0 4).filter (fun k => !nz.contains k)).take 2
  if l.getD 0 0 ≤ l.getD 1 0 then l else l.reverse

/-- Code area and values of a PAIRS24 tile. -/
def packPairs (f cols : Nat) (els : List Nat) : List Byte :=
  let slots (r g : Nat) : List Nat := groupSlots (groupNonzero els cols r g)
  let codes := (upTo 0 32).flatMap (fun r =>
    natBytes 4 ((upTo 0 8).foldl (fun w g => w + (slots r g).getD 0 0 * 2 ^ (4 * g) + (slots r g).getD 1 0 * 2 ^ (4 * g + 2)) 0))
  let vals := (upTo 0 512).map (fun v =>
    let r := v / 16
    let g := v % 16 / 2
    let p := (slots r g).getD (v % 2) 0
    if (groupNonzero els cols r g).contains p then els.getD (32 * r + 4 * g + p) 0 else 0)
  codes ++ packEls (fmtBits f) vals

/-- Elements below VALID_COLS that are not zero, in element order. -/
def nonzeroEls (els : List Nat) (cols : Nat) : List Nat :=
  (upTo 0 1024).filter (fun e => decide (e % 32 < cols) && els.getD e 0 != 0)

/-- Mask and values of a MASKED tile. -/
def packMask (f cols : Nat) (els : List Nat) : List Byte :=
  let l := nonzeroEls els cols
  let vals := packEls (fmtBits f) (l.map (fun e => els.getD e 0))
  natBytes 128 (l.foldl (fun m e => m + 2 ^ e) 0) ++ padTo (8 * ((l.length * fmtBits f + 63) / 64)) vals

/-- ENCODING, FALLBACK and data of a compressed tile (R308). -/
def compressTile (f cols : Nat) (mode24 : Bool) (dense : List Byte) : Nat × Nat × List Byte :=
  let sc := tileScales f
  let els := denseEls f (dense.drop sc)
  if mode24 then
    if (upTo 0 256).any (fun n => decide (2 < (groupNonzero els cols (n / 8) (n % 8)).length)) then (0, 1, dense)
    else (1, 0, dense.take sc ++ packPairs f cols els)
  else if denseBytes f ≤ maskedBytes f (nonzeroEls els cols).length then (0, 2, dense)
  else (2, 0, dense.take sc ++ packMask f cols els)

/-- TILE.CMP. -/
def planTileCmp (key i c : Nat) (s : State) (_rep : Nat) : Plan :=
  let e := getEng s key i
  let area := areaBytes s key
  let f := bits c 79 72
  let n := denseBytes f
  let src := localOpd area (aReg e (bits c 35 32)) n 8
  let dst := localOpd area (aReg e (bits c 39 36)) n 8
  let hdr := localOpd area (aReg e (bits c 43 40)) 8 8
  let h := bytesNat (lsRead s key hdr.addr 8)
  let (enc, fall, data) := compressTile f (validCols h) (bit c 61) (lsRead s key src.addr n)
  let out := 0x10 + enc * 2 ^ 8 + fall * 2 ^ 10 + f * 2 ^ 16 + bits h 28 24 * 2 ^ 24 + data.length * 2 ^ 32
  let occ := tileCycles f
  { touches := [(src.addr, n), (dst.addr, n), (hdr.addr, 8)], errs := src.errs ++ dst.errs ++ hdr.errs, occ := occ,
    lines := [(src.addr, n, false), (hdr.addr, 8, false)], steps := [bits c 35 32, bits c 39 36, bits c 43 40],
    results := [(occ + 8, .store dst.addr data false), (occ + 8, .store hdr.addr (natBytes 8 out) false)],
    act := fun s =>
      if fall = 1 then fadd s .siftFallback (key / 32) (key % 32) 0 31 0 1
      else if fall = 2 then fadd s .siftFallback (key / 32) (key % 32) 0 63 32 1
      else s }

def execTileCmp (die slot engine : Nat) (s : State) : Res := execCmd die slot engine 0x85 planTileCmp s

end Sys2Proof.Machine
end

