-- ==== Sys2Proof/Machine/Outlet.lean ====
section
/-! DEFINITION. The Outlet commands (R276, R277, R325), and the answers that reach their originators: GET_DATA, ACK and
ATOMIC_RSP (R57, R224, R282). -/

namespace Sys2Proof.Machine

/-! ### Sending -/

/-- 256 packets await an answer (R215). -/
def outletHold (e : Engine) : Nat := if 256 ≤ unanswered e then 3 else 0

/-- An Outlet sends a packet and awaits its answer. -/
def sendOut (key : Nat) (f : Fields) (res : Option Nat) (s : State) : State :=
  let e := getEng s key 3
  let r : OutReq := { number := e.reqNumber.toNat, kind := f.kind, handle := f.a4, res := res, answered := none,
                      ord := e.seq }
  let s := modEng s key 3 (fun e => { takeNumber e with sent := e.sent ++ [r] })
  sendFrom s (key / 32) { f with tag := requestTag s key 2 r.number }

/-- Counter handle that a write names, and the register read for it. -/
def ctrHandle (e : Engine) (c : Nat) : Word := if bit c 54 then sReg e (bits c 59 56) else 0
def ctrReg (c : Nat) : List (Nat × Nat) := if bit c 54 then [(0, bits c 59 56)] else []

/-- The PUT or BULK_PUT of a command. -/
def putFields (e : Engine) (c handle : Nat) (payload : List Byte) : Fields :=
  { kind := if bit c 53 then kBulkPut else kPut, ord := bit c 52, dst := hndFeid (word handle), a4 := word handle,
    a5 := ctrHandle e c, payload := payload }

/-- OUT.PUT: its source is free again two cycles after its occupancy. -/
def planOutPut (key i c : Nat) (s : State) (_rep : Nat) : Plan :=
  let e := getEng s key i
  let n := bits c 51 40 + 1
  let src := localOpd (areaBytes s key) (aReg e (bits c 35 32)) n 1
  let dst := handleOpd (aReg e (bits c 39 36)) n
  let occ := cyclesOf n 128 + 1
  { hold := outletHold e, touches := [(src.addr, n)], errs := src.errs ++ dst.errs, occ := occ,
    reads := ctrReg c, lines := [(src.addr, n, false)], steps := [bits c 35 32, bits c 39 36],
    results := [(occ + 2, .store src.addr [] false)],
    act := sendOut key (putFields e c dst.addr (lsRead s key src.addr n)) none }

def execOutPut (die slot engine : Nat) (s : State) : Res := execCmd die slot engine 0x90 planOutPut s

/-- OUT.DRAIN: an entry of SQ4 or SQ5 leaves as a PUT; an empty queue holds, then a full set of unanswered packets. -/
def planOutDrain (key i c : Nat) (s : State) (_rep : Nat) : Plan :=
  let e := getEng s key i
  let q := 4 + bits c 48 48
  let dst := handleOpd (aReg e (bits c 39 36)) 256
  let entry := (getQueue (getSp s key) q).headD 0
  { hold := if getQueue (getSp s key) q = [] then 1 else outletHold e, errs := dst.errs, occ := 2, reads := ctrReg c,
    steps := [bits c 39 36],
    act := fun s => sendOut key (putFields e c dst.addr (natBytes 256 entry.toNat)) none (popEntry key q s) }

def execOutDrain (die slot engine : Nat) (s : State) : Res := execCmd die slot engine 0x91 planOutDrain s

/-- Bytes of an OUT.ATOM's handle operand (R356); ALLOC and FREE name no bytes. -/
def atomOperand (c : Nat) (cmp : Word) : Nat :=
  let op := bits c 55 52
  if op = 1 then accBytes (wbits cmp 3 0) else if op ≤ 5 then fmtBits (bits c 63 56) / 8 else 0

/-- OUT.ATOM. -/
def planOutAtom (key i c : Nat) (s : State) (_rep : Nat) : Plan :=
  let e := getEng s key i
  let cmp := sReg e (bits c 47 44)
  let dst := handleOpd (aReg e (bits c 39 36)) (atomOperand c cmp)
  let res := localOpd (areaBytes s key) (aReg e (bits c 51 48)) 8 8
  { hold := outletHold e, touches := [(res.addr, 8)], errs := dst.errs ++ res.errs,
    reads := [(0, bits c 43 40), (0, bits c 47 44)], steps := [bits c 39 36, bits c 51 48],
    act := sendOut key
      { kind := kAtomic, dst := hndFeid (word dst.addr), a4 := word dst.addr, a5 := sReg e (bits c 43 40), a6 := cmp,
        a7 := word (bits c 55 52 + bits c 63 56 * 2 ^ 8) } (some res.addr) }

def execOutAtom (die slot engine : Nat) (s : State) : Res := execCmd die slot engine 0x92 planOutAtom s

/-- OUT.SIG: an expected count of 2^48 or more raises OPERAND. -/
def planOutSig (key i c : Nat) (s : State) (_rep : Nat) : Plan :=
  let e := getEng s key i
  let n := sReg e (bits c 43 40)
  let dst := handleOpd (aReg e (bits c 39 36)) 64
  { hold := outletHold e, errs := dst.errs ++ (if 2 ^ 48 ≤ n.toNat then [(6, 0)] else []), reads := [(0, bits c 43 40)],
    steps := [bits c 39 36],
    act := sendOut key
      { kind := if bit c 53 then kBulkSignal else kSignal, ord := bit c 52, dst := hndFeid (word dst.addr),
        a4 := word dst.addr, a5 := n } none }

def execOutSig (die slot engine : Nat) (s : State) : Res := execCmd die slot engine 0x93 planOutSig s

/-- Results of answered OUT.ATOMs are written, in issue order (R277). -/
def writeResults (key : Nat) (s : State) : State :=
  let l := (getEng s key 3).sent
  let s := l.foldl (fun s r => match r.res, r.answered with
    | some a, some v => modSp s key (fun sp => spWrite sp a (wordBytes v))
    | _, _ => s) s
  modEng s key 3 (fun e => { e with sent := e.sent.filter (fun r => r.answered.isNone) })

/-- A raise of a flag of the issuing spindle: it takes its turn on the sync lanes (R318, R319). -/
def raiseOwn (s : State) (key n : Nat) : State :=
  match logicalOf s key with
  | some l => sendRaise s (key / 32) l n
  | none => s

/-- OUT.FENCE. -/
def outFence (s : State) (key i c : Nat) : State :=
  networkWait s key i (unanswered (getEng s key i) != 0) (fun s =>
    let s := finishDrain (writeResults key s) key i
    if bit c 53 then raiseOwn s key (bits c 59 54) else s)

def execOutFence (die slot engine : Nat) (s : State) : Res :=
  execDrain die slot engine 0x94 (fun key i c s => outFence s key i c) s

/-! ### Answers (R57) -/

/-- TAG fields of an answer. -/
def tagOrigin (t : Nat) : Nat := bits t 31 28
def tagUnit (t : Nat) : Nat := bits t 27 20
def tagNumber (t : Nat) : Nat := bits t 19 0

/-- The earlier of two errors in issue order. -/
def earlier (a : Option (Nat × Word)) (ord : Nat) (w : Word) : Option (Nat × Word) :=
  match a with
  | some (n, v) => if n ≤ ord then some (n, v) else some (ord, w)
  | none => some (ord, w)

/-- The engine is still issuing repeats of the IN.GET that a group names. -/
def groupOpen (sp : Spindle) (g : Nat) : Bool :=
  let e := spEngine sp 0
  decide (0 < e.rep) && opcode (imemWord sp 0 e.pc) == 0x30 && (e.reqNumber - BitVec.ofNat 20 e.rep).toNat == g

/-- An outstanding IN.GET repeat has completed; with the last of its command the flag is raised (R266, R282). -/
def getDone (s : State) (key : Nat) (g : GetOut) (bad : Bool) : State :=
  let s := modEng s key 0 (fun e =>
    { e with gets := e.gets.filter (fun x => x.number != g.number),
             badGroups := if bad ∧ !e.badGroups.contains g.group then e.badGroups ++ [g.group] else e.badGroups,
             errFetch := if bad then earlier e.errFetch g.ord g.handle else e.errFetch })
  let s := takeFault s key 0
  let e := getEng s key 0
  if e.gets.any (fun x => x.group == g.group) || groupOpen (getSp s key) g.group then s
  else
    let failed := e.badGroups.contains g.group
    let s := modEng s key 0 (fun e => { e with badGroups := e.badGroups.filter (· != g.group) })
    match g.flag with
    | some n => if failed then s else raiseOwn s key n
    | none => s

/-- The outstanding IN.GET repeat an answer names; none where its spindle is unavailable. -/
def namedGet (s : State) (t : Nat) : Option (Nat × GetOut) :=
  let key := spindleOf s (tagUnit t)
  if tagOrigin t = 1 ∧ logicalAvailable s (tagUnit t) then
    ((getEng s key 0).gets.find? (fun g => g.number == tagNumber t)).map (fun g => (key, g))
  else none

/-- The unanswered Outlet packet an answer names. -/
def namedOut (s : State) (t : Nat) : Option (Nat × OutReq) :=
  let key := spindleOf s (tagUnit t)
  if tagOrigin t = 2 ∧ logicalAvailable s (tagUnit t) then
    ((getEng s key 3).sent.find? (fun r => r.number == tagNumber t && r.answered.isNone)).map (fun r => (key, r))
  else none

/-- An Outlet packet is answered: `result` is kept for the fence, and an error for the next OUT.FENCE or HALT. -/
def outDone (s : State) (key : Nat) (r : OutReq) (status : Nat) (result : Word) : State :=
  modEng s key 3 (fun e =>
    if status ≠ stOk then
      { e with sent := e.sent.filter (fun x => x.number != r.number), errOutlet := earlier e.errOutlet r.ord r.handle }
    else if r.kind = kAtomic then
      { e with sent := e.sent.map (fun x => if x.number = r.number then { x with answered := some result } else x) }
    else { e with sent := e.sent.filter (fun x => x.number != r.number) })

/-- A GET_DATA reaches its Intake: the landing port writes its bytes. -/
def takeGetData (p : Pkt) (s : State) : State :=
  match namedGet s (hTag p.hdr) with
  | some (key, g) => getDone (modSp s key (fun sp => spWrite sp g.addr (padTo g.bytes p.payload))) key g false
  | none => s

/-- STATUS of an answer. -/
def ansStatus (h : Header) : Nat := wbits h.w4 7 0

/-- An ACK reaches its originator. -/
def takeAck (p : Pkt) (s : State) : State :=
  let t := hTag p.hdr
  let st := ansStatus p.hdr
  match namedGet s t, namedOut s t with
  | some (key, g), _ => if st = stOk then s else getDone s key g true
  | none, some (key, r) => if r.kind = kAtomic ∧ st = stOk then s else outDone s key r st 0
  | none, none =>
    if tagOrigin t = 3 ∧ ergLive s (26 + bits t 27 26) then
      replAck s (26 + bits t 27 26) (bits t 19 16) (BitVec.ofNat 32 (hAux p.hdr)) st
    else s

/-- An ATOMIC_RSP reaches its Outlet. -/
def takeAtomicRsp (p : Pkt) (s : State) : State :=
  match namedOut s (hTag p.hdr) with
  | some (key, r) => if r.kind = kAtomic then outDone s key r (ansStatus p.hdr) p.hdr.w5 else s
  | none => s

/-- The oldest packet of a spindle die or an Erg die, when it is an answer of a kind; none is taken while a spindle die
relocks. -/
def takeAnswer (die kind : Nat) (s : State) (f : Pkt → State → State) : State :=
  if (getDie s die).relock.isSome then s else takeHead s die (fun h => hKind h == kind) f

/-- An event at a die that packets are delivered to. -/
def atConsumer (die : Nat) (s : State) : Res :=
  if 10 ≤ die ∧ die < 30 then .next s else .refused (.noSuchUnit "die")

def execGetData (die : Nat) (s : State) : Res := atConsumer die (takeAnswer die kGetData s takeGetData)

def execAck (die : Nat) (s : State) : Res := atConsumer die (takeAnswer die kAck s takeAck)

def execAtomicRsp (die : Nat) (s : State) : Res := atConsumer die (takeAnswer die kAtomicRsp s takeAtomicRsp)

end Sys2Proof.Machine
end

