-- ==== Sys2Proof/Machine/Commands.lean ====
section
/-! DEFINITION. How a command of the control node is taken, checked in order and answered (R416-R419, R434, R438, R477,
R478), and the commands that stand by themselves: hanks, caravans, steps, power, stepped operations' records, fault
records, attestation and information (R423). -/

namespace Sys2Proof.Machine

/-! ### Taking a command -/

/-- A command as it is checked: its length, whether lifecycle and debug level permit it (order 7), whether the module
states of R438 and R478 take it, the dies whose stewards carry it out, its effect, and its effect when one of those
stewards does not answer. -/
structure Cmd where
  tag : Nat
  opcode : Nat
  lengthOk : Bool
  permitted : Bool
  /-- Taken in STANDBY; taken only in ACTIVE; taken while a D3 session is open. -/
  standby : Bool
  active : Bool
  inD3 : Bool
  dies : List Nat
  /-- Staging buffer it names (R424). -/
  buffer : Option Nat
  unanswered : State → State
  run : State → State

/-- A command that R438 and R478 single out for nothing. -/
def plainCmd (tag opcode : Nat) (dies : List Nat) (run : State → State) : Cmd :=
  { tag := tag, opcode := opcode, lengthOk := true, permitted := true, standby := false, active := false,
    inD3 := false, dies := dies, buffer := none, unanswered := fun s => s, run := run }

/-- A D3 session is open. -/
def d3Open (s : State) : Bool := debugLevel s == 3

/-- The refusals of the module state (R438, R477, R478). -/
def stateRefuses (s : State) (c : Cmd) : Bool :=
  s.sec.zeroising || (s.module.state == 1 && !c.standby) || (c.active && s.module.state != 4) || (d3Open s && !c.inD3)

/-- A command goes to its dies: one whose steward does not answer leaves it unanswered (R36, R419). -/
def carryOut (s : State) (c : Cmd) : State :=
  match c.dies.find? (fun d => (getDie s d).hung) with
  | some d => modCp (c.unanswered s) (fun p => { p with awaiting := p.awaiting ++ [.steward c.tag c.opcode d c.buffer] })
  | none => c.run s

/-- Orders 5 to 8 of R416. -/
def takeNew (s : State) (resend : Bool) (c : Cmd) : State :=
  if 64 ≤ awaitingCount s then respond s c.tag c.opcode stBusy (failWord 5 0 0)
  else if !resend ∧ (findRemembered s c.tag).isSome then respond s c.tag c.opcode stBadParam (failWord 6 0 0)
  else
    let s := modCp s (fun p => { p with remembered := rememberNew c.tag c.opcode p.remembered })
    if !c.lengthOk then answer s c.tag c.opcode stBadParam (failWord 6 0 0)
    else if !c.permitted then answer s c.tag c.opcode stDenied (failWord 7 0 0)
    else if stateRefuses s c then fail8 s c.tag c.opcode stBusy 0
    else carryOut s c

/-- A command whose OPCODE the table does not hold (order 4). -/
def takeUnknown (s : State) (tag opcode : Nat) : State :=
  answer (modCp s (fun p => { p with remembered := rememberNew tag opcode p.remembered })) tag opcode stNotSupported
    (failWord 4 0 0)

/-- Orders 2 and 3: below B6, and a command sent again. -/
def takeKnown (s : State) (tag opcode : Nat) (resend : Bool) (k : State → State) : State :=
  if s.module.phase < 6 then respond s tag opcode stBringup (failWord 2 0 s.module.phase)
  else
    match (if resend then findRemembered s tag else none) with
    | some r =>
      match r.done with
      | some (st, p) => respond s tag r.opcode st p
      | none => s
    | none => k s

/-- The part takes commands: it is powered and its control link is UP. -/
def listens (s : State) : Bool := running s && cpUp s

/-- A command that a row of the opcode table names: sent once, with its payload length. -/
def takeCommand (s : State) (c : Cmd) : State :=
  if listens s then takeKnown s c.tag c.opcode false (fun s => takeNew s false c) else s

/-- Answer what a check table gave: OK without a result, or the failing row. -/
def settle (tag opcode : Nat) (x : Nat × Nat × State) : State :=
  if x.1 = stOk then answerOk x.2.2 tag opcode [] else fail8 x.2.2 tag opcode x.1 x.2.1

/-! ### Hanks (R180, R181, R210) -/

/-- Dies whose units take part in a hank. -/
def hankDies (d : HankDesc) : List Nat :=
  (hankDie d :: (upTo d.spindleBase d.spindleSpan).map (fun l => 10 + l % 256 / 16)).eraseDups

/-- `hank.open`: a member table may be short of MEMBER_COUNT, which is for check 3 of R180 to refuse. -/
def cmdHankOpen (tag : Nat) (desc : List Byte) : Cmd :=
  { plainCmd tag 0x20 (hankDies (descOf desc)) (fun s => settle tag 0x20 (hankOpen s desc)) with
    active := true,
    lengthOk := decide (80 ≤ desc.length) && desc.length % 8 == 0
      && decide (desc.length ≤ 80 + 8 * (descOf desc).memberCount) }

def execHankOpen (tag : Nat) (desc : List Byte) (s : State) : Res := .next (takeCommand s (cmdHankOpen tag desc))

def cmdHankClose (s : State) (tag hank : Nat) : Cmd :=
  plainCmd tag 0x21 (((getHank s hank).map (fun h => hankDies h.d)).getD []) (fun s => settle tag 0x21 (hankClose s hank))

def execHankClose (tag hank : Nat) (s : State) : Res := .next (takeCommand s (cmdHankClose s tag hank))

def cmdHankQuery (tag hank : Nat) : Cmd :=
  plainCmd tag 0x22 [] (fun s =>
    match getHank s hank with
    | some h => answerOk s tag 0x22 (hankRecord s h)
    | none => fail8 s tag 0x22 stBadParam 0)

def execHankQuery (tag hank : Nat) (s : State) : Res := .next (takeCommand s (cmdHankQuery tag hank))

/-! ### Caravans (R106-R109) -/

/-- The active generation lets caravans exist. -/
def caravansExist (s : State) : Bool := (routeImage s).any (fun i => i.treeLevels == 1 || i.treeLevels == 2)

/-- Slots of an egress port that open caravans reserve. -/
def reservedSlots (s : State) (egress : Nat) : Nat :=
  s.caravans.foldl (fun n e => if e.2.egress = egress then n + e.2.rate else n) 0

/-- `caravan.open`: STATUS, CHECK and the state. -/
def caravanOpen (s : State) (n : Nat) (c : Caravan) : Nat × Nat × State :=
  if !caravansExist s then (stNotSupported, 0, s)
  else if 256 ≤ n ∨ 128 ≤ c.ingress ∨ 128 ≤ c.egress ∨ c.ingress = c.egress ∨ c.feidHi < c.feidLo ∨ 0xFFFFE < c.feidHi
      ∨ c.rate = 0 ∨ 48 < c.rate ∨ !portUp s c.ingress ∨ !portUp s c.egress then (stBadParam, 0, s)
  else if (mapFind s.caravans n).isSome ∨ 48 < reservedSlots s c.egress + c.rate then (stBusy, 0, s)
  else
    let known (p : Plane) : Plane := { p with forgotten := p.forgotten.filter (· != n) }
    (stOk, 0, { s with caravans := mapIns s.caravans n c, planeA := known s.planeA, planeB := known s.planeB })

/-- The command that opens a caravan, its parameters in their order. -/
def cmdCaravanOpen (tag n ingress egress feidLo feidHi rate : Nat) : Cmd :=
  plainCmd tag 0x28 [8, 9] (fun s => settle tag 0x28 (caravanOpen s n
    { ingress := ingress, egress := egress, rate := rate, feidLo := feidLo, feidHi := feidHi }))

def execCaravanOpen (tag caravan ingress egress feidLo feidHi rate : Nat) (s : State) : Res :=
  .next (takeCommand s (cmdCaravanOpen tag caravan ingress egress feidLo feidHi rate))

def cmdCaravanClose (tag n : Nat) : Cmd :=
  plainCmd tag 0x29 [8, 9] (fun s =>
    settle tag 0x29 (if (mapFind s.caravans n).isSome then (stOk, 0, closeThose s (fun k _ => k == n))
      else (stBadParam, 0, s)))

def execCaravanClose (tag caravan : Nat) (s : State) : Res := .next (takeCommand s (cmdCaravanClose tag caravan))

/-! ### Steps (R198, R199, R201) -/

/-- JOB and ATTEMPT fit their fields; of STEP the low 48 bits count (R9, R13). -/
def stepParams (job attempt : Nat) : Bool := decide (job < 4096) && decide (attempt < 256)

def cmdStepCommit (tag job step attempt : Nat) : Cmd :=
  plainCmd tag 0x38 [] (fun s =>
    settle tag 0x38 (if stepParams job attempt then stepCommit s job (step % 2 ^ 48) attempt else (stBadParam, 0, s)))

def execStepCommit (tag job step attempt : Nat) (s : State) : Res :=
  .next (takeCommand s (cmdStepCommit tag job step attempt))

def cmdStepAbort (tag job step attempt : Nat) : Cmd :=
  plainCmd tag 0x39 [] (fun s =>
    settle tag 0x39 (if stepParams job attempt then (stOk, 0, stepAbort s job (step % 2 ^ 48) attempt)
      else (stBadParam, 0, s)))

def execStepAbort (tag job step attempt : Nat) (s : State) : Res :=
  .next (takeCommand s (cmdStepAbort tag job step attempt))

/-! ### Power (R439-R444) -/

/-- `power.set`: in STANDBY only of the module, and under D3 only to STANDBY or OFF (R438, R478). -/
def cmdPowerSet (tag target st freq : Nat) : Cmd :=
  let t := target % 2 ^ 48
  { plainCmd tag 0x40 (if t = moduleTarget then [] else [addrDie t]) (fun s => powerSet s tag target st freq) with
    standby := t == moduleTarget, inD3 := t == moduleTarget && decide (st ≤ 1) }

def execPowerSet (tag target state freq : Nat) (s : State) : Res := .next (takeCommand s (cmdPowerSet tag target state freq))

/-! ### Records of stepped operations (R426, R427) -/

def cmdOpPoll (tag handle : Nat) : Cmd :=
  { plainCmd tag 0x49 [] (fun s => pollOp s tag (handle % 2 ^ 32)) with standby := true, inD3 := true }

def execOpPoll (tag handle : Nat) (s : State) : Res := .next (takeCommand s (cmdOpPoll tag handle))

def cmdOpCancel (tag handle : Nat) : Cmd := { plainCmd tag 0x4A [] (fun s => cancelOp s tag (handle % 2 ^ 32)) with standby := true }

def execOpCancel (tag handle : Nat) (s : State) : Res := .next (takeCommand s (cmdOpCancel tag handle))

/-! ### Fault records, attestation and information (R469, R491) -/

/-- Records `fault.read` returns: RECORD_SEQ wraps, so a record is older than FIRST by half the range or more. -/
def recordsFrom (s : State) (first count : Nat) : List FaultRec :=
  (s.records.filter (fun r => decide ((r.seq - BitVec.ofNat 32 first).toNat < 2 ^ 31))).take count

/-- `fault.read`: the records returned count as read. -/
def faultRead (s : State) (tag first count : Nat) : State :=
  if count = 0 ∨ 64 < count then fail8 s tag 0x60 stBadParam 0
  else
    let l := recordsFrom s first count
    let read := l.foldl (fun n r => max n (r.seq.toNat + 1)) s.readUpTo
    answerOk { s with readUpTo := read } tag 0x60
      ([word (oldestRecord s), word s.nextRecord.toNat] ++ l.flatMap recordWords)

def cmdFaultRead (tag first count : Nat) : Cmd :=
  { plainCmd tag 0x60 [] (fun s => faultRead s tag (first % 2 ^ 32) count) with standby := true, inD3 := true }

def execFaultRead (tag first count : Nat) (s : State) : Res := .next (takeCommand s (cmdFaultRead tag first count))

/-- `attest.report`: DENIED while there is no attestation key. -/
def attest (s : State) (tag : Nat) (nonce : List Byte) : State :=
  match s.sec.attestKey with
  | none => fail8 s tag 0x68 stDenied 0
  | some key => answer s tag 0x68 stOk (attestReport s nonce key)

def cmdAttestReport (tag : Nat) (nonce : List Byte) : Cmd :=
  { plainCmd tag 0x68 [] (fun s => attest s tag nonce) with standby := true, lengthOk := nonce.length == 32 }

def execAttestReport (tag : Nat) (nonce : List Byte) (s : State) : Res :=
  .next (takeCommand s (cmdAttestReport tag nonce))

/-- `info.read`. -/
def cmdInfoRead (tag : Nat) : Cmd :=
  { plainCmd tag 0x70 [] (fun s => answerOk s tag 0x70
      [Config.serial, 1, word (activeDie s), word s.sec.lifecycle]) with standby := true, inD3 := true }

def execInfoRead (tag : Nat) (s : State) : Res := .next (takeCommand s (cmdInfoRead tag))

end Sys2Proof.Machine
end

