-- ==== Sys2Proof/Machine/Registers.lean ====
section
/-! DEFINITION. `reg.read` and `reg.write`: the refusals the defining chapters state for a register and what a write does
beyond storing its bits (R26, R27, R71, R132, R135, R136, R241, R333, R342, R368, R374, R402, R420-R422, R459, R488,
R492, R493, R500, R503-R507). -/

namespace Sys2Proof.Machine

/-! ### Addresses -/

/-- The registers at COUNT consecutive offsets of one unit; none where one of them is not defined (R421). -/
def regsFrom (die cls off : Nat) : Nat → Option (List (Reg × Nat))
  | 0 => some []
  | n + 1 =>
    match findReg die cls off (classRegs cls), regsFrom die cls (off + 8) n with
    | some r, some l => some (r :: l)
    | _, _ => none

/-- The registers an access names. -/
def regsAt (a count : Nat) : Option (List (Reg × Nat)) :=
  if unitExists (addrDie a) (addrCls a) (addrInst a) then regsFrom (addrDie a) (addrCls a) (addrOff a) count else none

/-- A view that D1 grants (R470). -/
def d1View (r : Reg) : Bool := r == .pcTrace || r == .engineS || r == .engineP

/-- A register-file view of an engine that runs (R474). -/
def viewBusy (s : State) (a : Nat) (l : List (Reg × Nat)) : Bool :=
  let e := getEng s (32 * addrDie a + addrInst a / 4) (addrInst a % 4)
  l.any (fun r => r.1 == .engineS || r.1 == .engineP)
    && (e.state == .running || e.state == .waiting || (e.state == .held && e.hold != 5))

/-- `reg.read`. -/
def regRead (s : State) (tag a count : Nat) : State :=
  if count = 0 ∨ 64 < count then fail8 s tag 0x10 stBadParam 0
  else
    match regsAt a count with
    | none => fail8 s tag 0x10 stBadParam 0
    | some l =>
      if viewBusy s a l then fail8 s tag 0x10 stBusy 0
      else
        let (ws, s) := readRegs s l (addrDie a) (addrInst a)
        answerOk s tag 0x10 ws

/-- Dies 30 and 31 answer register accesses in STANDBY (R438). -/
def controlDie (a : Nat) : Bool := decide (30 ≤ addrDie a)

/-- The `reg.read` command: D1 views need an open level that reaches the die (R474). -/
def cmdRegRead (s : State) (tag addr count : Nat) : Cmd :=
  let a := addr % 2 ^ 48
  { plainCmd tag 0x10 [addrDie a] (fun s => regRead s tag a count) with
    standby := controlDie a, inD3 := true,
    permitted := !(decide (count ≤ 64) && ((regsAt a count).getD []).any (fun r => d1View r.1))
      || debugReaches s 1 (addrDie a) }

def execRegRead (tag addr count : Nat) (s : State) : Res := .next (takeCommand s (cmdRegRead s tag addr count))

/-! ### Writes with an effect or a refusal of their own -/

/-- Outcome of a write: STATUS, CHECK and the state. -/
abbrev Written := Nat × Nat × State

def written (s : State) : Written := (stOk, 0, s)
def badWrite (s : State) : Written := (stBadParam, 0, s)
def busyWrite (s : State) : Written := (stBusy, 0, s)

/-- EDGE_ROLE: an UP port whose bit changed retrains (R71, R396). -/
def writeEdgeRole (s : State) (die old new : Nat) : State :=
  (upTo 0 16).foldl (fun s k =>
    if bit old k ≠ bit new k ∧ portUp s (16 * die + k) then oneCycle (fun s => retrain raiseWith s (16 * die + k) 0) s else s)
    (rset s .edgeRole die 0 0 new)

/-- A bit of LANE_ENABLE changes while the other lane is enabled: the lane is dropped, its recalibration fails, or it
asks to rejoin (R398, R400). -/
def laneEnabled (s : State) (p l : Nat) (was now : Bool) : State :=
  if was && !now then
    if (getPort s p).recal.any (fun r => r.1 == l) then recalFails s p 8 else oneCycle (fun s => dropLane raiseWith s p l) s
  else if !was && now then recalBegin s p l true
  else s

/-- PORT_CTRL: MODE, LANE_ENABLE (R396, R398, R402). -/
def writePortCtrl (s : State) (p old new : Nat) : State :=
  let s := rset s .portCtrl (p / 16) (p % 16) 0 new
  let s := if pget s .portStatus p 0 9 8 = 3 then s else pset s .portStatus p 0 9 8 (bits new 1 0)
  let was := bits old 5 4
  let now := bits new 5 4
  if was = now then s
  else if now = 0 then oneCycle (fun s => linkEnds raiseWith s p 0) s
  else if was = 0 then startTraining s p
  else (upTo 0 2).foldl (fun s l => laneEnabled s p l (bit was l) (bit now l)) s

/-- ERG_CONFIG (R374). -/
def writeErgConfig (s : State) (die old new : Nat) : Written :=
  let hbm := bits new 15 0
  let lp := bits new 31 16
  if hbm % 32 ≠ 0 ∨ lp % 32 ≠ 0 ∨ 48128 < hbm ∨ 49152 < lp then badWrite s
  else if bits new 31 0 ≠ bits old 31 0
      ∧ ((upTo 0 256).any (poolEnabled s) || s.erg.retired != []
          || (upTo 26 4).any (fun d => (upTo 0 44).any (fun c => unitState s d 0x19 c == .retired))) then busyWrite s
  else written (rset s .ergConfig die 0 0 new)

/-- An enabled range of a die overlaps range n; a range of no bytes overlaps none. -/
def rangeOverlaps (s : State) (die n : Nat) : Bool :=
  let on (k : Nat) : Bool := fget s .replRangeCtrl die 0 k 63 63 == 1
  let lo (k : Nat) : Nat := fget s .replRangeBase die 0 k 39 0
  let len (k : Nat) : Nat := fget s .replRangeLen die 0 k 39 0
  on n && (upTo 0 16).any (fun k =>
    k != n && on k && fget s .replRangeCtrl die 0 k 55 52 == fget s .replRangeCtrl die 0 n 55 52
      && meets (lo k) (len k) (lo n) (len n))

/-- A write to a replication range's registers: BAD_PARAM before BUSY, each refusal for the fields written (R374,
R422). -/
def writeRange (s : State) (r : Reg) (die n new mask : Nat) (enable : Bool) : Written :=
  let t := rset s r die 0 n new
  let region := bits new 55 52
  let bad := match r with
    | .replRangeCtrl =>
      (bits mask 55 52 != 0 && region != 1 && region != 2) || (bits mask 19 0 != 0 && bits new 19 0 == ownFeid)
    | _ => bits new 39 0 % 4096 != 0
  if bad || rangeOverlaps t die n then badWrite s
  else if fget s .replRangeSeq die 0 n 31 0 ≠ 0 then busyWrite s
  else if enable then
    written (setRepl (fset (rset t .replRangeSeq die 0 n 0) .replRangeCtrl die 0 n 61 60 0) die n
      { copies := [], resends := 0 })
  else written t

/-- A write to POOL_CONFIG or POOL_COUNT (R368). -/
def writePool (s : State) (r : Reg) (die p new : Nat) : Written :=
  let t := rset s r die p 0 new
  let size := fget t .poolConfig die p 0 62 61
  let tier := fget t .poolConfig die p 0 60 60
  if size = 3 ∨ poolBase t p % poolSize t p ≠ 0 ∨ tierLimit t tier < poolBase t p + poolCount t p * poolSize t p
      ∨ 2 ^ 20 < poolCount t p then badWrite s
  else if poolEnabled s p ∧ poolFree s p < poolCount s p then busyWrite s
  else written (noteLow (setPool t p []) p)

/-- A write to FAULT_SOURCE (R492, R503). -/
def writeSource (s : State) (die i old new mask : Nat) : Written :=
  let checked := (sourceOf die i).any (fun k => k.2.2.checked)
  if 5 < bits new 2 0 ∨ (bit old 4 ∧ bits new 2 0 ≠ bits old 2 0)
      ∨ (bits mask 31 16 ≠ 0 ∧ bits new 31 16 ≠ 0 ∧ !checked) then badWrite s
  else written (rset s .faultSource die 0 i new)

/-- UNIT_RELEASE: the unit named, by class and instance (R488, R503). -/
def releaseUnit (s : State) (die cls inst : Nat) : Written :=
  if !unitExists die cls inst ∨ (getDie s die).contained ∨ unitState s die cls inst ≠ .contained
      ∨ (cls = 0x10 ∧ bit (fget s .spindleMapStatus die 0 0 16 0) inst) then badWrite s
  else
    let s := setUnit s die cls inst .parked
    written (if cls = 0x1C then noteLow (setPool (fset s .poolConfig die inst 0 63 63 0) inst []) inst else s)

/-- Every slot limit a write may not set (R241). -/
def writeSlotLimit (s : State) (die slot new : Nat) : Written :=
  if 512 < bits new 11 0 then badWrite s
  else if (getSp s (32 * die + slot)).claims ≠ [] ∨ spindleRuns s (32 * die + slot) then busyWrite s
  else written (rset s .slotLimit die slot 0 new)

/-- BARCHAN_MEMBERS (R333). -/
def writeMembers (s : State) (key b new : Nat) : Written :=
  let v := getBarchan (getSp s key) b
  if v.cur ≠ 0 ∨ v.next ≠ 0 then busyWrite s else written (setBarchan s key b { v with members := word new })

/-- DIE_REBOOT with GO (R500). -/
def writeReboot (s : State) (die : Nat) : Written :=
  if 31 < die ∨ die = activeDie s then (stBadParam, 1, s)
  else if s.module.reboot.isSome ∨ opOnDie s die ∨ rebootHeld s die then (stBusy, 2, s)
  else written (startReboot s die)

/-- SEC_REQUEST with EXECUTE (R459, R460). -/
def writeRequest (s : State) : Written :=
  let o := secObject s
  let (st, ck) := requestCheck s o
  if st = stOk then written (requestEffect s o) else (st, ck, s)

/-- Some nibble of BUFFER_ALPHA is above 10 (R135). -/
def alphaBad (v : Nat) : Bool := (upTo 0 7).any (fun c => decide (10 < bits v (4 * c + 3) (4 * c)))

/-- A limit in microseconds within its range (R506). -/
def limitOk (n : Nat) : Bool := decide (100 ≤ n) && decide (n ≤ 100000)

/-- Bits of a register that a write can act on (R422). -/
def writable (r : Reg) : Nat := let t := regRow r; t.rw ||| t.w1c ||| t.wo

/-- A write of `value` under `mask` to a register: its refusals, and what it does. -/
def writeReg (s : State) (r : Reg) (die inst k value mask : Nat) : Written :=
  let old := rget s r die inst k
  let new := mergeWrite r old value mask
  let wo := value &&& mask &&& (regRow r).wo
  let key := 32 * die + inst
  let p := 16 * die + inst
  let plain := written (rset s r die inst k new)
  if writable r &&& mask = 0 then badWrite s
  else match r with
    | .edgeRole => written (writeEdgeRole s die old new)
    | .portCtrl => if bits new 1 0 = 3 then badWrite s else written (writePortCtrl s p old new)
    | .sampleCtrl =>
      written (modPort (rset s r die inst k new) p (fun q => if k = 0 then { q with sampIn := 0 } else { q with sampOut := 0 }))
    | .shapeRate => if 40000 < bits new 31 16 ∨ 40000 < bits new 15 0 then badWrite s else plain
    | .bufferAlpha => if alphaBad new then badWrite s else plain
    | .slotLimit => writeSlotLimit s die inst new
    | .barchanMembers =>
      writeMembers s key k (mergeWrite r (getBarchan (getSp s key) k).members.toNat value mask)
    | .ergConfig => writeErgConfig s die old new
    | .pageQuery => if 49152 ≤ bits new 15 0 then badWrite s else plain
    | .replRangeCtrl => writeRange s r die k new mask (bit (value &&& mask) 63)
    | .replRangeBase => writeRange s r die k new mask false
    | .replRangeLen => writeRange s r die k new mask false
    | .poolConfig => writePool s r die inst new
    | .poolCount => writePool s r die inst new
    | .moduleState =>
      written (if bit (value &&& mask) 3 then modModule s (fun m => { m with tripped := false }) else s)
    | .faultSource => writeSource s die k old new mask
    | .unitRelease => releaseUnit s die (bits wo 42 36) (bits wo 35 24)
    | .failoverCtrl =>
      if !limitOk (bits new 31 0) then badWrite s
      else if bit wo 63 ∧ s.module.standby ≠ 2 then busyWrite s
      else plain
    | .watchdogLimits => if limitOk (bits new 31 0) && limitOk (bits new 63 32) then plain else badWrite s
    | .dieReboot => if bit wo 8 then writeReboot s (bits wo 4 0) else written s
    | .secRequest => if bit wo 0 then writeRequest s else written s
    | .errCtrl =>
      if bits new 23 0 < 10 ∨ 10000 < bits new 23 0 then badWrite s
      else written (settleErr (rset s r die inst k new))
    | _ => plain

/-- `reg.write` of a register: the write is answered, then a FORCE takes effect (R495). -/
def regWriteAt (s : State) (tag a : Nat) (r : Reg) (k value mask : Nat) : State :=
  let x := writeReg s r (addrDie a) (addrInst a) k value mask
  let t := settle tag 0x11 x
  if x.1 = stOk ∧ r = .failoverCtrl ∧ bit (value &&& mask) 63 then oneCycle (failover raiseWith) t else t

/-- `reg.write`. -/
def regWrite (s : State) (tag a value mask : Nat) : State :=
  match decodeAddr a with
  | none => fail8 s tag 0x11 stBadParam 0
  | some (r, k) => regWriteAt s tag a r k value mask

/-- A write that gives a source checks to inject (R492). -/
def injects (s : State) (a value mask : Nat) : Bool :=
  match decodeAddr a with
  | some (.faultSource, k) =>
    bits mask 31 16 != 0 && bits (mergeWrite .faultSource (rget s .faultSource (addrDie a) 0 k) value mask) 31 16 != 0
  | _ => false

/-- A write whose steward does not answer may or may not take effect (R419): which of the two is free. -/
def unansweredWrite (s : State) (a value mask : Nat) : State :=
  let (b, s) := freeBelow 2 s
  match decodeAddr a with
  | some (r, k) => if b = 1 then (writeReg s r (addrDie a) (addrInst a) k value mask).2.2 else s
  | none => s

/-- The `reg.write` command. -/
def cmdRegWrite (s : State) (tag addr : Nat) (value mask : Word) : Cmd :=
  let a := addr % 2 ^ 48
  { plainCmd tag 0x11 [addrDie a] (fun s => regWrite s tag a value.toNat mask.toNat) with
    standby := controlDie a,
    permitted := !(injects s a value.toNat mask.toNat && s.sec.lifecycle == 2) || debugReaches s 1 (addrDie a),
    unanswered := fun s => unansweredWrite s a value.toNat mask.toNat }

def execRegWrite (tag addr : Nat) (value mask : Word) (s : State) : Res :=
  .next (takeCommand s (cmdRegWrite s tag addr value mask))

/-! ### Writes that the opcode table lists by themselves -/

/-- A write to a register named by unit and index; a unit beyond the address form is no unit. -/
def writeAt (tag : Nat) (r : Reg) (die inst k : Nat) (value mask : Word) (s : State) : Res :=
  let row := regRow r
  if die < 32 ∧ inst < 4096 ∧ row.base + row.stride * k < 2 ^ 24 then
    .next (takeCommand s (cmdRegWrite s tag (unitAddr die row.cls inst + row.base + row.stride * k) value mask))
  else .refused (.noSuchUnit "register")

def execForce (tag die : Nat) (value mask : Word) (s : State) : Res := writeAt tag .failoverCtrl die 0 0 value mask s
def execDieReboot (tag die : Nat) (value mask : Word) (s : State) : Res := writeAt tag .dieReboot die 0 0 value mask s
def execUnitRelease (tag die : Nat) (value mask : Word) (s : State) : Res := writeAt tag .unitRelease die 0 0 value mask s
def execHold (tag die : Nat) (value mask : Word) (s : State) : Res := writeAt tag .errCtrl die 0 0 value mask s
def execPoolConfig (tag die pool reg : Nat) (value mask : Word) (s : State) : Res :=
  writeAt tag (if reg = 0 then .poolConfig else .poolCount) die pool 0 value mask s
def execBarchanMembers (tag die slot b : Nat) (value mask : Word) (s : State) : Res :=
  writeAt tag .barchanMembers die slot b value mask s
def execPageQuery (tag die : Nat) (value mask : Word) (s : State) : Res := writeAt tag .pageQuery die 0 0 value mask s
def execReplRangeCtrl (tag die n reg : Nat) (value mask : Word) (s : State) : Res :=
  writeAt tag (if reg = 0 then .replRangeCtrl else if reg = 1 then .replRangeBase else .replRangeLen) die 0 n value mask s
def execEdgeRole (tag die : Nat) (value mask : Word) (s : State) : Res := writeAt tag .edgeRole die 0 0 value mask s
def execPortCtrl (tag die port : Nat) (value mask : Word) (s : State) : Res :=
  writeAt tag .portCtrl die port 0 value mask s

/-- A write of EXECUTE while SEC_OBJECT holds a request of one kind. -/
def secRequest (s : State) (tag kind : Nat) : State :=
  if objKind (secObject s) = kind then takeCommand s (cmdRegWrite s tag (unitAddr (activeDie s) 0x22 0 + 0x100) 1 1) else s

def execAddKey (tag : Nat) (s : State) : Res := .next (secRequest s tag 2)
def execRevokeKey (tag : Nat) (s : State) : Res := .next (secRequest s tag 3)
def execDeploy (tag : Nat) (s : State) : Res := .next (secRequest s tag 4)
def execSecReturn (tag : Nat) (s : State) : Res := .next (secRequest s tag 5)
def execRaiseSvn (tag : Nat) (s : State) : Res := .next (secRequest s tag 6)

end Sys2Proof.Machine
end

