-- ==== Sys2Proof/Machine/Transfers.lean ====
section
/-! DEFINITION. Moves of runs of bytes between the sparse memories: staging buffers, local stores and the Erg, granule by
granule (R348, R352, R353, R365, R372, R424, R429, R476). -/

namespace Sys2Proof.Machine

/-! ### Runs of sparse memories -/

/-- Entries of a sparse store with keys in [a, a + n), moved to begin at b. -/
def window {α : Type} (m : SMap α) (a n b : Nat) : SMap α :=
  (m.filter (fun e => decide (a ≤ e.1) && decide (e.1 < a + n))).map (fun e => (e.1 - a + b, e.2))

/-- A sparse store whose keys in [a, a + n) are those of another run of them. -/
def splice {α : Type} (m : SMap α) (a n : Nat) (w : SMap α) : SMap α :=
  m.filter (fun e => decide (e.1 < a)) ++ w ++ m.filter (fun e => decide (a + n ≤ e.1))

/-- Entries of `w` bytes of a table: number and bytes, for those that are not all zero. -/
def tableEntries (m : List Host.Cell) (w : Nat) : List (Nat × Nat) :=
  let ks := (m.map (fun e => e.1 / w)).eraseDups
  (ks.map (fun k => (k, bytesNat (memRead m (w * k) w)))).filter (fun e => e.2 != 0)

/-- Bytes of a staging buffer from offset o, beginning at 0. -/
def staged (s : State) (buffer o n : Nat) : List Host.Cell := window s.staging (2 ^ 27 * buffer + o) n 0

/-! ### The Erg by granule -/

/-- A run of the Erg replaced; the marks of blocks it covers are cleared. -/
def ergSplice (s : State) (a n : Nat) (w : List Host.Cell) : State :=
  modErg s (fun e => { e with mem := splice e.mem a n w, bad := e.bad.filter (fun b => !blockInside a n b.1) })

/-- Rows 1, 3 and 6 of R352 for one granule's bytes of a region. -/
def pieceStatus (s : State) (region o n : Nat) (reads : Bool) : Nat :=
  let w := ownHandle region o
  firstOf [rangeStatus s (ownerOf w) w n, backStatus s w n reads]

/-- Status of a read of a list of pieces: the first that fails. -/
def readStatus (s : State) (region : Nat) (ps : List (Nat × Nat)) : Nat :=
  firstOf (ps.map (fun p => pieceStatus s region p.1 p.2 true))

/-- Bytes of pieces of a region, beginning at 0 for offset o. -/
def gather (s : State) (region o : Nat) (ps : List (Nat × Nat)) : List Host.Cell :=
  ps.flatMap (fun p => window s.erg.mem (ergAddr s (region - 1) p.1) p.2 (p.1 - o))

/-- Write pieces of a region in order from a run of bytes whose byte 0 is for offset o, until one fails: STATUS, bytes
written, and the state. -/
def writePieces (region o : Nat) (src : List Host.Cell) : List (Nat × Nat) → Nat → State → Nat × Nat × State
  | [], n, s => (stOk, n, s)
  | p :: r, n, s =>
    let st := pieceStatus s region p.1 p.2 false
    if st ≠ stOk then (st, n, s)
    else
      let a := ergAddr s (region - 1) p.1
      writePieces region o src r (n + p.2) (ergSplice s a p.2 (window src (p.1 - o) p.2 a))

/-- Bytes and marks of a run of the Erg copied over another. -/
def copyRun (s : State) (src dst n : Nat) : State :=
  modErg s (fun e => { e with
    mem := splice e.mem dst n (window e.mem src n dst),
    bad := splice e.bad (dst / 64) (n / 64) (window e.bad (src / 64) (n / 64) (dst / 64)) })

/-- Two runs of the Erg exchange bytes and marks. -/
def swapRun (s : State) (a b n : Nat) : State :=
  modErg s (fun e => { e with
    mem := splice (splice e.mem b n (window e.mem a n b)) a n (window e.mem b n a),
    bad := splice (splice e.bad (b / 64) (n / 64) (window e.bad (a / 64) (n / 64) (b / 64))) (a / 64) (n / 64)
      (window e.bad (b / 64) (n / 64) (a / 64)) })

/-- Every block of a run marked uncorrectable. -/
def spoilRun (s : State) (a n : Nat) : State :=
  modErg s (fun e => { e with bad := splice e.bad (a / 64) (n / 64) ((upTo (a / 64) (n / 64)).map (fun b => (b, ()))) })

/-- Uncorrectable blocks in a run. -/
def badIn (s : State) (a n : Nat) : Nat := (s.erg.bad.filter (fun e => blockInside a n e.1)).length

end Sys2Proof.Machine
end

