-- ==== Sys2Proof/Machine/Program.lean ====
section
/-! DEFINITION. Program images, `prog.load` and `prog.start`, and spindle contexts (R236-R238, R246, R251, R258,
R284-R287, R339, R423). -/

namespace Sys2Proof.Machine

/-! ### Program images (R284) -/

/-- A section of an image. -/
structure Section where
  kind : Nat
  off : Nat
  len : Nat
  target : Nat
  deriving DecidableEq, Repr

/-- A little-endian number of an image. -/
def imgNum (m : List Host.Cell) (o n : Nat) : Nat := bytesNat (memRead m o n)

/-- Fields of the image header. -/
def imgMask (m : List Host.Cell) : Nat := bits (imgNum m 5 1) 3 0
def imgSections (m : List Host.Cell) : Nat := imgNum m 6 2
def imgEntry (m : List Host.Cell) (e : Nat) : Nat := bits (imgNum m (16 + 2 * e) 2) 12 0
def imgMeasurement (m : List Host.Cell) : List Byte := memRead m 32 64

/-- The section table. -/
def imgTable (m : List Host.Cell) : List Section :=
  (upTo 0 (imgSections m)).map (fun i =>
    let o := 128 + 16 * i
    { kind := imgNum m o 1, off := imgNum m (o + 4) 4, len := imgNum m (o + 8) 4, target := imgNum m (o + 12) 4 })

/-- A section by itself: its kind, place in the image and target. -/
def sectionOk (len mask area : Nat) (x : Section) : Bool :=
  decide (1 ≤ x.kind) && decide (x.kind ≤ 7)
    && (x.kind == 6 || (x.off % 16 == 0 && decide (x.off + x.len ≤ len)))
    && (decide (4 < x.kind) || (x.len % 16 == 0
        && (x.len == 0 || (decide (x.target + x.len / 16 ≤ 8192) && bit mask (x.kind - 1)))))
    && ((x.kind != 5 && x.kind != 6) || x.len == 0 || decide (x.target + x.len ≤ area))

/-- What a section writes: the memory (an engine's, or 0 for the local store), first index and number. -/
def sectionRun (x : Section) : Nat × Nat × Nat :=
  if x.kind ≤ 4 then (x.kind, x.target, x.len / 16)
  else if x.kind = 7 then (8, 0, 0)
  else (0, x.target, x.len)

/-- Two sections write a common command or byte; an empty one writes none. -/
def sectionsMeet (x y : Section) : Bool :=
  let a := sectionRun x
  let b := sectionRun y
  a.1 == b.1 && meets a.2.1 a.2.2 b.2.1 b.2.2

/-- Some two sections of a list meet. -/
def anyMeet : List Section → Bool
  | [] => false
  | x :: r => r.any (sectionsMeet x) || anyMeet r

/-- The image of `len` bytes is well formed for the least program area of the spindles it is for: check 2 of R285. -/
def imageOk (m : List Host.Cell) (len area : Nat) : Bool :=
  imgNum m 0 4 == 0x4D445053 && decide (1 ≤ imgSections m) && decide (imgSections m ≤ 32) && imgNum m 8 4 == len
    && decide (128 + 16 * imgSections m ≤ len)
    && (imgTable m).all (sectionOk len (imgMask m) area) && !anyMeet (imgTable m)
    && decide (imgNum m 12 4 ≤ area)
    && imgMeasurement m == hash64 (memRead (splice m 32 64 []) 0 len)

/-! ### Loading and starting (R285, R286, R423) -/

/-- Logical spindles a command names. -/
def namedSpindles (s : State) (first count : Nat) : List Nat := (upTo first count).map (spindleOf s)

/-- FIRST and COUNT name spindles. -/
def spindleRange (first count : Nat) : Bool := decide (1 ≤ count) && decide (first + count ≤ 256)

/-- Some engine of a spindle is RUNNING, HELD or WAITING. -/
def spindleActive (s : State) (key : Nat) : Bool := (upTo 0 4).any (fun e => engineActive (getEng s key e))

/-- An engine whose registers are those of R246, in a state: nothing of it is in flight or outstanding. -/
def freshEngine (e : Engine) (st : EState) (pc : Nat) : Engine :=
  { Engine.init with state := st, pc := pc, reqNumber := e.reqNumber, trace := e.trace }

/-- Commands of an image's text sections. -/
def imageText (m : List Host.Cell) : SMap (BitVec 128) :=
  (imgTable m).foldl (fun im x =>
    if x.kind ≤ 4 then
      (tableEntries (window m x.off x.len 0) 16).foldl (fun im e =>
        mapPut im 0 (8192 * (x.kind - 1) + x.target + e.1) (BitVec.ofNat 128 e.2)) im
    else im) []

/-- Program area of an image's DATA sections; ZERO sections write zeros over zeros. -/
def imageData (m ls : List Host.Cell) : List Host.Cell :=
  (imgTable m).foldl (fun ls x => if x.kind = 5 then splice ls x.target x.len (window m x.off x.len x.target) else ls) ls

/-- A spindle after the load of an image. -/
def loadedSpindle (m : List Host.Cell) (area : Nat) (sp : Spindle) : Spindle :=
  let engine (k : Nat) : Engine :=
    if bit (imgMask m) k then freshEngine (spEngine sp k) .halted (imgEntry m k) else freshEngine (spEngine sp k) .idle 0
  { sp with
    engines := (upTo 0 4).foldl (fun es k => mapPut es Engine.init k (engine k)) [],
    imem := imageText m,
    ls := imageData m (splice sp.ls 0 area []),
    queues := [], flags := 0, clearing := 0, barchans := [], imageLoaded := true, measurement := imgMeasurement m }

/-- Exception and slub registers after a load. -/
def clearChecks (s : State) (key : Nat) : State :=
  (upTo 0 4).foldl (fun s e =>
    let clear (r : Reg) (s : State) : State := rset s r (key / 32) (4 * (key % 32) + e) 0 0
    clear .exactRangeCount (clear .slubCount (clear .slubCapture (clear .excStatus s)))) s

/-- `prog.load`: STATUS, CHECK and the state. With LENGTH 0 there is no image, and its VERSION is read as 0. [66] -/
def progLoad (s : State) (first count buffer len : Nat) : Nat × Nat × State :=
  if !spindleRange first count ∨ 15 < buffer ∨ 2 ^ 27 < len then (stBadParam, 0, s)
  else
    let m := staged s buffer 0 len
    let keys := namedSpindles s first count
    let area := ((upTo first count).map (programBytes s)).foldl min 0x300000
    if imgNum m 4 1 ≠ 0x10 then (stNotSupported, 1, s)
    else if !imageOk m len area then (stBadParam, 2, s)
    else if (upTo first count).any (fun l => !logicalAvailable s l) then (stFaulted, 3, s)
    else if keys.any (spindleActive s) then (stBusy, 4, s)
    else
      (stOk, 0, (upTo first count).foldl (fun s l =>
        let key := spindleOf s l
        clearChecks (modSp s key (loadedSpindle m (programBytes s l))) key) s)

/-- Dies of logical spindles. -/
def spindleDies (first count : Nat) : List Nat :=
  if spindleRange first count then ((upTo first count).map (fun l => 10 + l / 16)).eraseDups else []

def cmdProgLoad (tag first count buffer len : Nat) : Cmd :=
  { plainCmd tag 0x30 (spindleDies first count) (fun s => settle tag 0x30 (progLoad s first count buffer len)) with
    active := true, buffer := some buffer }

def execProgLoad (tag first count buffer length : Nat) (s : State) : Res :=
  .next (takeCommand s (cmdProgLoad tag first count buffer length))

/-- A HALTED engine runs. -/
def startEngine (e : Engine) : Engine := if e.state = .halted then { e with state := .running, hold := 0 } else e

/-- Every HALTED engine of a spindle runs. -/
def startSpindle (sp : Spindle) : Spindle :=
  { sp with engines := mapAll sp.engines Engine.init (fun _ e => startEngine e) }

/-- `prog.start`: STATUS, CHECK and the state. -/
def progStart (s : State) (first count : Nat) : Nat × Nat × State :=
  if !spindleRange first count then (stBadParam, 0, s)
  else if (upTo first count).any (fun l => !logicalAvailable s l) then (stFaulted, 0, s)
  else (stOk, 0, (namedSpindles s first count).foldl (fun s k => modSp s k startSpindle) s)

def cmdProgStart (tag first count : Nat) : Cmd :=
  { plainCmd tag 0x31 (spindleDies first count) (fun s => settle tag 0x31 (progStart s first count)) with active := true }

def execProgStart (tag first count : Nat) (s : State) : Res := .next (takeCommand s (cmdProgStart tag first count))

/-! ### Contexts (R237, R251, R258, R287, R339) -/

/-- Words of an address register, of a whorl counter and of a barchan. -/
def aWords (a : AReg) : List Word := [a.base, word (a.stride.toNat + a.wrap.toNat * 2 ^ 24 + a.count.toNat * 2 ^ 40)]
def whorlWords (w : Whorl) : List Word :=
  [word (w.programmed.toNat + w.remaining.toNat * 2 ^ 32),
   word (w.first.toNat + w.last.toNat * 2 ^ 16 + b2n w.active * 2 ^ 32 + w.level * 2 ^ 33)]
def barchanWords (b : Barchan) : List Word := [b.members, b.cur, b.next, word (barchanStateWord b)]

/-- They are read back. -/
def aOf (w0 w1 : Word) : AReg :=
  { base := w0, stride := BitVec.ofNat 24 (wbits w1 23 0), wrap := BitVec.ofNat 16 (wbits w1 39 24),
    count := BitVec.ofNat 24 (wbits w1 63 40) }
def whorlOf (w0 w1 : Word) : Whorl :=
  { programmed := BitVec.ofNat 32 (wbits w0 31 0), remaining := BitVec.ofNat 32 (wbits w0 63 32),
    first := BitVec.ofNat 13 (wbits w1 12 0), last := BitVec.ofNat 13 (wbits w1 28 16), active := wbit w1 32,
    level := wbits w1 35 33 }
def barchanOf (w0 w1 w2 w3 : Word) : Barchan :=
  { members := w0, cur := w1, next := w2, sense := wbit w3 0, releases := BitVec.ofNat 32 (wbits w3 63 32) }

/-- Slub checker registers that a context holds, in their order, with the bits each keeps. -/
def slubRegs : List (Reg × Nat) :=
  [(.slubCount, 2 ^ 48 - 1), (.slubCapture, 0x8000FF0F1FF01FFF), (.slubCaptureAddr, 2 ^ 22 - 1),
   (.exactRangeCount, 2 ^ 48 - 1), (.excControl, 3)]

/-- Engines with V registers; the engine with tensor tiles. -/
def hasVectors (e : Nat) : Bool := e == 1 || e == 2
def tensorEngine : Nat := 1

/-- The first 0x400 bytes of an engine's block. -/
def engineBlock (s : State) (key e : Nat) : List Byte :=
  let x := getEng s key e
  wordsBytes ([word (x.pc % 8192 + stateCode x.state * 2 ^ 13), word x.preg.toNat]
      ++ (upTo 0 4).flatMap (fun n => whorlWords (lReg x n)) ++ (upTo 0 16).map (sReg x))
    ++ List.replicate 48 0 ++ wordsBytes ((upTo 0 16).flatMap (fun n => aWords (aReg x n)))
    ++ padTo 512 (wordsBytes (slubRegs.map (fun r => word (eget s r.1 key e 0 63 0))))

/-- Bytes of an engine's V registers. -/
def engineVectors (x : Engine) : List Byte := (upTo 0 32).flatMap (fun n => natBytes 256 (vReg x n))

/-- The context of a spindle, beginning at 0. -/
def contextCells (s : State) (l step : Nat) : List Host.Cell :=
  let key := spindleOf s l
  let sp := getSp s key
  let area := programBytes s l
  let head := memWrite [] 0 (wordsBytes
    ([word (0x10 + l * 2 ^ 8 + fget s .slotLimit (key / 32) (key % 32) 0 11 0 * 2 ^ 16), word step, word area, 0])
      ++ padTo 64 sp.measurement)
  let head := memWrite head 0x100 (wordBytes (flagsNow sp) ++ wordsBytes ((upTo 0 16).flatMap (fun b => barchanWords (getBarchan sp b))))
  let head := (upTo 0 4).foldl (fun m e =>
    let m := memWrite m (0x1000 + 0x4000 * e) (engineBlock s key e)
    if hasVectors e then memWrite m (0x1400 + 0x4000 * e) (engineVectors (spEngine sp e)) else m) head
  let head := memWrite head 0x11000 ((tileEls (spEngine sp tensorEngine) 0 ++ tileEls (spEngine sp tensorEngine) 1).flatMap
    (fun v => natBytes 4 v.toNat))
  head ++ window sp.ls 0 area 0x20000

/-- A spindle whose context can be saved (R236). -/
def contextStill (s : State) (key : Nat) : Bool :=
  (upTo 0 4).all (fun e => engineStopped (getEng s key e)) && (getSp s key).queues == []

/-- Word at an offset of a context. -/
def ctxWord (m : List Host.Cell) (o : Nat) : Word := word (imgNum m o 8)

/-- Status of a context for logical spindle l (R238). -/
def contextStatus (s : State) (l : Nat) (m : List Host.Cell) : Nat :=
  let key := spindleOf s l
  let w := ctxWord m 0
  if wbits w 7 0 ≠ 0x10 then stNotSupported
  else if spindleActive s key then stBusy
  else if wbits w 15 8 ≠ l ∨ wbits w 27 16 ≠ fget s .slotLimit (key / 32) (key % 32) 0 11 0
      ∨ memRead m 32 64 ≠ padTo 64 (getSp s key).measurement then stBadParam
  else stOk

/-- A table of entries of `w` bytes as bit vectors. -/
def bitEntries (n w : Nat) (m : List Host.Cell) : SMap (BitVec n) :=
  (tableEntries m w).foldl (fun v x => mapPut v 0 x.1 (BitVec.ofNat n x.2)) []

/-- An engine as a context records it. -/
def restoredEngine (m : List Host.Cell) (k : Nat) (old : Engine) : Engine :=
  let o := 0x1000 + 0x4000 * k
  let w0 := ctxWord m o
  let e := freshEngine old (if wbits w0 15 13 = 4 then .halted else .idle) (wbits w0 12 0)
  let e := { e with preg := BitVec.ofNat 8 (wbits (ctxWord m (o + 8)) 7 0) }
  let e := (upTo 0 4).foldl (fun e n => setL e n (whorlOf (ctxWord m (o + 16 + 16 * n)) (ctxWord m (o + 24 + 16 * n)))) e
  let e := (upTo 0 16).foldl (fun e n =>
    { setA e n (aOf (ctxWord m (o + 0x100 + 16 * n)) (ctxWord m (o + 0x108 + 16 * n))) with
      sreg := mapPut e.sreg 0 n (ctxWord m (o + 0x50 + 8 * n)) }) e
  let e := if hasVectors k then { e with vreg := bitEntries 2048 256 (window m (o + 0x400) 0x2000 0) } else e
  if k = tensorEngine then { e with tiles := bitEntries 32 4 (window m 0x11000 0x2000 0) } else e

/-- A context written into its spindle. -/
def restoreContext (s : State) (l : Nat) (m : List Host.Cell) : State :=
  let key := spindleOf s l
  let area := programBytes s l
  let s := modSp s key (fun sp => { sp with
    engines := (upTo 0 4).foldl (fun es k => mapPut es Engine.init k (restoredEngine m k (spEngine sp k))) [],
    ls := splice sp.ls 0 area (window m 0x20000 area 0),
    queues := [], flags := ctxWord m 0x100, clearing := 0,
    barchans := (upTo 0 16).foldl (fun bs b =>
      let o := 0x108 + 32 * b
      mapPut bs Barchan.init b (barchanOf (ctxWord m o) (ctxWord m (o + 8)) (ctxWord m (o + 16)) (ctxWord m (o + 24)))) [] })
  (upTo 0 4).foldl (fun s k =>
    (slubRegs.zipIdx).foldl (fun s r =>
      rset s r.1.1 (key / 32) (4 * (key % 32) + k) 0
        ((ctxWord m (0x1200 + 0x4000 * k + 8 * r.2)).toNat &&& r.1.2)) s) s

/-- Releases that a restored state calls for (R339). -/
def restoredReleases (s : State) (l : Nat) : State := (upTo 0 16).foldl (fun s b => releaseDue s (spindleOf s l) b) s

end Sys2Proof.Machine
end

