-- ==== Sys2Proof/Machine/Tables.lean ====
section
/-! DEFINITION. Stepped operations over staging buffers: TABLE_LOAD, ROUTE_SWAP and FW_STAGE (R60, R66, R84-R87, R104,
R106, R324, R425, R428, R429, R461, R462, R466). -/

namespace Sys2Proof.Machine

/-! ### Steps -/

/-- What a step leaves: the state, the operation, and how it ends if it does (STATUS, CHECK). -/
abbrev Stepped := State × Op × Option (Nat × Nat)

/-- An operation that has done units of its work. -/
def advanced (o : Op) (done : Nat) (result : List Nat) : Op := { o with done := done, result := result.map word }

/-- The operation goes on, or ends OK once its last unit is done. -/
def workDone (s : State) (o : Op) : Stepped := (s, o, if o.total ≤ o.done then some (stOk, 0) else none)

/-- Units done after a step. -/
def doneAfter (o : Op) (units : Nat) : Nat := min o.total (o.done + units)

/-- An `op.start` command. -/
def opCommand (tag : Nat) (run : State → State) : Cmd := plainCmd tag 0x48 [] run

/-- A refusal of `op.start`. -/
def refuseOp (s : State) (tag status : Nat) : State := fail8 s tag 0x48 status 0

/-! ### Route and multicast images (R84, R86, R104) -/

/-- Bytes of the images. -/
def routeBytes : Nat := 4194816
def mcastBytes : Nat := 2097216

/-- The route image of a staging buffer. -/
def routeOf (s : State) (buffer : Nat) : RouteImage :=
  let m := staged s buffer 0 512
  { treeLevels := bits (imgNum m 1 1) 1 0, switchLevel := bits (imgNum m 1 1) 3 2, ordPlanes := bits (imgNum m 1 1) 5 4,
    hashSeed := BitVec.ofNat 10 (imgNum m 2 2), generation := BitVec.ofNat 32 (imgNum m 4 4),
    upPorts := BitVec.ofNat 128 (imgNum m 8 16),
    upSets := (upTo 0 16).map (fun k => BitVec.ofNat 128 (imgNum m (32 + 16 * k) 16)),
    entries := bitEntries 32 4 (staged s buffer 512 (4 * 2 ^ 20)) }

/-- The multicast image of a staging buffer. -/
def mcastOf (s : State) (buffer : Nat) : McastImage :=
  { generation := BitVec.ofNat 32 (imgNum (staged s buffer 0 64) 4 4),
    entries := bitEntries 256 32 (staged s buffer 64 (32 * 65536)) }

/-- Entries that R85 does not ignore. -/
def checkedEntries (i : RouteImage) : List (BitVec 32) :=
  (i.entries.filter (fun e => !isGroup e.1 && e.1 != 0xFFFFF)).map (·.2)

/-- The first condition of R86 that holds; 0 for none. -/
def imageCheck (s : State) (buffer arg : Nat) : Nat :=
  let i := routeOf s buffer
  let top := i.switchLevel == i.treeLevels
  let up := i.upPorts.toNat
  if imgNum (staged s buffer 0 1) 0 1 ≠ 0x10 then 1
  else if i.treeLevels = 0 ∨ i.switchLevel = 0 ∨ i.treeLevels < i.switchLevel ∨ i.ordPlanes = 0 then 2
  else if top ∧ up ≠ 0 then 3
  else if i.upSets.any (fun v => v.toNat &&& up != v.toNat) then 4
  else if (checkedEntries i).any (fun e => entryAction e == 1 && up.testBit (entryDown e)) then 5
  else if top && (checkedEntries i).any (fun e => entryAction e == 2) then 6
  else if [0, 1].any (fun p => (getPlane s p).active.any (fun a => a.generation == i.generation)) then 7
  else if arg ≠ 0xF ∧ imgNum (staged s arg 0 1) 0 1 ≠ 0x10 then 8
  else if arg ≠ 0xF ∧ (mcastOf s arg).entries.any (fun e => e.2.toNat % 2 ^ 128 &&& up != 0) then 9
  else 0

/-- Both planes, changed. -/
def bothPlanes (s : State) (f : Plane → Plane) : State := { s with planeA := f s.planeA, planeB := f s.planeB }

/-- The shadow banks are empty, the multicast banks with the route banks. [67] -/
def emptyShadows (s : State) : State :=
  bothPlanes s (fun p => { p with shadow := none, mcShadow := none, loading := false })

/-- A route load begins: the banks it writes hold no image until its last step. -/
def beginRoute (arg : Nat) (s : State) : State :=
  bothPlanes s (fun p => { p with shadow := none, loading := true, mcShadow := if arg = 0xF then p.mcShadow else none })

/-- The last step of a route load. -/
def installRoute (s : State) (buffer arg : Nat) : State :=
  bothPlanes s (fun p => { p with
    shadow := some (routeOf s buffer), loading := false,
    mcShadow := if arg = 0xF then p.mcShadow else some (mcastOf s arg) })

/-! ### Rank tables (R60, R66, R429) -/

/-- Units that a table of n entries takes. -/
def rankUnits (n : Nat) : Nat := (n + 1023) / 1024

/-- Runs of units in use, by first unit: tables that the directory names, and those of loads that run. -/
def rankUsed (s : State) : SMap Nat :=
  let jobs := (upTo 0 4096).map (fun j => (tableOffset s j / 4096 - rankBase, rankUnits (rankCount s j)))
  let ops := (s.ops.filter (fun e => e.2.state == 0 && e.2.code == 1 && param e.2.params 0 == 2)).map
    (fun e => (param e.2.params 4, rankUnits (param e.2.params 2 / 4)))
  ((jobs ++ ops).filter (fun r => r.2 != 0)).foldl (fun m r => mapIns m r.1 r.2) []

/-- Free runs of units from one on: first unit and length. -/
def rankGaps (a : Nat) : SMap Nat → List (Nat × Nat)
  | [] => [(a, rankSpan - a)]
  | (b, n) :: r => (a, b - a) :: rankGaps (b + n) r

/-- Places of a gap where n units fit. -/
def gapPlaces (n : Nat) (g : Nat × Nat) : Nat := g.2 + 1 - n

/-- The i-th place of a list of gaps where n units fit. -/
def placeAt (n i : Nat) : List (Nat × Nat) → Nat
  | [] => 0
  | g :: r => if i < gapPlaces n g then g.1 + i else placeAt n (i - gapPlaces n g) r

/-- Where Holmon places a table of n units: a free choice among the places it fits; none where it fits nowhere. [11] -/
def placeTable (s : State) (n : Nat) : Option (Nat × State) :=
  let gaps := rankGaps 0 (rankUsed s)
  let total := gaps.foldl (fun k g => k + gapPlaces n g) 0
  if total = 0 then none
  else some (placeAt n (Config.tablePlace s.freeCtr % total) gaps, { s with freeCtr := s.freeCtr + 1 })

/-- A table written to its units of the management area. -/
def writeTable (s : State) (unit n : Nat) (table : List Host.Cell) : State :=
  (upTo 0 n).foldl (fun s k =>
    let a := mgmtAddr s (4096 * (rankBase + unit + k))
    ergSplice s a 4096 (window table (4096 * k) 4096 a)) s

/-- The two words of a directory entry. -/
def directoryWords (count : Nat) (generation : BitVec 32) (offset : Nat) : List Word :=
  [word (0x10 + count * 2 ^ 8 + generation.toNat * 2 ^ 32), word offset]

/-- The last step of a rank load: the table, the directory entry, and every rank cache without the job's entries. -/
def installRanks (s : State) (buffer len job unit : Nat) : State :=
  let s := writeTable s unit (rankUnits (len / 4)) (staged s buffer 0 len)
  let s := ergWrite s (directoryAddr s job)
    (wordsBytes (directoryWords (len / 4) (jobGeneration s job + 1) (4096 * (rankBase + unit))))
  (upTo 0 8).foldl (fun s d =>
    modPortDie s d (fun p => { p with rankCache := p.rankCache.filter (fun e => e.1 != job) })) s

/-- A translation of a job's packet that began under an older generation has not finished (R66). -/
def translating (s : State) (job : Nat) : Bool :=
  (upTo 0 8).any (fun d => (getPortDie s d).waiting.any (fun w =>
    (w.stage == 1 || w.stage == 3) && hJob w.pkt.hdr == job && w.gen != jobGeneration s job))

/-! ### Counters (R324, R326) -/

/-- A counter record as a load leaves it. -/
def counterRecord (m : List Host.Cell) (o : Nat) : Counter :=
  let w := imgNum m o 8
  let w4 := imgNum m (o + 32) 8
  { Counter.init with
    version := bits w 7 0, fireEn := bit w 10, fireSpindle := bits w 23 16, fireFlag := bits w 29 24,
    timeoutUs := bits w 47 32, fires := BitVec.ofNat 32 w4, timeouts := BitVec.ofNat 32 (w4 / 2 ^ 32) }

/-- One record loaded: an ARMED counter fires first. -/
def loadCounter (s : State) (n : Nat) (c : Counter) : State :=
  setCounter (if (getCounter s n).armed then fireCounter s n stBadParam else s) n c

/-- Records a to b - 1 of a load. -/
def loadCounters (s : State) (buffer len first a b : Nat) : State :=
  let m := staged s buffer 0 len
  (upTo a (b - a)).foldl (fun s i => loadCounter s (first + i) (counterRecord m (64 * i))) s

/-! ### TABLE_LOAD (R429) -/

/-- A handle of this Holmon in region 1 or 2, with a range within its tier's limit. -/
def ergRange (s : State) (w n : Nat) : Bool :=
  let h := word w
  decide (w < 2 ^ 64) && hndFeid h == ownFeid && dataHandle h && decide (hndOffset h + n ≤ tierLimit s (hndRegion h - 1))

/-- The parameter checks of R429. -/
def loadLegal (s : State) (kind buffer len arg : Nat) : Bool :=
  decide (buffer ≤ 15) && decide (len ≤ 2 ^ 27) && (match kind with
    | 1 => len == routeBytes && decide (arg ≤ 15)
    | 2 => len % 4 == 0 && decide (len ≤ 1048576) && decide (arg < 4096)
    | 3 => len % 64 == 0 && decide (arg < 65536) && decide (arg + len / 64 ≤ 65536)
    | 4 => ergRange s arg len
    | _ => false)

/-- TABLE_LOAD starts. -/
def startLoad (s : State) (tag kind buffer len arg : Nat) : State :=
  let ps := [kind, buffer, len, arg]
  let go (s : State) (total : Nat) (ps : List Nat) (atOnce : Option (Nat × Nat)) (k : State → State) : State :=
    startOp s tag 1 total ps (opTargets s 1 ps) atOnce k
  if !loadLegal s kind buffer len arg then refuseOp s tag stBadParam
  else match kind with
    | 1 =>
      let total := (len + (if arg = 0xF then 0 else mcastBytes) + 4095) / 4096
      let ck := imageCheck s buffer arg
      if ck ≠ 0 then go s total ps (some (stBadParam, ck)) emptyShadows else go s total ps none (beginRoute arg)
    | 2 =>
      match placeTable s (rankUnits (len / 4)) with
      | none => if targetsBusy s (opTargets s 1 ps) then refuseOp s tag stBusy else refuseOp s tag stEmpty
      | some (u, t) => go t ((len + 4095) / 4096) (ps ++ [u]) none id
    | 3 => go s (len / 4096 + b2n (len % 4096 != 0)) ps (if len = 0 then some (stOk, 0) else none) id
    | _ => go s (pieces (hndOffset (word arg)) len).length ps (if len = 0 then some (stOk, 0) else none) id

/-- Granules that the first n bytes of a list of pieces fill. -/
def fullPieces (n : Nat) : List (Nat × Nat) → Nat
  | [] => 0
  | p :: r => if 0 < p.2 ∧ p.2 ≤ n then fullPieces (n - p.2) r + 1 else 0

/-- A step of an ERG load: granules in order until one fails. -/
def stepErgLoad (s : State) (o : Op) (units : Nat) : Stepped :=
  let h := word (param o.params 3)
  let len := param o.params 2
  let ps := ((pieces (hndOffset h) len).drop o.done).take units
  let before := ((o.result.headD 0)).toNat
  let (st, n, s) := writePieces (hndRegion h) (hndOffset h) (staged s (param o.params 1) 0 len) ps 0 s
  if st = stOk then workDone s (advanced o (doneAfter o units) [before + n])
  else (s, advanced o (doneAfter o (fullPieces n ps)) [before + n], some (st, 0))

/-- A step of a TABLE_LOAD. -/
def stepLoad (s : State) (o : Op) (units : Nat) : Stepped :=
  let p := param o.params
  let d := doneAfter o units
  let last := decide (o.total ≤ d)
  let bytes := if p 0 = 1 ∧ p 3 ≠ 0xF then p 2 + mcastBytes else p 2
  let o' := advanced o d [min bytes (4096 * d)]
  match p 0 with
  | 1 => workDone (if last then installRoute s (p 1) (p 3) else s) o'
  | 2 =>
    let s := if last ∧ p 5 = 0 then installRanks s (p 1) (p 2) (p 3) (p 4) else s
    let o' := if last then { o' with params := o.params.take 5 ++ [1] } else o'
    if last ∧ translating s (p 3) then (s, o', none) else workDone s o'
  | 3 => workDone (loadCounters s (p 1) (p 2) (p 3) (64 * o.done) (min (p 2 / 64) (64 * d))) o'
  | _ => stepErgLoad s o units

/-- The TABLE_LOAD command. -/
def cmdTableLoad (tag kind buffer len arg : Nat) : Cmd := opCommand tag (fun s => startLoad s tag kind buffer len arg)

def execTableLoad (tag kind buffer length arg : Nat) (s : State) : Res :=
  .next (takeCommand s (cmdTableLoad tag kind buffer length arg))

/-! ### ROUTE_SWAP (R87, R106) -/

/-- Some shadow bank is loaded. -/
def shadowLoaded (s : State) : Bool := s.planeA.shadow.isSome || s.planeB.shadow.isSome

def startSwap (s : State) (tag : Nat) : State :=
  if targetsBusy s (opTargets s 2 []) then refuseOp s tag stBusy
  else if !shadowLoaded s then refuseOp s tag stBadParam
  else startOp s tag 2 1 [] (opTargets s 2 []) none id

/-- A plane flips its banks. -/
def flipPlane (p : Plane) : Plane :=
  let p := { p with active := p.shadow, shadow := none, bank := 1 - p.bank }
  match p.mcShadow with
  | some m => { p with mcActive := some m, mcShadow := none, mcBank := 1 - p.mcBank }
  | none => p

/-- The swap: both planes flip, route caches are emptied, and three levels close every caravan. -/
def swapRoutes (s : State) : State :=
  let s := bothPlanes s flipPlane
  let s := (upTo 0 8).foldl (fun s d => modPortDie s d (fun p => { p with routeCache := [] })) s
  if (routeImage s).any (fun i => i.treeLevels == 3) then closeThose s (fun _ _ => true) else s

/-- The step of a ROUTE_SWAP. -/
def stepSwap (s : State) (o : Op) (units : Nat) : Stepped :=
  if units = 0 then (s, o, none)
  else
    let s := swapRoutes s
    workDone s (advanced o 1 [((routeImage s).map (·.generation.toNat)).getD 0])

def cmdRouteSwap (tag : Nat) : Cmd := opCommand tag (fun s => startSwap s tag)

def execRouteSwap (tag : Nat) (s : State) : Res := .next (takeCommand s (cmdRouteSwap tag))

/-! ### FW_STAGE (R461, R462, R466) -/

/-- The parameter checks of R466. -/
def stageLegal (die buffer len : Nat) : Bool :=
  decide (die ≤ 31) && decide (buffer ≤ 15) && decide (385 ≤ len) && decide (len ≤ 384 + 2 ^ 26)

def startStage (s : State) (tag die buffer len : Nat) : State :=
  if !stageLegal die buffer len then refuseOp s tag stBadParam
  else
    let ps := [die, buffer, len]
    startOp s tag 11 ((len + 4095) / 4096) ps (opTargets s 11 ps) none id

/-- Header format of a firmware image, and its length. -/
def fwFormat (m : List Host.Cell) (len : Nat) : Bool :=
  imgNum m 0 4 == 0x57464D4C && imgNum m 4 1 == 0x10 && decide (1 ≤ imgNum m 8 4) && decide (imgNum m 8 4 ≤ 2 ^ 26)
    && len == 384 + imgNum m 8 4

/-- The key, digest and signature of a firmware image. -/
def fwAuthentic (m : List Host.Cell) : Bool :=
  hash64 (memRead m 16 57) == Config.romKeyHash && memRead m 128 64 == hash64 (memRead m 384 (imgNum m 8 4))
    && edVerify (memRead m 16 57) (memRead m 0 256) (memRead m 256 114)

/-- A firmware image as verification reads it. -/
def fwImageOf (m : List Host.Cell) : FwImage :=
  { dieKind := imgNum m 5 1, svn := imgNum m 6 2, authentic := fwAuthentic m, measurement := hash64 (memRead m 0 256) }

/-- The last step of FW_STAGE: how it ends, and STAGED of the die. -/
def finishStage (s : State) (o : Op) : Stepped :=
  let die := param o.params 0
  let m := staged s (param o.params 1) 0 (param o.params 2)
  let i := fwImageOf m
  let o := { advanced o o.total [] with result := (upTo 0 4).map (fun k => wordAt i.measurement (8 * k)) }
  if !fwFormat m (param o.params 2) then (s, { o with result := [] }, some (stBadParam, 0))
  else if !fwVerifies s die i then (s, o, some (stDenied, 0))
  else (setBoot s die { getBoot s die with staged := some i }, o, some (stOk, 0))

/-- A step of FW_STAGE. -/
def stepStage (s : State) (o : Op) (units : Nat) : Stepped :=
  let d := doneAfter o units
  if d < o.total then (s, { o with done := d }, none) else finishStage s o

def cmdFwStage (tag die buffer len : Nat) : Cmd := opCommand tag (fun s => startStage s tag die buffer len)

def execFwStage (tag die buffer length : Nat) (s : State) : Res := .next (takeCommand s (cmdFwStage tag die buffer length))

end Sys2Proof.Machine
end

