-- ==== Sys2Proof/Machine/Pages.lean ====
section
/-! DEFINITION. Stepped operations over the Erg's pages: SCRUB, RETIRE and TIER_MIGRATE (R349, R360, R365, R370-R373,
R425, R428). -/

namespace Sys2Proof.Machine

/-- Bytes of a page, and the Erg address of a physical page. -/
def pageBytes : Nat := 2 ^ 21
def physAddr (die ch phys : Nat) : Nat := chanKey die ch * 2 ^ 33 + phys * pageBytes

/-- DIE names an Erg die. -/
def ergDie (die : Nat) : Bool := decide (26 ≤ die) && decide (die < 30)

/-! ### SCRUB (R371) -/

/-- Channels that are LIVE, as bits. -/
def liveChannels (s : State) (die : Nat) : Nat := (upTo 0 44).foldl (fun n c => n + b2n (channelLive s die c) * 2 ^ c) 0

/-- Channel and physical page of each unit of a SCRUB; `mask` is the channels LIVE when it started. -/
def scrubPages (ch first count mask : Nat) : List (Nat × Nat) :=
  ((scrubChannels ch).filter (fun c => mask.testBit c)).flatMap (fun c =>
    ((upTo first count).filter (fun p => decide (p < channelPages c))).map (fun p => (c, p)))

/-- Pages a SCRUB may name. -/
def scrubLegal (die ch first count : Nat) : Bool :=
  ergDie die && (decide (ch < 44) || ch == 255)
    && decide (first + count ≤ (if ch = 255 then 4096 else channelPages ch))

/-- SCRUB starts: a channel that is not LIVE is FAULTED. -/
def startScrub (s : State) (tag die ch first count : Nat) : State :=
  let mask := if ergDie die then liveChannels s die else 0
  let ps := [die, ch, first, count, mask]
  if !scrubLegal die ch first count then refuseOp s tag stBadParam
  else if count ≠ 0 ∧ ch ≠ 255 ∧ !mask.testBit ch then refuseOp s tag stFaulted
  else
    let total := (scrubPages ch first count mask).length
    startOp s tag 3 total ps (opTargets s 3 ps) (if total = 0 then some (stOk, 0) else none) id

/-- Blocks of a page are read while an injection is left: `n` of them from an address on. -/
def checkBlocks : Nat → Nat → State → State
  | 0, _, s => s
  | n + 1, a, s => checkBlocks n (a + 64) (eccCheck s a)

/-- Checks of a kind of a channel's source that are still to be injected. -/
def injectLeft (s : State) (die ch kind : Nat) : Nat :=
  fget s .faultSource die 0 (srcChannel die ch kind % 2048) 31 16

/-- Blocks of a page that meet an injected check when the page is read. -/
def pageChecks (s : State) (die ch : Nat) : Nat := min 32768 (max (injectLeft s die ch 0) (injectLeft s die ch 1))

/-- A page is read, block by block. -/
def readPage (s : State) (die ch phys : Nat) : State := checkBlocks (pageChecks s die ch) (physAddr die ch phys) s

/-- One page scrubbed: blocks corrected, blocks uncorrectable, and the state. -/
def scrubPage (s : State) (die ch phys : Nat) : Nat × Nat × State :=
  if !channelLive s die ch then (0, 0, s)
  else
    let t := readPage s die ch phys
    (min (injectLeft s die ch 0) (pageChecks s die ch), badIn t (physAddr die ch phys) pageBytes, t)

/-- Pages scrubbed in order. -/
def scrubAll (die : Nat) : List (Nat × Nat) → Nat × Nat × State → Nat × Nat × State
  | [], x => x
  | p :: r, (c, u, s) =>
    let (c', u', s) := scrubPage s die p.1 p.2
    scrubAll die r (c + c', u + u', s)

/-- A step of a SCRUB. -/
def stepScrub (s : State) (o : Op) (units : Nat) : Stepped :=
  let p := param o.params
  let ps := ((scrubPages (p 1) (p 2) (p 3) (p 4)).drop o.done).take units
  let (c, u, s) := scrubAll (p 0) ps ((o.result.headD 0).toNat, (o.result.getD 1 0).toNat, s)
  workDone s (advanced o (doneAfter o units) [c, u])

def cmdScrub (tag die ch first count : Nat) : Cmd := opCommand tag (fun s => startScrub s tag die ch first count)

def execScrub (tag die channel firstPage pageCount : Nat) (s : State) : Res :=
  .next (takeCommand s (cmdScrub tag die channel firstPage pageCount))

/-! ### RETIRE (R372) -/

/-- Page of a tier that R349 places on a physical page. -/
def defaultPage (ch phys : Nat) : Nat := if ch < 32 then 32 * phys + ch else 12 * phys + (ch - 32)

/-- A physical page backs a page that serves. -/
def physMapped (s : State) (die ch phys : Nat) : Bool :=
  let t := channelTier ch
  let home := ch * 8192 + phys
  let p := defaultPage ch phys
  (pageServes s die t p && pageHome s die t p == home)
    || s.erg.pageMap.any (fun e => e.2 == home && e.1 / 65536 == (die - 26) * 2 + t && pageServes s die t (e.1 % 65536))

/-- A target of RETIRE holds a physical page. -/
def inTarget (kind number page ch phys : Nat) : Bool :=
  if kind = 0 then ch == number && phys == page else (retireChannels kind number).contains ch

/-- A physical page is a spare outside the target. -/
def spareOutside (s : State) (die kind number page ch phys : Nat) : Bool :=
  !inTarget kind number page ch phys && (mapFind s.erg.retired (physKey die ch phys)).isNone && !physMapped s die ch phys

/-- Channels of a tier of a die, rising. -/
def channelsOf (tier : Nat) : List Nat := if tier = 0 then upTo 0 32 else upTo 32 12

/-- LIVE channels of a tier of a die, rising. -/
def tierChannels (s : State) (die tier : Nat) : List Nat := (channelsOf tier).filter (channelLive s die)

/-- Tier of a target. -/
def targetTier (kind number : Nat) : Nat := channelTier ((retireChannels kind number).headD 0)

/-- Pages a RETIRE has to move, rising. -/
def pagesToMove (s : State) (die kind number page : Nat) : List Nat :=
  let t := targetTier kind number
  (upTo 0 49152).filter (fun p =>
    let h := pageHome s die t p
    pageServes s die t p && inTarget kind number page (h / 8192) (h % 8192))

/-- Spares of the target's tier outside it, whether their channels are LIVE or not; a retired channel has none. -/
def sparesOutside (s : State) (die kind number page : Nat) : Nat :=
  ((channelsOf (targetTier kind number)).filter (fun c => unitState s die 0x19 c != .retired)).foldl (fun n c =>
    n + ((upTo 0 (channelPages c)).filter (spareOutside s die kind number page c)).length) 0

/-- The spare that takes the next page: lowest page of the lowest-numbered LIVE channel that has one. -/
def nextSpare (s : State) (die kind number page : Nat) : Option (Nat × Nat) :=
  (tierChannels s die (targetTier kind number)).findSome? (fun c =>
    ((upTo 0 (channelPages c)).find? (spareOutside s die kind number page c)).map (fun p => (c, p)))

/-- What RETIRE may name; NUMBER of a stack or device counts those of the die. [68] -/
def retireLegal (die kind number page : Nat) : Bool :=
  ergDie die && (match kind with
    | 0 => decide (number < 44) && decide (page < channelPages number)
    | 1 => decide (number < 44)
    | 2 => decide (number < 2)
    | 3 => decide (number < 3)
    | _ => false)

/-- RETIRE starts: EMPTY where the spares are too few. -/
def startRetire (s : State) (tag die kind number page : Nat) : State :=
  let ps := [die, kind, number, page]
  if !retireLegal die kind number page then refuseOp s tag stBadParam
  else
    let n := (pagesToMove s die kind number page).length
    if sparesOutside s die kind number page < n then refuseOp s tag stEmpty
    else startOp s tag 4 n ps (opTargets s 4 ps) none id

/-- One page moved to a spare: copied with its marks, all of them where the page cannot be read. -/
def movePage (s : State) (die tier p ch phys : Nat) : State :=
  let h := pageHome s die tier p
  let src := physAddr die (h / 8192) (h % 8192)
  let dst := physAddr die ch phys
  let readable := channelLive s die (h / 8192)
  let s := if readable then readPage s die (h / 8192) (h % 8192) else s
  let s := copyRun s src dst pageBytes
  let s := if readable then s else spoilRun s dst pageBytes
  let home := ch * 8192 + phys
  modErg s (fun e => { e with
    pageMap := if home = defaultHome tier p then mapDel e.pageMap (pageKey die tier p)
      else mapIns e.pageMap (pageKey die tier p) home })

/-- Move up to `n` pages: pages moved, whether spares ran out, and the state. -/
def movePages (die kind number page : Nat) : Nat → Nat → State → Nat × Bool × State
  | 0, k, s => (k, false, s)
  | n + 1, k, s =>
    match pagesToMove s die kind number page with
    | [] => (k, false, s)
    | p :: _ =>
      match nextSpare s die kind number page with
      | none => (k, true, s)
      | some (c, q) => movePages die kind number page n (k + 1) (movePage s die (targetTier kind number) p c q)

/-- The target is retired. -/
def retireTarget (s : State) (die kind number page : Nat) : State :=
  match kind with
  | 0 => modErg s (fun e => { e with retired := mapIns e.retired (physKey die number page) () })
  | 1 => setUnit s die 0x19 number .retired
  | _ =>
    let cls := if kind = 2 then 0x1A else 0x1B
    (retireChannels kind number).foldl (fun s c => setUnit s die 0x19 c .retired) (setUnit s die cls number .retired)

/-- A step of a RETIRE. -/
def stepRetire (s : State) (o : Op) (units : Nat) : Stepped :=
  let p := param o.params
  let (k, short, s) := movePages (p 0) (p 1) (p 2) (p 3) units 0 s
  let o := advanced o (o.done + k) [o.done + k]
  if short then (s, o, some (stEmpty, 0))
  else if o.total ≤ o.done ∧ pagesToMove s (p 0) (p 1) (p 2) (p 3) = [] then
    (retireTarget s (p 0) (p 1) (p 2) (p 3), o, some (stOk, 0))
  else (s, o, none)

def cmdRetire (tag die kind number page : Nat) : Cmd := opCommand tag (fun s => startRetire s tag die kind number page)

def execRetire (tag die kind number page : Nat) (s : State) : Res := .next (takeCommand s (cmdRetire tag die kind number page))

/-! ### TIER_MIGRATE (R365) -/

/-- A range holds a granule of an active REPLICA range (R359). -/
def touchesReplica (s : State) (region o n : Nat) : Bool :=
  (upTo 26 4).any (fun d => (upTo 0 16).any (fun k =>
    let lo := max o (fget s .replRangeBase d 0 k 39 0)
    let hi := min (o + n) (fget s .replRangeBase d 0 k 39 0 + fget s .replRangeLen d 0 k 39 0)
    let g := lo / 4096 + (d - 26 + 4 - lo / 4096 % 4) % 4
    replActive s d k && replRole s d k == 1 && fget s .replRangeCtrl d 0 k 55 52 == region && decide (lo < hi)
      && decide (4096 * g < hi)))

/-- The parameter checks of R365. -/
def migrateLegal (s : State) (src dst len mode : Nat) : Bool :=
  ergRange s src len && ergRange s dst len && hndRegion (word src) != hndRegion (word dst)
    && src % 4096 == 0 && dst % 4096 == 0 && len % 4096 == 0 && decide (mode ≤ 1)

/-- TIER_MIGRATE starts. -/
def startMigrate (s : State) (tag src dst len mode : Nat) : State :=
  let ps := [src, dst, len, mode]
  let writes (w : Nat) : Bool := touchesReplica s (hndRegion (word w)) (hndOffset (word w)) len
  if !migrateLegal s src dst len mode then refuseOp s tag stBadParam
  else if writes dst || (mode == 1 && writes src) then refuseOp s tag stDenied
  else startOp s tag 5 (len / 4096) ps (opTargets s 5 ps) (if len = 0 then some (stOk, 0) else none) id

/-- Good blocks of a granule that are forwarded each by itself, or the granule whole. -/
def forwardRuns (s : State) (w : Word) : List (Nat × Nat) :=
  let a := ergAddr s (hndRegion w - 1) (hndOffset w)
  if badIn s a 4096 = 0 then [(0, 4096)]
  else ((upTo 0 64).filter (fun k => badIn s (a + 64 * k) 64 == 0)).map (fun k => (64 * k, 64))

/-- A granule written in a PRIMARY range is forwarded (R360). -/
def forwardGranule (s : State) (w : Word) : State :=
  if (replFind s (ownerOf w) 0 (hndRegion w) (hndOffset w)).isNone then s
  else (forwardRuns s w).foldl (fun s r =>
    let w := word (w.toNat + r.1)
    let d := memRead s.erg.mem (ergAddr s (hndRegion w - 1) (hndOffset w)) r.2
    applied s (ownerOf w) w none (putFwdFields s (ownerOf w) w d) 0 none) s

/-- One granule moved: STATUS, uncorrectable blocks carried over, and the state. Between two dies it crosses a core
plane. -/
def moveGranule (s : State) (src dst : Word) (mode : Nat) : Nat × Nat × State :=
  let a := ergAddr s (hndRegion src - 1) (hndOffset src)
  let b := ergAddr s (hndRegion dst - 1) (hndOffset dst)
  if !backed s a || !backed s b || (ownerOf src != ownerOf dst && !anyPlane s) then (stFaulted, 0, s)
  else
    let s := eccChecks s a 4096
    if mode = 0 then (stOk, badIn s a 4096, forwardGranule (copyRun s a b 4096) dst)
    else
      let s := eccChecks s b 4096
      (stOk, badIn s a 4096 + badIn s b 4096, forwardGranule (forwardGranule (swapRun s a b 4096) dst) src)

/-- Granules from number i on, until one fails: STATUS, granules moved, uncorrectable blocks, and the state. -/
def moveGranules (src dst mode : Nat) : Nat → Nat → Nat → State → Nat × Nat × Nat × State
  | 0, i, u, s => (stOk, i, u, s)
  | n + 1, i, u, s =>
    match moveGranule s (word (src + 4096 * i)) (word (dst + 4096 * i)) mode with
    | (0, k, s) => moveGranules src dst mode n (i + 1) (u + k) s
    | (st, _, s) => (st, i, u, s)

/-- A step of a TIER_MIGRATE. -/
def stepMigrate (s : State) (o : Op) (units : Nat) : Stepped :=
  let p := param o.params
  let (st, i, u, s) := moveGranules (p 0) (p 1) (p 3) (doneAfter o units - o.done) o.done (o.result.getD 1 0).toNat s
  let o := advanced o i [i, u]
  if st = stOk then workDone s o else (s, o, some (st, 0))

def cmdTierMigrate (tag src dst len mode : Nat) : Cmd := opCommand tag (fun s => startMigrate s tag src dst len mode)

def execTierMigrate (tag src dst length mode : Nat) (s : State) : Res :=
  .next (takeCommand s (cmdTierMigrate tag src dst length mode))

end Sys2Proof.Machine
end

