-- ==== Sys2Proof/Machine/Service.lean ====
section
/-! DEFINITION. Stepped operations of service: CONTEXT_SAVE, CONTEXT_RESTORE, SPARE_SWAP, PORT_DRAIN and LANE_RECAL, and
the step of a running operation with its watchdog (R236-R240, R400, R401, R425-R430, R494, R499). -/

namespace Sys2Proof.Machine

/-! ### Contexts (R236, R238) -/

/-- Parameters of a context operation: spindles, and an aligned handle with room for every context. -/
def contextLegal (s : State) (first count handle : Nat) : Bool :=
  spindleRange first count && handle % 4096 == 0
    && (upTo 0 count).all (fun i => ergRange s handle ((i + 1) * contextSize s (first + i)) && logicalAvailable s (first + i))

/-- CONTEXT_SAVE starts; STEP has 48 bits, and the rest of its word is reserved (R9, R13). -/
def startSave (s : State) (tag first count handle step : Nat) : State :=
  let ps := [first, count, handle, step % 2 ^ 48]
  if !contextLegal s first count handle then refuseOp s tag stBadParam
  else if (namedSpindles s first count).any (fun k => !contextStill s k) then refuseOp s tag stBusy
  else startOp s tag 6 count ps (opTargets s 6 ps) none id

/-- Offset of the context of spindle first + i. -/
def contextOffset (s : State) (first handle i : Nat) : Nat := hndOffset (word handle) + i * contextSize s (first + i)

/-- Contexts from number i on are written, until one cannot be: STATUS, contexts written and the state. Each crosses a core
plane (R32). -/
def saveContexts (first handle step : Nat) : Nat → Nat → State → Nat × Nat × State
  | 0, i, s => (stOk, i, s)
  | n + 1, i, s =>
    let l := first + i
    if !anyPlane s then (stFaulted, i, s)
    else if !contextStill s (spindleOf s l) then (stBusy, i, s)
    else
      let o := contextOffset s first handle i
      match writePieces (hndRegion (word handle)) o (contextCells s l step) (pieces o (contextSize s l)) 0 s with
      | (0, _, s) => saveContexts first handle step n (i + 1) s
      | (st, _, s) => (st, i, s)

/-- How a step over spindles ends. -/
def spindlesDone (o : Op) (x : Nat × Nat × State) : Stepped :=
  let o := advanced o x.2.1 [x.2.1]
  if x.1 = stOk then workDone x.2.2 o else (x.2.2, o, some (x.1, 0))

/-- A step of a CONTEXT_SAVE. -/
def stepSave (s : State) (o : Op) (units : Nat) : Stepped :=
  let p := param o.params
  spindlesDone o (saveContexts (p 0) (p 2) (p 3) (doneAfter o units - o.done) o.done s)

def cmdContextSave (tag first count handle step : Nat) : Cmd :=
  opCommand tag (fun s => startSave s tag first count handle step)

def execContextSave (tag first count handle step : Nat) (s : State) : Res :=
  .next (takeCommand s (cmdContextSave tag first count handle step))

/-- CONTEXT_RESTORE starts. -/
def startRestore (s : State) (tag first count handle : Nat) : State :=
  let ps := [first, count, handle]
  if !contextLegal s first count handle then refuseOp s tag stBadParam
  else if (namedSpindles s first count).any (spindleActive s) then refuseOp s tag stBusy
  else startOp s tag 7 count ps (opTargets s 7 ps) none id

/-- Contexts from number i on are restored, until one cannot be. -/
def restoreContexts (first handle : Nat) : Nat → Nat → State → Nat × Nat × State
  | 0, i, s => (stOk, i, s)
  | n + 1, i, s =>
    let l := first + i
    let o := contextOffset s first handle i
    let ps := pieces o (contextSize s l)
    let region := hndRegion (word handle)
    let st := if anyPlane s then readStatus s region ps else stFaulted
    if st ≠ stOk then (st, i, s)
    else
      let m := gather s region o ps
      let st := contextStatus s l m
      if st ≠ stOk then (st, i, s)
      else restoreContexts first handle n (i + 1) (restoredReleases (restoreContext s l m) l)

/-- A step of a CONTEXT_RESTORE. -/
def stepRestore (s : State) (o : Op) (units : Nat) : Stepped :=
  let p := param o.params
  spindlesDone o (restoreContexts (p 0) (p 2) (doneAfter o units - o.done) o.done s)

def cmdContextRestore (tag first count handle : Nat) : Cmd :=
  { opCommand tag (fun s => startRestore s tag first count handle) with active := true }

def execContextRestore (tag first count handle : Nat) (s : State) : Res :=
  .next (takeCommand s (cmdContextRestore tag first count handle))

/-! ### SPARE_SWAP (R239, R240, R499) -/

/-- The checks of R499 for SPARE_SWAP, as STATUS and CHECK. -/
def swapCheck (s : State) (die i : Nat) : Nat × Nat :=
  if die < 10 ∨ 25 < die ∨ 15 < i then (stBadParam, 1)
  else
    let l := 16 * (die - 10) + i
    let key := spindleOf s l
    let runs := (upTo 0 4).any (fun e => engineActive (getEng s key e))
    if !spareReady s die then (stEmpty, 2)
    else if (unitState s die 0x10 (key % 32) ≠ .contained ∧ !(getDie s die).contained ∧ runs)
        ∨ s.hanks.any (fun e => hankUses e.2 l && holdsPart e.2) then (stBusy, 3)
    else (stOk, 0)

/-- SPARE_SWAP starts. -/
def startSpare (s : State) (tag die i : Nat) : State :=
  let (st, ck) := swapCheck s die i
  if st ≠ stOk then fail8 s tag 0x48 st ck else startOp s tag 8 1 [die, i] (opTargets s 8 [die, i]) none id

/-- Slots of hanks on a logical spindle hold IDENTITY again. -/
def emptySlots (s : State) (l : Nat) : State :=
  { s with hanks := s.hanks.map (fun e => (e.1,
      { e.2 with slots := e.2.slots.map (fun j =>
          if slotSpindle e.2.d j.1 = l then (j.1, { j.2 with els := [], groups := [] }) else j) })) }

/-- The swap: the new slot and the state. -/
def spareSwap (s : State) (die i : Nat) : Nat × State :=
  let l := 16 * (die - 10) + i
  let old := spindleOf s l
  let slot := fget s .spindleMapStatus die 0 0 21 17
  let new := spKey die slot
  let claims := (getSp s old).claims
  let limit := fget s .slotLimit die (old % 32) 0 11 0
  let s := modSp s old (fun sp => { stopEngines sp with claims := [] })
  let s := modSp s new (fun sp => { sp with
    engines := [], queues := [], flags := 0, clearing := 0, barchans := [], imageLoaded := false, measurement := [],
    claims := claims, work := [] })
  let s := fset s .slotLimit die slot 0 11 0 limit
  let s := setUnit (setUnit s die 0x10 (old % 32) .retired) die 0x10 slot
    (if s.module.state = 4 then .live else .parked)
  let s := fset s .spindleMap die 0 (i / 8) (8 * (i % 8) + 4) (8 * (i % 8)) slot
  let s := fset s .spindleMapStatus die 0 0 16 0 (fget s .spindleMapStatus die 0 0 16 0 ||| 2 ^ (old % 32))
  let s := fset (fset s .spindleMapStatus die 0 0 21 17 (old % 32)) .spindleMapStatus die 0 0 22 22 0
  (slot, emptySlots s l)

/-- The step of a SPARE_SWAP: its row 3 may hold again by then. -/
def stepSpare (s : State) (o : Op) (units : Nat) : Stepped :=
  let die := param o.params 0
  let i := param o.params 1
  if units = 0 then (s, o, none)
  else
    match swapCheck s die i with
    | (0, _) =>
      let (slot, s) := spareSwap s die i
      workDone s (advanced o 1 [slot])
    | (st, ck) => (s, o, some (st, ck))

def cmdSpareSwap (tag die i : Nat) : Cmd := opCommand tag (fun s => startSpare s tag die i)

def execSpareSwap (tag die localIndex : Nat) (s : State) : Res := .next (takeCommand s (cmdSpareSwap tag die localIndex))

/-! ### PORT_DRAIN (R499) -/

/-- PORT_DRAIN starts: the port returns no further credit. -/
def startDrain (s : State) (tag die port us : Nat) : State :=
  let p := 16 * die + port
  if 7 < die ∨ 15 < port ∨ us = 0 ∨ 1000000 < us then fail8 s tag 0x48 stBadParam 1
  else if !portUp s p then fail8 s tag 0x48 stBusy 2
  else
    startOp s tag 9 1 [die, port, us] (opTargets s 9 [die, port, us]) none
      (fun s => modPort s p (fun q => { q with draining := true }))

/-- Packets held for a port as output. -/
def heldFor (s : State) (p : Nat) : List Pkt :=
  let q := getPort s p
  (drainOutput s.planeA p).1 ++ (drainOutput s.planeB p).1 ++ q.stage.map (·.2)
    ++ (q.replay.filter (fun t => !t.pkt.complete)).map (·.pkt)

/-- A packet received on a port remains in its port die. -/
def stillReceived (s : State) (p : Nat) : Bool :=
  let q := getPort s p
  q.rxFrame.isSome || q.rxHeld.isSome || q.rxBuf != []

/-- A step of a PORT_DRAIN: `late` when TIMEOUT_US has passed. -/
def stepDrain (s : State) (o : Op) (late : Bool) : Stepped :=
  let p := 16 * param o.params 0 + param o.params 1
  if !portLive s p then workDone s (advanced o 1 [0])
  else if heldFor s p = [] ∧ !stillReceived s p then workDone (parkPort s p) (advanced o 1 [0])
  else if late then workDone (parkPort s p) (advanced o 1 [(heldFor s p).length])
  else (s, o, none)

/-- A cancelled drain: the port returns what it withheld. -/
def endDrain (s : State) (p : Nat) : State :=
  let l := (getPort s p).withheld
  l.foldl (fun s c => returnCredits s p c.1 c.2.1 c.2.2)
    (modPort s p (fun q => { q with draining := false, withheld := [] }))

def cmdPortDrain (tag die port us : Nat) : Cmd := opCommand tag (fun s => startDrain s tag die port us)

def execPortDrain (tag die port timeoutUs : Nat) (s : State) : Res :=
  .next (takeCommand s (cmdPortDrain tag die port timeoutUs))

/-! ### LANE_RECAL (R398, R400, R401) -/

/-- Checks of R394 and R401, as STATUS. -/
def recalCheck (s : State) (die lane : Nat) : Nat :=
  let p := 16 * die + lane / 2
  if 7 < die ∨ 31 < lane ∨ !portUp s p then stBadParam
  else if (getPort s p).partner.any (fun h => h.lanes == 1) then stNotSupported
  else if pget s .portStatus p 0 9 8 = 3 then stBusy
  else if !mayDegrade s p then stNotSupported
  else stOk

/-- LANE_RECAL starts; its third parameter tells whether the lane has been dropped. -/
def startRecal (s : State) (tag die lane : Nat) : State :=
  let st := recalCheck s die lane
  if st ≠ stOk then refuseOp s tag st else startOp s tag 10 1 [die, lane, 0] (opTargets s 10 [die, lane]) none id

/-- A step of a LANE_RECAL: the lane is dropped and its recalibration begun; then it waits for the lane to rejoin, or for
the recalibration to fail. -/
def stepRecal (s : State) (o : Op) (ok : Bool) : Stepped :=
  let die := param o.params 0
  let lane := param o.params 1
  let p := 16 * die + lane / 2
  if param o.params 2 = 0 then
    (recalBegin (oneCycle (fun s => dropLane raiseWith s p (lane % 2)) s) p (lane % 2) true, { o with params := [die, lane, 1] }, none)
  else if portUp s p ∧ pget s .portStatus p 0 19 18 = 3 then workDone s (advanced o 1 [])
  else if (getPort s p).recal.all (fun r => r.1 != lane % 2) then (s, o, some (stFaulted, 0))
  else if ok then (s, o, none)
  else (recalFails s p 8, o, some (stFaulted, 0))

def cmdLaneRecal (tag die lane : Nat) : Cmd := opCommand tag (fun s => startRecal s tag die lane)

def execLaneRecal (tag die lane : Nat) (s : State) : Res := .next (takeCommand s (cmdLaneRecal tag die lane))

/-! ### Steps (R427, R430) -/

/-- What the On cancel column of R428 leaves when an operation ends short of its last step. -/
def abandonOp (s : State) (o : Op) : State :=
  if o.code = 1 ∧ param o.params 0 = 1 then emptyShadows s
  else if o.code = 9 then endDrain s (16 * param o.params 0 + param o.params 1)
  else s

/-- One step of an operation's work; one whose device work fails ends FAULTED. -/
def opWork (s : State) (o : Op) (units : Nat) (ok : Bool) : Stepped :=
  if o.code = 9 then stepDrain s o (!ok)
  else if o.code = 10 then stepRecal s o ok
  else if !ok then (abandonOp s o, o, some (stFaulted, 0))
  else match o.code with
    | 1 => stepLoad s o units
    | 2 => stepSwap s o units
    | 3 => stepScrub s o units
    | 4 => stepRetire s o units
    | 5 => stepMigrate s o units
    | 6 => stepSave s o units
    | 7 => stepRestore s o units
    | 8 => stepSpare s o units
    | _ => stepStage s o units

/-- The running operation whose turn it is: the next slot above the one that stepped last, round to the lowest. -/
def nextOp (s : State) : Option (Nat × Op) :=
  let l := s.ops.filter (fun e => e.2.state == 0)
  match l.find? (fun e => decide (s.opTurn < e.1)) with
  | some e => some e
  | none => l.head?

/-- A step ends: the operation ends with it, or is cancelled at its boundary, or goes on. In STANDBY the units an
operation works on are without power. A step that needs a steward that does not answer has no end (R36), and the next
operation has its turn; one whose last unit is done is past its last boundary (R427). -/
def opStep (s : State) (units : Nat) (ok : Bool) : State :=
  match nextOp s with
  | none => s
  | some (k, o) =>
    let s := { s with opTurn := k }
    if s.module.state ≤ 1 then endOp (abandonOp s o) k o 1 stFaulted 0
    else if opHangs s o then s
    else
      let s := { s with episodes := s.episodes.filter (fun e => e != 128 + k) }
      match opWork s o units ok with
      | (s, o, some (st, ck)) => endOp s k o 1 st ck
      | (s, o, none) => if o.cancelReq ∧ o.done < o.total then endOp (abandonOp s o) k o 2 stOk 0 else putOp s k o

def execOpStep (units : Nat) (ok : Bool) (s : State) : Res := .next (if running s then opStep s units ok else s)

/-- A step has not finished within STEP_WD_US: the operation ends with TIMEOUT; whether the step in progress took effect
is free. -/
def stepExpires (s : State) (k : Nat) (o : Op) : State :=
  let (b, s) := freeBelow 2 s
  let (s, o) := if b = 1 then
      match opWork s o 1 true with
      | (s, o, _) => (s, o)
    else (s, o)
  let s := raiseDetail s (srcOp (activeDie s) k) [word (opHandle s k), word o.code]
  endOp (abandonOp s o) k o 1 stTimeout 0

/-- STEP_WATCHDOG. -/
def execStepWatchdog (opSlot : Nat) (s : State) : Res :=
  if opSlot < 64 then
    .next (match mapFind s.ops opSlot with
      | some o => if running s ∧ o.state = 0 then stepExpires s opSlot o else s
      | none => s)
  else atUnit "operation slot" 0 64 opSlot s

end Sys2Proof.Machine
end

