-- ==== Sys2Proof/Machine/Debug.lean ====
section
/-! DEFINITION. The debug commands: sessions, the zeroisation before D3, engines, memory and sync state (R341, R470-R480,
R423). -/

namespace Sys2Proof.Machine

/-! ### Sessions (R472, R477, R479) -/

/-- `debug.open`: D1 and D2 open at once; D3 opens when the zeroisation completes. -/
def debugOpen (s : State) (tag level dies : Nat) (token : List Byte) : State :=
  let (st, ck) := debugOpenCheck s level dies token
  if st ≠ stOk then fail8 s tag 0x50 st ck
  else if level = 3 then
    let s := modSec s (fun c => { c with zeroising := true })
    modCp s (fun p => { p with awaiting := p.awaiting ++ [.d3 tag dies (tokenLife s token)] })
  else answerOk (openSession s level dies (tokenLife s token)) tag 0x50 []

def cmdDebugOpen (tag level dies : Nat) (token : List Byte) : Cmd :=
  { plainCmd tag 0x50 [] (fun s => debugOpen s tag level dies token) with lengthOk := token.length == 320 }

def execDebugOpen (tag level dies : Nat) (token : List Byte) (s : State) : Res :=
  .next (takeCommand s (cmdDebugOpen tag level dies token))

/-- The `debug.open` that waits for the zeroisation. -/
def d3Waiting (l : List Awaiting) : Option (Nat × Nat × Option Nat) :=
  l.findSome? (fun a => match a with
    | .d3 tag dies life => some (tag, dies, life)
    | _ => none)

/-- Stack or device of an Erg address is contained or retired, so that it loses its power before D3. -/
def deviceDark (s : State) (a : Nat) : Bool :=
  let (die, ch) := addrDieCh a
  let (cls, k) := channelDevice ch
  unitContained s die cls k || unitState s die cls k == .retired || unitContained s die 0x19 ch
    || unitState s die 0x19 ch == .retired

/-- Every LIVE channel of the Erg is written with zero, management area, signal counters and staging buffers included; a
contained or retired device loses its contents with its power. -/
def zeroErg (s : State) : State :=
  let gone (a : Nat) : Bool := backed s a || deviceDark s a
  let s := modErg s (fun e => { e with
    mem := e.mem.filter (fun c => !gone c.1), bad := e.bad.filter (fun b => !gone (64 * b.1)), counters := [] })
  { s with staging := [] }

/-- Packets in a die's buffers are zeroised. -/
def zeroBuffers (s : State) (die : Nat) : State :=
  { setReady s (linkOf die) [] with inbox := mapDel s.inbox die }

/-- Local stores, instruction memories, packet buffers and tables of a die are zeroised. -/
def zeroDie (s : State) (die : Nat) : State :=
  match dieKind die with
  | 0 =>
    let s := setPortDie (zeroBuffers s die) die PortDie.init
    (upTo (16 * die) 16).foldl (fun s p => modPort s p (fun q => { portDropped q with rxBuf := [] })) s
  | 1 => setPlane s (die - 8) Plane.init
  | 2 => (dieSpindles die).foldl (fun s k => modSp s k (fun sp => { sp with
      ls := [], imem := [], imageLoaded := false, measurement := [] })) (zeroBuffers s die)
  | 3 => modErg (zeroBuffers s die) (fun e => { e with
      repl := e.repl.filter (fun x => x.1 / 16 != die), counting := e.counting.filter (fun c => c.die != die) })
  | _ => s

/-- The zeroisation completes: the D3 session opens and `debug.open` is answered. -/
def zeroised (s : State) (tag dies : Nat) (life : Option Nat) : State :=
  let s := (upTo 0 128).foldl (fun s p => if portLive s p then parkPort s p else s) s
  let s := ((upTo 0 32).filter (fun d => dies.testBit d)).foldl zeroDie (zeroErg s)
  let s := modSec s (fun c => { c with zeroising := false, attestKey := none, nonce := List.replicate 32 0 })
  let s := modCp s (fun p => { p with awaiting := p.awaiting.filter (fun a => (d3Waiting [a]).isNone) })
  answerOk (openSession s 3 dies life) tag 0x50 []

/-- ZEROISATION. -/
def execZeroisation (s : State) : Res :=
  .next (match d3Waiting s.cp.awaiting with
    | some (tag, dies, life) => if running s ∧ s.sec.zeroising then zeroised s tag dies life else s
    | none => s)

/-- `debug.close`. -/
def debugClose (s : State) (tag : Nat) : State :=
  if s.sec.session.isNone then fail8 s tag 0x51 stBadParam 0 else answerOk (endSession raiseFault s) tag 0x51 []

def cmdDebugClose (tag : Nat) : Cmd := { plainCmd tag 0x51 [] (fun s => debugClose s tag) with inD3 := true }

def execDebugClose (tag : Nat) (s : State) : Res := .next (takeCommand s (cmdDebugClose tag))

/-! ### Engines (R475) -/

/-- DIE and SLOT name a spindle. -/
def spindleNamed (die slot : Nat) : Bool := decide (10 ≤ die) && decide (die < 26) && decide (slot < 17)

/-- HALT. -/
def haltByDebug (e : Engine) : Engine :=
  match e.state with
  | .running => { e with state := .held, hold := 5 }
  | .held => { e with hold := 5 }
  | .waiting => { e with debugHalt := true }
  | _ => e

/-- RELEASE: a debug hold ends; a FAULTED engine is HALTED at the PC of EXC_STATUS; any other stays as it is. -/
def releaseByDebug (pc : Nat) (e : Engine) : Engine :=
  if e.state = .faulted then { e with state := .halted, pc := pc }
  else if e.state = .held ∧ e.hold = 5 then { e with state := .running, hold := 0 } else e

/-- `debug.engine`. -/
def debugEngine (s : State) (tag die slot engine action : Nat) : State :=
  let key := spKey die slot
  if !spindleNamed die slot ∨ 3 < engine ∨ 1 < action then fail8 s tag 0x52 stBadParam 0
  else if !spindleLive s key then fail8 s tag 0x52 stBusy 0
  else
    answerOk (modEng s key engine (if action = 0 then haltByDebug
      else releaseByDebug (eget s .excStatus key engine 0 12 0))) tag 0x52 []

/-- A D2 command on a die. -/
def d2Command (s : State) (tag opcode die : Nat) (run : State → State) : Cmd :=
  { plainCmd tag opcode [die] run with permitted := debugReaches s 2 die }

def cmdDebugEngine (s : State) (tag die slot engine action : Nat) : Cmd :=
  d2Command s tag 0x52 die (fun s => debugEngine s tag die slot engine action)

def execDebugEngineHalt (tag die slot engine : Nat) (s : State) : Res :=
  .next (takeCommand s (cmdDebugEngine s tag die slot engine 0))

def execDebugEngineRelease (tag die slot engine : Nat) (s : State) : Res :=
  .next (takeCommand s (cmdDebugEngine s tag die slot engine 1))

/-! ### Memory (R476) -/

/-- Some engine of a spindle is RUNNING, WAITING, or held other than by debug. -/
def spindleMoves (s : State) (key : Nat) : Bool :=
  (upTo 0 4).any (fun i =>
    let e := getEng s key i
    e.state == .running || e.state == .waiting || (e.state == .held && e.hold != 5))

/-- STATUS of an access to a local store; `data` is what a write stores. -/
def localAccess (s : State) (die slot addr len : Nat) (write : Bool) : Nat :=
  let key := spKey die slot
  if !spindleNamed die slot ∨ 0x300000 < addr + len then stBadParam
  else if !spindleLive s key ∨ spindleMoves s key then stBusy
  else if write ∧ (getSp s key).claims ≠ []
      ∧ 0x300000 - 4096 * fget s .slotLimit die slot 0 11 0 < addr + len then stBusy
  else stOk

/-- The granules of an Erg access. -/
def ergPieces (addr len : Nat) : List (Nat × Nat) := pieces (hndOffset (word addr)) len

/-- The handle of an Erg access names this Holmon in region 1 or 2. -/
def ergNamed (addr : Nat) : Bool := hndFeid (word addr) == ownFeid && dataHandle (word addr)

/-- Owning dies of an Erg access. -/
def ergOwners (addr len : Nat) : List Nat :=
  ((ergPieces addr len).map (fun p => 26 + bits p.1 13 12)).eraseDups

/-- Dies an access reaches. -/
def accessDies (space die addr len : Nat) : List Nat :=
  if space = 1 then (if len ≤ 8192 ∧ ergNamed addr then ergOwners addr len else []) else [die]

/-- D2 reaches every die of an access. -/
def accessPermitted (s : State) (space die addr len : Nat) : Bool :=
  decide (2 ≤ debugLevel s) && (accessDies space die addr len).all (debugReaches s 2)

/-- Parameters that both accesses check first. -/
def accessLegal (space die slot addr len : Nat) : Bool :=
  decide (1 ≤ len) && decide (len ≤ 8192) && (space == 0 || (space == 1 && die == 0 && slot == 0 && ergNamed addr))

/-- The granule lies in a PARKED channel, so that a debug access to it is BUSY (R471, R479). -/
def pieceParked (s : State) (region o : Nat) : Bool :=
  let c := addrDieCh (ergAddr s (region - 1) o)
  unitState s c.1 0x19 c.2 == .parked && !unitContained s c.1 0x19 c.2

/-- STATUS of a debug access to a granule whose checks of R352 give `st`. -/
def debugStatus (s : State) (region o st : Nat) : Nat := if st = stFaulted ∧ pieceParked s region o then stBusy else st

/-- `debug.read`. -/
def debugRead (s : State) (tag space die slot addr len : Nat) : State :=
  if !accessLegal space die slot addr len then fail8 s tag 0x53 stBadParam 0
  else if space = 0 then
    let st := localAccess s die slot addr len false
    if st ≠ stOk then fail8 s tag 0x53 st 0
    else answer s tag 0x53 stOk (memRead (localStore s (spKey die slot)) addr len)
  else
    let region := hndRegion (word addr)
    let st := firstOf ((ergPieces addr len).map (fun p => debugStatus s region p.1 (pieceStatus s region p.1 p.2 true)))
    if st ≠ stOk then fail8 s tag 0x53 st 0
    else answer s tag 0x53 stOk (ergRead s (region - 1) (hndOffset (word addr)) len)

def cmdDebugRead (s : State) (tag space die slot addr len : Nat) : Cmd :=
  { plainCmd tag 0x53 (accessDies space die addr len) (fun s => debugRead s tag space die slot addr len) with
    permitted := accessPermitted s space die addr len }

def execDebugRead (tag space die slot address length : Nat) (s : State) : Res :=
  .next (takeCommand s (cmdDebugRead s tag space die slot address length))

/-- `debug.write`. -/
def debugWrite (s : State) (tag space die slot addr len : Nat) (data : List Byte) : State :=
  if !accessLegal space die slot addr len then fail8 s tag 0x54 stBadParam 0
  else if space = 0 then
    let st := localAccess s die slot addr len true
    if st ≠ stOk then fail8 s tag 0x54 st 0
    else answerOk (modSp s (spKey die slot) (fun sp => spWrite sp addr data)) tag 0x54 []
  else
    let o := hndOffset (word addr)
    let region := hndRegion (word addr)
    let ps := ergPieces addr len
    let (st, n, s) := writePieces region o (memWrite [] 0 data) ps 0 s
    let st := debugStatus s region ((ps.getD (fullPieces n ps) (0, 0)).1) st
    if st ≠ stOk then fail8 s tag 0x54 st 0 else answerOk s tag 0x54 []

def cmdDebugWrite (s : State) (tag space die slot addr len : Nat) (data : List Byte) : Cmd :=
  { plainCmd tag 0x54 (accessDies space die addr len) (fun s => debugWrite s tag space die slot addr len data) with
    permitted := accessPermitted s space die addr len, lengthOk := data.length == len }

def execDebugWrite (tag space die slot address length : Nat) (data : List Byte) (s : State) : Res :=
  .next (takeCommand s (cmdDebugWrite s tag space die slot address length data))

/-! ### Sync state (R341) -/

/-- An operation of `debug.sync` on a spindle: the word it returns, and the state. -/
def syncOperation (s : State) (key op n p : Nat) : Nat × State :=
  let v := getBarchan (getSp s key) n
  let home := localIndex s key
  match op with
  | 1 => (0, raiseFlag s key n)
  | 2 => (0, putFlag s key n false)
  | 3 =>
    let (cause, s) := applyArrival s (key / 32) home n p
    (cause, if cause = 0 then releaseDue s key n else s)
  | 4 => (0, release s key n)
  | _ => (0, settleBarWaits (setBarchan s key n { v with cur := 0, next := 0 }) (key / 32) home n)

/-- `debug.sync`. -/
def debugSync (s : State) (tag die slot op n p : Nat) : State :=
  let key := spKey die slot
  if !spindleNamed die slot ∨ op = 0 ∨ 5 < op ∨ (if op ≤ 2 then 63 else 15) < n ∨ (op = 3 ∧ 63 < p)
  then fail8 s tag 0x55 stBadParam 0
  else if !spindleLive s key then fail8 s tag 0x55 stBusy 0
  else
    let (w, s) := syncOperation s key op n p
    answerOk s tag 0x55 [word w]

def cmdDebugSync (s : State) (tag die slot op n p : Nat) : Cmd :=
  d2Command s tag 0x55 die (fun s => debugSync s tag die slot op n p)

def execFlagSet (tag die slot number : Nat) (s : State) : Res := .next (takeCommand s (cmdDebugSync s tag die slot 1 number 0))
def execFlagClear (tag die slot number : Nat) (s : State) : Res := .next (takeCommand s (cmdDebugSync s tag die slot 2 number 0))
def execBarchanArrive (tag die slot number participant : Nat) (s : State) : Res :=
  .next (takeCommand s (cmdDebugSync s tag die slot 3 number participant))
def execBarchanRelease (tag die slot number : Nat) (s : State) : Res :=
  .next (takeCommand s (cmdDebugSync s tag die slot 4 number 0))
def execBarchanClear (tag die slot number : Nat) (s : State) : Res :=
  .next (takeCommand s (cmdDebugSync s tag die slot 5 number 0))

end Sys2Proof.Machine
end

