-- ==== Sys2Proof/Machine/Control.lean ====
section
/-! DEFINITION. The control port: what a frame that arrives does, the link and its retries, and a command's timeout
(R404-R419, R423, R424). -/

namespace Sys2Proof.Machine

/-! ### Frames (R406, R407) -/

def cpLength (w0 : Word) : Nat := wbits w0 32 16
def cpType (w0 : Word) : Nat := wbits w0 11 8

/-- The frame is whole and its CRC is right. -/
def cpIntact (w0 w1 w2 w3 : Word) (payload : List Byte) : Bool :=
  payload.length == cpLength w0 && cpCrc w0 w1 w2 w3 payload == w3.extractLsb' 0 32

/-- Add one to CP_COUNT_k of the active control die. -/
def cpCountUp (s : State) (k : Nat) : State := fadd s .cpCount (activeDie s) 0 k 47 0 1

/-- The frame check: whether it fails, counted with its event; an injected check is met here (R492). -/
def frameFails (s : State) (ok : Bool) : Bool × State :=
  let src := srcControlPort (activeDie s) 2
  match injected s src [] with
  | (true, s) => (true, cpCountUp s 0)
  | (false, s) => if ok then (false, s) else (true, raiseFault (cpCountUp s 0) src)

/-! ### The link (R410, R411, R413, R414) -/

/-- Link-up restarts; LINK_DOWN when the link was UP. -/
def cpLinkDown (s : State) : State :=
  let t := cpRestart s
  if cpUp s then raiseFault t (srcControlPort (activeDie s) 0) else t

/-- The partner has placed every frame up to `seq`: they are released, and what waits is sent. -/
def cpAcked (s : State) (seq : BitVec 32) : State :=
  if s.cp.unacked.any (fun e => e.1 == seq) then
    pump (reportLost (modCp s (fun c => { c with unacked := (c.unacked.dropWhile (fun e => e.1 != seq)).drop 1 })))
  else s

/-- Send again, in order, until one frame has been sent 16 times: the frames as they stand, and whether one has. -/
def resendList (s : State) : List (BitVec 32 × CpMsg × Nat) → List (BitVec 32 × CpMsg × Nat) × Bool × State
  | [] => ([], false, s)
  | (q, m, n) :: r =>
    let s := cpCountUp (emit s (numberedOut s q m)) 2
    if 16 ≤ n + 1 then ((q, m, n + 1) :: r, true, s)
    else
      let x := resendList s r
      ((q, m, n + 1) :: x.1, x.2)

/-- Resend every unacknowledged frame. -/
def cpResend (s : State) : State :=
  let x := resendList s s.cp.unacked
  let s := modCp x.2.2 (fun c => { c with unacked := x.1 })
  if x.2.1 then cpLinkDown s else s

/-- A LINK frame that carries ACK_SEQ alone. -/
def sendCpLink (s : State) (kind : Nat) : State := emit s (cpLinkOut (lastPlaced s) kind 0 [])

/-- A NAK. -/
def sendNak (s : State) : State := if cpUp s then sendCpLink (cpCountUp s 1) 3 else s

/-- A numbered frame that arrives: its check, its ACK_SEQ, its place in the sequence; `legal` is R407, `place` what
the frame does once placed (R412, R413). -/
def numbered (s : State) (w0 w1 w2 w3 : Word) (payload : List Byte) (legal : Bool) (place : State → State) : State :=
  if !listens s then s
  else
    match frameFails s (cpIntact w0 w1 w2 w3 payload) with
    | (true, s) => sendNak s
    | (false, s) =>
      let s := cpAcked s (w1.extractLsb' 32 32)
      if w1.extractLsb' 0 32 ≠ s.cp.rxNext then sendNak s
      else
        let s := sendCpLink (modCp s (fun c => { c with rxNext := c.rxNext + 1, placed := true })) 2
        if legal then place s else cpCountUp s 4

/-- A frame whose TYPE is not that of a numbered frame: once its check is passed it is discarded, and neither placed nor
acknowledged (R407, R409). -/
def unnumbered (s : State) (w0 w1 w2 w3 : Word) (payload : List Byte) : State :=
  if !listens s then s
  else
    match frameFails s (cpIntact w0 w1 w2 w3 payload) with
    | (true, s) => sendNak s
    | (false, s) => cpCountUp (cpAcked s (w1.extractLsb' 32 32)) 4

/-- A frame of a row that receives numbered frames of one TYPE. -/
def numberedRow (s : State) (type : Nat) (w0 w1 w2 w3 : Word) (payload : List Byte) (legal : Bool)
    (place : State → State) : State :=
  if 1 ≤ cpType w0 ∧ cpType w0 ≤ 4 then numbered s w0 w1 w2 w3 payload (cpType w0 == type && legal) place
  else unnumbered s w0 w1 w2 w3 payload

/-! ### Commands (R416, R423) -/

/-- Parameter word k of a payload. -/
def cpParam (pl : List Byte) (k : Nat) : Nat := (wordAt pl (8 * k)).toNat

/-- A command whose payload is `n` parameter words. -/
def sized (pl : List Byte) (n : Nat) (c : Cmd) : Cmd := { c with lengthOk := pl.length == 8 * n }

/-- `op.start`: the operation OP_CODE names; an unknown OP_CODE is a parameter out of range. -/
def startCommand (tag : Nat) (pl : List Byte) : Cmd :=
  let p k := cpParam pl (k + 1)
  match cpParam pl 0 with
  | 1 => sized pl 5 (cmdTableLoad tag (p 0) (p 1) (p 2) (p 3))
  | 2 => sized pl 1 (cmdRouteSwap tag)
  | 3 => sized pl 5 (cmdScrub tag (p 0) (p 1) (p 2) (p 3))
  | 4 => sized pl 5 (cmdRetire tag (p 0) (p 1) (p 2) (p 3))
  | 5 => sized pl 5 (cmdTierMigrate tag (p 0) (p 1) (p 2) (p 3))
  | 6 => sized pl 5 (cmdContextSave tag (p 0) (p 1) (p 2) (p 3))
  | 7 => sized pl 4 (cmdContextRestore tag (p 0) (p 1) (p 2))
  | 8 => sized pl 3 (cmdSpareSwap tag (p 0) (p 1))
  | 9 => sized pl 4 (cmdPortDrain tag (p 0) (p 1) (p 2))
  | 10 => sized pl 3 (cmdLaneRecal tag (p 0) (p 1))
  | 11 => sized pl 4 (cmdFwStage tag (p 0) (p 1) (p 2))
  | _ => { opCommand tag (fun s => refuseOp s tag stBadParam) with lengthOk := decide (8 ≤ pl.length) }

/-- The command of an OPCODE and its payload; none where the table of R423 has none. -/
def commandOf (s : State) (tag opcode : Nat) (pl : List Byte) : Option Cmd :=
  let p := cpParam pl
  match opcode with
  | 0x10 => some (sized pl 2 (cmdRegRead s tag (p 0) (p 1)))
  | 0x11 => some (sized pl 3 (cmdRegWrite s tag (p 0) (word (p 1)) (word (p 2))))
  | 0x20 => some (cmdHankOpen tag pl)
  | 0x21 => some (sized pl 1 (cmdHankClose s tag (p 0)))
  | 0x22 => some (sized pl 1 (cmdHankQuery tag (p 0)))
  | 0x28 => some (sized pl 6 (cmdCaravanOpen tag (p 0) (p 1) (p 2) (p 3) (p 4) (p 5)))
  | 0x29 => some (sized pl 1 (cmdCaravanClose tag (p 0)))
  | 0x30 => some (sized pl 4 (cmdProgLoad tag (p 0) (p 1) (p 2) (p 3)))
  | 0x31 => some (sized pl 2 (cmdProgStart tag (p 0) (p 1)))
  | 0x38 => some (sized pl 3 (cmdStepCommit tag (p 0) (p 1) (p 2)))
  | 0x39 => some (sized pl 3 (cmdStepAbort tag (p 0) (p 1) (p 2)))
  | 0x40 => some (sized pl 3 (cmdPowerSet tag (p 0) (p 1) (p 2)))
  | 0x48 => some (startCommand tag pl)
  | 0x49 => some (sized pl 1 (cmdOpPoll tag (p 0)))
  | 0x4A => some (sized pl 1 (cmdOpCancel tag (p 0)))
  | 0x50 => some { cmdDebugOpen tag (p 0) (p 1) (pl.drop 16) with lengthOk := pl.length == 336 }
  | 0x51 => some (sized pl 0 (cmdDebugClose tag))
  | 0x52 => some (sized pl 4 (cmdDebugEngine s tag (p 0) (p 1) (p 2) (p 3)))
  | 0x53 => some (sized pl 5 (cmdDebugRead s tag (p 0) (p 1) (p 2) (p 3) (p 4)))
  | 0x54 => some { cmdDebugWrite s tag (p 0) (p 1) (p 2) (p 3) (p 4) (pl.drop 40) with lengthOk := pl.length == 40 + p 4 }
  | 0x55 => some (sized pl 5 (cmdDebugSync s tag (p 0) (p 1) (p 2) (p 3) (p 4)))
  | 0x60 => some (sized pl 2 (cmdFaultRead tag (p 0) (p 1)))
  | 0x68 => some (sized pl 4 (cmdAttestReport tag pl))
  | 0x70 => some (sized pl 0 (cmdInfoRead tag))
  | _ => none

/-- A COMMAND frame placed: orders 1 to 8 of R416. -/
def placeCommand (w0 w2 : Word) (pl : List Byte) (s : State) : State :=
  let tag := wbits w2 31 0
  let opcode := wbits w2 47 32
  let resend := wbit w2 48
  if wbits w0 7 0 ≠ 0x10 then respond s tag opcode stNotSupported (failWord 1 0 0)
  else takeKnown s tag opcode resend (fun s =>
    match commandOf s tag opcode pl with
    | none => takeUnknown s tag opcode
    | some c => takeNew s resend c)

/-- COMMAND. -/
def execCommand (w0 w1 w2 w3 : Word) (payload : List Byte) (s : State) : Res :=
  .next (numberedRow s 1 w0 w1 w2 w3 payload (decide (cpLength w0 ≤ 16384)) (placeCommand w0 w2 payload))

/-! ### BULK frames (R424, R438) -/

/-- A BULK frame is written into its staging buffer, or discarded and counted; one of another VERSION is rejected whole
(R12, R14). -/
def placeBulk (w0 w2 : Word) (pl : List Byte) (s : State) : State :=
  let b := wbits w2 3 0
  let o := wbits w2 63 32
  if wbits w0 7 0 ≠ 0x10 then s
  else if 2 ^ 27 < o + pl.length ∨ s.module.phase < 6 ∨ bufferLocked s b ∨ s.module.state = 1 then cpCountUp s 5
  else { s with staging := memWrite s.staging (2 ^ 27 * b + o) pl }

/-- BULK. -/
def execBulk (w0 w1 w2 w3 : Word) (payload : List Byte) (s : State) : Res :=
  .next (numberedRow s 4 w0 w1 w2 w3 payload (decide (1 ≤ cpLength w0) && decide (cpLength w0 ≤ 65536))
    (placeBulk w0 w2 payload))

/-! ### LINK frames -/

/-- A LINK frame of one kind and LENGTH: it is checked, and discarded where R407 says so or where its VERSION is not
Holmon's (R12); a frame that carries ACK_SEQ releases what it names. -/
def linkFrame (s : State) (kind len : Nat) (w0 w1 w2 w3 : Word) (payload : List Byte) (act : State → State) : State :=
  if !running s then s
  else
    match frameFails s (cpIntact w0 w1 w2 w3 payload) with
    | (true, s) => s
    | (false, s) =>
      if wbits w0 7 0 ≠ 0x10 then s
      else
        let s := if cpUp s then cpAcked s (w1.extractLsb' 32 32) else s
        if cpType w0 = 5 ∧ wbits w2 3 0 = kind ∧ cpLength w0 = len then act s else cpCountUp s 4

/-- The payload that an ACK, NAK or ALIGN must not have: LENGTH bytes of what its units carry, zeros. -/
def noPayload (w0 : Word) : List Byte := List.replicate (min 65536 (cpLength w0)) 0

/-- HELLO of Holmon: VERSION, LEVELS, ROLE and REJECT; its windows; CMD_WINDOW, PHASE, ACTIVE_KD; the serial (R410). -/
def ownHello (s : State) (reject : Bool) : List Byte :=
  wordsBytes [word (0x10 + 2 * 2 ^ 8 + 2 ^ 16 + b2n reject * 2 ^ 17), word (256 + 4096 * 2 ^ 16),
    word (64 + s.module.phase * 2 ^ 16 + (activeDie s - 30) * 2 ^ 19), Config.serial]

/-- Holmon sends its HELLO. -/
def sendHello (s : State) (reject : Bool) : State :=
  emit s (cpLinkOut (lastPlaced s) 1 0 (ownHello s reject))

/-- Holmon refuses a HELLO by its VERSION, its LEVELS or its ROLE. -/
def helloRefused (h : List Byte) : Bool :=
  let w := wordAt h 0
  wbits w 7 0 != 0x10 || !wbit w 9 || wbit w 16

/-- A HELLO at step 3: refused, with the 100 ms wait (step 0), or accepted: the link is UP. A partner that sends
REJECT has not accepted Holmon's. -/
def takeHello (h : List Byte) (s : State) : State :=
  if s.cp.step ≠ 3 then s
  else if helloRefused h then modCp (sendHello (cpRestart s) true) (fun c => { c with step := 0 })
  else if wbit (wordAt h 0) 17 then s
  else
    let w := wordAt h 8
    pump (modCp s (fun c => { c with step := 4, rxFrames := wbits w 15 0, rxKib := wbits w 31 16 }))

/-- LINK_FRAME_HELLO. -/
def execLinkFrameHello (w0 w1 w2 w3 : Word) (payload : List Byte) (s : State) : Res :=
  .next (linkFrame s 1 32 w0 w1 w2 w3 payload (takeHello payload))

/-- LINK_FRAME_ACK. -/
def execLinkFrameAck (w0 w1 w2 w3 : Word) (s : State) : Res := .next (linkFrame s 2 0 w0 w1 w2 w3 (noPayload w0) id)

/-- LINK_FRAME_NAK. -/
def execLinkFrameNak (w0 w1 w2 w3 : Word) (s : State) : Res :=
  .next (linkFrame s 3 0 w0 w1 w2 w3 (noPayload w0) (fun s => if cpUp s then cpResend s else s))

/-- Holmon sends an ALIGN header on each lane; the count of units sent on a lane is a free value (R406, R408). [96] -/
def sendAligns (s : State) : State :=
  (upTo 0 4).foldl (fun s lane =>
    let (w, s) := freeWord s
    emit s (cpLinkOut (lastPlaced s) 4 (lane * 2 ^ 4 + wbits w 31 0 * 2 ^ 32) [])) s

/-- An ALIGN of one lane at step 2; the four of them complete the deskew, and Holmon's HELLO goes out. -/
def takeAlign (lane : Nat) (s : State) : State :=
  if s.cp.step ≠ 2 then s
  else
    let a := s.cp.aligned ||| BitVec.ofNat 4 (2 ^ lane)
    if a = 0xF then sendHello (modCp s (fun c => { c with aligned := a, step := 3 })) false
    else modCp s (fun c => { c with aligned := a })

/-- LINK_FRAME_ALIGN. -/
def execLinkFrameAlign (w0 w1 w2 w3 : Word) (s : State) : Res :=
  .next (linkFrame s 4 0 w0 w1 w2 w3 (noPayload w0) (takeAlign (wbits w2 5 4)))

/-! ### Locks, limits and timers -/

/-- FEC_LOCK. -/
def execFecLock (s : State) : Res :=
  .next (if running s ∧ s.cp.step = 1 then sendAligns (modCp s (fun c => { c with laneLock := 0xF, step := 2 })) else s)

/-- A lane loses lock: the link goes down. -/
def loseCpLane (s : State) : State :=
  if s.cp.step < 2 then s else cpLinkDown (raiseFault s (srcControlPort (activeDie s) 1))

/-- CONTROL_LANE_LOCK_LOSS. -/
def execControlLaneLockLoss (lane : Nat) (s : State) : Res :=
  match atUnit "wavelength lane" 0 4 lane s with
  | .next s => .next (if running s then loseCpLane s else s)
  | r => r

/-- LINK_UP_LIMIT: a step's limit restarts link-up; the end of the wait after a refused HELLO was counted with it. -/
def execLinkUpLimit (s : State) : Res :=
  .next (if running s ∧ s.cp.step = 0 then modCp s (fun c => { c with step := 1 })
    else if running s ∧ s.cp.step < 4 then cpRestart s
    else s)

/-- RESEND_TIMEOUT. -/
def execResendTimeout (long : Bool) (s : State) : Res :=
  .next (if !listens s ∨ s.cp.unacked = [] then s else if long then cpLinkDown s else cpResend s)

/-- OPCODE of a command that waits for a steward. -/
def stewardWaits (tag : Nat) (l : List Awaiting) : Option Nat :=
  l.findSome? (fun a => match a with
    | .steward t opcode _ _ => if t = tag then some opcode else none
    | _ => none)

/-- A command whose steward has not answered is answered TIMEOUT. -/
def timeOut (s : State) (tag opcode : Nat) : State :=
  let s := modCp s (fun c => { c with awaiting := c.awaiting.filter (fun a => (stewardWaits tag [a]).isNone) })
  raiseFault (answer s tag opcode stTimeout (failWord 8 0 0)) (srcDistaff (activeDie s) 4)

/-- COMMAND_TIMEOUT. -/
def execCommandTimeout (tag : Nat) (s : State) : Res :=
  .next (match stewardWaits tag s.cp.awaiting with
    | some opcode => if running s then timeOut s tag opcode else s
    | none => s)

end Sys2Proof.Machine
end

