-- ==== Sys2Proof/Machine/Watch.lean ====
section
/-! DEFINITION. Watchdogs, the record of suppressed events and the end of the ERR_N pulse (R491, R493-R495). -/

namespace Sys2Proof.Machine

/-! ### Engine queues (R494, R504) -/

/-- The watchdog counts: the engine is WAITING, or HELD for cause 1 to 4. -/
def watchdogCounts (e : Engine) : Bool :=
  e.state == .waiting || (e.state == .held && decide (1 ≤ e.hold) && decide (e.hold ≤ 4))

/-- One expiry in an episode. -/
def engineExpires (s : State) (key i : Nat) : State :=
  let e := getEng s key i
  if watchdogCounts e ∧ !e.wdRaised ∧ engineClocked s key ∧ eget s .watchdogCtrl key i 0 31 0 ≠ 0 then
    let s := eadd (modEng s key i (fun e => { e with wdRaised := true })) .watchdogStatus key i 0 63 32 1
    let status := eget s .watchdogStatus key i 0 63 32 * 2 ^ 32 + eget s .watchdogCtrl key i 0 31 0
    raiseDetail s (srcEngine key i 2) [word (engineStatusWord (getEng s key i)), word status]
  else s

/-- ENGINE_QUEUE_WATCHDOG: QUIET_US stands at the limit. -/
def execEngineQueueWatchdog (die slot engine : Nat) (s : State) : Res :=
  match atEngine die slot engine s with
  | .next s => .next (if running s then engineExpires s (spKey die slot) engine else s)
  | r => r

/-! ### Die stewards (R36, R494) -/

/-- A powered die's steward does not answer: one event of an episode, which the die's reset ends. -/
def stewardExpires (s : State) (die : Nat) : State :=
  if (getDie s die).powered ∧ !(getDie s die).hung then
    raiseFault (modDie s die (fun d => { d with hung := true })) (srcSteward die 0)
  else s

/-- STEWARD_WATCHDOG. -/
def execStewardWatchdog (die : Nat) (s : State) : Res :=
  match atUnit "steward" 0 32 die s with
  | .next s => .next (if running s then stewardExpires s die else s)
  | r => r

/-! ### Distaff (R494, R495) -/

/-- The active die's Distaff is lost: the standby takes over, or ERR_N is driven low and held. -/
def activeLost (s : State) : State :=
  if s.module.standby = 2 then oneCycle (failover raiseWith) s
  else settleErr (modModule s (fun m => { m with errHeld := true }))

/-- The Distaff watchdog of a die expires: its event, once per episode; the active die is then lost, unless the
event has made it the standby already. -/
def distaffExpires (s : State) (die : Nat) : State :=
  if s.episodes.contains (die - 30) then s
  else
    let active := die == activeDie s
    let s := raiseFault { s with episodes := insNat s.episodes (die - 30) } (srcDistaff die 0)
    if active && die == activeDie s then activeLost s else s

/-- DISTAFF_WATCHDOG: with `mirror`, the traffic to the standby stops, which raises no event. -/
def execDistaffWatchdog (die : Nat) (mirror : Bool) (s : State) : Res :=
  match atUnit "control die" 30 2 die s with
  | .next s =>
    .next (if !running s then s
      else if mirror then (if die = activeDie s then activeLost s else s)
      else distaffExpires s die)
  | r => r

/-! ### Suppressed events and the pulse (R491, R493) -/

/-- The millisecond of a source's last record ends. -/
def windowEnds (s : State) (source : Nat) : State :=
  match mapFind s.windows source with
  | none => s
  | some w =>
    match w.last with
    | none => { s with windows := mapDel s.windows source }
    | some r =>
      keepRecord { s with windows := mapIns s.windows source { count := 0, last := none } }
        { r with suppressed := w.count - 1 }

/-- SUPPRESSED_RECORD. -/
def execSuppressedRecord (source : Nat) (s : State) : Res := .next (if running s then windowEnds s source else s)

/-- PULSE_END. -/
def execPulseEnd (s : State) : Res :=
  .next (if running s ∧ s.module.pulse then settleErr (modModule s (fun m => { m with pulse := false })) else s)

end Sys2Proof.Machine
end

