-- ==== Sys2Proof/Machine/Dispatch.lean ====
section
/-! DEFINITION. One arm per command: its meaning, or its rejection by name. -/

namespace Sys2Proof.Machine

def exec (i : Instr) (s : State) : Host.Outcome State Fault Refusal :=
  match i with
  | .regRead tag addr count => Sys2Proof.Machine.execRegRead tag addr count s
  | .regWrite tag addr value mask => Sys2Proof.Machine.execRegWrite tag addr value mask s
  | .hankOpen tag desc => Sys2Proof.Machine.execHankOpen tag desc s
  | .hankClose tag hank => Sys2Proof.Machine.execHankClose tag hank s
  | .hankQuery tag hank => Sys2Proof.Machine.execHankQuery tag hank s
  | .caravanOpen tag caravan ingress egress feidLo feidHi rate => Sys2Proof.Machine.execCaravanOpen tag caravan ingress egress feidLo feidHi rate s
  | .caravanClose tag caravan => Sys2Proof.Machine.execCaravanClose tag caravan s
  | .progLoad tag first count buffer length => Sys2Proof.Machine.execProgLoad tag first count buffer length s
  | .progStart tag first count => Sys2Proof.Machine.execProgStart tag first count s
  | .stepCommit tag job step attempt => Sys2Proof.Machine.execStepCommit tag job step attempt s
  | .stepAbort tag job step attempt => Sys2Proof.Machine.execStepAbort tag job step attempt s
  | .powerSet tag target state freq => Sys2Proof.Machine.execPowerSet tag target state freq s
  | .opPoll tag handle => Sys2Proof.Machine.execOpPoll tag handle s
  | .opCancel tag handle => Sys2Proof.Machine.execOpCancel tag handle s
  | .tableLoad tag kind buffer length arg => Sys2Proof.Machine.execTableLoad tag kind buffer length arg s
  | .routeSwap tag => Sys2Proof.Machine.execRouteSwap tag s
  | .scrub tag die channel firstPage pageCount => Sys2Proof.Machine.execScrub tag die channel firstPage pageCount s
  | .retire tag die kind number page => Sys2Proof.Machine.execRetire tag die kind number page s
  | .tierMigrate tag src dst length mode => Sys2Proof.Machine.execTierMigrate tag src dst length mode s
  | .contextSave tag first count handle step => Sys2Proof.Machine.execContextSave tag first count handle step s
  | .contextRestore tag first count handle => Sys2Proof.Machine.execContextRestore tag first count handle s
  | .spareSwap tag die localIndex => Sys2Proof.Machine.execSpareSwap tag die localIndex s
  | .portDrain tag die port timeoutUs => Sys2Proof.Machine.execPortDrain tag die port timeoutUs s
  | .laneRecal tag die lane => Sys2Proof.Machine.execLaneRecal tag die lane s
  | .fwStage tag die buffer length => Sys2Proof.Machine.execFwStage tag die buffer length s
  | .opStep units ok => Sys2Proof.Machine.execOpStep units ok s
  | .debugOpen tag level dies token => Sys2Proof.Machine.execDebugOpen tag level dies token s
  | .zeroisation => Sys2Proof.Machine.execZeroisation s
  | .debugClose tag => Sys2Proof.Machine.execDebugClose tag s
  | .debugEngineHalt tag die slot engine => Sys2Proof.Machine.execDebugEngineHalt tag die slot engine s
  | .debugEngineRelease tag die slot engine => Sys2Proof.Machine.execDebugEngineRelease tag die slot engine s
  | .debugRead tag space die slot address length => Sys2Proof.Machine.execDebugRead tag space die slot address length s
  | .debugWrite tag space die slot address length data => Sys2Proof.Machine.execDebugWrite tag space die slot address length data s
  | .flagSet tag die slot number => Sys2Proof.Machine.execFlagSet tag die slot number s
  | .flagClear tag die slot number => Sys2Proof.Machine.execFlagClear tag die slot number s
  | .barchanArrive tag die slot number participant => Sys2Proof.Machine.execBarchanArrive tag die slot number participant s
  | .barchanRelease tag die slot number => Sys2Proof.Machine.execBarchanRelease tag die slot number s
  | .barchanClear tag die slot number => Sys2Proof.Machine.execBarchanClear tag die slot number s
  | .faultRead tag first count => Sys2Proof.Machine.execFaultRead tag first count s
  | .attestReport tag nonce => Sys2Proof.Machine.execAttestReport tag nonce s
  | .infoRead tag => Sys2Proof.Machine.execInfoRead tag s
  | .addKey tag => Sys2Proof.Machine.execAddKey tag s
  | .revokeKey tag => Sys2Proof.Machine.execRevokeKey tag s
  | .deploy tag => Sys2Proof.Machine.execDeploy tag s
  | .secReturn tag => Sys2Proof.Machine.execSecReturn tag s
  | .raiseSvn tag => Sys2Proof.Machine.execRaiseSvn tag s
  | .force tag die value mask => Sys2Proof.Machine.execForce tag die value mask s
  | .dieReboot tag die value mask => Sys2Proof.Machine.execDieReboot tag die value mask s
  | .unitRelease tag die value mask => Sys2Proof.Machine.execUnitRelease tag die value mask s
  | .hold tag die value mask => Sys2Proof.Machine.execHold tag die value mask s
  | .poolConfig tag die pool reg value mask => Sys2Proof.Machine.execPoolConfig tag die pool reg value mask s
  | .barchanMembers tag die slot b value mask => Sys2Proof.Machine.execBarchanMembers tag die slot b value mask s
  | .pageQuery tag die value mask => Sys2Proof.Machine.execPageQuery tag die value mask s
  | .replRangeCtrl tag die n reg value mask => Sys2Proof.Machine.execReplRangeCtrl tag die n reg value mask s
  | .edgeRole tag die value mask => Sys2Proof.Machine.execEdgeRole tag die value mask s
  | .portCtrl tag die port value mask => Sys2Proof.Machine.execPortCtrl tag die port value mask s
  | .command w0 w1 w2 w3 payload => Sys2Proof.Machine.execCommand w0 w1 w2 w3 payload s
  | .bulk w0 w1 w2 w3 payload => Sys2Proof.Machine.execBulk w0 w1 w2 w3 payload s
  | .linkFrameHello w0 w1 w2 w3 payload => Sys2Proof.Machine.execLinkFrameHello w0 w1 w2 w3 payload s
  | .linkFrameAck w0 w1 w2 w3 => Sys2Proof.Machine.execLinkFrameAck w0 w1 w2 w3 s
  | .linkFrameNak w0 w1 w2 w3 => Sys2Proof.Machine.execLinkFrameNak w0 w1 w2 w3 s
  | .linkFrameAlign w0 w1 w2 w3 => Sys2Proof.Machine.execLinkFrameAlign w0 w1 w2 w3 s
  | .resendTimeout long => Sys2Proof.Machine.execResendTimeout long s
  | .linkUpLimit => Sys2Proof.Machine.execLinkUpLimit s
  | .commandTimeout tag => Sys2Proof.Machine.execCommandTimeout tag s
  | .headerFlit port h => Sys2Proof.Machine.execHeaderFlit port h s
  | .frameStart port word => Sys2Proof.Machine.execFrameStart port word s
  | .frameEnd port word flits => Sys2Proof.Machine.execFrameEnd port word flits s
  | .credit port word => Sys2Proof.Machine.execCredit port word s
  | .linkWordAck port word => Sys2Proof.Machine.execLinkWordAck port word s
  | .linkWordNak port word => Sys2Proof.Machine.execLinkWordNak port word s
  | .replayTimeout port => Sys2Proof.Machine.execReplayTimeout port s
  | .align port lane word => Sys2Proof.Machine.execAlign port lane word s
  | .hello port word => Sys2Proof.Machine.execHello port word s
  | .laneDrop port word => Sys2Proof.Machine.execLaneDrop port word s
  | .laneAdd port word => Sys2Proof.Machine.execLaneAdd port word s
  | .recalReq port word => Sys2Proof.Machine.execRecalReq port word s
  | .laneDropTimeout port => Sys2Proof.Machine.execLaneDropTimeout port s
  | .lockLoss die lane cw => Sys2Proof.Machine.execLockLoss die lane cw s
  | .trainingLimit port => Sys2Proof.Machine.execTrainingLimit port s
  | .creditStall port vc => Sys2Proof.Machine.execCreditStall port vc s
  | .routeFetch port vc => Sys2Proof.Machine.execRouteFetch port vc s
  | .rankFetch port vc => Sys2Proof.Machine.execRankFetch port vc s
  | .rankWaitTimeout port vc => Sys2Proof.Machine.execRankWaitTimeout port vc s
  | .planeRoute link vc => Sys2Proof.Machine.execPlaneRoute link vc s
  | .planeCredit plane link vc => Sys2Proof.Machine.execPlaneCredit plane link vc s
  | .schedule plane output => Sys2Proof.Machine.execSchedule plane output s
  | .wadiMove plane output vc => Sys2Proof.Machine.execWadiMove plane output vc s
  | .egressArbitration port => Sys2Proof.Machine.execEgressArbitration port s
  | .shaperRefill port => Sys2Proof.Machine.execShaperRefill port s
  | .outputStall plane output => Sys2Proof.Machine.execOutputStall plane output s
  | .get die => Sys2Proof.Machine.execGet die s
  | .put die => Sys2Proof.Machine.execPut die s
  | .bulkPut die => Sys2Proof.Machine.execBulkPut die s
  | .addExact die => Sys2Proof.Machine.execAddExact die s
  | .fetchAdd die => Sys2Proof.Machine.execFetchAdd die s
  | .atomMax die => Sys2Proof.Machine.execAtomMax die s
  | .atomMin die => Sys2Proof.Machine.execAtomMin die s
  | .cas die => Sys2Proof.Machine.execCas die s
  | .alloc die => Sys2Proof.Machine.execAlloc die s
  | .free die => Sys2Proof.Machine.execFree die s
  | .putFwd die => Sys2Proof.Machine.execPutFwd die s
  | .atomicFwd die => Sys2Proof.Machine.execAtomicFwd die s
  | .replTimeout die range => Sys2Proof.Machine.execReplTimeout die range s
  | .signal die => Sys2Proof.Machine.execSignal die s
  | .bulkSignal die => Sys2Proof.Machine.execBulkSignal die s
  | .countedWrite counter => Sys2Proof.Machine.execCountedWrite counter s
  | .fire counter => Sys2Proof.Machine.execFire counter s
  | .signalTimeout counter => Sys2Proof.Machine.execSignalTimeout counter s
  | .getData die => Sys2Proof.Machine.execGetData die s
  | .ack die => Sys2Proof.Machine.execAck die s
  | .atomicRsp die => Sys2Proof.Machine.execAtomicRsp die s
  | .contrib die => Sys2Proof.Machine.execContrib die s
  | .tallyUp die => Sys2Proof.Machine.execTallyUp die s
  | .chunkNotice die => Sys2Proof.Machine.execChunkNotice die s
  | .result die => Sys2Proof.Machine.execResult die s
  | .arrive die => Sys2Proof.Machine.execArrive die s
  | .release die => Sys2Proof.Machine.execRelease die s
  | .hankBurst spindle => Sys2Proof.Machine.execHankBurst spindle s
  | .chunkTimeout hank slot => Sys2Proof.Machine.execChunkTimeout hank slot s
  | .roundTimeout hank round => Sys2Proof.Machine.execRoundTimeout hank round s
  | .exchangeSend hank => Sys2Proof.Machine.execExchangeSend hank s
  | .nop die slot engine => Sys2Proof.Machine.execNop die slot engine s
  | .j die slot engine => Sys2Proof.Machine.execJ die slot engine s
  | .whorl die slot engine => Sys2Proof.Machine.execWhorl die slot engine s
  | .halt die slot engine => Sys2Proof.Machine.execHalt die slot engine s
  | .sLi die slot engine => Sys2Proof.Machine.execSLi die slot engine s
  | .sOp die slot engine => Sys2Proof.Machine.execSOp die slot engine s
  | .aSet die slot engine => Sys2Proof.Machine.execASet die slot engine s
  | .syncRaise die slot engine => Sys2Proof.Machine.execSyncRaise die slot engine s
  | .syncWait die slot engine => Sys2Proof.Machine.execSyncWait die slot engine s
  | .barArrive die slot engine => Sys2Proof.Machine.execBarArrive die slot engine s
  | .barWait die slot engine => Sys2Proof.Machine.execBarWait die slot engine s
  | .raise spindle => Sys2Proof.Machine.execRaise spindle s
  | .barchanArrival die => Sys2Proof.Machine.execBarchanArrival die s
  | .furtherRelease die slot b => Sys2Proof.Machine.execFurtherRelease die slot b s
  | .inGet die slot engine => Sys2Proof.Machine.execInGet die slot engine s
  | .inCopy die slot engine => Sys2Proof.Machine.execInCopy die slot engine s
  | .inFill die slot engine => Sys2Proof.Machine.execInFill die slot engine s
  | .inPush die slot engine => Sys2Proof.Machine.execInPush die slot engine s
  | .vLd die slot engine => Sys2Proof.Machine.execVLd die slot engine s
  | .vSt die slot engine => Sys2Proof.Machine.execVSt die slot engine s
  | .vPush die slot engine => Sys2Proof.Machine.execVPush die slot engine s
  | .vPop die slot engine => Sys2Proof.Machine.execVPop die slot engine s
  | .vAdd die slot engine => Sys2Proof.Machine.execVAdd die slot engine s
  | .vMul die slot engine => Sys2Proof.Machine.execVMul die slot engine s
  | .vMax die slot engine => Sys2Proof.Machine.execVMax die slot engine s
  | .vMin die slot engine => Sys2Proof.Machine.execVMin die slot engine s
  | .vCvt die slot engine => Sys2Proof.Machine.execVCvt die slot engine s
  | .vFma die slot engine => Sys2Proof.Machine.execVFma die slot engine s
  | .vExp die slot engine => Sys2Proof.Machine.execVExp die slot engine s
  | .vRcp die slot engine => Sys2Proof.Machine.execVRcp die slot engine s
  | .vSqrt die slot engine => Sys2Proof.Machine.execVSqrt die slot engine s
  | .vCard die slot engine => Sys2Proof.Machine.execVCard die slot engine s
  | .mmClr die slot engine => Sys2Proof.Machine.execMmClr die slot engine s
  | .mmT die slot engine => Sys2Proof.Machine.execMmT die slot engine s
  | .mmSt die slot engine => Sys2Proof.Machine.execMmSt die slot engine s
  | .accX die slot engine => Sys2Proof.Machine.execAccX die slot engine s
  | .accC die slot engine => Sys2Proof.Machine.execAccC die slot engine s
  | .accR die slot engine => Sys2Proof.Machine.execAccR die slot engine s
  | .sortK die slot engine => Sys2Proof.Machine.execSortK die slot engine s
  | .topkK die slot engine => Sys2Proof.Machine.execTopkK die slot engine s
  | .filt die slot engine => Sys2Proof.Machine.execFilt die slot engine s
  | .compact die slot engine => Sys2Proof.Machine.execCompact die slot engine s
  | .tileExp die slot engine => Sys2Proof.Machine.execTileExp die slot engine s
  | .tileCmp die slot engine => Sys2Proof.Machine.execTileCmp die slot engine s
  | .padC die slot engine => Sys2Proof.Machine.execPadC die slot engine s
  | .outPut die slot engine => Sys2Proof.Machine.execOutPut die slot engine s
  | .outDrain die slot engine => Sys2Proof.Machine.execOutDrain die slot engine s
  | .outAtom die slot engine => Sys2Proof.Machine.execOutAtom die slot engine s
  | .outSig die slot engine => Sys2Proof.Machine.execOutSig die slot engine s
  | .outFence die slot engine => Sys2Proof.Machine.execOutFence die slot engine s
  | .landing die slot engine => Sys2Proof.Machine.execLanding die slot engine s
  | .engineQueueWatchdog die slot engine => Sys2Proof.Machine.execEngineQueueWatchdog die slot engine s
  | .stewardWatchdog die => Sys2Proof.Machine.execStewardWatchdog die s
  | .stepWatchdog opSlot => Sys2Proof.Machine.execStepWatchdog opSlot s
  | .distaffWatchdog die mirror => Sys2Proof.Machine.execDistaffWatchdog die mirror s
  | .resynchronise => Sys2Proof.Machine.execResynchronise s
  | .suppressedRecord source => Sys2Proof.Machine.execSuppressedRecord source s
  | .pulseEnd => Sys2Proof.Machine.execPulseEnd s
  | .lifetime => Sys2Proof.Machine.execLifetime s
  | .thermal die temp => Sys2Proof.Machine.execThermal die temp s
  | .relock die => Sys2Proof.Machine.execRelock die s
  | .bringupPhase failed => Sys2Proof.Machine.execBringupPhase failed s
  | .bringupLimit failed => Sys2Proof.Machine.execBringupLimit failed s
  | .rebootPhase ok => Sys2Proof.Machine.execRebootPhase ok s
  | .powerRemoval => Sys2Proof.Machine.execPowerRemoval s
  | .pwrEnLow => Sys2Proof.Machine.execPwrEnLow s
  | .pwrEnRising => Sys2Proof.Machine.execPwrEnRising s
  | .rstNLow => Sys2Proof.Machine.execRstNLow s
  | .rstNRising => Sys2Proof.Machine.execRstNRising s
  | .inputLoss => Sys2Proof.Machine.execInputLoss s
  | .inputRestore => Sys2Proof.Machine.execInputRestore s
  | .controlLaneLockLoss lane => Sys2Proof.Machine.execControlLaneLockLoss lane s
  | .fecLock => Sys2Proof.Machine.execFecLock s
  | .signalDetect port lane => Sys2Proof.Machine.execSignalDetect port lane s
  | .equalisationComplete port lane => Sys2Proof.Machine.execEqualisationComplete port lane s
  | .degradeThreshold die lane => Sys2Proof.Machine.execDegradeThreshold die lane s
  | .clockLock die => Sys2Proof.Machine.execClockLock die s

end Sys2Proof.Machine
end

