-- ==== Sys2Proof/Safety.lean ====
section
/-! DEFINITION. The terms the claims are stated in: what a sound state is. -/

namespace Sys2Proof.Machine

/-- The module's codes stay within what R436, R446, R449 and R15 give them: a module state, a bring-up phase, a standby
state, and one of the two control dies active. -/
def Module.legal (m : Module) : Prop :=
  (m.activeKd = 30 ∨ m.activeKd = 31) ∧ m.state ≤ 4 ∧ m.phase ≤ 6 ∧ m.standby ≤ 2

/-- A spindle is held in its canonical form: its local store and its list of engines are canonical. -/
def Spindle.canonical (sp : Spindle) : Prop := memWf sp.ls = true ∧ mapWf Engine.init sp.engines = true

/-- The list of spindles is canonical, and so is each spindle in it. -/
def storesCanonical (l : SMap Spindle) : Prop := mapWf Spindle.init l = true ∧ ∀ e ∈ l, e.2.canonical

/-- A sound state: legal module codes, every memory canonical (Erg memory, staging buffers, local stores) and
the lists of spindles and engines canonical, at most the last 4,096 fault records (R490) and the last 1,024 commands (R418). -/
structure Sound (s : State) : Prop where
  module : s.module.legal
  erg : memWf s.erg.mem = true
  staging : memWf s.staging = true
  stores : storesCanonical s.spindles
  records : s.records.length ≤ 4096
  remembered : s.cp.remembered.length ≤ 1024

/-! ### Commands of the control node (R415-R418, R438, R477, R478) -/

/-- A command of this TAG, sent once, passes orders 1 to 6 of R416 and the module state refuses nothing: the link is UP,
bring-up is past B6, fewer than 64 commands wait, the TAG is new, the module is in QUIET, READY or ACTIVE, nothing is
being zeroised, no D3 session is open, and every steward answers. -/
def accepts (s : State) (tag : Nat) : Bool :=
  listens s && decide (6 ≤ s.module.phase) && decide (awaitingCount s < 64) && (findRemembered s tag).isNone
    && !s.sec.zeroising && decide (2 ≤ s.module.state) && !d3Open s && (upTo 0 32).all (fun d => !(getDie s d).hung)

/-- The state with a command noted as taken and not yet answered. -/
def noted (s : State) (tag opcode : Nat) : State :=
  modCp s (fun p => { p with remembered := rememberNew tag opcode p.remembered })

/-- Going from s to t the control port has answered one command: the outcome is remembered under its TAG, its RESPONSE
frame waits or has been sent, and of the control port only what waits, what is unacknowledged, the next SEQ and the
remembered outcomes have changed. -/
structure Replies (s t : State) (tag opcode status : Nat) (payload : List Byte) : Prop where
  outcome : findRemembered t tag = some { tag := tag, opcode := opcode, done := some (status, payload) }
  frame : { type := 2, tag := BitVec.ofNat 32 tag, opcode := BitVec.ofNat 16 opcode, status := BitVec.ofNat 8 status,
            payload := payload } ∈ t.cp.queue ++ t.cp.unacked.map (fun e => e.2.1)
  port : t.cp = { s.cp with queue := t.cp.queue, unacked := t.cp.unacked, txNext := t.cp.txNext,
                            remembered := t.cp.remembered }
  log : s.out <+: t.out

/-- Going from s to t a command has been answered OK with these result words, and besides the control port and the log
t is u, which says what else the command has changed in s. -/
structure Done (s u t : State) (tag opcode : Nat) (result : List Word) : Prop where
  replies : Replies s t tag opcode stOk (wordsBytes result)
  frame : t = { u with cp := t.cp, out := t.out }

/-- Going from s to t a command has been turned away: a RESPONSE says so, the command is not remembered, and besides the
control port's waiting and unacknowledged frames and the log nothing has changed. -/
structure TurnedAway (s t : State) (tag opcode status : Nat) (payload : List Byte) : Prop where
  reply : { type := 2, tag := BitVec.ofNat 32 tag, opcode := BitVec.ofNat 16 opcode, status := BitVec.ofNat 8 status,
            payload := payload } ∈ t.cp.queue ++ t.cp.unacked.map (fun e => e.2.1)
  port : t.cp = { s.cp with queue := t.cp.queue, unacked := t.cp.unacked, txNext := t.cp.txNext }
  frame : t = { s with cp := t.cp, out := t.out }

/-- TAG and OPCODE of the rows that stand for a command of R423 whatever their parameters. -/
def commandRow : Instr → Option (Nat × Nat)
  | .regRead tag _ _ => some (tag, 0x10)
  | .regWrite tag _ _ _ => some (tag, 0x11)
  | .hankOpen tag _ => some (tag, 0x20)
  | .hankClose tag _ => some (tag, 0x21)
  | .hankQuery tag _ => some (tag, 0x22)
  | .caravanOpen tag _ _ _ _ _ _ => some (tag, 0x28)
  | .caravanClose tag _ => some (tag, 0x29)
  | .progLoad tag _ _ _ _ => some (tag, 0x30)
  | .progStart tag _ _ => some (tag, 0x31)
  | .stepCommit tag _ _ _ => some (tag, 0x38)
  | .stepAbort tag _ _ _ => some (tag, 0x39)
  | .powerSet tag _ _ _ => some (tag, 0x40)
  | .tableLoad tag _ _ _ _ => some (tag, 0x48)
  | .routeSwap tag => some (tag, 0x48)
  | .scrub tag _ _ _ _ => some (tag, 0x48)
  | .retire tag _ _ _ _ => some (tag, 0x48)
  | .tierMigrate tag _ _ _ _ => some (tag, 0x48)
  | .contextSave tag _ _ _ _ => some (tag, 0x48)
  | .contextRestore tag _ _ _ => some (tag, 0x48)
  | .spareSwap tag _ _ => some (tag, 0x48)
  | .portDrain tag _ _ _ => some (tag, 0x48)
  | .laneRecal tag _ _ => some (tag, 0x48)
  | .fwStage tag _ _ _ => some (tag, 0x48)
  | .opPoll tag _ => some (tag, 0x49)
  | .opCancel tag _ => some (tag, 0x4A)
  | .debugOpen tag _ _ _ => some (tag, 0x50)
  | .debugClose tag => some (tag, 0x51)
  | .debugEngineHalt tag _ _ _ => some (tag, 0x52)
  | .debugEngineRelease tag _ _ _ => some (tag, 0x52)
  | .debugRead tag _ _ _ _ _ => some (tag, 0x53)
  | .debugWrite tag _ _ _ _ _ _ => some (tag, 0x54)
  | .flagSet tag _ _ _ => some (tag, 0x55)
  | .flagClear tag _ _ _ => some (tag, 0x55)
  | .barchanArrive tag _ _ _ _ => some (tag, 0x55)
  | .barchanRelease tag _ _ _ => some (tag, 0x55)
  | .barchanClear tag _ _ _ => some (tag, 0x55)
  | .faultRead tag _ _ => some (tag, 0x60)
  | .attestReport tag _ => some (tag, 0x68)
  | .infoRead tag => some (tag, 0x70)
  | _ => none

/-- The value a write leaves in a register is one that nothing but its storing follows from, and that its defining
chapter does not refuse. -/
def storesOnly (s : State) (r : Reg) (die inst old new mask : Nat) : Bool :=
  match r with
  | .shapeRate => decide (bits new 31 16 ≤ 40000) && decide (bits new 15 0 ≤ 40000)
  | .bufferAlpha => (upTo 0 7).all (fun c => decide (bits new (4 * c + 3) (4 * c) ≤ 10))
  | .slotLimit => decide (bits new 11 0 ≤ 512) && (getSp s (32 * die + inst)).claims == []
      && !spindleRuns s (32 * die + inst)
  | .pageQuery => decide (bits new 15 0 < 49152)
  | .watchdogLimits => limitOk (bits new 31 0) && limitOk (bits new 63 32)
  | .faultSource => decide (bits new 2 0 ≤ 5) && (!bit old 4 || bits new 2 0 == bits old 2 0) && bits mask 31 16 == 0
  | .edgeRole => false
  | .portCtrl => false
  | .sampleCtrl => false
  | .barchanMembers => false
  | .ergConfig => false
  | .replRangeCtrl => false
  | .replRangeBase => false
  | .replRangeLen => false
  | .poolConfig => false
  | .poolCount => false
  | .moduleState => false
  | .unitRelease => false
  | .failoverCtrl => false
  | .dieReboot => false
  | .secRequest => false
  | .errCtrl => false
  | _ => true

/-- A stepped operation has started in going from s: v is s with what the operation's start does besides. The lowest free
slot holds it RUNNING with no unit done, its use count has advanced, and the command is answered OK with the handle. -/
def OpStarted (s v t : State) (tag code total : Nat) (params : List Nat) : Prop :=
  ∃ k, freeSlot s = some k ∧
    ∃ u, u = { v with
        opUses := mapPut s.opUses 0 k (if mapGet s.opUses 0 k + 1 = 2 ^ 26 then 1 else mapGet s.opUses 0 k + 1),
        ops := mapIns s.ops k { code := code, params := params, state := 0, cancelReq := false, status := 0, check := 0,
                                done := 0, total := total, result := [] } } ∧
      Done s u t tag 0x48 [word (mapGet u.opUses 0 k * 64 + k)]

/-- `accepts` for a command that R438 takes in STANDBY: the module state is STANDBY instead. -/
def acceptsStandby (s : State) (tag : Nat) : Bool :=
  listens s && decide (6 ≤ s.module.phase) && decide (awaitingCount s < 64) && (findRemembered s tag).isNone
    && !s.sec.zeroising && s.module.state == 1 && !d3Open s && (upTo 0 32).all (fun d => !(getDie s d).hung)

/-- `accepts` for a command that R478 takes while a D3 session is open. -/
def acceptsInD3 (s : State) (tag : Nat) : Bool :=
  listens s && decide (6 ≤ s.module.phase) && decide (awaitingCount s < 64) && (findRemembered s tag).isNone
    && !s.sec.zeroising && decide (2 ≤ s.module.state) && d3Open s && (upTo 0 32).all (fun d => !(getDie s d).hung)

/-- An event of a source has at most a record for its consequence: its severity is 2 or less (R485, R486). -/
def onlyReports (s : State) (id : Nat) : Bool := decide (fget s .faultSource (id / 2048) 0 (id % 2048) 2 0 ≤ 2)

/-- The event queue has room for `n` more events of the longest kind, or a lost one is only counted (R433). -/
def eventRoom (s : State) (n : Nat) : Bool :=
  decide (eventBytes s.cp + 128 * n ≤ 8 * 2 ^ 20) || decide (severityOf s (srcDistaff (activeDie s) 3) ≤ 1)

/-- `n` more fault records overwrite no unread one, or an overwriting is only counted (R491). -/
def recordRoom (s : State) (n : Nat) : Bool :=
  decide (s.records.length + n ≤ 4096) || decide (s.nextRecord.toNat ≤ s.readUpTo)
    || decide (severityOf s (srcCollector (activeDie s) 0) ≤ 1)

/-- A RESPONSE OK waits or has been sent. -/
def AnswersOk (t : State) (tag opcode : Nat) (result : List Word) : Prop :=
  { type := 2, tag := BitVec.ofNat 32 tag, opcode := BitVec.ofNat 16 opcode, status := 0,
    payload := wordsBytes result } ∈ t.cp.queue ++ t.cp.unacked.map (fun e => e.2.1)

/-- The standby has taken over in going from s to t (R496): it is the active die, is to be resynchronised, and the other
control die is contained; the nonce is new, the debug session is gone, no command waits, each that had no answer is
answered FAULTED with CHECK 0xFFFF, and the control link starts again. Everything that the two control dies do not hold is
as it was, but that a debug hold has ended. -/
structure FailedOver (s t : State) : Prop where
  module : t.module = { s.module with activeKd := 61 - s.module.activeKd, standby := 1, errHeld := false, pulse := true,
                                      errLow := true, failovers := satAdd 32 s.module.failovers 1 }
  sec : t.sec = { s.sec with session := none, zeroising := false, nonce := padTo 32 (Config.noise s.freeCtr) }
  link : t.cp.step = 1 ∧ t.cp.awaiting = []
  lost : ∀ r ∈ s.cp.remembered, r.done = none →
    { type := 2, tag := BitVec.ofNat 32 r.tag, opcode := BitVec.ofNat 16 r.opcode, status := 6,
      payload := failWord 8 0xFFFF 0 } ∈ t.cp.queue
  frame : t = { s with
    module := t.module, sec := t.sec, cp := t.cp, out := t.out, dies := t.dies, regs := t.regs, freeCtr := t.freeCtr,
    records := t.records, nextRecord := t.nextRecord, windows := t.windows,
    episodes := s.episodes.filter (fun e => 2 ≤ e),
    spindles := if s.sec.session.isSome then (releaseHolds s).spindles else s.spindles }

/-! ### Frames of the control port (R406-R414) -/

/-- A source has no check left to inject. -/
def noInjection (s : State) (id : Nat) : Bool := fget s .faultSource (id / 2048) 0 (id % 2048) 31 16 == 0

/-- A numbered frame that passes its check and is next in sequence has been placed: what it acknowledges is released,
the next SEQ is expected, and an ACK that names the frame has been sent. -/
def framePlaced (s : State) (w1 : Word) : State :=
  let a := cpAcked s (w1.extractLsb' 32 32)
  { a with cp := { a.cp with rxNext := s.cp.rxNext + 1, placed := true },
           out := a.out ++ [cpLinkOut (word s.cp.rxNext.toNat) 2 0 []] }

/-- Rows of the table as OPCODE and parameter words of their COMMAND frame (R423), for some of them. -/
def framesOf (tag a b c d : Nat) : List (Nat × List Nat × Instr) :=
  [(0x10, [a, b], .regRead tag a b), (0x11, [a, b, c], .regWrite tag a (word b) (word c)), (0x21, [a], .hankClose tag a),
   (0x22, [a], .hankQuery tag a), (0x29, [a], .caravanClose tag a), (0x30, [a, b, c, d], .progLoad tag a b c d),
   (0x31, [a, b], .progStart tag a b), (0x38, [a, b, c], .stepCommit tag a b c), (0x39, [a, b, c], .stepAbort tag a b c),
   (0x40, [a, b, c], .powerSet tag a b c), (0x48, [1, a, b, c, d], .tableLoad tag a b c d), (0x48, [2], .routeSwap tag),
   (0x48, [3, a, b, c, d], .scrub tag a b c d), (0x48, [4, a, b, c, d], .retire tag a b c d),
   (0x48, [8, a, b], .spareSwap tag a b), (0x49, [a], .opPoll tag a), (0x4A, [a], .opCancel tag a),
   (0x51, [], .debugClose tag), (0x55, [a, b, 1, c, 0], .flagSet tag a b c), (0x55, [a, b, 2, c, 0], .flagClear tag a b c),
   (0x55, [a, b, 3, c, d], .barchanArrive tag a b c d), (0x60, [a, b], .faultRead tag a b), (0x70, [], .infoRead tag)]

/-! ### Power and resets (R436, R443, R445, R454, R458) -/

/-- What fuses and the boot store keep when power goes: no session, no history, no attestation key, no running image. -/
def keptSecurity (c : Security) : Security :=
  { c with session := none, history := 0, zeroising := false, attestKey := none,
           boot := c.boot.map (fun e => (e.1, { e.2 with running := none, bank := 0, verifyFailed := false })) }

/-- Going from s to t every die has lost power: t is the machine after reset but for the queue, what the model counts by
itself, the log, the fuses and the boot store, and the always-on logic (whose part `m` gives), and no die is powered. -/
structure PowerGone (s t : State) (m : Module) : Prop where
  state : t = { State.reset with pending := s.pending, freeCtr := s.freeCtr, nextUid := s.nextUid, out := t.out, dies := t.dies,
                                 cp := ControlPort.init, sec := keptSecurity s.sec, module := m }
  dies : ∀ die, die < 32 → (getDie t die).powered = false
  log : s.out <+: t.out

/-- Going from s to t a cold reset has happened (R445): t is the machine after reset but for what `PowerGone` excepts; the
boot count has advanced, the nonce is new, RESET_CAUSE is `cause`, bring-up is at B0 with its event waiting. -/
structure ColdReset (s t : State) (pwrEn rstN inputOk : Bool) (cause : Nat) : Prop where
  state : t = { State.reset with
    pending := s.pending, freeCtr := s.freeCtr + 2, nextUid := s.nextUid, out := t.out, regs := t.regs,
    cp := { ControlPort.init with queue := t.cp.queue },
    sec := { keptSecurity s.sec with bootCount := s.sec.bootCount + 1, nonce := padTo 32 (Config.noise s.freeCtr) },
    module := { Module.init with pwrEn := pwrEn, rstN := rstN, inputOk := inputOk, resetCause := cause } }
  event : ∃ e, t.cp.queue = [e] ∧ e.type = 3 ∧
    e.payload = wordsBytes [eventWord 30 1 0, Config.freeCycle (s.freeCtr + 1), 0, 0, 0]
  log : s.out <+: t.out

/-- Bring-up is under way. -/
def bringingUp (s : State) : Bool := running s && !s.module.stopped && s.module.state == 1 && decide (s.module.phase < 6)

/-! ### Engines (R211-R218, R243-R262) -/

/-- The engine stands at command word `c` of opcode `op`, which raises no ILLEGAL, its die's clock runs, it is neither
stopped nor held by the debugger, and nothing in flight is due. -/
def standsAt (s : State) (key i op c : Nat) : Bool :=
  let e := getEng s key i
  engineClocked s key && engineActive e && e.faulting.isNone && !(e.state == .held && e.hold == 5) && decide (e.pc < 8192)
    && imemWord (getSp s key) i e.pc == c && opcode c == op && cmdLegal i c && e.flight.all (fun f => decide (e.now < f.due))

/-- Repeat `rep` of `n` of that command comes to issue: it has begun, or its predicate is true and its count is `n`. -/
def comesTo (s : State) (key i op c rep n : Nat) : Bool :=
  let e := getEng s key i
  standsAt s key i op c && e.rep == rep && decide (rep < n)
    && (e.count == some n
      || (e.count.isNone && rep == 0 && predicate e c && repeatCount e c == n && decide (n < 2 ^ 32)))

/-- Nothing keeps the repeat from issuing and it reads nothing early: of the registers it reads (class and number), its
predicate and count registers and the address registers it steps none has a result in flight, none of the local-store
ranges it reads (the exact lanes' own writes left out where the mark says so) has a write in flight, and none of the
ranges it touches is the destination of an outstanding IN.GET. -/
def unhindered (s : State) (key i c : Nat) (reads : List (Nat × Nat)) (lines : List (Nat × Nat × Bool))
    (touches : List (Nat × Nat)) (steps : List Nat) : Bool :=
  let e := getEng s key i
  (readHazards e e.now e.pc ((if e.count.isNone then predReads c ++ countReads c else []) ++ reads
      ++ steps.map (fun a => (1, a)))).isEmpty
    && (lineHazards e e.now e.pc lines).isEmpty && !getOverlap (getSp s key) touches

/-- Address of an address operand: BASE + STRIDE × COUNT (R251). -/
def opdAddr (a : AReg) : Nat := unsigned 64 ((a.base.toNat : Int) + a.stride.toInt * (a.count.toNat : Int))

/-- `n` bytes at an address lie in the program area and the address is aligned. -/
def fits (s : State) (key addr n align : Nat) : Bool := decide (addr + n ≤ areaBytes s key) && addr % align == 0

/-- Handle of a handle operand: the offset moves by STRIDE × COUNT, the region stays (R252). -/
def opdHandle (a : AReg) : Nat := (handleOpd a 0).addr

/-- `n` bytes at a handle operand lie within the region's offsets. -/
def handleFits (a : AReg) (n : Nat) : Bool :=
  let off : Int := (wbits a.base 39 0 : Int) + a.stride.toInt * (a.count.toNat : Int)
  decide (0 ≤ off) && decide (off + n ≤ ((2 ^ 40 : Nat) : Int))

/-- The state with the drain point noted in the PC trace and all that was in flight landed. -/
def drained (s : State) (key i : Nat) : State :=
  modEng (drainAll (traceCmd (beginCycle s key i) key i) key i) key i (fun e => { e with count := some 1, state := .running, hold := 0 })

/-- The engine comes to a drain point for the first time, its predicate is true, nothing it reads is early, and after the
drain no error waits to be raised there. -/
def comesToDrain (s : State) (key i op c : Nat) (outlet : Bool) : Bool :=
  let e := getEng s key i
  standsAt s key i op c && e.count.isNone && predicate e c && (readHazards e e.now e.pc (predReads c)).isEmpty
    && !(getEng (drained s key i) key i).waitBegun && (drainErr (getEng (drained s key i) key i) outlet).isNone

end Sys2Proof.Machine
end

