-- ==== Sys2Proof/Certificates/Slice0/Obligations.lean ====
section
/-! DEFINITION. The statements about the machine for the provers, one `def Obligations.<Name> : Prop` each. A statement's
docstring names the rules of the spec it rests on, or the log entry where it is the model's own choice. -/

open Sys2Proof Sys2Proof.Machine


/-! ### The queue, reset, and what every step keeps -/

/-- The block's own rule (its queue of waiting commands): a step takes the command at the front of the queue and is
that command's effect on the state with the queue's rest. DESIGN CHOICE [12]: with no command waiting the block idles.
-/
def Obligations.StepRunsTheFrontCommand : Prop :=
  (∀ (s : State) (c : Instr) (rest : List Instr), s.pending = c :: rest → step s = exec c { s with pending := rest }) ∧
  (∀ s : State, s.pending = [] → step s = .next s)

/-- Input power has just been applied: the module is at B0 in code 1 with RESET_CAUSE 0 and KD0 active, the lifecycle
state is BLANK, no hank or caravan is open, no fault record is held, no operation runs, no command is remembered, and
both planes hold no image (R16, R445, R449, R451, R524). Registers at reset read what the spec gives them:
BUFFER_GEOMETRY and BUFFER_FREE of a core die, SLOT_LIMIT of every spindle, the first words of the spindle map,
ERR_CTRL's width of 1,000 units with ERR_N low, WATCHDOG_LIMITS, and STEWARD_INFO of every die with its kind and
number (R28, R39, R135, R136, R241, R506, R507). -/
def Obligations.ResetLeavesThePartAtPowerOn : Prop :=
  (let s := State.reset
   s.pending = [] ∧ s.module.state = 1 ∧ s.module.phase = 0 ∧ s.module.resetCause = 0 ∧ s.module.activeKd = 30 ∧
     s.module.errLow = true ∧ s.sec.lifecycle = 0 ∧ s.sec.session = none ∧ s.hanks = [] ∧ s.caravans = [] ∧
     s.records = [] ∧ s.ops = [] ∧ s.cp.remembered = [] ∧ s.cp.step = 1 ∧ s.planeA.active = none ∧ s.planeB.active = none) ∧
  ((∀ die, 8 ≤ die → die < 10 → (readReg State.reset .bufferGeometry die 0 0).1 = 0x16a94001e956c ∧
       (readReg State.reset .bufferFree die 0 0).1 = 0x1e956c001e956c) ∧
     (∀ die slot, 10 ≤ die → die < 26 → slot < 17 → (readReg State.reset .slotLimit die slot 0).1 = 512) ∧
     (∀ die, 10 ≤ die → die < 26 → (readReg State.reset .spindleMap die 0 0).1 = 0x0706050403020100 ∧
       (readReg State.reset .spindleMap die 0 1).1 = 0x0F0E0D0C0B0A0908) ∧
     (∀ die, 30 ≤ die → die < 32 → (readReg State.reset .errCtrl die 0 0).1 = 0x2000003E8 ∧
       (readReg State.reset .watchdogLimits die 0 0).1 = 0x3E8000003E8) ∧
     (∀ die, die < 32 → (readReg State.reset .stewardInfo die 0 0).1 = word (0x100000 + dieKind die * 2 ^ 8 + die)))

/-- The machine after reset is sound. -/
def Obligations.ResetStateIsSound : Prop :=
 Sound State.reset

/-- Headline: whatever command stands at the front, a step that answers a next state keeps the module's codes legal
(R15, R436, R446, R449), every memory canonical, at most 4,096 fault records (R490) and at most 1,024 remembered commands
(R418). -/
def Obligations.EveryStepKeepsTheMachineSound : Prop :=
  ∀ s t : State, Sound s → step s = .next t → Sound t

/-- No command is refused or faults but an event at a unit the part does not have. -/
def Obligations.OnlyAMissingUnitStopsTheBlock : Prop :=
  ∀ s : State, (∃ t, step s = .next t) ∨ ∃ what, step s = .refused (.noSuchUnit what)

/-! ### Taking a command (R416-R418) -/

/-- R416, orders 2, 5 and 6, for every command row: nothing is executed and the TAG is not remembered. A part that is not
powered, or whose control link is not UP, takes no command. -/
def Obligations.CommandsAreTurnedAwayInOrder : Prop :=
  ∀ (s : State) (i : Instr) (tag opcode : Nat), commandRow i = some (tag, opcode) →
    (listens s = false → exec i s = .next s) ∧
    (listens s = true → s.module.phase < 6 →
      ∃ t, exec i s = .next t ∧ TurnedAway s t tag opcode stBringup (failWord 2 0 s.module.phase)) ∧
    (listens s = true → 6 ≤ s.module.phase → 64 ≤ awaitingCount s →
      ∃ t, exec i s = .next t ∧ TurnedAway s t tag opcode stBusy (failWord 5 0 0)) ∧
    (listens s = true → 6 ≤ s.module.phase → awaitingCount s < 64 → (findRemembered s tag).isSome = true →
      ∃ t, exec i s = .next t ∧ TurnedAway s t tag opcode stBadParam (failWord 6 0 0))

/-- `info.read` answers the serial number, format version 1, the active control die and the lifecycle state; `fault.read`
answers OLDEST and NEXT and the records from FIRST, 32 bits of its parameter word, on, and counts them as read; `attest.report` answers the signed report
(R419, R469, R491). -/
def Obligations.InformationIsRead : Prop :=
  ∀ (s : State) (tag : Nat), accepts s tag = true →
    (∃ t, exec (.infoRead tag) s = .next t ∧
      Done s s t tag 0x70 [Config.serial, 1, word s.module.activeKd, word s.sec.lifecycle]) ∧
    (∀ param count, 1 ≤ count → count ≤ 64 →
      let first := param % 2 ^ 32
      ∃ t, exec (.faultRead tag param count) s = .next t ∧
        Done s { s with readUpTo := (recordsFrom s first count).foldl (fun n r => max n (r.seq.toNat + 1)) s.readUpTo } t
          tag 0x60 ([word (oldestRecord s), word s.nextRecord.toNat] ++ (recordsFrom s first count).flatMap recordWords)) ∧
    (∀ (nonce key : List Byte), nonce.length = 32 → s.sec.attestKey = some key →
      ∃ t, exec (.attestReport tag nonce) s = .next t ∧ Replies s t tag 0x68 stOk (attestReport s nonce key) ∧
        t = { s with cp := t.cp, out := t.out })

/-! ### Registers (R420-R422) -/

/-- The access codes of R422, bit by bit: of the bits whose MASK bit is 1 an RW bit takes the VALUE bit and a W1C bit is
cleared when its VALUE bit is 1; every other bit is unaffected. -/
def Obligations.WriteActsOnMaskedBitsByAccessCode : Prop :=
  ∀ (r : Reg) (old value mask i : Nat),
    (mergeWrite r old value mask).testBit i =
      (if mask.testBit i && (regRow r).rw.testBit i then value.testBit i
        else if mask.testBit i && (regRow r).w1c.testBit i && value.testBit i then false
        else old.testBit i)

/-- `reg.read` answers the values of COUNT registers at consecutive offsets of one unit, taken one after another (R421);
of the machine only readings of clocks are taken. A view that D1 grants needs a session that reaches the die, and a
register-file view an engine that does not run (R474). -/
def Obligations.RegisterReadAnswersTheValues : Prop :=
  ∀ (s : State) (tag addr count : Nat) (l : List (Reg × Nat)), accepts s tag = true → 1 ≤ count → count ≤ 64 →
    regsAt (addr % 2 ^ 48) count = some l →
    (l.any (fun r => d1View r.1) = true → debugReaches s 1 (addrDie (addr % 2 ^ 48)) = true) →
    viewBusy s (addr % 2 ^ 48) l = false →
    ∃ t, exec (.regRead tag addr count) s = .next t ∧
      Done s { s with freeCtr := (readRegs s l (addrDie (addr % 2 ^ 48)) (addrInst (addr % 2 ^ 48))).2.freeCtr } t tag 0x10
        (readRegs s l (addrDie (addr % 2 ^ 48)) (addrInst (addr % 2 ^ 48))).1

/-- `reg.write` of a register that has no effect but its contents stores the merged value and changes no other register
and nothing else (R422); where the MASK selects no bit that can be written, the answer is BAD_PARAM and nothing changes. -/
def Obligations.RegisterWriteStoresTheMergedValue : Prop :=
  ∀ (s : State) (tag addr : Nat) (value mask : Word) (r : Reg) (k : Nat), accepts s tag = true →
    decodeAddr (addr % 2 ^ 48) = some (r, k) → (r ≠ .faultSource ∨ bits mask.toNat 31 16 = 0) →
    let die := addrDie (addr % 2 ^ 48)
    let inst := addrInst (addr % 2 ^ 48)
    let old := rget s r die inst k
    let new := mergeWrite r old value.toNat mask.toNat
    (writable r &&& mask.toNat ≠ 0 → storesOnly s r die inst old new mask.toNat = true →
      ∃ t, exec (.regWrite tag addr value mask) s = .next t ∧ Done s (rset s r die inst k new) t tag 0x11 []) ∧
    (writable r &&& mask.toNat = 0 →
      ∃ t, exec (.regWrite tag addr value mask) s = .next t ∧ Replies s t tag 0x11 stBadParam (failWord 8 0 0) ∧
        t = { s with cp := t.cp, out := t.out })

/-! ### Hanks and caravans (R107, R109, R173, R180, R181, R210) -/

/-- `hank.open` of a descriptor that passes checks 1 to 8 of R180 claims its slots and its staging and opens the hank at
round 0 of the base step that R173 gives: the greater of STEP and the step after the committed one (48 bits, R9). -/
def Obligations.HankOpens : Prop :=
  ∀ (s s1 s2 : State) (tag : Nat) (desc : List Byte) (staging : List Word), accepts s tag = true → s.module.state = 4 →
    desc.length = 80 + 8 * (descOf desc).memberCount →
    wbits (wordAt desc 0) 7 0 = 0x10 → descKind (descOf desc) = true → descFields (descOf desc) = true →
    descHandle (descOf desc) = true → descMembers s (descOf desc) = true → descPool s (descOf desc) = true →
    getHank s (descOf desc).hank = none → s.hanks.length < 4096 →
    (∀ i, i < (descOf desc).spindleSpan → logicalAvailable s (((descOf desc).spindleBase + i) % 256) = true) →
    ((descOf desc).syncEn = true → logicalAvailable s (descOf desc).syncSpindle = true) →
    ((descOf desc).type = 5 → barrierCount s (hankDie (descOf desc)) < 256) →
    claimSlots s (descOf desc) (upTo 0 (descOf desc).slotBudget) = some s1 →
    claimBobbins (exchPool (descOf desc))
      (if (descOf desc).type = 6 then (descOf desc).memberCount * stagingPer (descOf desc) else 0) s1 [] = some (staging, s2) →
    ∃ t h, exec (.hankOpen tag desc) s = .next t ∧ Done s (setHank s2 (descOf desc).hank h) t tag 0x20 [] ∧
      h.d = descOf desc ∧ h.current = 0 ∧ h.slots = [] ∧ h.rounds = [] ∧ h.exch.staging = staging ∧
      h.base = (match (getJob s (descOf desc).job).committed with
        | some c => max (descOf desc).step ((c + 1) % 2 ^ 48)
        | none => (descOf desc).step)

/-- `hank.close` of a hank that holds no part of its current round closes it and frees its slots, whose bytes stay in the
local stores (R225), and its staging, whose bobbins are all still allocated (R181); `hank.query` answers the record of R210 and changes nothing; both answer
BAD_PARAM for a hank that is not open, and a close while a part of the current round is held answers BUSY, and neither
then changes anything. `caravan.open` with its parameters in range opens the caravan in both planes and changes nothing else (R107);
`caravan.close` of an open caravan closes it, and every packet that it held goes on as ordinary BLK (R109); of another
it answers BAD_PARAM. -/
def Obligations.HanksCloseAndCaravansOpen : Prop :=
  (∀ (s : State) (tag hank : Nat), accepts s tag = true →
     (∀ h, getHank s hank = some h → (∀ d ∈ hankDies h.d, d < 32) →
       (∀ x, holdsPart h = false →
         h.exch.staging.foldl (fun x w =>
             let y := poolRelease x.2 (exchPool h.d) w ownFeid
             (x.1 && y.1 == stOk, y.2))
           (true, { s with hanks := mapDel s.hanks hank,
                           spindles := mapAll s.spindles Spindle.init (fun key sp =>
                             { dropWork [hank] sp with
                               claims := sp.claims.filter (fun c => c.hank != hank),
                               ls := withSlots s key (sp.claims.filter (fun c => c.hank == hank)) }) }) = (true, x) →
         ∃ t, exec (.hankClose tag hank) s = .next t ∧ Done s x t tag 0x21 []) ∧
       (holdsPart h = true →
         ∃ t, exec (.hankClose tag hank) s = .next t ∧ Replies s t tag 0x21 stBusy (failWord 8 0 0) ∧
           t = { s with cp := t.cp, out := t.out }) ∧
       (∃ t, exec (.hankQuery tag hank) s = .next t ∧ Done s s t tag 0x22 (hankRecord s h))) ∧
     (getHank s hank = none → ∀ i ∈ [Instr.hankClose tag hank, .hankQuery tag hank],
       ∃ t, exec i s = .next t ∧ (∃ opcode, Replies s t tag opcode stBadParam (failWord 8 0 0)) ∧
         t = { s with cp := t.cp, out := t.out })) ∧
  (∀ (s : State) (tag n ingress egress lo hi rate : Nat), accepts s tag = true →
     (caravansExist s = true → n < 256 → ingress < 128 → egress < 128 → ingress ≠ egress → lo ≤ hi → hi ≤ 0xFFFFE →
       1 ≤ rate → reservedSlots s egress + rate ≤ 48 → portUp s ingress = true → portUp s egress = true →
       mapFind s.caravans n = none →
       ∃ t, exec (.caravanOpen tag n ingress egress lo hi rate) s = .next t ∧
         Done s { s with
             caravans := mapIns s.caravans n { ingress := ingress, egress := egress, rate := rate, feidLo := lo, feidHi := hi },
             planeA := { s.planeA with forgotten := s.planeA.forgotten.filter (· != n) },
             planeB := { s.planeB with forgotten := s.planeB.forgotten.filter (· != n) } } t tag 0x28 []) ∧
     ((mapFind s.caravans n).isSome = true →
       let u := everyPkt s (fun k => if k.caravan = some n then { k with caravan := none } else k)
       ∃ t, exec (.caravanClose tag n) s = .next t ∧
         Done s { u with
             caravans := s.caravans.filter (fun e => e.1 != n),
             ports := mapAll u.ports Port.init (fun _ q =>
               { q with caravanUsed := q.caravanUsed.filter (fun e => e.1 != n) }) } t tag 0x29 []) ∧
     (mapFind s.caravans n = none →
       ∃ t, exec (.caravanClose tag n) s = .next t ∧ Replies s t tag 0x29 stBadParam (failWord 8 0 0) ∧
         t = { s with cp := t.cp, out := t.out }))

/-! ### Steps (R198, R199, R201) -/

/-- `step.commit` as R201 answers it, and poison for a committed step. STEP is the 48 low bits of its parameter word
(R13). -/
def Obligations.StepCommits : Prop :=
  ∀ (s : State) (tag job param attempt : Nat), accepts s tag = true → job < 4096 → attempt < 256 →
    let step := param % 2 ^ 48
    (∀ c, (getJob s job).committed = some c → step < c →
      ∃ t, exec (.stepCommit tag job param attempt) s = .next t ∧ Replies s t tag 0x38 stBadParam (failWord 8 1 0) ∧
        t = { s with cp := t.cp, out := t.out }) ∧
    ((∀ c, (getJob s job).committed = some c → c ≤ step) → roundOpen s job step = true →
      ∃ t, exec (.stepCommit tag job param attempt) s = .next t ∧ Replies s t tag 0x38 stBusy (failWord 8 2 0) ∧
        t = { s with cp := t.cp, out := t.out }) ∧
    ((∀ c, (getJob s job).committed = some c → c ≤ step) → roundOpen s job step = false →
      ∃ t, exec (.stepCommit tag job param attempt) s = .next t ∧
        Done s (setJob s job { getJob s job with committed := some step, attempt := attempt }) t tag 0x38 []) ∧
    (∀ c hank h aux reason origin a up, (getJob s job).committed = some c → step ≤ c → getHank s hank = some h →
      h.d.job = job → poison s hank a aux step reason origin up = staleHank s hank)

/-- `step.abort` of the current attempt acts as R198 with REASON COMMAND: the attempt advances modulo 256, every open hank
of the job discards what it holds and takes the base step that REPLAY_FROM gives, and no other hank and no other job
changes; the packets wait at the spindle dies. Of another attempt, or of a step already committed, it is counted in
STALE. Both are answered OK. STEP is the 48 low bits of its parameter word (R13). -/
def Obligations.StepAborts : Prop :=
  ∀ (s : State) (tag job param attempt : Nat), accepts s tag = true → job < 4096 → attempt < 256 →
    let step := param % 2 ^ 48
    (anyPlane s = true → eventRoom s 1 = true → attempt = (getJob s job).attempt → (∀ c, (getJob s job).committed = some c → c < step) →
      ∃ t, exec (.stepAbort tag job param attempt) s = .next t ∧
        Replies { s with cp := { s.cp with lost := t.cp.lost } } t tag 0x39 stOk [] ∧
        t.jobs = mapPut s.jobs Job.init job { getJob s job with attempt := (attempt + 1) % 256 } ∧
        t.hanks = s.hanks.map (fun e => if e.2.d.job = job then (e.1, hankReset (replayFrom s job) 0 e.2) else e) ∧
        t = { s with jobs := t.jobs, hanks := t.hanks, spindles := t.spindles, ready := t.ready, nextUid := t.nextUid,
                     freeCtr := t.freeCtr, dies := t.dies, regs := t.regs, cp := t.cp, out := t.out }) ∧
    ((attempt ≠ (getJob s job).attempt ∨ ∃ c, (getJob s job).committed = some c ∧ step ≤ c) →
      ∃ t, exec (.stepAbort tag job param attempt) s = .next t ∧
        Done s ((jobHanks s job).foldl (fun s h => staleHank s h.d.hank) s) t tag 0x39 [])

/-! ### Programs and power (R285, R286, R439-R444) -/

/-- `prog.load` of an image that passes the checks of R285 loads it into every named spindle as R286 lists, one after
another, and `prog.start` moves every HALTED engine of the named spindles to RUNNING and leaves the others (R423).
Neither changes any other spindle, and nothing else but the loaded engines' exception and slub registers. A loaded
spindle is that of R286: flags clear, barchans as after reset, queues empty, registers of R246, each engine of
ENGINE_MASK HALTED at its ENTRY_PC and every other IDLE, IMAGE_LOADED set with the image's measurement, and the slot
area untouched. -/
def Obligations.ProgramsLoadAndStart : Prop :=
  (∀ (s : State) (tag first count buffer len : Nat), accepts s tag = true → s.module.state = 4 → 1 ≤ count → first + count ≤ 256 →
     (∀ l, first ≤ l → l < first + count → logicalAvailable s l = true) →
     (buffer ≤ 15 → len ≤ 2 ^ 27 → imgNum (staged s buffer 0 len) 4 1 = 0x10 →
       imageOk (staged s buffer 0 len) len (((upTo first count).map (programBytes s)).foldl min 0x300000) = true →
       (∀ l, first ≤ l → l < first + count → spindleActive s (spindleOf s l) = false) →
       ∃ t, exec (.progLoad tag first count buffer len) s = .next t ∧
         Done s ((upTo first count).foldl (fun s l =>
           clearChecks (modSp s (spindleOf s l) (loadedSpindle (staged s buffer 0 len) (programBytes s l))) (spindleOf s l)) s)
           t tag 0x30 []) ∧
     (∃ t, exec (.progStart tag first count) s = .next t ∧
       Done s ((namedSpindles s first count).foldl (fun s key => modSp s key (fun sp =>
         { sp with engines := mapAll sp.engines Engine.init (fun _ e =>
                     if e.state = .halted then { e with state := .running, hold := 0 } else e) })) s) t tag 0x31 [])) ∧
  (∀ (m : List Host.Cell) (area : Nat) (sp : Spindle),
     (loadedSpindle m area sp).flags = 0 ∧ (loadedSpindle m area sp).clearing = 0 ∧ (loadedSpindle m area sp).barchans = [] ∧ (loadedSpindle m area sp).queues = [] ∧
     (loadedSpindle m area sp).imageLoaded = true ∧ (loadedSpindle m area sp).measurement = memRead m 32 64 ∧
     (loadedSpindle m area sp).claims = sp.claims ∧ (loadedSpindle m area sp).work = sp.work ∧
     (∀ e, e < 4 → spEngine (loadedSpindle m area sp) e =
       (if bit (imgMask m) e
         then { Engine.init with state := .halted, pc := imgEntry m e, reqNumber := (spEngine sp e).reqNumber,
                                 trace := (spEngine sp e).trace }
         else { Engine.init with state := .idle, reqNumber := (spEngine sp e).reqNumber, trace := (spEngine sp e).trace })) ∧
     (memWf m = true → memWf sp.ls = true → imageOk m (imgNum m 8 4) area = true → ∀ a, area ≤ a →
       memByte (loadedSpindle m area sp).ls a = memByte sp.ls a))

/-- `power.set` of the module (R440, R442, R443): from ACTIVE to READY it parks every LIVE spindle, when no hank is
open and no engine runs; from READY to ACTIVE it makes LIVE every mapped spindle that is not contained; OFF is answered, and power is then to be removed; the present state is answered OK and nothing changes;
and a transition that R442 does not permit answers BUSY with CHECK 3 and nothing changes. `power.set` of a unit
(R439-R441, R444): a LIVE spindle whose engines are IDLE or HALTED and of which no granule is claimed is parked, and a
PARKED one that the map uses becomes LIVE in ACTIVE, everything in it kept; a LIVE stack or device of the Erg is
parked with those of its channels that are LIVE; a spindle die's new frequency starts a relock, and the command is
answered only when that completes. -/
def Obligations.PowerStatesChange : Prop :=
  (∀ (s : State) (tag : Nat), accepts s tag = true →
     (s.module.state = 4 → s.module.stopHeld = false → s.hanks = [] → enginesRun s = false →
       ∃ t, exec (.powerSet tag moduleTarget 3 0) s = .next t ∧
         Done s { s with units := mapAll s.units .parked (fun k u => if keyCls k = 0x10 ∧ u = .live then .parked else u),
                         module := { s.module with state := 3 } } t tag 0x40 []) ∧
     (s.module.state = 3 → s.module.stopHeld = false →
       ∃ t, exec (.powerSet tag moduleTarget 4 0) s = .next t ∧
         Done s { s with units := (liveSpindles s).units, module := { s.module with state := 4 } } t tag 0x40 []) ∧
     (s.module.state ≤ 4 → s.sec.session = none →
       ∃ t, exec (.powerSet tag moduleTarget 0 0) s = .next t ∧
         Done s { s with module := { s.module with offPending := true } } t tag 0x40 []) ∧
     (s.module.state ≤ 4 →
       ∃ t, exec (.powerSet tag moduleTarget s.module.state 0) s = .next t ∧ Done s s t tag 0x40 []) ∧
     (∀ st, 1 ≤ st → st ≤ 4 → st ≠ s.module.state → moduleRefused s st = true →
       ∃ t, exec (.powerSet tag moduleTarget st 0) s = .next t ∧ Replies s t tag 0x40 stBusy (failWord 8 3 0) ∧
         t = { s with cp := t.cp, out := t.out })) ∧
  (∀ (s : State) (tag : Nat), accepts s tag = true →
     (∀ die slot, 10 ≤ die → die < 26 → slot < 17 → unitState s die 0x10 slot = .live → (getDie s die).contained = false →
       (logicalOf s (32 * die + slot)).isSome = true → opOnUnit s die 0x10 slot = false →
       spindleRuns s (32 * die + slot) = false → (getSp s (32 * die + slot)).claims = [] →
       ∃ t, exec (.powerSet tag (unitAddr die 0x10 slot) 0 0) s = .next t ∧
         Done s (setUnit s die 0x10 slot .parked) t tag 0x40 []) ∧
     (∀ die slot, 10 ≤ die → die < 26 → slot < 17 → unitState s die 0x10 slot = .parked → (getDie s die).contained = false →
       (logicalOf s (32 * die + slot)).isSome = true → opOnUnit s die 0x10 slot = false → s.module.state = 4 →
       ∃ t, exec (.powerSet tag (unitAddr die 0x10 slot) 1 0) s = .next t ∧
         Done s (setUnit s die 0x10 slot .live) t tag 0x40 []) ∧
     (∀ die cls k, 26 ≤ die → die < 30 → (cls = 0x1A ∧ k < 2) ∨ (cls = 0x1B ∧ k < 3) → unitState s die cls k = .live →
       (getDie s die).contained = false → deviceRetired s die cls k = false → opOnUnit s die cls k = false →
       ∃ t, exec (.powerSet tag (unitAddr die cls k) 0 0) s = .next t ∧
         Done s (moveUnits (setUnit s die cls k .parked) die 0x19 .live .parked (deviceChannels cls k)) t tag 0x40 []) ∧
     (∀ die freq, 10 ≤ die → die < 26 → 800 ≤ freq → freq ≤ 1700 → freq % 25 = 0 → (getDie s die).contained = false →
       unitState s die 0x00 0 ≠ .contained → fget s .dieClock die 0 0 15 0 ≠ freq → opOnUnit s die 0x00 0 = false →
       exec (.powerSet tag (unitAddr die 0x00 0) 1 freq) s =
         .next { noted s tag 0x40 with
           dies := mapPut s.dies Die.init die { getDie s die with relock := some freq },
           cp := { (noted s tag 0x40).cp with awaiting := s.cp.awaiting ++ [.relock tag die] } }))

/-! ### Stepped operations (R425-R430) -/

/-- `op.start` of a table load, a route swap or firmware staging: the operation runs, with its units of work, once its
parameters are legal and its targets free (R429, R86, R87, R466). A route load empties the shadow banks it will write.
`op.start` of SCRUB, RETIRE and TIER_MIGRATE (R365, R371, R372). `op.start` of CONTEXT_SAVE, CONTEXT_RESTORE,
SPARE_SWAP, PORT_DRAIN and LANE_RECAL (R236, R238, R401, R499). A drain stops the return of credits to the partner. -/
def Obligations.OperationsStart : Prop :=
  (∀ (s : State) (tag buffer len arg : Nat), accepts s tag = true → (freeSlot s).isSome = true → buffer ≤ 15 →
     len ≤ 2 ^ 27 →
     (arg ≤ 15 → len = 4194816 → imageCheck s buffer arg = 0 → targetsBusy s (opTargets s 1 [1, buffer, len, arg]) = false →
       ∃ t, exec (.tableLoad tag 1 buffer len arg) s = .next t ∧
         OpStarted s (beginRoute arg s) t tag 1 ((len + (if arg = 0xF then 0 else 2097216) + 4095) / 4096)
           [1, buffer, len, arg]) ∧
     (arg < 4096 → len % 4 = 0 → len ≤ 1048576 → ∀ u v, placeTable s ((len / 4 + 1023) / 1024) = some (u, v) →
       targetsBusy s (opTargets s 1 [2, buffer, len, arg]) = false →
       ∃ t, exec (.tableLoad tag 2 buffer len arg) s = .next t ∧
         OpStarted s { s with freeCtr := s.freeCtr + 1 } t tag 1 ((len + 4095) / 4096) [2, buffer, len, arg, u]) ∧
     (0 < len → len % 64 = 0 → arg + len / 64 ≤ 65536 → targetsBusy s (opTargets s 1 [3, buffer, len, arg]) = false →
       ∃ t, exec (.tableLoad tag 3 buffer len arg) s = .next t ∧
         OpStarted s s t tag 1 ((len + 4095) / 4096) [3, buffer, len, arg]) ∧
     (0 < len → ergRange s arg len = true → targetsBusy s (opTargets s 1 [4, buffer, len, arg]) = false →
       ∃ t, exec (.tableLoad tag 4 buffer len arg) s = .next t ∧
         OpStarted s s t tag 1 (pieces (hndOffset (word arg)) len).length [4, buffer, len, arg]) ∧
     (shadowLoaded s = true → targetsBusy s (opTargets s 2 []) = false →
       ∃ t, exec (.routeSwap tag) s = .next t ∧ OpStarted s s t tag 2 1 []) ∧
     (∀ die, die ≤ 31 → 385 ≤ len → len ≤ 384 + 2 ^ 26 → targetsBusy s (opTargets s 11 [die, buffer, len]) = false →
       ∃ t, exec (.fwStage tag die buffer len) s = .next t ∧
         OpStarted s s t tag 11 ((len + 4095) / 4096) [die, buffer, len])) ∧
  (∀ (s : State) (tag : Nat), accepts s tag = true → (freeSlot s).isSome = true →
     (∀ die ch first count, scrubLegal die ch first count = true → (ch ≠ 255 → channelLive s die ch = true) →
       0 < (scrubPages ch first count (liveChannels s die)).length →
       targetsBusy s (opTargets s 3 [die, ch, first, count, liveChannels s die]) = false →
       ∃ t, exec (.scrub tag die ch first count) s = .next t ∧
         OpStarted s s t tag 3 (scrubPages ch first count (liveChannels s die)).length
           [die, ch, first, count, liveChannels s die]) ∧
     (∀ die kind number page, retireLegal die kind number page = true →
       (pagesToMove s die kind number page).length ≤ sparesOutside s die kind number page →
       targetsBusy s (opTargets s 4 [die, kind, number, page]) = false →
       ∃ t, exec (.retire tag die kind number page) s = .next t ∧
         OpStarted s s t tag 4 (pagesToMove s die kind number page).length [die, kind, number, page]) ∧
     (∀ src dst len mode, 0 < len → migrateLegal s src dst len mode = true →
       touchesReplica s (hndRegion (word dst)) (hndOffset (word dst)) len = false →
       (mode = 1 → touchesReplica s (hndRegion (word src)) (hndOffset (word src)) len = false) →
       targetsBusy s (opTargets s 5 [src, dst, len, mode]) = false →
       ∃ t, exec (.tierMigrate tag src dst len mode) s = .next t ∧
         OpStarted s s t tag 5 (len / 4096) [src, dst, len, mode])) ∧
  (∀ (s : State) (tag : Nat), accepts s tag = true → (freeSlot s).isSome = true →
     (∀ first count handle step, contextLegal s first count handle = true →
       targetsBusy s (opTargets s 6 [first, count, handle, step]) = false →
       (∀ key ∈ namedSpindles s first count, contextStill s key = true) →
       ∃ t, exec (.contextSave tag first count handle step) s = .next t ∧
         OpStarted s s t tag 6 count [first, count, handle, step % 2 ^ 48]) ∧
     (∀ first count handle, s.module.state = 4 → contextLegal s first count handle = true →
       targetsBusy s (opTargets s 7 [first, count, handle]) = false →
       (∀ key ∈ namedSpindles s first count, spindleActive s key = false) →
       ∃ t, exec (.contextRestore tag first count handle) s = .next t ∧
         OpStarted s s t tag 7 count [first, count, handle]) ∧
     (∀ die i, swapCheck s die i = (stOk, 0) → targetsBusy s (opTargets s 8 [die, i]) = false →
       ∃ t, exec (.spareSwap tag die i) s = .next t ∧ OpStarted s s t tag 8 1 [die, i]) ∧
     (∀ die port us, die < 8 → port < 16 → 1 ≤ us → us ≤ 1000000 → portUp s (16 * die + port) = true →
       targetsBusy s (opTargets s 9 [die, port, us]) = false →
       ∃ t, exec (.portDrain tag die port us) s = .next t ∧
         OpStarted s (setPort s (16 * die + port) { getPort s (16 * die + port) with draining := true }) t tag 9 1
           [die, port, us]) ∧
     (∀ die lane, recalCheck s die lane = stOk → targetsBusy s (opTargets s 10 [die, lane]) = false →
       ∃ t, exec (.laneRecal tag die lane) s = .next t ∧ OpStarted s s t tag 10 1 [die, lane, 0]))

/-- `op.poll` answers the record of the operation a handle names and frees its slot once it has ended; `op.cancel` of
a RUNNING operation that can be cancelled sets CANCEL_REQUESTED, answers BUSY for one that cannot, and changes nothing
of one that has ended; a stale or unknown handle is BAD_PARAM (R426, R427, R430); a handle is the 32 low bits of its
parameter word (R13). A step of the running operation whose turn it is (R427, R430): it goes on with its progress, ends
DONE with a status and check, or, with CANCEL_REQUESTED and work left, ends CANCELLED; its record then stays for
`op.poll`; while a steward of the dies it works at is hung the step does nothing (R36). A ROUTE_SWAP makes the shadow
images active in both planes in its one step (R87). STEP_WATCHDOG (R494): the step under way has or has not
taken its effect (a free value, log 63), the watchdog's event is raised with the operation's handle and code, and the
running operation of the slot ends DONE with TIMEOUT. -/
def Obligations.OperationsStepAndEnd : Prop :=
  (∀ (s : State) (tag handle : Nat), accepts s tag = true →
     (∀ k o, opOf s (handle % 2 ^ 32) = some (k, o) →
       (∃ t, exec (.opPoll tag handle) s = .next t ∧
         Done s (if o.state = 0 then s else { s with ops := mapDel s.ops k }) t tag 0x49 (opRecord o)) ∧
       (o.state = 0 → o.code ≠ 2 → o.code ≠ 8 → o.code ≠ 10 →
         ∃ t, exec (.opCancel tag handle) s = .next t ∧
           Done s { s with ops := mapIns s.ops k { o with cancelReq := true } } t tag 0x4A
             [opWord0 { o with cancelReq := true }]) ∧
       (o.state = 0 → o.code = 2 ∨ o.code = 8 ∨ o.code = 10 →
         ∃ t, exec (.opCancel tag handle) s = .next t ∧ Replies s t tag 0x4A stBusy (failWord 8 0 0) ∧
           t = { s with cp := t.cp, out := t.out }) ∧
       (o.state ≠ 0 → ∃ t, exec (.opCancel tag handle) s = .next t ∧ Done s s t tag 0x4A [opWord0 o])) ∧
     (opOf s (handle % 2 ^ 32) = none → ∀ i ∈ [Instr.opPoll tag handle, .opCancel tag handle],
       ∃ t, exec i s = .next t ∧ (∃ opcode, Replies s t tag opcode stBadParam (failWord 8 0 0)) ∧
         t = { s with cp := t.cp, out := t.out })) ∧
  (∀ (s : State) (units : Nat) (ok : Bool) (k : Nat) (o : Op), running s = true → 2 ≤ s.module.state →
     nextOp s = some (k, o) →
     (opHangs s o = true → exec (.opStep units ok) s = .next { s with opTurn := k }) ∧
     (opHangs s o = false → ∀ x, opWork { s with opTurn := k, episodes := s.episodes.filter (fun e => e != 128 + k) } o units ok = x →
       ∃ t, exec (.opStep units ok) s = .next t ∧
         mapFind t.ops k = some (match x.2.2 with
           | some (st, ck) => { x.2.1 with state := 1, status := st, check := ck }
           | none => if x.2.1.cancelReq = true ∧ x.2.1.done < x.2.1.total
               then { x.2.1 with state := 2, status := stOk, check := 0 } else x.2.1)) ∧
     (opHangs s o = false → o.code = 2 → o.total ≤ 1 → 1 ≤ units → ok = true →
       let flipped : State := { s with planeA := flipPlane s.planeA, planeB := flipPlane s.planeB }
       ∃ t, exec (.opStep units ok) s = .next t ∧ t.planeA.active = s.planeA.shadow ∧ t.planeB.active = s.planeB.shadow ∧
         (∃ r, mapFind t.ops k = some { o with state := 1, status := stOk, check := 0, done := 1, result := [r] }) ∧
         t.hanks = s.hanks ∧ t.jobs = s.jobs ∧ t.erg = s.erg ∧ t.spindles = s.spindles ∧
         ((routeImage flipped).any (fun i => i.treeLevels == 3) = false →
           t.planeA = flipPlane s.planeA ∧ t.planeB = flipPlane s.planeB ∧ t.ports = s.ports ∧ t.caravans = s.caravans ∧
             t.portDies = ((upTo 0 8).foldl (fun s d => modPortDie s d (fun p => { p with routeCache := [] })) s).portDies) ∧
         ((routeImage flipped).any (fun i => i.treeLevels == 3) = true → t.caravans = []))) ∧
  (∀ (s : State) (k : Nat) (o : Op), running s = true → k < 64 → mapFind s.ops k = some o →
     (o.state = 0 → ∃ t o', exec (.stepWatchdog k) s = .next t ∧ mapFind t.ops k = some o' ∧
       o'.state = 1 ∧ o'.status = stTimeout ∧ o'.check = 0 ∧ o'.code = o.code ∧ 128 + k ∉ t.episodes ∧
       let n := freeBelow 2 s
       let x := if n.1 = 1 then ((opWork n.2 o 1 true).1, (opWork n.2 o 1 true).2.1) else (n.2, o)
       let r := raiseDetail x.1 (srcOp (activeDie x.1) k) [word (opHandle x.1 k), word x.2.code]
       t = endOp (abandonOp r x.2) k x.2 1 stTimeout 0) ∧
     (o.state ≠ 0 → exec (.stepWatchdog k) s = .next s))

/-! ### Debug and security (R341, R458-R480) -/

/-- `debug.open` that passes the checks of R472: D1 and D2 open at once, for the named dies, with the token's lifetime
and a new nonce on a deployed module, none otherwise; D3 waits for the zeroisation. The failing check is answered and
nothing changes. A session ends (R479, R480) by `debug.close`, a D3 session by one too, and when a deployed session's
lifetime has passed: every debug hold is released, its event is raised, and after D3 the module is in STANDBY with the 30
dies unpowered. `debug.close` without a session answers BAD_PARAM, and a lifetime ends nothing then. -/
def Obligations.DebugSessionsOpenAndEnd : Prop :=
  (∀ (s : State) (tag level dies : Nat) (token : List Byte), accepts s tag = true → token.length = 320 →
     (debugOpenCheck s level dies token = (stOk, 0) →
       (level < 3 → s.sec.lifecycle ≠ 2 →
         ∃ t, exec (.debugOpen tag level dies token) s = .next t ∧
           Done s { s with sec := { s.sec with
               session := some { level := level, dies := BitVec.ofNat 32 dies, lifetime := none },
               history := s.sec.history ||| BitVec.ofNat 3 (2 ^ (level - 1)) } } t tag 0x50 []) ∧
       (level < 3 → s.sec.lifecycle = 2 →
         ∃ t, exec (.debugOpen tag level dies token) s = .next t ∧
           Done s { s with freeCtr := s.freeCtr + 1, sec := { s.sec with
               session := some { level := level, dies := BitVec.ofNat 32 dies, lifetime := some (objLifetime token) },
               history := s.sec.history ||| BitVec.ofNat 3 (2 ^ (level - 1)),
               nonce := padTo 32 (Config.noise s.freeCtr) } } t tag 0x50 []) ∧
       (level = 3 →
         exec (.debugOpen tag level dies token) s = .next { noted s tag 0x50 with
           sec := { s.sec with zeroising := true },
           cp := { (noted s tag 0x50).cp with awaiting := s.cp.awaiting ++
             [.d3 tag dies (if s.sec.lifecycle = 2 then some (objLifetime token) else none)] } })) ∧
     (∀ st ck, debugOpenCheck s level dies token = (st, ck) → st ≠ stOk →
       ∃ t, exec (.debugOpen tag level dies token) s = .next t ∧ Replies s t tag 0x50 st (failWord 8 ck 0) ∧
         t = { s with cp := t.cp, out := t.out })) ∧
  (∀ (s : State) (ses : Session), s.sec.session = some ses →
     let u : State := { s with sec := { s.sec with session := none },
                               spindles := mapAll s.spindles Spindle.init (fun _ sp => { sp with
                                 engines := mapAll sp.engines Engine.init (fun _ e => releaseHold e) }) }
     let v : State := modModule (unpowerData u) (fun m => { m with state := 1, before := [], reboot := none })
     let id := srcSecurity s.module.activeKd 0
     (∀ tag, accepts s tag = true → onlyReports s id = true →
       ∃ t, exec (.debugClose tag) s = .next t ∧
         Replies { s with cp := { s.cp with lost := t.cp.lost } } t tag 0x51 stOk [] ∧
         t = { raiseFault u id with cp := t.cp, out := t.out }) ∧
     (∀ tag, acceptsInD3 s tag = true → onlyReports v id = true →
       ∃ t, exec (.debugClose tag) s = .next t ∧
         Replies { s with cp := { s.cp with lost := t.cp.lost } } t tag 0x51 stOk [] ∧
         t = { raiseFault v id with cp := t.cp, out := t.out }) ∧
     (ses.lifetime.isSome = true → ses.level < 3 ∨ s.module.state < 2 → exec .lifetime s = .next (raiseFault u id)) ∧
     (ses.lifetime.isSome = true → ses.level = 3 → 2 ≤ s.module.state → exec .lifetime s = .next (raiseFault v id)) ∧
     ((s.module.activeKd = 30 ∨ s.module.activeKd = 31) → mapRising 0 s.dies = true → mapRising 0 s.regs = true →
       onlyReports s id = true → eventRoom s 1 = true → recordRoom s 1 = true →
       let t := raiseFault v id
       t.module = { s.module with state := 1, before := [], reboot := none } ∧
         t.sec = { s.sec with session := none,
                              boot := s.sec.boot.map (fun e => if e.1 < 30 then (e.1, bootReset e.2) else e) } ∧
         t.hanks = [] ∧ t.caravans = [] ∧ t.jobs = [] ∧ t.staging = [] ∧ t.erg.mem = [] ∧
         ∀ die, die < 30 → (getDie t die).powered = false) ∧
     (ses.lifetime = none → exec .lifetime s = .next s)) ∧
  (∀ (s : State), s.sec.session = none →
     exec .lifetime s = .next s ∧
     ∀ tag, accepts s tag = true →
       ∃ t, exec (.debugClose tag) s = .next t ∧ Replies s t tag 0x51 stBadParam (failWord 8 0 0) ∧
         t = { s with cp := t.cp, out := t.out })

/-- When the zeroisation completes (R477) no byte of a LIVE channel of the Erg and none of a contained or retired device
is other than zero, staging buffers and counters are cleared, every spindle of a die in scope has an empty local store and
instruction memory and every port die in scope empty buffers and caches, an Erg die in scope keeps no copy to resend and no
count under way, the attestation key is gone, and the D3 session opens and is answered, with a new nonce in DEPLOYED; a
channel that is PARKED keeps its bytes. -/
def Obligations.ZeroisationOpensTheSession : Prop :=
  ∀ (s : State) (tag dies : Nat) (life : Option Nat), d3Waiting s.cp.awaiting = some (tag, dies, life) →
    running s = true → s.sec.zeroising = true → (∀ p, p < 128 → portLive s p = false) →
    ∃ t, exec .zeroisation s = .next t ∧ AnswersOk t tag 0x50 [] ∧
      t.erg.mem = s.erg.mem.filter (fun c => !(backed s c.1 || deviceDark s c.1)) ∧
      t.erg.bad = s.erg.bad.filter (fun b => !(backed s (64 * b.1) || deviceDark s (64 * b.1))) ∧ t.erg.counters = [] ∧
      t.erg = { s.erg with mem := t.erg.mem, bad := t.erg.bad, counters := [], repl := t.erg.repl, counting := t.erg.counting } ∧
      (∀ die, 26 ≤ die → die < 30 → dies.testBit die = true →
        (∀ e ∈ t.erg.repl, e.1 / 16 ≠ die) ∧ (∀ c ∈ t.erg.counting, c.die ≠ die)) ∧
      t.sec = { s.sec with
        zeroising := false, attestKey := none,
        nonce := if s.sec.lifecycle = 2 then padTo 32 (Config.noise s.freeCtr) else List.replicate 32 0,
        session := some { level := 3, dies := BitVec.ofNat 32 dies, lifetime := life }, history := s.sec.history ||| 4 } ∧
      (mapRising 0 s.spindles = true → ∀ die slot, 10 ≤ die → die < 26 → slot < 17 → dies.testBit die = true →
        getSp t (32 * die + slot) = { getSp s (32 * die + slot) with
          ls := [], imem := [], imageLoaded := false, measurement := [] }) ∧
      (mapRising 0 s.portDies = true → mapRising 0 s.ports = true → ∀ die, die < 8 → dies.testBit die = true →
        getPortDie t die = PortDie.init ∧
          ∀ p, p / 16 = die → getPort t p = { portDropped (getPort s p) with rxBuf := [] }) ∧
      t = { s with erg := t.erg, sec := t.sec, staging := [], portDies := t.portDies, ports := t.ports, ready := t.ready,
                   inbox := t.inbox, planeA := t.planeA, planeB := t.planeB, spindles := t.spindles, freeCtr := t.freeCtr,
                   cp := t.cp, out := t.out }

/-- `debug.engine` at a LIVE spindle of a die that the open D2 session reaches (R475): HALT holds a running engine
with cause DEBUG, takes over a hold, and marks a waiting engine; RELEASE lets a debug hold go on, makes a FAULTED
engine HALTED at the PC of EXC_STATUS, and changes no other engine. Nothing else changes. `debug.read` and `debug.write`
(R476): of a local store whose engines do not move, its slots' bytes among them (R225), and of Erg memory by handle, in
dies that the open D2 session reaches. A read answers the
bytes and changes nothing; a write stores the bytes and changes nothing else. `debug.sync` (R341) at a LIVE spindle in
reach: FLAG_SET raises a flag, FLAG_CLEAR clears it, BARCHAN_ARRIVE applies an arrival and releases the barchan when
it is the last, or answers the cause and changes nothing, BARCHAN_RELEASE releases, and BARCHAN_CLEAR empties both
arrival sets. -/
def Obligations.DebugCommandsAct : Prop :=
  (∀ (s : State) (tag die slot engine : Nat), accepts s tag = true → debugReaches s 2 die = true →
     spindleNamed die slot = true → engine < 4 → spindleLive s (32 * die + slot) = true →
     let key := 32 * die + slot
     let e := getEng s key engine
     (∃ t, exec (.debugEngineHalt tag die slot engine) s = .next t ∧
       Done s (setEng s key engine (match e.state with
         | .running => { e with state := .held, hold := 5 }
         | .held => { e with hold := 5 }
         | .waiting => { e with debugHalt := true }
         | _ => e)) t tag 0x52 []) ∧
     (∃ t, exec (.debugEngineRelease tag die slot engine) s = .next t ∧
       Done s (setEng s key engine
         (if e.state = .faulted then { e with state := .halted, pc := eget s .excStatus key engine 0 12 0 }
          else if e.state = .held ∧ e.hold = 5 then { e with state := .running, hold := 0 }
          else e)) t tag 0x52 [])) ∧
  (∀ (s : State) (tag die slot addr len : Nat) (data : List Byte), accepts s tag = true → 1 ≤ len → len ≤ 8192 →
     data.length = len →
     (debugReaches s 2 die = true → spindleNamed die slot = true → addr + len ≤ 0x300000 →
       spindleLive s (32 * die + slot) = true → spindleMoves s (32 * die + slot) = false →
       (∃ t, exec (.debugRead tag 0 die slot addr len) s = .next t ∧
         Replies s t tag 0x53 stOk (memRead (withSlots s (32 * die + slot) (getSp s (32 * die + slot)).claims) addr len) ∧
         t = { s with cp := t.cp, out := t.out }) ∧
       ((getSp s (32 * die + slot)).claims = [] ∨ addr + len ≤ 0x300000 - 4096 * fget s .slotLimit die slot 0 11 0 →
         ∃ t, exec (.debugWrite tag 0 die slot addr len data) s = .next t ∧
           Done s (setSp s (32 * die + slot) { getSp s (32 * die + slot) with
             ls := memWrite (getSp s (32 * die + slot)).ls addr data }) t tag 0x54 [])) ∧
     (ergNamed addr = true → accessPermitted s 1 0 addr len = true →
       (readStatus s (hndRegion (word addr)) (ergPieces addr len) = stOk →
         ∃ t, exec (.debugRead tag 1 0 0 addr len) s = .next t ∧
           Replies s t tag 0x53 stOk (ergRead s (hndRegion (word addr) - 1) (hndOffset (word addr)) len) ∧
           t = { s with cp := t.cp, out := t.out }) ∧
       (∀ n x, writePieces (hndRegion (word addr)) (hndOffset (word addr)) (memWrite [] 0 data) (ergPieces addr len) 0 s
           = (stOk, n, x) →
         ∃ t, exec (.debugWrite tag 1 0 0 addr len data) s = .next t ∧ Done s { s with erg := x.erg } t tag 0x54 []))) ∧
  (∀ (s : State) (tag die slot n p : Nat), accepts s tag = true → debugReaches s 2 die = true →
     spindleNamed die slot = true → spindleLive s (32 * die + slot) = true →
     let key := 32 * die + slot
     (n < 64 →
       (∃ t, exec (.flagSet tag die slot n) s = .next t ∧ Done s (raiseFlag s key n) t tag 0x55 [0]) ∧
       (∃ t, exec (.flagClear tag die slot n) s = .next t ∧
         Done s (setSp s key { getSp s key with flags := (getSp s key).flags &&& ~~~(BitVec.ofNat 64 (2 ^ n)) })
           t tag 0x55 [0])) ∧
     (n < 16 →
       (p < 64 → ∀ x, applyArrival s die (localIndex s key) n p = (0, x) →
         ∃ t, exec (.barchanArrive tag die slot n p) s = .next t ∧ Done s (releaseDue x key n) t tag 0x55 [0]) ∧
       (p < 64 → ∀ cause x, applyArrival s die (localIndex s key) n p = (cause, x) → cause ≠ 0 →
         ∃ t, exec (.barchanArrive tag die slot n p) s = .next t ∧ Done s s t tag 0x55 [word cause]) ∧
       (∃ t, exec (.barchanRelease tag die slot n) s = .next t ∧ Done s (release s key n) t tag 0x55 [0]) ∧
       (∃ t, exec (.barchanClear tag die slot n) s = .next t ∧
         Done s (settleBarWaits (setBarchan s key n { getBarchan (getSp s key) n with cur := 0, next := 0 }) die
           (localIndex s key) n) t tag 0x55 [0])))

/-- A security request whose object passes R459's rows has the effect of its kind and a new nonce (R458-R460): a key is
added (and a BLANK module becomes OWNED), revoked, the module deployed, a minimum SVN raised; RETURN, in STANDBY, revokes
every key and erases the secrets, operations and remembered commands. A failing row is answered and nothing changes. -/
def Obligations.SecurityRequestsTakeEffect : Prop :=
  ∀ (s : State) (tag : Nat), (s.module.activeKd = 30 ∨ s.module.activeKd = 31) →
    let o := secObject s
    let fresh : State := { s with freeCtr := s.freeCtr + 1 }
    let nonce := padTo 32 (Config.noise s.freeCtr)
    (accepts s tag = true → requestCheck s o = (stOk, 0) →
      (objKind o = 2 →
        ∃ t, exec (.addKey tag) s = .next t ∧
          Done s { fresh with sec := { s.sec with
            nonce := nonce, keys := listMod s.sec.keys (objArg o) (fun _ => (.active, hash64 (objSubject o))),
            lifecycle := if s.sec.lifecycle = 0 then 1 else s.sec.lifecycle } } t tag 0x11 []) ∧
      (objKind o = 3 →
        ∃ t, exec (.revokeKey tag) s = .next t ∧
          Done s { fresh with sec := { s.sec with
            nonce := nonce, keys := listMod s.sec.keys (objArg o) (fun _ => (.revoked, (keySlot s (objArg o)).2)) } }
            t tag 0x11 []) ∧
      (objKind o = 4 →
        ∃ t, exec (.deploy tag) s = .next t ∧
          Done s { fresh with sec := { s.sec with nonce := nonce, lifecycle := 2 } } t tag 0x11 []) ∧
      (objKind o = 6 →
        ∃ t, exec (.raiseSvn tag) s = .next t ∧
          Done s { fresh with sec := { s.sec with
            nonce := nonce,
            minSvn := listMod s.sec.minSvn (bits (objArg o) 2 0) (fun _ => bits (objArg o) 31 16) } } t tag 0x11 [])) ∧
    (accepts s tag = true → ∀ st ck, requestCheck s o = (st, ck) → st ≠ stOk →
      ∀ e ∈ [(2, Instr.addKey tag), (3, .revokeKey tag), (4, .deploy tag), (5, .secReturn tag), (6, .raiseSvn tag)],
        objKind o = e.1 →
        ∃ t, exec e.2 s = .next t ∧ Replies s t tag 0x11 st (failWord 8 ck 0) ∧ t = { s with cp := t.cp, out := t.out }) ∧
    (acceptsStandby s tag = true → requestCheck s o = (stOk, 0) → objKind o = 5 →
      ∃ t, exec (.secReturn tag) s = .next t ∧ AnswersOk t tag 0x11 [] ∧
        t.sec = { s.sec with lifecycle := 3, attestKey := none, nonce := nonce,
                             keys := s.sec.keys.map (fun e => if e.1 = .active then (.revoked, e.2) else e) } ∧
        t.cp.remembered = [] ∧
        t = { fresh with
              sec := t.sec, ops := [], cp := t.cp, out := t.out,
              regs := s.regs.filter (fun e => !(addrCls e.1 == 0x22 && decide (0x200 ≤ addrOff e.1)
                && decide (addrOff e.1 < 0x340))) } ∧
        secObject t = List.replicate 320 0)

/-! ### Writes of registers with a row of their own -/

/-- FAILOVER_CTRL with FORCE, while a standby is MIRRORED: the write is answered OK, then the standby takes over
(R495, R496); while none is, BUSY; a heartbeat limit out of range is BAD_PARAM. Neither of these changes anything.
DIE_REBOOT with GO (R500): the rows of its check table, and a reboot that starts: its first phase is under way and
DIE_REBOOT_STATUS says so, the die is reset, and what the other dies hold is as it was. -/
def Obligations.ForceFailsOverAndDiesReboot : Prop :=
  (∀ (s : State) (tag die : Nat) (value mask : Word), accepts s tag = true → 30 ≤ die → die < 32 →
     (s.module.activeKd = 30 ∨ s.module.activeKd = 31) → bit (value.toNat &&& mask.toNat) 63 = true →
     mapRising 0 s.regs = true →
     let new := mergeWrite .failoverCtrl (rget s .failoverCtrl die 0 0) value.toNat mask.toNat
     (limitOk (bits new 31 0) = true → s.module.standby = 2 →
       (s.sec.session.isSome = true → onlyReports s (srcSecurity (61 - s.module.activeKd) 0) = true) →
       ∃ x t, exec (.force tag die value mask) s = .next t ∧ Done s (rset s .failoverCtrl die 0 0 new) x tag 0x11 [] ∧
         FailedOver x t) ∧
     (limitOk (bits new 31 0) = true → s.module.standby ≠ 2 →
       ∃ t, exec (.force tag die value mask) s = .next t ∧ Replies s t tag 0x11 stBusy (failWord 8 0 0) ∧
         t = { s with cp := t.cp, out := t.out }) ∧
     (limitOk (bits new 31 0) = false →
       ∃ t, exec (.force tag die value mask) s = .next t ∧ Replies s t tag 0x11 stBadParam (failWord 8 0 0) ∧
         t = { s with cp := t.cp, out := t.out })) ∧
  (∀ (s : State) (tag reg : Nat) (value mask : Word), accepts s tag = true → 30 ≤ reg → reg < 32 →
     bit (value.toNat &&& mask.toNat) 8 = true →
     let die := bits (value.toNat &&& mask.toNat) 4 0
     (die = s.module.activeKd →
       ∃ t, exec (.dieReboot tag reg value mask) s = .next t ∧ Replies s t tag 0x11 stBadParam (failWord 8 1 0) ∧
         t = { s with cp := t.cp, out := t.out }) ∧
     (die ≠ s.module.activeKd → s.module.reboot.isSome = true ∨ opOnDie s die = true ∨ rebootHeld s die = true →
       ∃ t, exec (.dieReboot tag reg value mask) s = .next t ∧ Replies s t tag 0x11 stBusy (failWord 8 2 0) ∧
         t = { s with cp := t.cp, out := t.out }) ∧
     (die ≠ s.module.activeKd → s.module.reboot = none → opOnDie s die = false → rebootHeld s die = false →
       eventRoom s 1 = true →
       ∃ t, exec (.dieReboot tag reg value mask) s = .next t ∧ AnswersOk t tag 0x11 [] ∧
         t.module = { s.module with reboot := some (die, if die < 30 then 2 else 1) } ∧
         (mapRising 0 s.regs = true →
           rget t .dieRebootStatus 30 0 0 = die * 2 ^ 16 + (if die < 30 then 2 else 1) * 2 ^ 8 + 1) ∧
         (∀ key, key / 32 ≠ die → mapRising 0 s.spindles = true → getSp t key = getSp s key) ∧
         (∀ p, p / 16 ≠ die → mapRising 0 s.ports = true → getPort t p = getPort s p) ∧
         t = { s with
               module := t.module, regs := t.regs, units := t.units, portDies := t.portDies, ports := t.ports,
               spindles := t.spindles, inbox := t.inbox, ready := t.ready,
               planeA := if die = 8 then { Plane.init with forgotten := s.caravans.map (·.1) } else s.planeA,
               planeB := if die = 9 then { Plane.init with forgotten := s.caravans.map (·.1) } else s.planeB,
               sec := { s.sec with boot := t.sec.boot },
               erg := { s.erg with pools := t.erg.pools, repl := t.erg.repl, counting := t.erg.counting },
               dies := t.dies, freeCtr := t.freeCtr, cp := t.cp, out := t.out }))

/-- UNIT_RELEASE (R488): a contained unit of a die that is not contained returns to PARKED, a pool disabled and empty;
anything else it names is BAD_PARAM and changes nothing. ERR_CTRL (R493): a write within range sets it, and ERR_N is
low while HOLD is set, a pulse lasts, the collector holds it, or B0 has not completed; a pulse width below 10 or above
10,000 is BAD_PARAM. -/
def Obligations.UnitsAreReleasedAndErrNFollowsHold : Prop :=
  (∀ (s : State) (tag die : Nat) (value mask : Word), accepts s tag = true → die < 32 →
     0x7ffff000000 &&& mask.toNat ≠ 0 →
     let wo := value.toNat &&& mask.toNat
     let cls := bits wo 42 36
     let inst := bits wo 35 24
     (unitExists die cls inst = true → (getDie s die).contained = false → unitState s die cls inst = .contained →
       (cls = 0x10 → bit (fget s .spindleMapStatus die 0 0 16 0) inst = false) →
       (cls ≠ 0x1C → ∃ t, exec (.unitRelease tag die value mask) s = .next t ∧
         Done s (setUnit s die cls inst .parked) t tag 0x11 []) ∧
       (cls = 0x1C → ∃ t, exec (.unitRelease tag die value mask) s = .next t ∧
         Done s (noteLow (setPool (fset (setUnit s die cls inst .parked) .poolConfig die inst 0 63 63 0) inst []) inst)
           t tag 0x11 [])) ∧
     (unitExists die cls inst = false ∨ (getDie s die).contained = true ∨ unitState s die cls inst ≠ .contained ∨
         (cls = 0x10 ∧ bit (fget s .spindleMapStatus die 0 0 16 0) inst = true) →
       ∃ t, exec (.unitRelease tag die value mask) s = .next t ∧ Replies s t tag 0x11 stBadParam (failWord 8 0 0) ∧
         t = { s with cp := t.cp, out := t.out })) ∧
  (∀ (s : State) (tag die : Nat) (value mask : Word), accepts s tag = true → 30 ≤ die → die < 32 →
     0x100ffffff &&& mask.toNat ≠ 0 → mapRising 0 s.regs = true →
     let new := mergeWrite .errCtrl (rget s .errCtrl die 0 0) value.toNat mask.toNat
     (10 ≤ bits new 23 0 → bits new 23 0 ≤ 10000 →
       ∃ t, exec (.hold tag die value mask) s = .next t ∧
         Done s { rset s .errCtrl die 0 0 new with
           module := { s.module with errLow := s.module.pulse || s.module.errHeld || bit new 32 } } t tag 0x11 []) ∧
     (bits new 23 0 < 10 ∨ 10000 < bits new 23 0 →
       ∃ t, exec (.hold tag die value mask) s = .next t ∧ Replies s t tag 0x11 stBadParam (failWord 8 0 0) ∧
         t = { s with cp := t.cp, out := t.out }))

/-- POOL_CONFIG and POOL_COUNT (R368): an accepted write leaves every bobbin of the pool free when ENABLE is then 1,
and FREE 0 when it is 0; BASE not aligned to the bobbin size, a range beyond the tier's limit or COUNT above 2^20 is
BAD_PARAM, and an allocated bobbin of the enabled pool makes the write BUSY: then nothing is written. BARCHAN_MEMBERS
(R333) is written while COUNT and EARLY are 0, and BUSY otherwise. PAGE_QUERY and the registers of a replication range
(R374): a page below 49,152 is stored; a range is written while nothing is PENDING and it stays legal, a write of
ENABLE 1 clearing SEQ, PENDING, STATE and what was kept for resending; otherwise BAD_PARAM, before BUSY, and nothing
is written. -/
def Obligations.ErgAndBarchanRegistersAreWritten : Prop :=
  (∀ (s : State) (tag pool reg : Nat) (value mask : Word), accepts s tag = true → pool < 256 →
     let die := poolDie pool
     let r : Reg := if reg = 0 then .poolConfig else .poolCount
     writable r &&& mask.toNat ≠ 0 →
     let u := rset s r die pool 0 (mergeWrite r (rget s r die pool 0) value.toNat mask.toNat)
     let fits := fget u .poolConfig die pool 0 62 61 ≠ 3 ∧ poolBase u pool % poolSize u pool = 0 ∧
       poolBase u pool + poolCount u pool * poolSize u pool ≤ tierLimit u (fget u .poolConfig die pool 0 60 60) ∧
       poolCount u pool ≤ 2 ^ 20
     (fits → (poolEnabled s pool = true → poolFree s pool = poolCount s pool) →
       ∃ t, exec (.poolConfig tag die pool reg value mask) s = .next t ∧
         Done s (noteLow (setPool u pool []) pool) t tag 0x11 [] ∧
         (mapRising 0 s.erg.pools = true → mapRising 0 s.regs = true →
           poolFree t pool = if poolEnabled u pool then poolCount u pool else 0)) ∧
     (¬ fits →
       ∃ t, exec (.poolConfig tag die pool reg value mask) s = .next t ∧ Replies s t tag 0x11 stBadParam (failWord 8 0 0) ∧
         t = { s with cp := t.cp, out := t.out }) ∧
     (fits → poolEnabled s pool = true → poolFree s pool < poolCount s pool →
       ∃ t, exec (.poolConfig tag die pool reg value mask) s = .next t ∧ Replies s t tag 0x11 stBusy (failWord 8 0 0) ∧
         t = { s with cp := t.cp, out := t.out })) ∧
  (∀ (s : State) (tag die slot b : Nat) (value mask : Word), accepts s tag = true → 10 ≤ die → die < 26 → slot < 17 →
     b < 16 → mask ≠ 0 →
     let v := getBarchan (getSp s (32 * die + slot)) b
     (v.cur = 0 → v.next = 0 →
       ∃ t, exec (.barchanMembers tag die slot b value mask) s = .next t ∧
         Done s (setBarchan s (32 * die + slot) b { v with members := (v.members &&& ~~~mask) ||| (value &&& mask) })
           t tag 0x11 []) ∧
     (v.cur ≠ 0 ∨ v.next ≠ 0 →
       ∃ t, exec (.barchanMembers tag die slot b value mask) s = .next t ∧ Replies s t tag 0x11 stBusy (failWord 8 0 0) ∧
         t = { s with cp := t.cp, out := t.out })) ∧
  (∀ (s : State) (tag die n reg : Nat) (value mask : Word), accepts s tag = true → 26 ≤ die → die < 30 → n < 16 →
     (0x1ffff &&& mask.toNat ≠ 0 →
       let new := mergeWrite .pageQuery (rget s .pageQuery die 0 0) value.toNat mask.toNat
       (bits new 15 0 < 49152 → ∃ t, exec (.pageQuery tag die value mask) s = .next t ∧
         Done s (rset s .pageQuery die 0 0 new) t tag 0x11 []) ∧
       (49152 ≤ bits new 15 0 → ∃ t, exec (.pageQuery tag die value mask) s = .next t ∧
         Replies s t tag 0x11 stBadParam (failWord 8 0 0) ∧ t = { s with cp := t.cp, out := t.out })) ∧
     (∀ r : Reg, r = (if reg = 0 then .replRangeCtrl else if reg = 1 then .replRangeBase else .replRangeLen) →
       writable r &&& mask.toNat ≠ 0 →
       let new := mergeWrite r (rget s r die 0 n) value.toNat mask.toNat
       let u := rset s r die 0 n new
       let bad := if reg = 0 then
           (bits mask.toNat 55 52 ≠ 0 ∧ bits new 55 52 ≠ 1 ∧ bits new 55 52 ≠ 2) ∨
             (bits mask.toNat 19 0 ≠ 0 ∧ bits new 19 0 = ownFeid)
         else bits new 39 0 % 4096 ≠ 0
       (¬ bad → rangeOverlaps u die n = false → fget s .replRangeSeq die 0 n 31 0 = 0 →
         (reg ≠ 0 ∨ bit (value.toNat &&& mask.toNat) 63 = false →
           ∃ t, exec (.replRangeCtrl tag die n reg value mask) s = .next t ∧ Done s u t tag 0x11 []) ∧
         (reg = 0 → bit (value.toNat &&& mask.toNat) 63 = true →
           ∃ t, exec (.replRangeCtrl tag die n reg value mask) s = .next t ∧
             Done s (setRepl (fset (rset u .replRangeSeq die 0 n 0) .replRangeCtrl die 0 n 61 60 0) die n
               { copies := [], resends := 0 }) t tag 0x11 [])) ∧
       (bad ∨ rangeOverlaps u die n = true →
         ∃ t, exec (.replRangeCtrl tag die n reg value mask) s = .next t ∧
           Replies s t tag 0x11 stBadParam (failWord 8 0 0) ∧ t = { s with cp := t.cp, out := t.out }) ∧
       (¬ bad → rangeOverlaps u die n = false → fget s .replRangeSeq die 0 n 31 0 ≠ 0 →
         ∃ t, exec (.replRangeCtrl tag die n reg value mask) s = .next t ∧
           Replies s t tag 0x11 stBusy (failWord 8 0 0) ∧ t = { s with cp := t.cp, out := t.out })))

/-- EDGE_ROLE and PORT_CTRL (R71, R396, R398, R402): the written value is stored; an UP port whose role bit changes
retrains; MODE shows in SERVICE but for RECOVERY; no lane enabled takes the link down, lanes enabled again train it, a
lane that is disabled is dropped or its recalibration fails, and one that is enabled beside another asks to rejoin; MODE 3
is BAD_PARAM. -/
def Obligations.PortsAreControlled : Prop :=
  ∀ (s : State) (tag die port : Nat) (value mask : Word), accepts s tag = true → die < 8 → port < 16 →
    mapRising 0 s.regs = true →
    (0xffff &&& mask.toNat ≠ 0 →
      let old := rget s .edgeRole die 0 0
      let new := mergeWrite .edgeRole old value.toNat mask.toNat
      ((∀ k, k < 16 → bit old k = bit new k ∨ portUp s (16 * die + k) = false) →
        ∃ t, exec (.edgeRole tag die value mask) s = .next t ∧ Done s (rset s .edgeRole die 0 0 new) t tag 0x11 []) ∧
      (∃ t, exec (.edgeRole tag die value mask) s = .next t ∧
        t = answerOk ((upTo 0 16).foldl (fun s k =>
            if bit old k ≠ bit new k ∧ portUp s (16 * die + k)
            then oneCycle (fun s => retrain raiseWith s (16 * die + k) 0) s else s)
          (rset (noted s tag 0x11) .edgeRole die 0 0 new)) tag 0x11 [])) ∧
    (0xffffff00b3 &&& mask.toNat ≠ 0 →
      let p := 16 * die + port
      let old := rget s .portCtrl die port 0
      let new := mergeWrite .portCtrl old value.toNat mask.toNat
      let v (s : State) : State :=
        if pget s .portStatus p 0 9 8 = 3 then s else pset s .portStatus p 0 9 8 (bits new 1 0)
      let u (s : State) : State := v (rset s .portCtrl die port 0 new)
      (bits new 1 0 = 3 → ∃ t, exec (.portCtrl tag die port value mask) s = .next t ∧
        Replies s t tag 0x11 stBadParam (failWord 8 0 0) ∧ t = { s with cp := t.cp, out := t.out }) ∧
      (bits new 1 0 ≠ 3 →
        (bits old 5 4 = bits new 5 4 →
          ∃ t, exec (.portCtrl tag die port value mask) s = .next t ∧ Done s (u s) t tag 0x11 []) ∧
        (bits old 5 4 ≠ 0 → bits new 5 4 = 0 → exec (.portCtrl tag die port value mask) s
          = .next (answerOk (oneCycle (fun s => linkEnds raiseWith s p 0) (u (noted s tag 0x11))) tag 0x11 [])) ∧
        (bits old 5 4 = 0 → bits new 5 4 ≠ 0 → exec (.portCtrl tag die port value mask) s
          = .next (answerOk (startTraining (u (noted s tag 0x11)) p) tag 0x11 [])) ∧
        (bits old 5 4 ≠ bits new 5 4 → bits old 5 4 ≠ 0 → bits new 5 4 ≠ 0 → exec (.portCtrl tag die port value mask) s
          = .next (answerOk ((upTo 0 2).foldl (fun s l =>
              if bit (bits old 5 4) l = true ∧ bit (bits new 5 4) l = false then
                if (getPort s p).recal.any (fun r => r.1 == l) then recalFails s p 8
                else oneCycle (fun s => dropLane raiseWith s p l) s
              else if bit (bits old 5 4) l = false ∧ bit (bits new 5 4) l = true then recalBegin s p l true
              else s)
            (u (noted s tag 0x11))) tag 0x11 []))))

/-! ### Frames of the control port, its link and its timers (R404-R419) -/

/-- A COMMAND frame that is intact and next in sequence is placed and acknowledged; sent for the first time, it has
the effect of the row of the table that its OPCODE and parameters name, on the state that has it placed. One sent
again is answered with the outcome remembered under its TAG, or not yet when that is pending. A VERSION other than
0x10, and an OPCODE the table does not hold, are NOT_SUPPORTED at order 1 and 4 (R412, R416, R418, R423). A numbered
frame that fails its check is counted in CP_COUNT_0 with its event and answered with a NAK; one out of sequence is
answered with a NAK and counted; neither is placed (R411, R413). A BULK frame in sequence stores its payload in its
staging buffer, and nothing else changes but the placing; beyond the end of the buffer, before B6, into a buffer that a
running operation or a `prog.load` still to be answered has locked, or in STANDBY, it is discarded and counted in
CP_COUNT_5 (R424, R438); one of another VERSION is placed and rejected whole (R12). A frame whose TYPE is not that of a
numbered frame is discarded and counted in CP_COUNT_4 (R407). -/
def Obligations.CommandAndBulkFramesArrive : Prop :=
  (∀ (s : State) (w0 w1 w2 w3 : Word) (payload : List Byte), listens s = true → cpIntact w0 w1 w2 w3 payload = true →
     noInjection s (srcControlPort s.module.activeKd 2) = true → w1.extractLsb' 0 32 = s.cp.rxNext → cpType w0 = 1 →
     payload.length ≤ 16384 →
     let p := framePlaced s w1
     let tag := wbits w2 31 0
     let opcode := wbits w2 47 32
     (wbits w0 7 0 ≠ 0x10 →
       exec (.command w0 w1 w2 w3 payload) s = .next (respond p tag opcode stNotSupported (failWord 1 0 0))) ∧
     (wbits w0 7 0 = 0x10 → wbit w2 48 = false → ∀ a b c d, a < 2 ^ 64 → b < 2 ^ 64 → c < 2 ^ 64 → d < 2 ^ 64 →
       ∀ r ∈ framesOf tag a b c d, opcode = r.1 → payload = wordsBytes (r.2.1.map word) →
         exec (.command w0 w1 w2 w3 payload) s = exec r.2.2 p) ∧
     (wbits w0 7 0 = 0x10 → wbit w2 48 = true → 6 ≤ s.module.phase →
       (∀ r st pl, findRemembered s tag = some r → r.done = some (st, pl) →
         exec (.command w0 w1 w2 w3 payload) s = .next (respond p tag r.opcode st pl)) ∧
       (∀ r, findRemembered s tag = some r → r.done = none → exec (.command w0 w1 w2 w3 payload) s = .next p)) ∧
     (wbits w0 7 0 = 0x10 → wbit w2 48 = false → 6 ≤ s.module.phase →
       opcode ∉ [0x10, 0x11, 0x20, 0x21, 0x22, 0x28, 0x29, 0x30, 0x31, 0x38, 0x39, 0x40, 0x48, 0x49, 0x4A, 0x50, 0x51, 0x52,
         0x53, 0x54, 0x55, 0x60, 0x68, 0x70] →
       ∃ t, exec (.command w0 w1 w2 w3 payload) s = .next t ∧
         { type := 2, tag := BitVec.ofNat 32 tag, opcode := BitVec.ofNat 16 opcode, status := 8,
           payload := failWord 4 0 0 } ∈ t.cp.queue ++ t.cp.unacked.map (fun e => e.2.1) ∧
         t = { p with cp := t.cp, out := t.out })) ∧
  (∀ (s : State) (w0 w1 w2 w3 : Word) (payload : List Byte), listens s = true →
     noInjection s (srcControlPort s.module.activeKd 2) = true →
     ∀ i ∈ [Instr.command w0 w1 w2 w3 payload, .bulk w0 w1 w2 w3 payload],
     (cpIntact w0 w1 w2 w3 payload = false → onlyReports s (srcControlPort s.module.activeKd 2) = true →
       mapRising 0 s.regs = true →
       ∃ t, exec i s = .next t ∧ cpLinkOut (lastPlaced s) 3 0 [] ∈ t.out ∧ t.cp.rxNext = s.cp.rxNext ∧ t.cp.placed = s.cp.placed ∧
         t.cp.unacked.length ≥ s.cp.unacked.length ∧ t.staging = s.staging ∧ t.cp.remembered = s.cp.remembered ∧
         rget t .cpCount s.module.activeKd 0 0
           = satAdd 48 (fget s .cpCount s.module.activeKd 0 0 47 0) 1 + bits (rget s .cpCount s.module.activeKd 0 0) 63 48 * 2 ^ 48) ∧
     (cpIntact w0 w1 w2 w3 payload = true → s.cp.unacked.any (fun e => e.1 == w1.extractLsb' 32 32) = false →
       (1 ≤ cpType w0 → cpType w0 ≤ 4 → w1.extractLsb' 0 32 ≠ s.cp.rxNext →
         exec i s = .next { cpCountUp s 1 with out := s.out ++ [cpLinkOut (lastPlaced s) 3 0 []] }) ∧
       (cpType w0 = 0 ∨ 4 < cpType w0 → exec i s = .next (cpCountUp s 4)))) ∧
  (∀ (s : State) (w0 w1 w2 w3 : Word) (payload : List Byte), listens s = true → cpIntact w0 w1 w2 w3 payload = true →
     noInjection s (srcControlPort s.module.activeKd 2) = true → w1.extractLsb' 0 32 = s.cp.rxNext → cpType w0 = 4 →
     1 ≤ payload.length → payload.length ≤ 65536 →
     let p := framePlaced s w1
     let b := wbits w2 3 0
     let o := wbits w2 63 32
     (wbits w0 7 0 ≠ 0x10 → exec (.bulk w0 w1 w2 w3 payload) s = .next p) ∧
     (wbits w0 7 0 = 0x10 → o + payload.length ≤ 2 ^ 27 → 6 ≤ s.module.phase → bufferLocked s b = false → s.module.state ≠ 1 →
       exec (.bulk w0 w1 w2 w3 payload) s = .next { p with staging := memWrite s.staging (2 ^ 27 * b + o) payload }) ∧
     (wbits w0 7 0 = 0x10 →
       2 ^ 27 < o + payload.length ∨ s.module.phase < 6 ∨ bufferLocked s b = true ∨ s.module.state = 1 →
       exec (.bulk w0 w1 w2 w3 payload) s = .next (cpCountUp p 5)))

/-- The control link comes up (R408, R410, R411): FEC lock leads to step 2 and Holmon's ALIGN on each lane, an ALIGN of
each lane to step 3 and Holmon's HELLO, a HELLO that Holmon accepts and whose sender accepts Holmon's to UP with the
partner's windows; a refused one is answered with a HELLO that has REJECT set, and waits. ACK releases every frame up to
the one it names, and NAK sends the unacknowledged ones again, with their ACK_SEQ; one of another VERSION changes nothing
(R12). An acknowledgement releases the frames up to the one it names, and keeps those after it (R412). -/
def Obligations.LinkFramesBringTheLinkUp : Prop :=
  (∀ (s : State) (w0 w1 w2 w3 : Word), running s = true →
     noInjection s (srcControlPort s.module.activeKd 2) = true → cpType w0 = 5 →
     (s.cp.step = 1 → exec .fecLock s = .next { s with
       cp := { s.cp with laneLock := 0xF, step := 2 }, freeCtr := s.freeCtr + 4,
       out := s.out ++ (upTo 0 4).map (fun lane => cpLinkOut (lastPlaced s) 4
         (lane * 2 ^ 4 + wbits (Config.freeWord (s.freeCtr + lane)) 31 0 * 2 ^ 32) []) }) ∧
     (wbits w0 7 0 = 0x10 → cpIntact w0 w1 w2 w3 [] = true → wbits w2 3 0 = 4 → s.cp.step = 2 →
       let a := s.cp.aligned ||| BitVec.ofNat 4 (2 ^ wbits w2 5 4)
       exec (.linkFrameAlign w0 w1 w2 w3) s
         = .next { s with cp := { s.cp with aligned := a, step := if a = 0xF then 3 else 2 },
                          out := if a = 0xF then s.out ++ [cpLinkOut (lastPlaced s) 1 0 (ownHello s false)] else s.out }) ∧
     (wbits w0 7 0 ≠ 0x10 → cpIntact w0 w1 w2 w3 [] = true →
       ∀ i ∈ [Instr.linkFrameAck w0 w1 w2 w3, .linkFrameNak w0 w1 w2 w3, .linkFrameAlign w0 w1 w2 w3],
         exec i s = .next s) ∧
     (∀ h : List Byte, h.length = 32 → cpIntact w0 w1 w2 w3 h = true → wbits w0 7 0 = 0x10 → wbits w2 3 0 = 1 →
       s.cp.step = 3 →
       (helloRefused h = false → wbit (wordAt h 0) 17 = false →
         ∃ t, exec (.linkFrameHello w0 w1 w2 w3 h) s = .next t ∧
           t.cp = { s.cp with step := 4, rxFrames := wbits (wordAt h 8) 15 0, rxKib := wbits (wordAt h 8) 31 16,
                              queue := t.cp.queue, unacked := t.cp.unacked, txNext := t.cp.txNext } ∧
           t.cp.unacked.map (fun e => e.2.1) ++ t.cp.queue = s.cp.unacked.map (fun e => e.2.1) ++ s.cp.queue ∧
           t = { s with cp := t.cp, out := t.out }) ∧
       (helloRefused h = true →
         ∃ t, exec (.linkFrameHello w0 w1 w2 w3 h) s = .next t ∧ t.cp.step = 0 ∧
           t.out = s.out ++ [cpLinkOut 0xFFFFFFFF 1 0 (ownHello s true)] ∧
           t = { s with cp := t.cp, out := t.out, regs := t.regs })) ∧
     (wbits w0 7 0 = 0x10 → cpIntact w0 w1 w2 w3 [] = true → wbits w2 3 0 = 2 → cpUp s = true →
       exec (.linkFrameAck w0 w1 w2 w3) s = .next (cpAcked s (w1.extractLsb' 32 32))) ∧
     (wbits w0 7 0 = 0x10 → cpIntact w0 w1 w2 w3 [] = true → wbits w2 3 0 = 3 → cpUp s = true → s.cp.unacked ≠ [] →
       s.cp.unacked.any (fun e => e.1 == w1.extractLsb' 32 32) = false → (∀ e ∈ s.cp.unacked, e.2.2 < 15) →
       ∃ t, exec (.linkFrameNak w0 w1 w2 w3) s = .next t ∧
         t.cp = { s.cp with unacked := s.cp.unacked.map (fun e => (e.1, e.2.1, e.2.2 + 1)) } ∧
         t.out = s.out ++ s.cp.unacked.map (fun e => numberedOut s e.1 e.2.1) ∧
         t = { s with cp := t.cp, out := t.out, regs := t.regs })) ∧
  (∀ (s : State) (q : BitVec 32) (m : CpMsg) (n : Nat) (pre post : List (BitVec 32 × CpMsg × Nat)),
     s.cp.unacked = pre ++ (q, m, n) :: post → (∀ e ∈ pre, e.1 ≠ q) → s.cp.lost = [] → s.cp.queue = [] →
     (cpAcked s q).cp = { s.cp with unacked := post } ∧ cpAcked s q = { s with cp := (cpAcked s q).cp })

/-- The control link goes down (R410, R413, R414): at a step's limit, when frames stay unacknowledged for the long
limit, and when a lane loses lock; link-up starts again at step 1 with the next SEQ 0, and what was not acknowledged
is sent again before what waits. The end of the wait after a refused HELLO starts it too. The short limit sends again.
COMMAND_TIMEOUT (R419): a command whose steward has not answered is answered TIMEOUT, and its event is raised; of a
command that waits for no steward it changes nothing. -/
def Obligations.TheControlLinkRestartsAndCommandsTimeOut : Prop :=
  (∀ s : State, running s = true →
     let restarted : State := { s with
       cp := { s.cp with step := 1, laneLock := 0, aligned := 0, rxFrames := 0, rxKib := 0, rxNext := 0, placed := false,
                         txNext := 0, queue := s.cp.unacked.map (fun e => e.2.1) ++ s.cp.queue, unacked := [] },
       regs := (fadd s .cpCount s.module.activeKd 0 3 47 0 1).regs }
     let down := srcControlPort s.module.activeKd 0
     let lock := srcControlPort s.module.activeKd 1
     (1 ≤ s.cp.step → s.cp.step < 4 → exec .linkUpLimit s = .next restarted) ∧
     (s.cp.step = 0 → exec .linkUpLimit s = .next { s with cp := { s.cp with step := 1 } }) ∧
     (s.cp.step = 4 → s.cp.unacked ≠ [] → exec (.resendTimeout true) s = .next (raiseFault restarted down)) ∧
     (s.cp.step = 4 → s.cp.unacked ≠ [] → (∀ e ∈ s.cp.unacked, e.2.2 < 15) →
       ∃ t, exec (.resendTimeout false) s = .next t ∧
         t.cp = { s.cp with unacked := s.cp.unacked.map (fun e => (e.1, e.2.1, e.2.2 + 1)) } ∧
         t.out = s.out ++ s.cp.unacked.map (fun e => numberedOut s e.1 e.2.1) ∧
         t = { s with cp := t.cp, out := t.out, regs := t.regs }) ∧
     (∀ lane, lane < 4 → 2 ≤ s.cp.step → s.cp.step ≤ 4 →
       exec (.controlLaneLockLoss lane) s = .next (
         let r := raiseFault s lock
         if cpUp r then raiseFault (cpRestart r) (srcControlPort r.module.activeKd 0) else cpRestart r)) ∧
     (∀ lane, lane < 4 → 2 ≤ s.cp.step → s.cp.step ≤ 4 → onlyReports s lock = true → onlyReports s down = true →
       mapRising 0 s.regs = true →
       ∃ t, exec (.controlLaneLockLoss lane) s = .next t ∧ t.cp.step = 1 ∧ t.cp.unacked = [] ∧ t.cp.rxNext = 0 ∧
         t.cp.txNext = 0 ∧ t.cp.remembered = s.cp.remembered ∧ t.cp.awaiting = s.cp.awaiting)) ∧
  (∀ (s : State) (tag : Nat), running s = true →
     (∀ opcode, stewardWaits tag s.cp.awaiting = some opcode →
       ∃ u, u = answer { s with cp := { s.cp with
             awaiting := s.cp.awaiting.filter (fun a => (stewardWaits tag [a]).isNone) } } tag opcode stTimeout (failWord 8 0 0) ∧
         exec (.commandTimeout tag) s = .next (raiseFault u (srcDistaff s.module.activeKd 4)) ∧
         stewardWaits tag u.cp.awaiting = none ∧
         { type := 2, tag := BitVec.ofNat 32 tag, opcode := BitVec.ofNat 16 opcode, status := 5,
           payload := failWord 8 0 0 } ∈ u.cp.queue ++ u.cp.unacked.map (fun e => e.2.1) ∧
         u = { s with cp := u.cp, out := u.out }) ∧
     (stewardWaits tag s.cp.awaiting = none → exec (.commandTimeout tag) s = .next s))

/-! ### Faults, watchdogs and records (R485-R496) -/

/-- What an event does by its source's severity (R485, R486): nothing at 0; at 1 it is counted; at 2 it is also
recorded with ACTION 0, and so is every event of a unit or die that is already contained (R488). A record that is the
source's first in its millisecond, where neither it nor its event displaces another, is stored, numbered, among the last 4,096 and the source's millisecond begins; one
within it is kept as the last suppressed (R490, R491). At the end of a source's millisecond the last event suppressed
in it is recorded with the number of the others, and a new millisecond begins; with none suppressed the millisecond
just ends (R491). At the end of its pulse ERR_N is low only while HOLD or the collector holds it (R493). -/
def Obligations.EventsActBySeverity : Prop :=
  (∀ (s : State) (id : Nat) (detail : List Word),
     let sev := fget s .faultSource (id / 2048) 0 (id % 2048) 2 0
     let counted := fadd s .faultSource (id / 2048) 0 (id % 2048) 63 32 1
     let at2 := record counted id sev 0 false (sourceUnit id) (autoDetail counted id detail)
     (sev = 0 → raiseDetail s id detail = s) ∧
     (sev = 1 → raiseDetail s id detail = counted) ∧
     (sev = 2 → raiseDetail s id detail = at2) ∧
     (2 < sev → alreadyContained s id = true → raiseDetail s id detail = at2) ∧
     (∀ action inj addr, mapFind s.windows id = none → eventRoom s 1 = true → recordRoom s 1 = true →
       let t := record s id sev action inj addr detail
       let r : FaultRec := { severity := sev, injected := inj, action := action, source := id, seq := s.nextRecord,
                             address := addr, suppressed := 0, cycle := Config.freeCycle s.freeCtr, detail := detail }
       t.records = (s.records ++ [r]).drop (s.records.length + 1 - 4096) ∧
       t.nextRecord = s.nextRecord + 1 ∧ t.windows = mapIns s.windows id { count := 0, last := none } ∧
       t = { s with records := t.records, nextRecord := t.nextRecord, windows := t.windows, freeCtr := t.freeCtr,
                    regs := t.regs, dies := t.dies, cp := t.cp, out := t.out }) ∧
     (∀ action inj addr w, mapFind s.windows id = some w →
       let r : FaultRec := { severity := sev, injected := inj, action := action, source := id, seq := 0,
                             address := addr, suppressed := 0, cycle := Config.freeCycle s.freeCtr, detail := detail }
       record s id sev action inj addr detail
         = { s with freeCtr := s.freeCtr + 1, windows := mapIns s.windows id { count := w.count + 1, last := some r } })) ∧
  (∀ s : State, running s = true →
     (∀ id w r, mapFind s.windows id = some w → w.last = some r → r.source = id → eventRoom s 1 = true →
       recordRoom s 1 = true →
       ∃ t, exec (.suppressedRecord id) s = .next t ∧ t.nextRecord = s.nextRecord + 1 ∧
         t.records = (s.records ++ [{ r with seq := s.nextRecord, suppressed := w.count - 1 }]).drop
           (s.records.length + 1 - 4096) ∧
         t.windows = mapIns s.windows id { count := 0, last := none } ∧
         t = { s with records := t.records, nextRecord := t.nextRecord, windows := t.windows, freeCtr := t.freeCtr,
                      regs := t.regs, dies := t.dies, cp := t.cp, out := t.out }) ∧
     (∀ id w, mapFind s.windows id = some w → w.last = none →
       exec (.suppressedRecord id) s = .next { s with windows := mapDel s.windows id }) ∧
     (∀ id, mapFind s.windows id = none → exec (.suppressedRecord id) s = .next s) ∧
     (s.module.pulse = true → s.module.phase ≠ 0 →
       ∃ t, exec .pulseEnd s = .next t ∧
         t = { s with
               module := { s.module with pulse := false,
                                         errLow := s.module.errHeld || fget s .errCtrl 30 0 0 32 32 == 1 },
               out := t.out }) ∧
     (s.module.pulse = false → exec .pulseEnd s = .next s))

/-- A watchdog raises one event in an episode (R494, R495, R504): an engine's, with ENGINE_STATUS and WATCHDOG_STATUS as
DETAIL, once its QUIET_US has reached LIMIT_US; a steward's, which then does not answer; of the Distaff of the active
die, after which the standby takes over, or ERR_N is held low where none is MIRRORED. Lost mirror traffic raises no
event of its own. -/
def Obligations.WatchdogsExpireOncePerEpisode : Prop :=
  ∀ s : State, running s = true →
    (∀ die slot engine, 10 ≤ die → die < 26 → slot < 17 → engine < 4 →
      let key := 32 * die + slot
      let e := getEng s key engine
      let u := eadd (setEng s key engine { e with wdRaised := true }) .watchdogStatus key engine 0 63 32 1
      (watchdogCounts e = true → e.wdRaised = false → engineClocked s key = true →
        eget s .watchdogCtrl key engine 0 31 0 ≠ 0 →
        exec (.engineQueueWatchdog die slot engine) s = .next (raiseDetail u (srcEngine key engine 2)
          [word (engineStatusWord (getEng u key engine)),
           word (eget u .watchdogStatus key engine 0 63 32 * 2 ^ 32 + eget u .watchdogCtrl key engine 0 31 0)])) ∧
      (watchdogCounts e = false ∨ e.wdRaised = true ∨ engineClocked s key = false ∨
        eget s .watchdogCtrl key engine 0 31 0 = 0 → exec (.engineQueueWatchdog die slot engine) s = .next s)) ∧
    (∀ die, die < 32 →
      ((getDie s die).powered = true → (getDie s die).hung = false →
        exec (.stewardWatchdog die) s = .next (raiseFault
          { s with dies := mapPut s.dies Die.init die { getDie s die with hung := true } } (srcSteward die 0))) ∧
      ((getDie s die).powered = false ∨ (getDie s die).hung = true → exec (.stewardWatchdog die) s = .next s)) ∧
    (∀ die, 30 ≤ die → die < 32 →
      (s.episodes.contains (die - 30) = true → exec (.distaffWatchdog die false) s = .next s) ∧
      (s.episodes.contains (die - 30) = false → die ≠ s.module.activeKd →
        exec (.distaffWatchdog die false) s
          = .next (raiseFault { s with episodes := insNat s.episodes (die - 30) } (srcDistaff die 0))) ∧
      (die = s.module.activeKd →
        (s.module.standby = 2 →
          (s.sec.session.isSome = true → onlyReports s (srcSecurity (61 - die) 0) = true ∧ mapRising 0 s.regs = true ∧
            debugLevel s < 3) →
          (∃ t, exec (.distaffWatchdog die true) s = .next t ∧ FailedOver s t) ∧
          (s.episodes.contains (die - 30) = false → onlyReports s (srcDistaff die 0) = true → mapRising 0 s.regs = true →
            ∃ t, exec (.distaffWatchdog die false) s = .next t ∧
              FailedOver (raiseFault { s with episodes := insNat s.episodes (die - 30) } (srcDistaff die 0)) t)) ∧
        (s.module.standby ≠ 2 →
          ∃ t, exec (.distaffWatchdog die true) s = .next t ∧
            t = { s with module := { s.module with errHeld := true, errLow := true }, out := t.out })))

/-! ### Power, resets, bring-up, reboot (R436-R450, R496, R500, R513, R516, R517) -/

/-- PWR_EN, RST_N, input power and a commanded OFF (R436, R443, R445, R448, R513, R516, R517): power goes, RST_N holds the
part in reset, and the return of each is a cold reset with its RESET_CAUSE. -/
def Obligations.PinsAndPowerResetThePart : Prop :=
  ∀ s : State,
    let off : Module := { Module.init with state := 0, pwrEn := s.module.pwrEn, rstN := s.module.rstN,
                                           inputOk := s.module.inputOk, resetCause := s.module.resetCause,
                                           tripFlag := s.module.tripFlag, errLow := false }
    (s.module.inputOk = true → ∃ t, exec .pwrEnLow s = .next t ∧ PowerGone s t { off with pwrEn := false }) ∧
    (s.module.inputOk = true → ∃ t, exec .inputLoss s = .next t ∧
      PowerGone s t { off with inputOk := false, tripFlag := false, resetCause := 0 }) ∧
    (s.module.offPending = true → ∃ t, exec .powerRemoval s = .next t ∧ PowerGone s t off) ∧
    (s.module.offPending = false → exec .powerRemoval s = .next s) ∧
    (s.module.inputOk = true → s.module.pwrEn = true → s.module.tripFlag = false → s.module.held = false →
      ∃ t, exec .rstNLow s = .next t ∧
        PowerGone s t { off with rstN := false, held := true, resetCause := 2, errLow := true }) ∧
    (s.module.held = true → ∃ t, exec .rstNRising s = .next t ∧
      ColdReset s t s.module.pwrEn true s.module.inputOk (if s.module.tripFlag then 3 else s.module.resetCause)) ∧
    (s.module.held = false → exec .rstNRising s = .next { s with module := { s.module with rstN := true } }) ∧
    (s.module.pwrEn = false → s.module.inputOk = true → s.module.rstN = true → ∃ t, exec .pwrEnRising s = .next t ∧
      ColdReset s t true true true (if s.module.tripFlag then 3 else 1)) ∧
    (s.module.pwrEn = false → s.module.inputOk = true → s.module.rstN = false → ∃ t, exec .pwrEnRising s = .next t ∧
      PowerGone s t { off with pwrEn := true, held := true, resetCause := if s.module.tripFlag then 3 else 1,
                               errLow := true }) ∧
    (s.module.inputOk = false → s.module.pwrEn = true → ∃ t, exec .inputRestore s = .next t ∧
      ColdReset s t true s.module.rstN true (if s.module.tripFlag then 3 else 0)) ∧
    (s.module.inputOk = false → s.module.pwrEn = false →
      exec .inputRestore s = .next { s with module := { s.module with inputOk := true } }) ∧
    (s.module.inputOk = true → exec .inputRestore s = .next s) ∧
    (s.module.pwrEn = true → exec .pwrEnRising s = .next s)

/-- Bring-up (R446): B0 and B1 stop it when they fail or are late, with the event of the phase; each phase that ends
begins the next; from B2 on the limit ends a phase as its completion does; a channel that fails B3 and a lane that
fails B5 are left out; with B6 the module is READY and the ports and planes that passed are LIVE. A phase of a die's
reboot that ends well begins the next or ends the reboot, with the die out of containment and a control die to be
resynchronised; one that fails ends it with the die contained; DIE_REBOOT_STATUS follows (R500). A standby that is not
contained is MIRRORED once it has resynchronised, a former active die boots first (R496). -/
def Obligations.BringUpAndRebootsEnd : Prop :=
  (∀ s : State, bringingUp s = true → eventRoom s 300 = true →
     (s.module.phase = 0 →
       (∃ t, exec (.bringupPhase []) s = .next t ∧ t.module.phase = 1 ∧ t.module.state = 1 ∧
         t.sec.attestKey = some (shake256 57 (padTo 57 (Config.noise (s.freeCtr + 2)) ++ natBytes 4 s.sec.bootCount.toNat)) ∧
         t = { s with module := t.module, sec := { s.sec with attestKey := t.sec.attestKey }, freeCtr := s.freeCtr + 3,
                      dies := t.dies, regs := t.regs, cp := t.cp, out := t.out })) ∧
     (s.module.phase ≤ 1 → ∀ i ∈ [Instr.bringupLimit [], .bringupPhase [unitAddr 30 0 0]],
       ∃ t, exec i s = .next t ∧ t.module = { s.module with stopped := true } ∧
         t = { s with module := t.module, freeCtr := s.freeCtr + 1, dies := t.dies, regs := t.regs, cp := t.cp,
                      out := t.out }) ∧
     (s.module.phase = 1 → ∀ b, loaderRun s 30 (getBoot s 30) = (b, 0) → b.running.isSome = true →
       ∃ t, exec (.bringupPhase []) s = .next t ∧
         t.module = { s.module with phase := 2, activeKd := 30, standby := 2 } ∧
         t.sec = { s.sec with boot := mapIns s.sec.boot 30 b } ∧
         t = { s with module := t.module, sec := t.sec, freeCtr := s.freeCtr + 2, dies := t.dies, regs := t.regs,
                      cp := t.cp, out := t.out }) ∧
     (2 ≤ s.module.phase → ∀ failed, exec (.bringupLimit failed) s = exec (.bringupPhase failed) s) ∧
     (s.module.phase = 3 →
       (∃ t, exec (.bringupPhase []) s = .next t ∧ t.module = { s.module with phase := 4 } ∧
         t = { s with module := t.module, freeCtr := s.freeCtr + 2, dies := t.dies, regs := t.regs, cp := t.cp,
                      out := t.out }) ∧
       (∀ die ch, 26 ≤ die → die < 30 → ch < 44 → (getDie s die).contained = false →
         ∃ t, exec (.bringupPhase [unitAddr die 0x19 ch]) s = .next t ∧ t.module.phase = 4 ∧
           unitKey die 0x19 ch ∈ t.module.failed ∧ t.units = s.units)) ∧
     (s.module.phase = 4 → ∃ t, exec (.bringupPhase []) s = .next t ∧ t.module = { s.module with phase := 5 } ∧
       t = { s with module := t.module, ports := t.ports, freeCtr := t.freeCtr, dies := t.dies, regs := t.regs, cp := t.cp,
                    out := t.out }) ∧
     (s.module.phase = 5 → mapRising 0 s.regs = true → mapRising 0 s.units = true →
       (∀ p, p < 128 → pget s .portStatus p 0 1 0 ≠ 2) →
       ∃ t, exec (.bringupPhase []) s = .next t ∧ t.module = { s.module with phase := 6, state := 3 } ∧
         (∀ p, p < 128 → passed s (p / 16) 0x01 (p % 16) = true → portLive t p = true) ∧
         (∀ pl, pl < 2 → passed s (8 + pl) 0x08 0 = true → planeLive t pl = true) ∧
         t.spindles = s.spindles ∧ t.erg = s.erg)) ∧
  (∀ s : State, running s = true →
     (∀ die p, s.module.reboot = some (die, p) → die < 32 →
       (2 < p ∨ ∃ b, loaderRun s die (getBoot s die) = (b, 0) ∧ b.running.isSome = true) → eventRoom s 2 = true →
       (∀ q, rebootNext die p = some q →
         ∃ t, exec (.rebootPhase true) s = .next t ∧ t.module = { s.module with reboot := some (die, q) } ∧
           rget t .dieRebootStatus 30 0 0 = die * 2 ^ 16 + q * 2 ^ 8 + 1) ∧
       (rebootNext die p = none →
         ∃ t, exec (.rebootPhase true) s = .next t ∧
           t.module = { s.module with reboot := none, standby := if die < 30 then s.module.standby else 1 } ∧
           rget t .dieRebootStatus 30 0 0 = die * 2 ^ 16 + p * 2 ^ 8 + 2 ∧
           (mapRising 0 s.dies = true → (getDie t die).contained = false) ∧ t.hanks = s.hanks ∧ t.erg = s.erg ∧
           t.ports = s.ports ∧ t.spindles = s.spindles)) ∧
     (∀ die p, s.module.reboot = some (die, p) → die < 32 → 2 < p →
       ∃ t, exec (.rebootPhase false) s = .next t ∧ t.module.reboot = none ∧
         rget t .dieRebootStatus 30 0 0 = die * 2 ^ 16 + p * 2 ^ 8 + 3) ∧
     (s.module.reboot = none → ∀ ok, exec (.rebootPhase ok) s = .next s) ∧
     (s.module.standby = 1 →
       ((getDie s (61 - s.module.activeKd)).contained = false →
         exec .resynchronise s = .next { s with module := { s.module with standby := 2 } }) ∧
       ((getDie s (61 - s.module.activeKd)).contained = true → (s.module.activeKd = 30 ∨ s.module.activeKd = 31) →
         ∀ b, loaderRun s (61 - s.module.activeKd) (getBoot s (61 - s.module.activeKd)) = (b, 0) →
         b.running.isSome = true → mapRising 0 s.dies = true →
         ∃ t, exec .resynchronise s = .next t ∧ t.module = { s.module with standby := 2 } ∧
           (getDie t (61 - s.module.activeKd)).contained = false ∧
           t = { s with module := t.module, dies := t.dies, regs := t.regs, sec := t.sec })) ∧
     (s.module.standby ≠ 1 → exec .resynchronise s = .next s))

/-- A reading of a die's temperature is kept (R450): it warns from WARN_C on while that is below TRIP_C, ends the warning
5 degrees below, and at TRIP_C trips the module: STANDBY, with TRIPPED, for a die that is no control die (R447), no power
for one that is (R448). A lost clock clears LOCKED and raises its event (R28, R484); a relock that completes sets
DIE_CLOCK and LOCKED and answers the `power.set` that asked for it (R444). A die without power, in a relock or under a D3
session reads nothing and has no clock to lose. -/
def Obligations.TemperatureAndClocks : Prop :=
  (∀ (s : State) (die : Nat), die < 32 →
    (running s = false ∨ (getDie s die).powered = false ∨ (getDie s die).relock ≠ none ∨ scanOpen s die = true) →
    exec (.clockLock die) s = .next s ∧ ∀ temp, exec (.thermal die temp) s = .next s) ∧
  ∀ (s : State) (die : Nat), running s = true → (getDie s die).powered = true → scanOpen s die = false →
    ((getDie s die).relock = none → die < 32 → ∀ temp : BitVec 16,
      let u := fset s .thermalStatus die 0 0 15 0 temp.toNat
      let warn := fget u .thermalCtrl die 0 0 7 0
      let tripC := fget u .thermalCtrl die 0 0 15 8
      let warned := fget u .thermalStatus die 0 0 16 16
      (temp.toInt < (8 * tripC : Nat) →
        (warned ≠ 1 → tripC ≤ warn ∨ temp.toInt < (8 * warn : Nat) → exec (.thermal die temp) s = .next u) ∧
        (warned ≠ 1 → warn < tripC → (8 * warn : Nat) ≤ temp.toInt →
          exec (.thermal die temp) s = .next (sendThermal (fset u .thermalStatus die 0 0 16 16 1) die 0 temp warn)) ∧
        (warned = 1 → temp.toInt ≤ 8 * ((warn : Int) - 5) →
          exec (.thermal die temp) s = .next (sendThermal (fset u .thermalStatus die 0 0 16 16 0) die 1 temp warn)) ∧
        (warned = 1 → 8 * ((warn : Int) - 5) < temp.toInt → exec (.thermal die temp) s = .next u)) ∧
      ((8 * tripC : Nat) ≤ temp.toInt →
        (die < 30 → ∃ t, exec (.thermal die temp) s = .next t ∧ t.module.state = 1 ∧ t.module.tripped = true ∧
          t.module.tripNoted = true ∧ t.hanks = [] ∧ t.caravans = [] ∧ ∀ d, d < 30 → (getDie t d).powered = false) ∧
        (30 ≤ die → ∃ t, exec (.thermal die temp) s = .next t ∧ t.module.state = 0 ∧ t.module.tripFlag = true ∧
          ∀ d, d < 32 → (getDie t d).powered = false))) ∧
    ((getDie s die).relock = none → die < 32 → exec (.clockLock die) s
      = .next (raiseFault { s with dies := mapPut s.dies Die.init die { getDie s die with unlocked := true } }
          (srcSteward die 5))) ∧
    ((getDie s die).relock = none → 10 ≤ die → die < 26 → exec (.relock die) s
      = .next { s with dies := mapPut s.dies Die.init die { getDie s die with unlocked := false } }) ∧
    (∀ f tag, (getDie s die).relock = some f → 10 ≤ die → die < 26 →
      s.cp.awaiting = [.relock tag die] → f < 2 ^ 16 → mapRising 0 s.regs = true → mapRising 0 s.dies = true →
        ∃ t, exec (.relock die) s = .next t ∧ AnswersOk t tag 0x40 [] ∧ t.cp.awaiting = [] ∧
          fget t .dieClock die 0 0 15 0 = f ∧
          t = { s with dies := mapPut s.dies Die.init die { getDie s die with relock := none, unlocked := false },
                       regs := t.regs, cp := t.cp, out := t.out })

/-! ### Fabric ports (R385-R403) -/

/-- Frames as they arrive at an UP port (R385-R387, R390, R391): a START in sequence opens its frame; a header flit on a
VC it may not use, or that fails a check of R68, is noted with its reason in the frame, and any other becomes a packet at
the port die; END acknowledges a whole frame, counts the discard it notes, returns its credits or notes them, and completes
its packet; a START or END out of place is a transmission error: NAK, and units are discarded until the frame is resent. So
is a wrong CRC, after which what was forwarded ends bad, and a wrong number of flits, which LENGTH counts (R69; that both
apply is the model's choice, log 100). A sampled frame leaves its record (R133). -/
def Obligations.FramesAreReceived : Prop :=
  (∀ (s : State) (p : Nat), p < 128 → portUp s p = true →
    let q := getPort s p
    let error : State := setPort { padd s .linkCount p 0 47 0 1 with
        out := s.out ++ [.linkWord p (word (5 + q.rxSeq * 2 ^ 16))] } p
      { q with rxFrame := none, rxDiscard := true,
               rxHeld := match q.rxFrame with
                 | some f => if f.hdr.isSome then some f else q.rxHeld
                 | none => q.rxHeld }
    (∀ w, wbits w 27 16 = q.rxSeq → q.rxFrame = none → 1 ≤ wbits w 38 32 → wbits w 38 32 ≤ 65 →
      exec (.frameStart p w) s
        = .next (setPort s p { q with rxFrame := some (openFrame q w), rxHeld := none, rxDiscard := false })) ∧
    (∀ w, wbits w 27 16 ≠ q.rxSeq ∨ q.rxFrame.isSome = true ∨ wbits w 38 32 = 0 ∨ 65 < wbits w 38 32 →
      exec (.frameStart p w) s = .next (if q.rxDiscard = true ∧ wbits w 27 16 ≠ q.rxSeq then s else error)) ∧
    (∀ f h, q.rxFrame = some f → f.hdr = none → f.resumed = false →
      let n := sampleTick s p 0 q.sampIn
      let h' := edgeHeader s p h
      let noted (r : Nat) : State := setPort s p { q with
        sampIn := n.2,
        rxFrame := some { f with hdr := some h, sample := n.1, reason := some r, taken := some (h', h), left := true } }
      (14 ≤ f.vc → exec (.headerFlit p h) s = .next (noted 16)) ∧
      (f.vc < 14 → (∃ r, kindRow (hKind h) = some r ∧ r.cls ≠ f.vc / 2) ∨ (hOrd h = true ∧ f.vc % 2 = 0) →
        exec (.headerFlit p h) s = .next (noted 17)) ∧
      (f.vc < 14 → (∀ r, kindRow (hKind h) = some r → r.cls = f.vc / 2) → (hOrd h = true → f.vc % 2 = 1) →
        (∀ r, headerCheck s p h' f.flits = some r → exec (.headerFlit p h) s = .next (noted r)) ∧
        (headerCheck s p h' f.flits = none →
          exec (.headerFlit p h) s = .next (arrivePkt
            { setPort s p { q with
                sampIn := n.2, rxFrame := some { f with hdr := some h, sample := n.1, uid := some s.nextUid } } with
              nextUid := s.nextUid + 1 } p
            { mkPkt s.nextUid (linkOf (p / 16)) h' [] with
              raw := h, flits := f.flits, vc := f.vc, chargeVc := f.vc, detour := f.detour, complete := false,
              inPort := some p, edge := isEdge s p })))) ∧
    (∀ f h, q.rxFrame = some f →
      (f.hdr.isSome = true → exec (.headerFlit p h) s = .next s) ∧
      (f.hdr = none → f.resumed = true → exec (.headerFlit p h) s
        = .next (setPort s p { q with rxFrame := some { f with hdr := some h } }))) ∧
    (∀ h, q.rxFrame = none → exec (.headerFlit p h) s = .next s) ∧
    (∀ w flits f h, q.rxFrame = some f → f.hdr = some h → wbits w 27 16 = f.seq →
      let crc := (frameCrc f.word (hBytes h ++ flits)).toNat
      let acked : State := { setPort s p { q with rxSeq := (q.rxSeq + 1) % 4096, rxFrame := none } with
        out := s.out ++ [.linkWord p (word (4 + f.seq * 2 ^ 16))] }
      let cut : State := modPort error p (fun q => { q with rxHeld := none })
      let bad : Bool := wbit w 8
      (64 * (f.flits - 1) = flits.length → crc = wbits w 63 32 →
        (f.uid = none → exec (.frameEnd p w flits) s = .next (sampleFrame
          (countFrame raiseFault (returnCredits acked p f.vc (f.flits - f.shared) f.shared) p f) p f bad flits)) ∧
        (∀ u, f.uid = some u → f.left = true → exec (.frameEnd p w flits) s
          = .next (sampleFrame (packetWhole (returnCredits acked p f.vc (f.flits - f.shared) f.shared) u
              (fun k => { k with bad := bad || k.bad, payload := flits })) p f bad flits)) ∧
        (∀ u, f.uid = some u → f.left = false → exec (.frameEnd p w flits) s
          = .next (sampleFrame (packetWhole
              (modPort acked p (fun q => { q with rxBuf := q.rxBuf ++ [(u, f.vc, f.flits - f.shared, f.shared)] })) u
              (fun k => { k with bad := bad || k.bad, payload := flits })) p f bad flits))) ∧
      (64 * (f.flits - 1) = flits.length → crc ≠ wbits w 63 32 →
        (f.uid = none → exec (.frameEnd p w flits) s = .next cut) ∧
        (∀ u, f.uid = some u → stillHere cut p u = true → exec (.frameEnd p w flits) s = .next (forget cut p u)) ∧
        (∀ u, f.uid = some u → stillHere cut p u = false → exec (.frameEnd p w flits) s
          = .next (raiseFault (endBad (padd cut .linkCount p 2 47 0 1) p u id) (srcPort p 7)))) ∧
      (64 * (f.flits - 1) ≠ flits.length → crc = wbits w 63 32 →
        (f.uid = none → exec (.frameEnd p w flits) s = .next cut) ∧
        (∀ u, f.uid = some u → stillHere cut p u = true → exec (.frameEnd p w flits) s
          = .next (dropCounted (forget cut p u) p 2 (edgeHeader (forget cut p u) p h) h)) ∧
        (∀ u, f.uid = some u → stillHere cut p u = false → exec (.frameEnd p w flits) s = .next (
          let v := raiseFault (endBad cut p u (fun k => { k with payload := padTo (64 * (f.flits - 1)) flits })) (srcPort p 7)
          dropCounted v p 2 (edgeHeader v p h) h))) ∧
      (64 * (f.flits - 1) ≠ flits.length → crc ≠ wbits w 63 32 → exec (.frameEnd p w flits) s = .next error)) ∧
    (∀ w flits f h, q.rxFrame = some f → f.hdr = some h → wbits w 27 16 ≠ f.seq →
      exec (.frameEnd p w flits) s = .next error) ∧
    (∀ w flits, q.rxFrame = none → exec (.frameEnd p w flits) s = .next (if q.rxDiscard then s else error)) ∧
    (∀ w flits f, q.rxFrame = some f → f.hdr = none → exec (.frameEnd p w flits) s = .next error)) ∧
  (∀ (s : State) (p : Nat), p < 128 → portUp s p = false →
    (∀ w, exec (.frameStart p w) s = .next s) ∧ (∀ h, exec (.headerFlit p h) s = .next s) ∧
    ∀ w flits, exec (.frameEnd p w flits) s = .next s)

/-- Frames as an UP port sends them (R121-R125, R390): the egress arbiter takes a caravan packet before CDN and CUP
before the shared tier, but the shared tier after fifteen others; the frame goes out with the next SEQ, its flits
charged to dedicated before shared credits, debits both buckets of its class unless it rides an open caravan, and stays in
the replay buffer until ACK releases it; a packet marked bad is discarded at an edge port (R69); NAK and the replay timer
send a frame and those after it again, or take the link down at RETRY_LIMIT; a refill adds to each bucket the rate of its
register, up to its size. CREDIT words add what they return, dedicated for a VC or shared, and end the episode of the credit
watchdog; that watchdog raises one event per episode of a VC whose head waits for credit, unless it is disabled (R388,
R389). -/
def Obligations.FramesAreSentAndCreditsReturned : Prop :=
  (∀ (s : State) (p : Nat), p < 128 → portUp s p = true →
     let q := getPort s p
     (∀ k, q.run < 15 ∨ sharedChoice s p q = none → caravanChoice s q = some k →
       egressChoice s p = some (k, 1, { q with run := q.run + 1 })) ∧
     (∀ k, q.run < 15 ∨ sharedChoice s p q = none → caravanChoice s q = none → priorityChoice q = some k →
       egressChoice s p = some (k, 2, { q with run := q.run + 1 })) ∧
     (∀ e, sharedChoice s p q = some e → 15 ≤ q.run ∨ (caravanChoice s q = none ∧ priorityChoice q = none) →
       egressChoice s p = some (e.1, 3, { e.2 with run := 0 })) ∧
     (egressChoice s p = none → exec (.egressArbitration p) s = .next s) ∧
     (∀ k tier q', egressChoice s p = some (k, tier, q') → k.bad = true → isEdge s p = true →
       exec (.egressArbitration p) s = .next (discardAt
         (modPort s p (fun q => { q with stage := removeFirst (fun e => e.2.uid == k.uid && e.2.vc == k.vc) q.stage }))
         p 10 k.hdr k.raw)) ∧
     (∀ k tier q', egressChoice s p = some (k, tier, q') → (k.bad = false ∨ isEdge s p = false) →
       let c := countExcess (setPort s p q') p k
       let v := if rideCaravan c k then c else debit c p k
       let r := getPort v p
       let ded := min k.flits (mapGet r.credDed 0 k.vc)
       let n := sampleTick v p 1 r.sampOut
       let f : TxFrame := { seq := r.txSeq, pkt := k, shared := k.flits - ded, resent := 0, sample := n.1 && !k.complete }
       let w : State := { setPort v p (roundAdd { r with
             stage := removeFirst (fun e => e.2.uid == k.uid && e.2.vc == k.vc) r.stage,
             credDed := countSub r.credDed k.vc ded, credShared := r.credShared - (k.flits - ded),
             txSeq := (r.txSeq + 1) % 4096, replay := r.replay ++ [f], sampOut := n.2 } k tier) with
           out := v.out ++ [.frame p (startWord k r.txSeq (k.flits - ded)) k] }
       let e : State := { w with out := w.out ++ [.frameEnd p (endWord f)] }
       (k.complete = false → exec (.egressArbitration p) s = .next w) ∧
       (k.complete = true → n.1 = false → exec (.egressArbitration p) s = .next e) ∧
       (k.complete = true → n.1 = true → exec (.egressArbitration p) s
         = .next (takeSample e p 1 k.bad none k.vc k.flits (hBytes k.hdr ++ k.payload)))) ∧
     (∀ w pre f post, q.replay = pre ++ f :: post → (∀ x ∈ pre, x.seq ≠ f.seq) → wbits w 27 16 = f.seq →
       exec (.linkWordAck p w) s = .next (setPort s p { q with replay := post }) ∧
       (f.resent < max 1 (pget s .portCtrl p 0 39 32) →
         ∃ t, exec (.linkWordNak p w) s = .next t ∧
           t.ports = (setPort s p { q with replay := pre ++ (f :: post).map (fun x => { x with resent := x.resent + 1 }) }).ports ∧
           t.out = s.out ++ (f :: post).flatMap (fun x =>
             .frame p (startWord x.pkt x.seq x.shared) x.pkt :: (if x.pkt.complete then [.frameEnd p (endWord x)] else [])) ∧
           t = { s with ports := t.ports, out := t.out, regs := t.regs }) ∧
       (max 1 (pget s .portCtrl p 0 39 32) ≤ f.resent →
         exec (.linkWordNak p w) s = .next (oneCycle (fun s => linkLost raiseWith s p 7) s)) ∧
       (pre = [] → exec (.replayTimeout p) s = exec (.linkWordNak p w) s)) ∧
     (q.replay = [] → exec (.replayTimeout p) s = .next s) ∧
     (mapRising 0 s.ports = true → mapRising 0 q.tokens = true →
       ∃ t, exec (.shaperRefill p) s = .next t ∧
         getPort t p = { q with tokens := (getPort t p).tokens, shape := shapeNow s p } ∧
         (∀ c, c < 7 →
           bucket (getPort t p) c = min (bucket q c + pget s .shapeRate p c 15 0) (64 * max 1 (pget s .shapeSize p c 15 0) : Nat) ∧
           bucket (getPort t p) (8 + c)
             = min (bucket q (8 + c) + pget s .shapeRate p c 31 16) (64 * max 1 (pget s .shapeSize p c 31 16) : Nat)) ∧
         t = { s with ports := t.ports })) ∧
  (∀ (s : State) (p : Nat), p < 128 → portUp s p = true →
     let q := getPort s p
     (∀ w, wbit w 8 = true → exec (.credit p w) s
       = .next (setPort s p { q with credShared := q.credShared + wbits w 31 16, stallRaised := [] })) ∧
     (∀ w, wbit w 8 = false → exec (.credit p w) s
       = .next (setPort s p { q with credDed := countAdd q.credDed (wbits w 7 4) (wbits w 31 16),
                                     stallRaised := q.stallRaised.filter (· != wbits w 7 4) })) ∧
     (∀ vc, vc < 14 →
       (pget s .portCtrl p 0 31 16 ≠ 0 → vcStalled q vc = true → q.stallRaised.contains vc = false →
         exec (.creditStall p vc) s = .next (raiseFault
           (padd (setPort s p { q with stallRaised := insNat q.stallRaised vc }) .linkCount p 8 47 0 1) (srcPort p 2))) ∧
       (pget s .portCtrl p 0 31 16 = 0 ∨ vcStalled q vc = false ∨ q.stallRaised.contains vc = true →
         exec (.creditStall p vc) s = .next s))) ∧
  (∀ (s : State) (p : Nat), p < 128 → portUp s p = false →
     exec (.egressArbitration p) s = .next s ∧ exec (.replayTimeout p) s = .next s ∧
     (∀ vc, vc < 14 → exec (.creditStall p vc) s = .next s) ∧
     ∀ w, exec (.linkWordAck p w) s = .next s ∧ exec (.linkWordNak p w) s = .next s ∧ exec (.credit p w) s = .next s)

/-- Training (R392-R395): signal and equalisation are noted lane by lane, and phase 2 begins, with ALIGN on each lane, when
every usable lane is equalised past B6; an ALIGN locks its lane, and phase 3 begins, with our HELLO, with the last; a HELLO
that passes its checks brings the port UP with the lane layout, the partner's credits, full buckets and a place in the
calendars that starts afresh (R131), one that does not fails the training with its cause; each limit fails its phase, or
goes on with the lane that has done its work, and the wait after a failure begins anew. The polarity an equalisation finds
and the codeword count of an ALIGN are free values (log 96). -/
def Obligations.PortsTrain : Prop :=
  ∀ (s : State) (p l : Nat), p < 128 → l < 2 →
    let q := getPort s p
    let u := usableLanes s p
    let e := q.equalised.toNat &&& u
    let bit : BitVec 2 := BitVec.ofNat 2 (2 ^ l)
    let fails (s : State) (cause : Nat) : State :=
      raiseFault (modPort (padd (pset s .portStatus p 0 31 28 cause) .linkCount p 7 47 0 1) p
        (fun q => { q with phase := 5, equalised := 0, aligned := 0 })) (srcPort p 1)
    let aligns (lanes : Nat) (s : State) : State :=
      ((upTo 0 2).filter (fun k => lanes.testBit k)).foldl (fun s k => sendAlignOn s p k)
        (modPort s p (fun q => { q with phase := 2 }))
    let helloes (s : State) : State :=
      { modPort s p (fun q => { q with phase := 3 }) with out := s.out ++ [.linkWord p (word (helloWord s p))] }
    exec (.signalDetect p l) s = .next (setPort s p { q with signal := q.signal ||| bit }) ∧
    (q.phase = 1 → u.testBit l = true → q.aligned = 0 →
      let n := freeBelow 2 s
      let v := modPort (fset (fset n.2 .laneStatus (p / 16) (dieLane p l) 0 0 0 1) .laneStatus (p / 16) (dieLane p l) 0 3 3 n.1)
        p (fun q => { q with equalised := q.equalised ||| bit, signal := q.signal ||| bit })
      (s.module.phase < 6 ∨ (q.equalised ||| bit).toNat &&& u ≠ u → exec (.equalisationComplete p l) s = .next v) ∧
      (6 ≤ s.module.phase → (q.equalised ||| bit).toNat &&& u = u →
        exec (.equalisationComplete p l) s = .next (aligns u v))) ∧
    (∀ w, q.phase = 2 → q.equalised.getLsbD l = true →
      let v := modPort (pset (fset s .laneStatus (p / 16) (dieLane p l) 0 1 1 1) .portStatus p 0 17 17
        (b2n (wbits w 4 4 != l))) p (fun q => { q with aligned := q.aligned ||| bit })
      ((q.aligned ||| bit).toNat &&& e ≠ e → exec (.align p l w) s = .next v) ∧
      ((q.aligned ||| bit).toNat &&& e = e → exec (.align p l w) s = .next (helloes v))) ∧
    (∀ w, q.phase = 3 →
      let h := partnerOf w
      let noted := rset (pset s .portStatus p 0 16 16 h.role) .partnerInfo (p / 16) (p % 16) 0
        (h.feid + b2n h.degrade * 2 ^ 32 + h.rxDedicated * 2 ^ 33 + h.rxShared * 2 ^ 40)
      (∀ c, helloCause noted p h = some c → exec (.hello p w) s = .next (fails noted c)) ∧
      (helloCause noted p h = none → layout noted p h = 0 → exec (.hello p w) s = .next (fails noted 9)) ∧
      (helloCause noted p h = none → layout noted p h ≠ 0 → eventRoom s 1 = true →
        ∃ t, exec (.hello p w) s = .next t ∧
          getPort t p = { Port.init with
            signal := q.signal, equalised := q.equalised, aligned := q.aligned, partner := some h, rxBuf := q.rxBuf,
            shape := q.shape, credShared := h.rxShared, credDed := (getPort t p).credDed,
            tokens := (getPort t p).tokens } ∧
          (∀ v, v < 14 → mapGet (getPort t p).credDed 0 v = h.rxDedicated) ∧
          (∀ k ∈ buckets, bucket (getPort t p) k = bucketSize q k) ∧
          t.planeA = freshSlot p s.planeA ∧ t.planeB = freshSlot p s.planeB ∧
          (mapRising 0 s.regs = true → pget t .portStatus p 0 1 0 = 2 ∧
            pget t .portStatus p 0 19 18 = layout noted p h ∧ pget t .portStatus p 0 27 24 = 1) ∧
          t = { s with ports := t.ports, planeA := t.planeA, planeB := t.planeB, regs := t.regs, dies := t.dies,
                       freeCtr := t.freeCtr, cp := t.cp, out := t.out })) ∧
    (∀ w, q.phase ≠ 3 → exec (.hello p w) s = .next s) ∧
    (q.phase = 1 → s.module.phase < 6 → exec (.trainingLimit p) s = .next s) ∧
    (q.phase = 1 → 6 ≤ s.module.phase → e = 0 →
      exec (.trainingLimit p) s = .next (fails s (if q.signal.toNat &&& u = 0 then 1 else 2))) ∧
    (q.phase = 1 → 6 ≤ s.module.phase → e ≠ 0 → q.aligned = 0 → exec (.trainingLimit p) s = .next (aligns e s)) ∧
    (q.phase = 2 → q.aligned.toNat &&& e = 0 → exec (.trainingLimit p) s = .next (fails s 3)) ∧
    (q.phase = 2 → q.aligned.toNat &&& e ≠ 0 → exec (.trainingLimit p) s = .next (helloes s)) ∧
    (q.phase = 3 → exec (.trainingLimit p) s = .next (fails s 3)) ∧
    (q.phase = 5 → portLive s p = true → u ≠ 0 → exec (.trainingLimit p) s
      = .next (setLink (setPort s p { q with phase := 1, equalised := 0, aligned := 0 }) p 1)) ∧
    (q.phase = 5 → portLive s p = false ∨ u = 0 → exec (.trainingLimit p) s
      = .next (setLink (setPort s p { q with phase := 0 }) p 0))

/-- Lanes of a port (R398-R400, R484): a lane that loses lock, or has more uncorrected codewords than its threshold, is
reported, and dropped where both sides allow one lane; the link is lost where they do not or it was the last; a LANE_DROP of
the partner answers ours, after which this side begins to recalibrate the lane, or drops that lane; no answer in time loses
the link. A RECAL_REQ begins a recalibration too; its handshake ends with LANE_ADD, sent by the side that began, after which
both lanes are active; a lane that loses lock during it fails it. The counts of codewords are free values (log 96). -/
def Obligations.LanesDropAndRejoin : Prop :=
  (∀ (s : State) (p l : Nat) (cw : Bool), p < 128 → l < 2 → exec (.lockLoss (p / 16) (dieLane p l) cw) s = .next (
    let u := fset s .laneStatus (p / 16) (dieLane p l) 0 1 1 0
    let v := if cw then u else fset u .laneStatus (p / 16) (dieLane p l) 0 0 0 0
    let w := oneCycle (fun s =>
      let r := raiseWith s (srcLane (p / 16) (dieLane p l) (b2n cw))
      if portUp r p then dropLane raiseWith r p l
      else modPort r p (fun q => { q with
        aligned := clearBit2 q.aligned l,
        equalised := if cw then q.equalised else clearBit2 q.equalised l,
        signal := if cw then q.signal else clearBit2 q.signal l })) v
    if (getPort w p).recal.any (fun r => r.1 == l) then
      raiseFault (pset (clearRecal w p) .portStatus p 0 31 28 (if cw then 3 else 2)) (srcPort p 4)
    else w)) ∧
  (∀ (s : State) (p l : Nat), p < 128 → l < 2 →
    let threshold := fget s .laneCtrl (p / 16) (dieLane p l) 0 15 0
    (threshold = 0 → exec (.degradeThreshold (p / 16) (dieLane p l)) s = .next s) ∧
    (threshold ≠ 0 →
      let u := freeBelow (2 ^ 32) s
      let c := freeBelow (2 ^ 32) u.2
      exec (.degradeThreshold (p / 16) (dieLane p l)) s = .next (oneCycle (fun s =>
        let r := raiseWith s (srcLane (p / 16) (dieLane p l) 2)
        if portUp r p then dropLane raiseWith r p l else r)
        (fadd (fadd c.2 .laneFec (p / 16) (dieLane p l) 0 63 32 (threshold + 1 + u.1)) .laneFec (p / 16) (dieLane p l) 0 31 0
          c.1)))) ∧
  (∀ (s : State) (p l : Nat), p < 128 → l < 2 → portUp s p = true →
    let q := getPort s p
    let active := pget s .portStatus p 0 19 18
    let lost : State := oneCycle (fun s => linkLost raiseWith s p 8) s
    let joined (s : State) : State :=
      let u := pset s .portStatus p 0 19 18 3
      let v := pset u .portStatus p 0 9 8 (pget u .portCtrl p 0 1 0)
      modPort (padd (fset v .laneStatus (p / 16) (dieLane p l) 0 2 2 0) .linkCount p 6 47 0 1) p
        (fun q => { q with recal := none })
    (∀ raise : State → Nat → State,
      (active = 3 → mayDegrade s p = true → dropLane raise s p l = raise
        (modPort (onOneLane { s with out := s.out ++ [.linkWord p (word (8 + l * 2 ^ 4))] } p l) p
          (fun q => { q with dropping := some l, recal := none })) (srcPort p 3)) ∧
      ((active = 3 ∧ mayDegrade s p = false) ∨ active = 2 ^ l → dropLane raise s p l = linkLost raise s p 8) ∧
      (active = 2 - l → dropLane raise s p l = s)) ∧
    (∀ own, active = 2 - l → (usableLanes s p).testBit l = true → q.partner.any (fun h => h.lanes == 2) = true →
      q.recal = none →
      let v := fset (fset s .laneStatus (p / 16) (dieLane p l) 0 2 2 1) .laneStatus (p / 16) (dieLane p l) 0 1 0 0
      recalBegin s p l own = modPort
        (if own then { v with out := s.out ++ [.linkWord p (word (10 + l * 2 ^ 4))] } else v) p
        (fun q => { q with recal := some (l, 4 * b2n own) })) ∧
    (∀ w, ownLane s p w = l →
      (q.dropping = some l →
        exec (.laneDrop p w) s = .next (recalBegin (setPort s p { q with dropping := none }) p l true)) ∧
      (q.dropping = some (1 - l) → exec (.laneDrop p w) s = .next lost) ∧
      (q.dropping = none → active = 2 ^ l → exec (.laneDrop p w) s = .next lost) ∧
      (q.dropping = none → active = 2 - l → exec (.laneDrop p w) s = .next s) ∧
      (q.dropping = none → active = 3 → exec (.laneDrop p w) s
        = .next (modPort (oneCycle (fun s => dropLane raiseWith s p l) s) p (fun q => { q with dropping := none }))) ∧
      (wbit w 5 = false → exec (.recalReq p w) s = .next (recalBegin s p l false)) ∧
      (wbit w 5 = true → exec (.recalReq p w) s = .next (recalNote s p l 1)) ∧
      (∀ st, q.recal = some (l, st) →
        (st.testBit 0 = true → st.testBit 2 = false → (usableLanes s p).testBit l = true →
          exec (.laneAdd p w) s = .next (joined s)) ∧
        (st.testBit 0 = false ∨ st.testBit 2 = true ∨ (usableLanes s p).testBit l = false →
          exec (.laneAdd p w) s = .next s)) ∧
      (q.recal = none → exec (.laneAdd p w) s = .next s)) ∧
    (∀ st, q.recal = some (l, st) →
      (q.phase ≠ 1 → exec (.equalisationComplete p l) s = .next (recalNote (sendAlignOn
        (let v := laneEqualised s p l
         { v with out := v.out ++ [.linkWord p (word (10 + l * 2 ^ 4 + 2 ^ 5))] }) p l) p l 0)) ∧
      (q.phase ≠ 2 → ∀ w, exec (.align p l w) s
        = .next (recalNote (fset s .laneStatus (p / 16) (dieLane p l) 0 1 1 1) p l 3)) ∧
      ∀ b,
        let m := st ||| 2 ^ b
        let v := modPort s p (fun q => { q with recal := some (l, m) })
        (m.testBit 0 = true → m.testBit 1 = true → m.testBit 2 = true → m.testBit 3 = true →
          (usableLanes s p).testBit l = true → mapRising 0 s.ports = true →
          recalNote s p l b = joined (
            let w := freeWord v
            { w.2 with out := w.2.out ++ [.linkWord p (word (9 + l * 2 ^ 4 + wbits w.1 31 0 * 2 ^ 16))] })) ∧
        (m.testBit 0 = false ∨ m.testBit 1 = false ∨ m.testBit 2 = false ∨ m.testBit 3 = false
            ∨ (usableLanes s p).testBit l = false →
          mapRising 0 s.ports = true → recalNote s p l b = v)) ∧
    (exec (.laneDropTimeout p) s = .next (if q.dropping.isSome then lost else s))) ∧
  (∀ (s : State) (p : Nat), p < 128 → portUp s p = false →
    exec (.laneDropTimeout p) s = .next s ∧
    ∀ w, exec (.laneDrop p w) s = .next s ∧ exec (.recalReq p w) s = .next s ∧ exec (.laneAdd p w) s = .next s)

/-- At a port die (R62, R65, R66, R68, R87, R89): a fetched route entry is cached and the packet that waited goes on, or is
discarded NO_ROUTE; a fetched rank entry is cached and the packet is translated, or discarded when the rank has no
readable entry; a fetch from before a table load is made again; a packet that has waited its microsecond is discarded
with reason RANK_UNMAPPED, its fetch still to come. With no plane LIVE a route entry cannot return and a rank fetch is lost
(R526). A fetch whose packet is gone serves later packets. -/
def Obligations.FetchesReturnToTheirPackets : Prop :=
  (∀ (s : State) (p vc : Nat) (w : Waiter), p < 128 → vc < 14 → headWaiter s p vc = some w →
    let d := p / 16
    let rest : State := modPortDie s d (fun x => { x with waiting := removeFirst (waitsOn p vc) x.waiting })
    let first (s : State) (w : Waiter) : State := modPortDie s d (fun x => { x with waiting := w :: x.waiting })
    let job := hJob w.pkt.hdr
    let noOrphan := (getPortDie s d).orphans.find? (fun o => o.1 == 16 * p + vc) = none
    (w.stage = 2 →
      let e := routeEntry s (hDst w.pkt.hdr)
      let cached := modPortDie rest d (fun x => { x with
        routeCache := cacheInsert (fun y => (Config.routeSet y.1).toNat) x.routeCache (hDst w.pkt.hdr, e) })
      (anyPlane s = false → exec (.routeFetch p vc) s = .next (advance (discardPkt rest p 11 w.pkt) p vc)) ∧
      (anyPlane s = true → entryAction e = 0 ∨ (entryAction e = 3 ∧ consumes (hKind w.pkt.hdr) = false) →
        exec (.routeFetch p vc) s = .next (advance (discardPkt cached p 9 w.pkt) p vc)) ∧
      (anyPlane s = true → entryAction e = 1 ∨ entryAction e = 2 ∨ (entryAction e = 3 ∧ consumes (hKind w.pkt.hdr) = true) →
        exec (.routeFetch p vc) s = .next (advance
          (setReady cached w.pkt.link (getReady cached w.pkt.link ++ [withEntry cached w.pkt e])) p vc)) ∧
      (noOrphan → exec (.rankFetch p vc) s = .next s) ∧ exec (.rankWaitTimeout p vc) s = .next s) ∧
    (w.stage = 1 ∨ w.stage = 3 →
      let f := eccCheck (eccCheck rest (directoryAddr rest job)) (rankAddr rest job w.rank)
      (noOrphan → w.lost = true → exec (.rankFetch p vc) s = .next s) ∧
      (noOrphan → w.lost = false → anyPlane s = false →
        exec (.rankFetch p vc) s = .next (first rest { w with lost := true })) ∧
      (noOrphan → w.lost = false → anyPlane s = true →
        (rankCount f job ≤ w.rank ∨ rankReadable f job w.rank = false →
          exec (.rankFetch p vc) s = .next (advance (discardPkt f p 5 w.pkt) p vc)) ∧
        (w.rank < rankCount f job → rankReadable f job w.rank = true →
          (w.gen ≠ jobGeneration f job →
            exec (.rankFetch p vc) s = .next (first f { w with gen := jobGeneration f job })) ∧
          (w.gen = jobGeneration f job →
            exec (.rankFetch p vc) s = .next (advance (begin (modPortDie f d (fun x => { x with
              rankCache := cacheInsert (fun y => (Config.rankSet y.1 y.2.1).toNat) x.rankCache
                (job, w.rank, rankEntry f job w.rank, jobGeneration f job) })) p w.pkt w.stage) p vc)))) ∧
      (w.lost = false → exec (.rankWaitTimeout p vc) s = .next (advance (discardPkt (modPortDie rest d (fun x => { x with
        orphans := x.orphans ++ [(16 * p + vc, job, w.rank, w.gen)] })) p 5 w.pkt) p vc)) ∧
      (w.lost = true → exec (.rankWaitTimeout p vc) s = .next (advance (discardPkt rest p 5 w.pkt) p vc)) ∧
      exec (.routeFetch p vc) s = .next s) ∧
    (w.stage = 0 → exec (.routeFetch p vc) s = .next s ∧ (noOrphan → exec (.rankFetch p vc) s = .next s) ∧
      exec (.rankWaitTimeout p vc) s = .next s)) ∧
  (∀ (s : State) (p vc : Nat), p < 128 → vc < 14 →
    let d := p / 16
    (headWaiter s p vc = none → exec (.routeFetch p vc) s = .next s ∧ exec (.rankWaitTimeout p vc) s = .next s) ∧
    ((getPortDie s d).orphans.find? (fun o => o.1 == 16 * p + vc) = none → headWaiter s p vc = none →
      exec (.rankFetch p vc) s = .next s) ∧
    (∀ job rank gen, (getPortDie s d).orphans.find? (fun o => o.1 == 16 * p + vc) = some (16 * p + vc, job, rank, gen) →
      let v := modPortDie s d (fun x => { x with orphans := removeFirst (fun o => o.1 == 16 * p + vc) x.orphans })
      let f := eccCheck (eccCheck v (directoryAddr v job)) (rankAddr v job rank)
      (anyPlane s = false → exec (.rankFetch p vc) s = .next v) ∧
      (anyPlane s = true → rankReadable f job rank = false ∨ gen ≠ jobGeneration f job →
        exec (.rankFetch p vc) s = .next f) ∧
      (anyPlane s = true → rankReadable f job rank = true → gen = jobGeneration f job →
        exec (.rankFetch p vc) s = .next (modPortDie f d (fun x => { x with
          rankCache := cacheInsert (fun y => (Config.rankSet y.1 y.2.1).toNat) x.rankCache
            (job, rank, rankEntry f job rank, jobGeneration f job) })))))

/-! ### The core planes (R23, R93, R94, R112-R120) -/

/-- A packet crosses to a LIVE plane that has its cells (R112-R115) and holds none it may not overtake (R78, R99): they are
no longer credit but held, its receive buffer is left, a sampled packet's record is made (R133), and it joins the output
queue that R93 names for its route entry; DOWN to a port that is not UP with nothing to detour by is counted PORT_DOWN and
lost. A packet that has no entry here, or finds no plane LIVE, is lost or discarded (R526). PLANE_CREDIT returns credits up
to the floor of 65 cells and, on an adaptive VC, within the share that ALPHA allows (R116). -/
def Obligations.PacketsCrossToAPlane : Prop :=
  ∀ (s : State) (link vc : Nat), link < 28 → vc < 14 →
    ((getReady s link).find? (fun k => k.vc == vc) = none → exec (.planeRoute link vc) s = .next s) ∧
    (dieOff s (inputDie link) = true → inputDie link < 26 → exec (.planeRoute link vc) s = .next s) ∧
    (∀ k, (getReady s link).find? (fun k => k.vc == vc) = some k → k.link = link →
      dieOff s (inputDie link) = false ∨ 26 ≤ inputDie link →
      let taken := setReady s link (removeFirst (fun x => x.uid == k.uid) (getReady s link))
      (∀ q, anyPlane s = false → k.inPort = some q → exec (.planeRoute link vc) s = .next (discardPkt taken q 11 k)) ∧
      (anyPlane s = false → k.inPort = none → exec (.planeRoute link vc) s = .next (lostHeader taken k.hdr)) ∧
      (anyPlane s = true → entered s k = none → exec (.planeRoute link vc) s = .next (lostHeader taken k.hdr)) ∧
      (∀ k' pl, anyPlane s = true → entered s k = some k' → planeFor s k' = some pl →
        let key := 16 * link + vc
        let settled := settleSample taken k' none
        let left := match k'.inPort with
          | some q => releaseRx settled q k'.uid
          | none => settled
        let charged := noteFree (modPlane left pl (fun p =>
          { p with credits := countSub p.credits key k'.flits, held := countAdd p.held key k'.flits })) pl
        let x := { k' with ordPlane := pl, sample := false }
        let c := { x with caravan := caravanOf charged pl x }
        let lost (s : State) (n : Nat) : State := lostHeader (fadd
          (modPlane s pl (fun p => { p with held := countSub p.held (16 * link + k'.chargeVc) k'.flits }))
          .routeCount (8 + pl) 0 n 47 0 1) k'.hdr
        (mapGet (getPlane s pl).credits 0 key < k'.flits ∨ mustWait s pl k' = true →
          exec (.planeRoute link vc) s = .next s) ∧
        (k'.flits ≤ mapGet (getPlane s pl).credits 0 key → mustWait s pl k' = false →
          (isGroup (hDst k'.hdr) = false →
            (entryAction k'.entry = 3 →
              exec (.planeRoute link vc) s = .next (enqueueOut charged pl (consumerOutput charged k'.hdr) x)) ∧
            (entryAction k'.entry = 1 → portUp charged (entryDown k'.entry) = true →
              exec (.planeRoute link vc) s = .next (enqueueOut charged pl (entryDown k'.entry) c)) ∧
            (entryAction k'.entry = 1 → portUp charged (entryDown k'.entry) = false → vc % 2 = 1 →
              exec (.planeRoute link vc) s = .next (lost charged 0)) ∧
            (entryAction k'.entry = 2 → k'.descends = true → vc % 2 = 1 ∨ k'.detour = true →
              exec (.planeRoute link vc) s = .next (lost charged 1)) ∧
            (∀ p y u, entryAction k'.entry = 2 → choosePort charged pl c = (.out p y, u) →
              exec (.planeRoute link vc) s = .next (enqueueOut u pl p y)) ∧
            (∀ n u, entryAction k'.entry = 2 → choosePort charged pl c = (.drop n, u) →
              exec (.planeRoute link vc) s = .next (lost u n))) ∧
          (isGroup (hDst k'.hdr) = true → exec (.planeRoute link vc) s = .next (routeMany charged pl x))))) ∧
    (∀ pl, pl < 2 → planeLive s pl = true →
      let p := getPlane s pl
      let key := 16 * link + vc
      let n := giveCredits (vc % 2 == 0) (alphaOf s pl (vc / 2)) (mapGet p.held 0 key) 65 (mapGet p.credits 0 key) (sharedFree p)
      exec (.planeCredit pl link vc) s = .next (noteFree (setPlane s pl { p with credits := mapPut p.credits 0 key n }) pl) ∧
      mapGet p.credits 0 key ≤ n ∧ n ≤ mapGet p.credits 0 key + 65 ∧
      (vc % 2 = 1 → mapGet p.held 0 key + mapGet p.credits 0 key ≤ 65 → n = 65 - mapGet p.held 0 key)) ∧
    (∀ pl, pl < 2 → planeLive s pl = false → exec (.planeCredit pl link vc) s = .next s)

/-- An output of a LIVE plane (R94, R117, R120, R494): a scheduling decision sends the chosen queue's head to the receiver,
frees its cells and moves the calendar on; an adaptive head that has no room where its wadi has moves onto it and routes
again, at once where WADI_WAIT is 0; the stall watchdog raises one event per episode, unless it is disabled. Under a D3
session that holds the plane's die nothing is scheduled (R475). -/
def Obligations.OutputsAreScheduled : Prop :=
  (∀ (s : State) (pl out : Nat), pl < 2 → out < 148 → planeLive s pl = true →
    let b := moveAtOnce s pl out
    let p := getPlane b pl
    let moved := setPlane b pl { p with slot := mapPut p.slot 0 out ((mapGet p.slot 0 out + 1) % 64) }
    (scanOpen s (8 + pl) = true → exec (.schedule pl out) s = .next s) ∧
    (fget s .routeConfig (8 + pl) 0 0 31 16 ≠ 0 → b = s) ∧
    (scanOpen s (8 + pl) = false → scheduleChoice b pl out = none → exec (.schedule pl out) s = .next moved) ∧
    (∀ k r, scheduleChoice b pl out = some (k, r) →
      let served := match r with
        | some t => modPlane moved pl (fun p => { p with rr := mapPut p.rr 0 t (k.vc + 1) })
        | none => moved
      let sent := modPlane served pl (fun p =>
        let q := 16 * out + k.vc
        let x := settleReserve (freeCells { p with queues := mapPut p.queues [] q ((mapGet p.queues [] q).drop 1) } out k)
          out k.vc
        { x with stalled := x.stalled.filter (· != out) })
      (∃ vc, vc < 14 ∧ queueHead p out vc = some k ∧ roomAt b pl out vc k.flits = true) ∧
      (scanOpen s (8 + pl) = false → out < 128 → exec (.schedule pl out) s
        = .next (setPort sent out { getPort sent out with stage := (getPort sent out).stage ++ [(pl, k)] })) ∧
      (scanOpen s (8 + pl) = false → 128 ≤ out → exec (.schedule pl out) s
        = .next (setInbox sent (outputDie out) (getInbox sent (outputDie out) ++ [k]))))) ∧
  (∀ (s : State) (pl out : Nat), pl < 2 → out < 148 → planeLive s pl = true →
    let p := getPlane s pl
    (∀ vc, vc < 14 → vc % 2 = 0 → queueHead p out vc = none → exec (.wadiMove pl out vc) s = .next s) ∧
    (∀ vc k, vc < 14 → vc % 2 = 0 → queueHead p out vc = some k →
      let left := modPlane s pl (fun p => { p with
        queues := mapPut p.queues [] (16 * out + vc) ((mapGet p.queues [] (16 * out + vc)).drop 1) })
      let counted := fadd left .routeCount (8 + pl) 0 3 47 0 1
      (roomAt s pl out vc k.flits = true ∨ roomAt s pl out (vc + 1) k.flits = false →
        exec (.wadiMove pl out vc) s = .next s) ∧
      (roomAt s pl out vc k.flits = false → roomAt s pl out (vc + 1) k.flits = true →
        (128 ≤ out ∨ isGroup (hDst k.hdr) = true →
          exec (.wadiMove pl out vc) s = .next (enqueueOut counted pl out { k with vc := vc + 1 })) ∧
        (out < 128 → isGroup (hDst k.hdr) = false →
          (∀ q y u, choosePort counted pl { k with vc := vc + 1 } = (.out q y, u) →
            exec (.wadiMove pl out vc) s = .next (enqueueOut u pl q y)) ∧
          (∀ n u, choosePort counted pl { k with vc := vc + 1 } = (.drop n, u) →
            exec (.wadiMove pl out vc) s = .next (lostHeader (fadd
              (modPlane u pl (fun p => freeCells p out { k with vc := vc + 1 })) .routeCount (8 + pl) 0 n 47 0 1) k.hdr)) ∧
          (entryAction k.entry = 1 → portUp counted (entryDown k.entry) = true → exec (.wadiMove pl out vc) s
            = .next (enqueueOut counted pl (entryDown k.entry) { k with vc := vc + 1 }))))) ∧
    (fget s .outputWd (8 + pl) 0 0 15 0 ≠ 0 → outputWaits p out = true → p.stalled.contains out = false →
      exec (.outputStall pl out) s
        = .next (raiseFault (setPlane s pl { p with stalled := insNat p.stalled out }) (srcOutput pl out))) ∧
    (fget s .outputWd (8 + pl) 0 0 15 0 = 0 ∨ outputWaits p out = false ∨ p.stalled.contains out = true →
      exec (.outputStall pl out) s = .next s)) ∧
  (∀ (s : State) (pl out : Nat), pl < 2 → out < 148 → planeLive s pl = false →
    exec (.schedule pl out) s = .next s ∧ exec (.outputStall pl out) s = .next s ∧
    ∀ vc, vc < 14 → vc % 2 = 0 → exec (.wadiMove pl out vc) s = .next s)

/-! ### Erg memory (R345-R369, R324-R327) -/

/-- GET, PUT and BULK_PUT at the LIVE die that owns their handle (R350-R353): a GET within range answers the bytes and
changes no memory; a write within range that lies in no replication range stores its bytes, clears the marks of the blocks it
covers whole, and is answered OK, after its count where it names a counter (R355); one in a PRIMARY range is kept and
forwarded, its answer to come (R360); any failing check is answered with its STATUS, and memory is as it was. No row takes a
packet that is not whole or not of its kind, or anything at a die a D3 session has stopped; a packet marked bad is discarded
(R69), and a die that is not LIVE has its requests answered FAULTED (R439). A request that lacks room in the replay buffer
waits (R354, R360). -/
def Obligations.RequestsReadAndWriteErgMemory : Prop :=
  (∀ (s : State) (die : Nat) (p : Pkt) (rest : List Pkt), 26 ≤ die → die < 30 → getInbox s die = p :: rest →
    ∀ e ∈ [(Instr.get die, fun h : Header => hKind h == kGet), (.put die, fun h => hKind h == kPut),
        (.bulkPut die, fun h => hKind h == kBulkPut), (.putFwd die, fun h => hKind h == kPutFwd),
        (.atomicFwd die, fun h => hKind h == kAtomicFwd), (.signal die, fun h => hKind h == kSignal),
        (.bulkSignal die, fun h => hKind h == kBulkSignal), (.fetchAdd die, fun h => hKind h == kAtomic && atop h == 2),
        (.atomMax die, fun h => hKind h == kAtomic && atop h == 3), (.atomMin die, fun h => hKind h == kAtomic && atop h == 4),
        (.cas die, fun h => hKind h == kAtomic && atop h == 5), (.alloc die, fun h => hKind h == kAtomic && atop h == 6),
        (.free die, fun h => hKind h == kAtomic && atop h == 7),
        (.addExact die, fun h => hKind h == kAtomic && (atop h == 1 || atop h == 0 || decide (8 ≤ atop h)))],
      (lacksReplay s die p = true → rest = [] → exec e.1 s = .next s) ∧
      (lacksReplay s die p = false →
        (p.complete = false ∨ e.2 p.hdr = false ∨ scanOpen s die = true → exec e.1 s = .next s) ∧
        (p.complete = true → e.2 p.hdr = true → scanOpen s die = false →
          (p.bad = true → exec e.1 s = .next (stompAt (setInbox s die rest) p)) ∧
          (p.bad = false → ergLive s die = false → exec e.1 s
            = .next (sendFrom (setInbox s die rest) die (responseFields p.hdr stFaulted 0)))))) ∧
  ∀ (s : State) (die : Nat) (p : Pkt) (rest : List Pkt), 26 ≤ die → die < 30 → getInbox s die = p :: rest →
    p.complete = true → p.bad = false → ergLive s die = true → scanOpen s die = false → lacksReplay s die p = false →
    let h := p.hdr
    let w := h.w4
    let u := setInbox s die rest
    let a := ergAddr s (hndRegion w - 1) (hndOffset w)
    let named := hndFeid w = ownFeid ∧ (hndRegion w = 1 ∨ hndRegion w = 2)
    let inRange (n : Nat) := 1 ≤ n ∧ n ≤ 4096 ∧ hndOffset w + n ≤ tierLimit s (hndRegion w - 1) ∧
      pageOf (hndOffset w) < exposed s die (hndRegion w - 1) ∧ hndOffset w / 4096 = (hndOffset w + n - 1) / 4096
    (hKind h = kGet →
      let n := wbits h.w5 12 0
      (named → inRange n → backed s a = true →
        noInjection s (srcChannel (addrDieCh a).1 (addrDieCh a).2 0) = true →
        noInjection s (srcChannel (addrDieCh a).1 (addrDieCh a).2 1) = true →
        (anyBad s a n = true → exec (.get die) s = .next (ergRespond u die h stFaulted 0)) ∧
        (anyBad s a n = false → exec (.get die) s = .next (sendFrom (countAnswer u die stOk) die
          { kind := kGetData, ord := hOrd h, dst := hSrc h, tag := hTag h, a4 := word (kGet * 2 ^ 8), a5 := w,
            payload := memRead s.erg.mem a n }))) ∧
      (hndFeid w ≠ ownFeid ∨ hndRegion w = 0 ∨ 4 < hndRegion w →
        exec (.get die) s = .next (ergRespond u die h stBadParam 0)) ∧
      (hndFeid w = ownFeid → hndRegion w = 3 ∨ hndRegion w = 4 → exec (.get die) s = .next (ergRespond u die h stDenied 0)) ∧
      (named → ¬ inRange n → exec (.get die) s = .next (ergRespond u die h stBadParam 0)) ∧
      (named → inRange n → backed s a = false → exec (.get die) s = .next (ergRespond u die h stFaulted 0))) ∧
    (∀ i, (i = Instr.put die ∧ hKind h = kPut) ∨ (i = .bulkPut die ∧ hKind h = kBulkPut) →
      let d := padTo (hPayloadLen h) p.payload
      let bad := s.erg.bad.filter (fun b => !blockInside a d.length b.1)
      let stored : State := { u with erg := { s.erg with mem := memWrite s.erg.mem a d, bad := bad } }
      (named → inRange d.length → counterHandle h.w5 = true → h.w5 ≠ 0 → ergLive s (counterDie (counterOf h.w5)) = true →
        replFind s die 1 (hndRegion w) (hndOffset w) = none → replFind s die 0 (hndRegion w) (hndOffset w) = none →
        backed s a = true → partBad s a d.length = false → anyPlane s = true →
        exec i s = .next { stored with erg := { stored.erg with counting := s.erg.counting ++
          [{ counter := counterOf h.w5, bytes := d.length, reply := some (h, stOk), die := die }] } }) ∧
      (named → inRange d.length → h.w5 = 0 → replFind s die 1 (hndRegion w) (hndOffset w) = none →
        backed s a = true → partBad s a d.length = false →
        (replFind s die 0 (hndRegion w) (hndOffset w) = none → exec i s = .next (ergRespond stored die h stOk 0)) ∧
        (∀ n, replFind s die 0 (hndRegion w) (hndOffset w) = some n → replDegraded s die n = false → anyPlane s = true →
          mapRising 0 s.erg.repl = true → n < 16 →
          ∃ t, exec i s = .next t ∧ t.erg.mem = memWrite s.erg.mem a d ∧
            (∃ c, (getRepl t die n).copies = (getRepl s die n).copies ++ [c] ∧ c.original = some h ∧
              c.seq = BitVec.ofNat 32 (replSeq s die n) ∧ c.pkt.payload = d ∧ hKind c.pkt.hdr = kPutFwd) ∧
            t = { s with erg := t.erg, inbox := t.inbox, ready := t.ready, nextUid := s.nextUid + 1, regs := t.regs })) ∧
      (writeStatus s die h d.length ≠ stOk → exec i s = .next (ergRespond u die h (writeStatus s die h d.length) 0)))

/-- Atomics at the LIVE die that owns their handle, in no replication range (R356, R357): the bytes named take the value the
operation gives, the old value is the RESULT but for ADD_EXACT, and nothing else changes in memory. A malformed operand is
answered BAD_PARAM. -/
def Obligations.AtomicsChangeTheirBytes : Prop :=
  ∀ (s : State) (die : Nat) (p : Pkt) (rest : List Pkt), 26 ≤ die → die < 30 → getInbox s die = p :: rest →
    p.complete = true → p.bad = false → ergLive s die = true → hKind p.hdr = kAtomic → scanOpen s die = false →
    lacksReplay s die p = false →
    let h := p.hdr
    let w := h.w4
    let u := setInbox s die rest
    let a := ergAddr s (hndRegion w - 1) (hndOffset w)
    let n := atomBytes h
    let old := bytesNat (memRead s.erg.mem a n)
    let bitsOf := fmtBits (atomFmt h)
    let x := bits h.w5.toNat (bitsOf - 1) 0
    let bad := s.erg.bad.filter (fun b => !blockInside a n b.1)
    let stored (v : Nat) : State := { u with erg := { s.erg with mem := memWrite s.erg.mem a (natBytes n v), bad := bad } }
    hndFeid w = ownFeid → (hndRegion w = 1 ∨ hndRegion w = 2) →
    (atomForm h = true → rangeStatus s die w n = stOk →
      replFind s die 0 (hndRegion w) (hndOffset w) = none → replFind s die 1 (hndRegion w) (hndOffset w) = none →
      backed s a = true → anyBad s a n = false →
      noInjection s (srcChannel (addrDieCh a).1 (addrDieCh a).2 0) = true →
      noInjection s (srcChannel (addrDieCh a).1 (addrDieCh a).2 1) = true →
      (atop h = 1 → exec (.addExact die) s = .next (ergRespond (stored (accWord (atomMode h) (accMerge (atomMode h) 1
        (wordAcc (atomMode h) old) (accIn (atomMode h) (atomFloor h) (atomFmt h) x).1).1)) die h stOk 0)) ∧
      (atop h = 2 → exec (.fetchAdd die) s = .next (ergRespond (stored ((old + x) % 2 ^ bitsOf)) die h stOk (word old))) ∧
      (atop h = 3 → exec (.atomMax die) s
        = .next (ergRespond (stored (if signed bitsOf old < signed bitsOf x then x else old)) die h stOk (word old))) ∧
      (atop h = 4 → exec (.atomMin die) s
        = .next (ergRespond (stored (if signed bitsOf x < signed bitsOf old then x else old)) die h stOk (word old))) ∧
      (atop h = 5 → exec (.cas die) s = .next (ergRespond
        (stored (if old = bits h.w6.toNat (bitsOf - 1) 0 then x else old)) die h stOk (word old)))) ∧
    (atomForm h = false → 1 ≤ atop h → atop h ≤ 5 → ∀ e ∈ [(1, Instr.addExact die), (2, .fetchAdd die), (3, .atomMax die),
        (4, .atomMin die), (5, .cas die)], atop h = e.1 → exec e.2 s = .next (ergRespond u die h stBadParam 0))

/-- ALLOC and FREE at the die of their pool (R366, R367): ALLOC of an enabled pool answers the handle of the lowest free bobbin, or
EMPTY, which is counted; FREE of an allocated bobbin's handle frees it, and of a free one is BAD_PARAM, counted, and raises the pool's event; of any other handle it is BAD_PARAM and
changes nothing. -/
def Obligations.PoolsAllocateAndFree : Prop :=
  ∀ (s : State) (die : Nat) (p : Pkt) (rest : List Pkt), 26 ≤ die → die < 30 → getInbox s die = p :: rest →
    p.complete = true → p.bad = false → ergLive s die = true → hKind p.hdr = kAtomic → scanOpen s die = false →
    lacksReplay s die p = false →
    let h := p.hdr
    let u := setInbox s die rest
    let n := poolOf h.w4
    poolStatusOf s h = stOk →
    (atop h = 6 →
      (poolEnabled s n = false → exec (.alloc die) s = .next (ergRespond u die h stBadParam 0)) ∧
      (poolEnabled s n = true → poolFree s n = 0 →
        exec (.alloc die) s = .next (ergRespond (fadd u .poolEvents (poolDie n) n 0 63 32 1) die h stEmpty 0)) ∧
      (poolEnabled s n = true → poolFree s n ≠ 0 →
        let i := lowestFree 0 (poolUsed s n)
        exec (.alloc die) s = .next (ergRespond (noteLow (setPool u n (mapIns (poolUsed s n) i ())) n) die h stOk
          (ownHandle (poolRegion s n) (poolBase s n + i * poolSize s n))))) ∧
    (atop h = 7 →
      let i := (hndOffset h.w5 - poolBase s n) / poolSize s n
      (poolEnabled s n = false ∨ poolCount s n ≤ i ∨ hndOffset h.w5 < poolBase s n ∨ h.w5 ≠ bobbin s n i →
        exec (.free die) s = .next (ergRespond u die h stBadParam 0)) ∧
      (poolEnabled s n = true → i < poolCount s n → poolBase s n ≤ hndOffset h.w5 → h.w5 = bobbin s n i →
        (mapFind (poolUsed s n) i = some () →
          exec (.free die) s = .next (ergRespond (setPool u n (mapDel (poolUsed s n) i)) die h stOk 0)) ∧
        (mapFind (poolUsed s n) i = none →
          exec (.free die) s = .next (ergRespond (raiseDetail (fadd u .poolEvents (poolDie n) n 0 31 0 1) (srcPool n 0)
            [h.w5, word (hSrc h)]) die h stBadParam 0))))

/-- At the replica (R361, R362) a forwarded request of its partner is applied in sequence and answered OK, an old one is
answered OK and not applied, a later one BUSY; one from elsewhere is DENIED. At a LIVE primary (R363, R441) the resend timer
sends every copy again, and after 8 resends the range is DEGRADED, its copies answered FAULTED. -/
def Obligations.ReplicasFollowTheirPrimary : Prop :=
  ∀ (s : State) (die : Nat), 26 ≤ die → die < 30 →
    (∀ (p : Pkt) (rest : List Pkt) (i : Instr), getInbox s die = p :: rest → p.complete = true → p.bad = false →
      ergLive s die = true → scanOpen s die = false →
      let h := p.hdr
      let w := h.w4
      let u := setInbox s die rest
      let a := ergAddr s (hndRegion w - 1) (hndOffset w)
      let n := wbits h.w7 51 48
      let q := replSeq s die n
      let d := padTo (hPayloadLen h) p.payload
      let len := if hKind h = kPutFwd then d.length else atomBytes h
      let wrote := if hKind h = kPutFwd then d else natBytes len (atomNew h (bytesNat (memRead s.erg.mem a len)))
      (i = .putFwd die ∧ hKind h = kPutFwd) ∨ (i = .atomicFwd die ∧ hKind h = kAtomicFwd ∧ atomForm h = true) →
      hndFeid w = ownFeid → (hndRegion w = 1 ∨ hndRegion w = 2) → rangeStatus s die w len = stOk →
      (replHas s die n 1 (hndRegion w) (hndOffset w) = true → replPartner s die n = hSrc h →
        (hAux h = q → backed s a = true →
          hKind h = kPutFwd ∨ (noInjection s (srcChannel (addrDieCh a).1 (addrDieCh a).2 0) = true ∧
            noInjection s (srcChannel (addrDieCh a).1 (addrDieCh a).2 1) = true) → (if hKind h = kPutFwd then partBad s a len else anyBad s a len) = false →
          exec i s = .next (ergRespond (fset
            { u with erg := { s.erg with
                mem := memWrite s.erg.mem a wrote
                bad := s.erg.bad.filter (fun b => !blockInside a wrote.length b.1) } }
            .replRangeSeq die 0 n 63 32 (q + 1)) die h stOk 0)) ∧
        (2 ^ 31 ≤ (hAux h + 2 ^ 32 - q) % 2 ^ 32 → exec i s = .next (ergRespond u die h stOk 0)) ∧
        (1 ≤ (hAux h + 2 ^ 32 - q) % 2 ^ 32 → (hAux h + 2 ^ 32 - q) % 2 ^ 32 < 2 ^ 31 →
          exec i s = .next (ergRespond u die h stBusy 0))) ∧
      (replHas s die n 1 (hndRegion w) (hndOffset w) = false ∨ replPartner s die n ≠ hSrc h →
        exec i s = .next (ergRespond u die h stDenied 0))) ∧
    (∀ n, n < 16 →
      let r := getRepl s die n
      (r.copies = [] ∨ ergLive s die = false → exec (.replTimeout die n) s = .next s) ∧
      (r.copies ≠ [] → ergLive s die = true → r.resends < 8 → exec (.replTimeout die n) s
        = .next (r.copies.foldl (fun s c => sendKept s die c.pkt) (setRepl s die n { r with resends := r.resends + 1 }))) ∧
      (r.copies ≠ [] → ergLive s die = true → 8 ≤ r.resends → exec (.replTimeout die n) s = .next (
        let u := fset (fset (setRepl s die n { copies := [], resends := 0 }) .replRangeSeq die 0 n 31 0 0)
          .replRangeCtrl die 0 n 61 60 1
        let v := r.copies.foldl (fun s c => match c.original with
          | some h => ergRespond s die h stFaulted c.result
          | none => s) u
        raiseDetail v (srcRange die n) [word (rget v .replRangeCtrl die 0 n), word (rget v .replRangeSeq die 0 n)])))

/-- Signal counters (R324-R327, R355): SIGNAL and BULK_SIGNAL arm a counter of the die with what they expect, or are answered
BUSY while it is armed and BAD_PARAM while its record is none; a counted write's bytes are added and it is then answered; an
armed counter fires OK at its count and BAD_PARAM beyond it, and TIMEOUT when its timer ends before, answering the signal
and raising its flag. -/
def Obligations.SignalCountersCountAndFire : Prop :=
  ∀ s : State,
    (∀ (die : Nat) (p : Pkt) (rest : List Pkt) (i : Instr), 26 ≤ die → die < 30 → getInbox s die = p :: rest →
      p.complete = true → p.bad = false → ergLive s die = true → scanOpen s die = false →
      (i = .signal die ∧ hKind p.hdr = kSignal) ∨ (i = .bulkSignal die ∧ hKind p.hdr = kBulkSignal) →
      counterHandle p.hdr.w4 = true →
      let h := p.hdr
      let n := counterOf h.w4
      let c := getCounter s n
      let u := setInbox s die rest
      (counterReady c = true → c.armed = false →
        exec i s = .next (setCounter u n
          { c with armed := true, expected := wbits h.w5 47 0, feid := hSrc h, ord := hOrd h,
                   isBulk := hKind h == kBulkSignal, tag := BitVec.ofNat 32 (hTag h) })) ∧
      (counterReady c = false → exec i s = .next (ergRespond u die h stBadParam 0)) ∧
      (counterReady c = true → c.armed = true → exec i s = .next (ergRespond u die h stBusy 0))) ∧
    (∀ n, n < 65536 →
      let c := getCounter s n
      let die := counterDie n
      (∀ pre m post, s.erg.counting = pre ++ m :: post → (∀ x ∈ pre, x.counter ≠ n) → m.counter = n →
        let u : State := { s with erg := { s.erg with counting := pre ++ post } }
        (ergLive s die = true → counterReady c = true →
          let v := setCounter u n { c with count := min (c.count + m.bytes) (2 ^ 48 - 1) }
          exec (.countedWrite n) s = .next (match m.reply with
            | some (h, _) => ergRespond v m.die h stOk 0
            | none => v)) ∧
        (ergLive s die = false → exec (.countedWrite n) s = .next (match m.reply with
            | some (h, _) => ergRespond u m.die h stFaulted 0
            | none => u))) ∧
      (c.armed = true → ergLive s die = true →
        let fired (status : Nat) : State :=
          let c' : Counter := { c with
            count := 0, armed := false,
            fires := if status = stTimeout then c.fires else c.fires + 1,
            timeouts := if status = stTimeout then c.timeouts + 1 else c.timeouts }
          let t := sendFrom (countAnswer (setCounter s n c') die status) die
            { kind := kAck, ord := c.ord, dst := c.feid, tag := c.tag.toNat,
              a4 := word (status + (if c.isBulk then kBulkSignal else kSignal) * 2 ^ 8), a5 := ownHandle 3 (64 * n) }
          if c.fireEn ∧ status = stOk ∧ (10 + c.fireSpindle / 16 = die ∨ anyPlane s) then { t with sync := t.sync ++ [.raise c.fireSpindle c.fireFlag] } else t
        (c.count = c.expected → exec (.fire n) s = .next (fired stOk)) ∧
        (c.expected < c.count → exec (.fire n) s = .next (fired stBadParam)) ∧
        (c.count < c.expected → exec (.fire n) s = .next s) ∧
        (c.timeoutUs ≠ 0 → c.count < c.expected → exec (.signalTimeout n) s = .next (fired stTimeout)) ∧
        (c.timeoutUs ≠ 0 → c.expected ≤ c.count → exec (.signalTimeout n) s = exec (.fire n) s)) ∧
      (c.armed = false → exec (.fire n) s = .next s ∧ exec (.signalTimeout n) s = .next s))

/-! ### Answers, hanks (R57, R170-R210, R266, R272-R275, R334-R338) -/

/-- Answers at a die that is neither off nor relocking (R57, R266, R272): GET_DATA is written to the local store of the
Intake that asked, which is no longer outstanding; with the last repeat of its command the flag is raised, and an exception
that waited for the outstanding requests is taken (R281); an ACK or ATOMIC_RSP ends the Outlet packet it names, an error
kept for the next fence and an atomic's RESULT for it to write; an ACK of a forwarded request goes to its range; an answer
that names nothing is consumed. While a spindle die relocks its clock nothing that arrives for it is taken (R444). -/
def Obligations.AnswersReachTheirRequests : Prop :=
  (∀ (s : State) (die : Nat), 10 ≤ die → die < 30 → (getDie s die).relock ≠ none →
    (∀ i ∈ [Instr.getData die, .ack die, .atomicRsp die], exec i s = .next s) ∧
    (die < 26 → ∀ i ∈ [Instr.contrib die, .tallyUp die, .chunkNotice die, .result die, .arrive die, .release die],
      exec i s = .next s)) ∧
  ∀ (s : State) (die : Nat) (p : Pkt) (rest : List Pkt), 10 ≤ die → die < 30 → getInbox s die = p :: rest →
    p.complete = true → p.bad = false → (dieOff s die = false ∨ 26 ≤ die) → (getDie s die).relock = none →
    scanOpen s die = false →
    let tag := hTag p.hdr
    let st := wbits p.hdr.w4 7 0
    let u := setInbox s die rest
    (hKind p.hdr = kGetData →
      (namedGet s tag = none → exec (.getData die) s = .next u) ∧
      (∀ key g, namedGet s tag = some (key, g) →
        let w := modEng (modSp u key (fun sp => { sp with ls := memWrite sp.ls g.addr (padTo g.bytes p.payload) })) key 0
          (fun e => { e with gets := e.gets.filter (fun x => x.number != g.number) })
        let f := takeFault w key 0
        let v := modEng f key 0 (fun e => { e with badGroups := e.badGroups.filter (· != g.group) })
        ((getEng f key 0).gets.any (fun x => x.group == g.group) = true ∨ groupOpen (getSp f key) g.group = true →
          exec (.getData die) s = .next f) ∧
        ((getEng f key 0).gets.any (fun x => x.group == g.group) = false → groupOpen (getSp f key) g.group = false →
          (getEng f key 0).badGroups.contains g.group = false → exec (.getData die) s = .next (match g.flag with
            | some n => raiseOwn v key n
            | none => v)) ∧
        ((getEng f key 0).gets.any (fun x => x.group == g.group) = false → groupOpen (getSp f key) g.group = false →
          (getEng f key 0).badGroups.contains g.group = true → exec (.getData die) s = .next v))) ∧
    (hKind p.hdr = kAck →
      (∀ key r, namedGet s tag = none → namedOut s tag = some (key, r) →
        (st = stOk → r.kind ≠ kAtomic → exec (.ack die) s
          = .next (modEng u key 3 (fun e => { e with sent := e.sent.filter (fun x => x.number != r.number) }))) ∧
        (st = stOk → r.kind = kAtomic → exec (.ack die) s = .next u) ∧
        (st ≠ stOk → exec (.ack die) s = .next (modEng u key 3 (fun e =>
          { e with sent := e.sent.filter (fun x => x.number != r.number),
                   errOutlet := earlier e.errOutlet r.ord r.handle })))) ∧
      (∀ key g, namedGet s tag = some (key, g) →
        (st = stOk → exec (.ack die) s = .next u) ∧
        (st ≠ stOk →
          let w := modEng u key 0 (fun e =>
            { e with gets := e.gets.filter (fun x => x.number != g.number),
                     badGroups := if e.badGroups.contains g.group then e.badGroups else e.badGroups ++ [g.group],
                     errFetch := earlier e.errFetch g.ord g.handle })
          let f := takeFault w key 0
          ((getEng f key 0).gets.any (fun x => x.group == g.group) = true ∨ groupOpen (getSp f key) g.group = true →
            exec (.ack die) s = .next f) ∧
          (g.flag = none → (getEng f key 0).gets.any (fun x => x.group == g.group) = false →
            groupOpen (getSp f key) g.group = false → exec (.ack die) s
              = .next (modEng f key 0 (fun e => { e with badGroups := e.badGroups.filter (· != g.group) }))))) ∧
      (namedGet s tag = none → namedOut s tag = none →
        (bits tag 31 28 = 3 → ergLive s (26 + bits tag 27 26) = true → exec (.ack die) s
          = .next (replAck u (26 + bits tag 27 26) (bits tag 19 16) (BitVec.ofNat 32 (hAux p.hdr)) st)) ∧
        (bits tag 31 28 ≠ 3 → exec (.ack die) s = .next u))) ∧
    (hKind p.hdr = kAtomicRsp →
      (namedOut s tag = none → exec (.atomicRsp die) s = .next u) ∧
      (∀ key r, namedOut s tag = some (key, r) → r.kind = kAtomic →
        (st = stOk → exec (.atomicRsp die) s = .next (modEng u key 3 (fun e =>
          { e with sent := e.sent.map (fun x => if x.number = r.number then { x with answered := some p.hdr.w5 } else x) }))) ∧
        (st ≠ stOk → exec (.atomicRsp die) s = .next (modEng u key 3 (fun e =>
          { e with sent := e.sent.filter (fun x => x.number != r.number),
                   errOutlet := earlier e.errOutlet r.ord r.handle })))))

/-- CONTRIB and TALLY_UP at a die whose clock runs (R185-R189): for a hank that is not open or a port that is no member the
packet is discarded; of another attempt, or below the base step, it is counted in STALE; from a member that is no source,
and beyond the capacity, it is counted and dropped; ahead of its slot, twice, or malformed it poisons its chunk; otherwise
it is accepted: its slot has started and counts the part, its round has started, its elements are work for the slot's
spindle. Items of an EXCHANGE go to the staging, whose bytes are free values (log 27). -/
def Obligations.PartsReachTheirSlots : Prop :=
  ∀ (s : State) (die : Nat) (p : Pkt) (rest : List Pkt), 10 ≤ die → die < 26 → getInbox s die = p :: rest →
    p.complete = true → p.bad = false → dieOff s die = false → (getDie s die).relock = none →
    scanOpen s die = false →
    let hd := p.hdr
    let u := setInbox s die rest
    let pl := padTo (hPayloadLen hd) p.payload
    ∀ (i : Instr) (up : Bool), (i = .contrib die ∧ hKind hd = kContrib ∧ up = false) ∨
        (i = .tallyUp die ∧ hKind hd = kTallyUp ∧ up = true) →
      (namedHank s hd = none → exec i s = .next (notOpen u p)) ∧
      (∀ h, namedHank s hd = some h →
        (senderOf h p = none → exec i s = .next (notOpen u p)) ∧
        (∀ mi m, senderOf h p = some (mi, m) →
          (m.trunk ≠ up → exec i s = .next (notOpen u p)) ∧
          (m.trunk = up →
            (cAttempt hd ≠ (getJob s h.d.job).attempt ∨ hStep hd < h.base → exec i s = .next (staleHank u h.d.hank)) ∧
            (cAttempt hd = (getJob s h.d.job).attempt → h.base ≤ hStep hd →
              (h.d.type = 3 → m.source = false → exec i s
                = .next (modHank u h.d.hank (fun h => { h with nonSource := satAdd 32 h.nonSource 1 }))) ∧
              ((h.d.type = 3 → m.source = true) →
                (nchunks h.d ≤ hAux hd → (up = true → h.d.type ≠ 5 ∨ wbit hd.w4 8 = false) →
                  exec i s = .next (countDropped u h.d.hank (if up then 16 * tCount hd else if h.d.type = 6 then xCount hd else cCount hd))) ∧
                (hAux hd < nchunks h.d → up = false → h.d.type ≠ 6 →
                  let q := seqOf h (hStep hd) (hAux hd)
                  let j := q % h.d.slotBudget
                  let sl := hankSlot h j
                  (sl.awaits < q → exec i s = .next (foundPoison u h.d.hank (hAux hd) (hStep hd) 10)) ∧
                  (q < sl.awaits → exec i s = .next (staleHank u h.d.hank)) ∧
                  (q = sl.awaits → sl.parts.contains (2 * mi + cPart hd) = true ∨ partForm h.d hd pl = false →
                    exec i s = .next (foundPoison u h.d.hank (hAux hd) (hStep hd) 5)) ∧
                  (q = sl.awaits → sl.parts.contains (2 * mi + cPart hd) = false → partForm h.d hd pl = true →
                    getHank s h.d.hank = some h →
                    ∃ t h', exec i s = .next t ∧ getHank t h.d.hank = some h' ∧
                      (hankSlot h' j).parts = sl.parts ++ [2 * mi + cPart hd] ∧ (hankSlot h' j).started = true ∧
                      (hankSlot h' j).awaits = sl.awaits ∧ (mapFind h'.rounds (q / nchunks h.d)).isSome = true ∧
                      (cCount hd ≠ 0 → (getSp s (slotKey s h.d j)).work ++ [.merge h.d.hank j h.d.inFormat
                          ((((partRaw h.d hd pl).map (fun e => (e.1, elementIn h.d pl e))).filter
                            (fun e => kept h.d m (1024 * hAux hd + e.1))).map (fun e => (e.1, e.2.1)))]
                        <+: (getSp t (slotKey s h.d j)).work) ∧
                      t = { u with hanks := t.hanks, spindles := t.spindles })) ∧
                (hAux hd < nchunks h.d → up = false → h.d.type = 6 →
                  let q := hStep hd - h.base
                  (h.current < q → exec i s = .next (foundPoison u h.d.hank 0 (hStep hd) 10)) ∧
                  (q < h.current → exec i s = .next (staleHank u h.d.hank)) ∧
                  (q = h.current → xFirst hd ≠ mapGet h.exch.accepted 0 mi →
                    exec i s = .next (foundPoison u h.d.hank 0 (hStep hd) 11)) ∧
                  (q = h.current → xFirst hd = mapGet h.exch.accepted 0 mi → xForm h mi hd pl = false →
                    exec i s = .next (foundPoison u h.d.hank 0 (hStep hd) 5)) ∧
                  (q = h.current → xFirst hd = mapGet h.exch.accepted 0 mi → xForm h mi hd pl = true →
                    xCount hd = 0 ∨ stagingOk s h = true → getHank s h.d.hank = some h →
                    ∃ t h', exec i s = .next t ∧ getHank t h.d.hank = some h' ∧
                      h'.exch.accepted = mapPut h.exch.accepted 0 mi (mapGet h.exch.accepted 0 mi + xCount hd) ∧
                      h'.exch.expected = mapPut h.exch.expected 0 mi (xItemCount hd + 1) ∧
                      (mapFind h'.rounds h.current).isSome = true ∧
                      (xCount hd = 0 → t = { u with hanks := t.hanks }) ∧
                      t = { u with hanks := t.hanks, freeCtr := t.freeCtr,
                                   erg := { s.erg with mem := t.erg.mem, bad := t.erg.bad } })) ∧
                (hAux hd < nchunks h.d ∨ h.d.type = 5 → up = true → wbit hd.w4 8 = true → exec i s
                  = .next (poison u h.d.hank (cAttempt hd) (hAux hd) (hStep hd) (wbits hd.w4 39 32) (wbits hd.w6 19 0) true)) ∧
                (hAux hd < nchunks h.d → up = true → wbit hd.w4 8 = false → wbits hd.w5 31 0 ≠ h.d.check.toNat →
                  exec i s = .next (foundPoison u h.d.hank (hAux hd) (hStep hd) 9)) ∧
                (hAux hd < nchunks h.d → up = true → wbit hd.w4 8 = false → wbits hd.w5 31 0 = h.d.check.toNat →
                  getHank s h.d.hank = some h →
                  let q := seqOf h (hStep hd) (hAux hd)
                  let j := q % h.d.slotBudget
                  let sl := hankSlot h j
                  q = sl.awaits → tFirst hd = mapGet sl.groups 0 mi → tFirst hd + tCount hd ≤ chunkGroups h.d (hAux hd) →
                  groupsLen (tCount hd) pl = some pl.length →
                  ∀ els, decodeGroups h.d.mode h.d.inFormat (tCount hd) pl = some els →
                    ∃ t h', exec i s = .next t ∧ getHank t h.d.hank = some h' ∧ (hankSlot h' j).started = true ∧
                      (mapFind h'.rounds (q / nchunks h.d)).isSome = true ∧
                      (els ≠ [] → (getSp s (slotKey s h.d j)).work ++
                          [.tally h.d.hank j ((upTo (16 * tFirst hd) els.length).zip els)]
                        <+: (getSp t (slotKey s h.d j)).work) ∧
                      t = { u with hanks := t.hanks, spindles := t.spindles }))))))

/-- CHUNK_NOTICE acts where it carries poison and a RESULT is consumed (R56, R198). ARRIVE and RELEASE at a BARRIER hank
(R334-R337): an arrival of the current round or the next one is noted, and settles the round; a stale one is counted, one
twice or of the wrong parity poisons the round; a RELEASE of the parent, of the round sent up, releases it, and any other
is counted in STALE. -/
def Obligations.NoticesAndBarriersAct : Prop :=
  ∀ (s : State) (die : Nat) (p : Pkt) (rest : List Pkt), 10 ≤ die → die < 26 → getInbox s die = p :: rest →
    p.complete = true → p.bad = false → dieOff s die = false → (getDie s die).relock = none →
    scanOpen s die = false →
    let hd := p.hdr
    let u := setInbox s die rest
    (hKind hd = kResult → exec (.result die) s = .next u) ∧
    (hKind hd = kChunkNotice →
      (namedHank s hd = none ∨ wbit hd.w6 8 = false → exec (.chunkNotice die) s = .next u) ∧
      (∀ h, namedHank s hd = some h → wbit hd.w6 8 = true → exec (.chunkNotice die) s
        = .next (poison u h.d.hank (wbits hd.w6 7 0) (hAux hd) (hStep hd) (wbits hd.w6 23 16) (wbits hd.w7 19 0) false))) ∧
    (hKind hd = kArrive →
      (namedHank s hd = none → exec (.arrive die) s = .next (notOpen u p)) ∧
      (∀ h, namedHank s hd = some h →
        (senderOf h p = none → exec (.arrive die) s = .next (notOpen u p)) ∧
        (∀ mi m, senderOf h p = some (mi, m) → h.d.type ≠ 5 ∨ wbit hd.w4 9 ≠ m.trunk →
          exec (.arrive die) s = .next (notOpen u p))) ∧
      (∀ h mi m, namedHank s hd = some h → senderOf h p = some (mi, m) → h.d.type = 5 → wbit hd.w4 9 = m.trunk →
        let r := hStep hd - h.base
        let mine := if r = h.current then h.barr.cur else h.barr.next
        (cAttempt hd ≠ (getJob s h.d.job).attempt ∨ hStep hd < hankStep h →
          exec (.arrive die) s = .next (staleHank u h.d.hank)) ∧
        (cAttempt hd = (getJob s h.d.job).attempt → hankStep h ≤ hStep hd →
          (wbits hd.w4 8 8 ≠ r % 2 → exec (.arrive die) s = .next (poisonRound u h.d.hank 5)) ∧
          (wbits hd.w4 8 8 = r % 2 → h.current + 2 ≤ r → exec (.arrive die) s
            = .next (raiseDetail u (srcSpindleMap (10 + h.d.hank % 16) 0)
                [word h.d.job, word h.d.hank, word (p.inPort.getD 0), word (hStep hd)])) ∧
          (wbits hd.w4 8 8 = r % 2 → r < h.current + 2 → mine.contains mi = true →
            exec (.arrive die) s = .next (poisonRound u h.d.hank 5)) ∧
          (wbits hd.w4 8 8 = r % 2 → r < h.current + 2 → mine.contains mi = false →
            let child := if m.trunk then mapPut h.barr.childFeid 0 mi (hSrc hd) else h.barr.childFeid
            let b := if r = h.current then { h.barr with cur := insNat h.barr.cur mi, childFeid := child }
              else { h.barr with next := insNat h.barr.next mi, childFeid := child }
            let h' := { h with barr := b }
            exec (.arrive die) s = .next (settleBarrier 2
              (setHank u h.d.hank (if r = h.current then startRound h' r else h')) h.d.hank))))) ∧
    (hKind hd = kRelease →
      (namedHank s hd = none → exec (.release die) s = .next u) ∧
      (∀ h, namedHank s hd = some h →
        (h.d.type ≠ 5 → exec (.release die) s = .next u) ∧
        (h.d.type = 5 → hSrc hd = h.d.parentFeid → h.d.extendsUp = true → hStep hd = hankStep h → h.barr.sentUp = true →
          exec (.release die) s = .next (settleBarrier 1 (releaseRound u h.d.hank) h.d.hank)) ∧
        (h.d.type = 5 → hSrc hd ≠ h.d.parentFeid ∨ h.d.extendsUp = false ∨ hStep hd ≠ hankStep h ∨ h.barr.sentUp = false →
          exec (.release die) s = .next (staleHank u h.d.hank))))

/-- A burst of a spindle's hank sequencer (R228, R232) merges up to one burst of elements of the oldest work into its slot,
or ends the chunk: rounded and sent at the root, sent up elsewhere; its cycles are counted, and a running Arithmetic engine
is held for them; no other burst begins before that engine's command has issued (R215, R229). An uncorrectable error in the
slot poisons the chunk (R197). A chunk timer poisons a chunk
that has started and not completed, a round timer a round that has not (R195), unless the clock they run on stands still
(R444); an EXCHANGE round whose members are all
counted sends its items and moves on (R207). -/
def Obligations.HanksBurstAndTimeOut : Prop :=
  ∀ s : State,
    (∀ l, l < 256 →
      let key := spindleOf s l
      unitContained s (key / 32) 0x10 (key % 32) = true ∨ (getDie s (key / 32)).relock ≠ none ∨ burstWaits s key = true →
      exec (.hankBurst l) s = .next s) ∧
    (∀ l w rest h, l < 256 →
      let key := spindleOf s l
      unitContained s (key / 32) 0x10 (key % 32) = false → (getDie s (key / 32)).relock = none → burstWaits s key = false →
      (getSp s key).work = w :: rest → getHank s (workSlot w).1 = some h → (slotCheck s key).1 = true →
      let q := (hankSlot h (workSlot w).2).awaits
      exec (.hankBurst l) s = .next (poison (slotCheck s key).2 h.d.hank (getJob s h.d.job).attempt (q % nchunks h.d)
        (roundStep h (q / nchunks h.d)) 8 ownFeid true)) ∧
    (∀ l, l < 256 → unitContained s (spindleOf s l / 32) 0x10 (spindleOf s l % 32) = false →
      (getDie s (spindleOf s l / 32)).relock = none → burstWaits s (spindleOf s l) = false →
      noInjection s (srcSpindle (spindleOf s l) 0) = true → noInjection s (srcSpindle (spindleOf s l) 1) = true →
      let key := spindleOf s l
      let work := (getSp s key).work
      (work = [] → exec (.hankBurst l) s = .next s) ∧
      (∀ hank j fmt els rest h, work = .merge hank j fmt els :: rest → getHank s hank = some h →
        let full := convBurst h.d.mode fmt
        let u := setHank (countBurst s key (burstCycles (els.take full).length full)) hank
          (putSlot h j (mergeEls h.d.mode h.d.op (hankSlot h j) (els.take full)))
        exec (.hankBurst l) s = .next (modSp u key (fun sp => { sp with
          work := if els.drop full = [] then rest else .merge hank j fmt (els.drop full) :: rest }))) ∧
      (∀ hank j els rest h, work = .tally hank j els :: rest → getHank s hank = some h →
        let full := mergeBurst h.d.mode
        let u := setHank (countBurst s key (burstCycles (els.take full).length full)) hank
          (putSlot h j (mergeEls h.d.mode h.d.op (hankSlot h j) (els.take full)))
        exec (.hankBurst l) s = .next (modSp u key (fun sp => { sp with
          work := if els.drop full = [] then rest else .tally hank j (els.drop full) :: rest }))) ∧
      (∀ hank j done rest h, work = .finish hank j done :: rest → getHank s hank = some h →
        let n := chunkEls h.d ((hankSlot h j).awaits % nchunks h.d)
        let u := countBurst s key (burstCycles (min 512 (n - done)) 512)
        (done + 512 < n → exec (.hankBurst l) s
          = .next (modSp u key (fun sp => { sp with work := .finish hank j (done + 512) :: rest }))) ∧
        (n ≤ done + 512 → exec (.hankBurst l) s
          = .next (finishRoot (modSp u key (fun sp => { sp with work := rest })) hank j))) ∧
      (∀ hank j done rest h, work = .formUp hank j done :: rest → getHank s hank = some h →
        let full := mergeBurst h.d.mode / 16
        let n := chunkGroups h.d ((hankSlot h j).awaits % nchunks h.d)
        let u := countBurst s key (burstCycles (min full (n - done)) full)
        (done + full < n → exec (.hankBurst l) s
          = .next (modSp u key (fun sp => { sp with work := .formUp hank j (done + full) :: rest }))) ∧
        (n ≤ done + full → exec (.hankBurst l) s
          = .next (sendUp (modSp u key (fun sp => { sp with work := rest })) hank j)))) ∧
    (∀ hank h, getHank s hank = some h →
      (∀ j, h.d.type ≠ 6 →
        let sl := hankSlot h j
        (sl.started = true → sl.complete = false → (getDie s (slotKey s h.d j / 32)).relock = none →
          exec (.chunkTimeout hank j) s
            = .next (foundPoison s hank (sl.awaits % nchunks h.d) (roundStep h (sl.awaits / nchunks h.d)) 1)) ∧
        (sl.started = false ∨ sl.complete = true ∨ (getDie s (slotKey s h.d j / 32)).relock ≠ none →
          exec (.chunkTimeout hank j) s = .next s)) ∧
      (h.d.type = 6 →
        ((mapFind h.rounds h.current).isSome = true → exchCounted h = false → (getDie s (hankDie h.d)).relock = none →
          exec (.chunkTimeout hank 0) s = .next (foundPoison s hank 0 (hankStep h) 1)) ∧
        (∀ j, j ≠ 0 ∨ mapFind h.rounds h.current = none ∨ exchCounted h = true ∨ (getDie s (hankDie h.d)).relock ≠ none →
          exec (.chunkTimeout hank j) s = .next s)) ∧
      (∀ r,
        ((getRound h r).timer = true → (getDie s (hankDie h.d)).relock = none →
          exec (.roundTimeout hank r) s = .next (foundPoison s hank 0 (roundStep h r) 2)) ∧
        ((getRound h r).timer = false ∨ (getDie s (hankDie h.d)).relock ≠ none →
          exec (.roundTimeout hank r) s = .next s)) ∧
      (h.d.type ≠ 6 ∨ exchCounted h = false ∨ (getDie s (hankDie h.d)).relock ≠ none →
        exec (.exchangeSend hank) s = .next s) ∧
      (h.d.type = 6 → exchCounted h = true → (getDie s (hankDie h.d)).relock = none →
        (stagingOk s h = false → exec (.exchangeSend hank) s = .next (foundPoison s hank 0 (hankStep h) 12)) ∧
        (stagingOk s h = true →
          ∃ t h', exec (.exchangeSend hank) s = .next t ∧ getHank t hank = some h' ∧ h'.current = h.current + 1 ∧
            h'.exch = exchInit h.exch.staging ∧
            t = { s with hanks := t.hanks, ready := t.ready, nextUid := t.nextUid }))) ∧
    (∀ hank, getHank s hank = none → ∀ n,
      exec (.chunkTimeout hank n) s = .next s ∧ exec (.roundTimeout hank n) s = .next s ∧
      exec (.exchangeSend hank) s = .next s)

/-! ### Engines of a spindle (R211-R234, R243-R314, R318-R333) -/

/-- What the issue of a repeat does besides its results' own values (R214, R216, R243, R249, R260, R262, R482, R494):
with every result put in flight to land its latency after the cycle of issue, and the COUNT of each address register
it steps after one cycle, the engine's cycle and ADVANCE_CYCLES advance by the occupancy, the engine is RUNNING,
repeat 0 is noted in the PC trace, and after the last repeat the program goes on at the command that follows; every
other field of the engine, of its spindle and of the machine is as it was. A result lands once its cycle has passed,
the earliest first and of equal ones the first issued (R217, R248, R249, R278): it is written to its register, its
queue or the local store and is no longer in flight; a result that one issued after it has overtaken is counted as a
hazard of KIND 2; with nothing due nothing changes. -/
def Obligations.RepeatsIssueAndResultsLand : Prop :=
  (∀ (s : State) (key i n occ : Nat) (results : List (Nat × Target)) (steps : List Nat), Sound s →
     let e := getEng s key i
     let t := perform s key i n { occ := occ, results := results, steps := steps }
     let f := (results ++ (steps.eraseDups.map (fun a => (1, Target.aStep a (nextCount (aReg e a)))))).foldl (fly e.now)
       { e with trace := if e.rep = 0 then ((eget s .advanceCycles key i 0 47 0, e.pc) :: e.trace).take 32 else e.trace }
     let g := { f with now := e.now + occ, state := .running, hold := 0, passed := false, wdRaised := false }
     getEng t key i = (if n ≤ e.rep + 1 then { followed e.pc 4 g with rep := 0, count := none, waitBegun := false, ended := none }
       else { g with rep := e.rep + 1, count := some n }) ∧
     (f.areg = e.areg ∧ f.sreg = e.sreg ∧ f.preg = e.preg ∧ f.lreg = e.lreg ∧ f.vreg = e.vreg ∧ f.tiles = e.tiles ∧
       f.pc = e.pc ∧ f.rep = e.rep ∧ f.seq = e.seq + results.length + steps.eraseDups.length) ∧
     (activeWhorls e = [] → n ≤ e.rep + 1 → (getEng t key i).pc = e.pc + 1) ∧
     getSp t key = spSetEngine (getSp s key) i (getEng t key i) ∧
     (∀ k, k ≠ key → getSp t k = getSp s k) ∧
     t = { eadd s .advanceCycles key i 0 47 0 occ with spindles := t.spindles }) ∧
  (∀ (s : State) (die slot i : Nat), 10 ≤ die → die < 26 → slot < 17 → i < 4 → engineClocked s (spKey die slot) = true →
     let key := spKey die slot
     let e := getEng s key i
     ((∀ f ∈ e.flight, e.now ≤ f.due) → exec (.landing die slot i) s = .next s) ∧
     (∀ f ∈ e.flight, f.due < e.now → (∀ g ∈ e.flight, g = f ∨ f.due < g.due ∨ (f.due = g.due ∧ f.seq < g.seq)) →
       let u := modEng s key i (fun e => { e with flight := e.flight.filter (fun g => g.seq != f.seq) })
       (f.late = 0 → exec (.landing die slot i) s = .next (modSp u key (fun sp =>
         let e := spEngine sp i
         match f.tgt with
         | .sreg n v => spSetEngine sp i { e with sreg := mapPut e.sreg 0 n v }
         | .preg n v => spSetEngine sp i { e with preg := putP e.preg n v }
         | .lreg n v => spSetEngine sp i (setL e n { lReg e n with programmed := v })
         | .aField n k v => spSetEngine sp i (setA e n (putField (aReg e n) k v))
         | .aStep n k => spSetEngine sp i (setA e n { aReg e n with count := k })
         | .aBase n k => spSetEngine sp i (setA e n { aReg e n with base := k })
         | .vreg n v => spSetEngine sp i { e with vreg := mapPut e.vreg 0 n v }
         | .tile n els => spSetEngine sp i (putTile e n els)
         | .store a d _ => { sp with ls := memWrite sp.ls a d }
         | .push q v => setQueue sp q (getQueue sp q ++ [v])))) ∧
       (∀ k m j, 0 < f.late → tgtField f.tgt = some (k, m, j) → exec (.landing die slot i) s
         = .next (countHazard (modSp u key (fun sp => landTarget sp i f.tgt)) key i
             { cycle := f.due, kind := 2, cls := k, num := m, early := f.late, pc := f.pc, line := 0, ea := 0 }))))

/-- Control and scalar commands (R254, R258-R264): NOP takes a cycle; J goes on at its target, ending the whorls whose body
does not hold it, and takes 3, or 1 where its predicate is false (R262); WHORL starts its whorl at the next command, or goes on after the body when the count is 0,
and takes 2; S.LI, S.OP and A.SET put their result in flight to the register they name. -/
def Obligations.ControlAndScalarCommandsIssue : Prop :=
  ∀ (s : State) (die slot i c rep n : Nat), 10 ≤ die → die < 26 → slot < 17 → i < 4 → Sound s →
    let key := spKey die slot
    let e := getEng s key i
    let b := beginCycle s key i
    let l := bits c 33 32
    let len := bits c 52 40
    let imm : Word := word (bits c 127 64)
    let cnt := match bits c 35 34 with
      | 0 => bits c 95 64
      | 1 => (sReg e (bits c 39 36)).toNat
      | _ => (lReg e l).programmed.toNat
    let cntReads := match bits c 35 34 with
      | 0 => []
      | 1 => [(0, bits c 39 36)]
      | _ => [(4, l)]
    (comesTo s key i 0x01 c rep n = true → unhindered s key i c [] [] [] [] = true →
      exec (.nop die slot i) s = .next (perform b key i n {})) ∧
    (comesTo s key i 0x02 c rep n = true → unhindered s key i c [] [] [] [] = true →
      exec (.j die slot i) s = .next (perform b key i n {
        occ := 3, next := some (fun e =>
        { ((activeWhorls e).filter (fun m => decide (bits c 44 32 < (lReg e m).first.toNat)
            || decide ((lReg e m).last.toNat < bits c 44 32))).foldl
            (fun e m => setL e m { lReg e m with active := false, level := 0 }) e
          with pc := bits c 44 32, rep := 0, count := none }) })) ∧
    (standsAt s key i 0x02 c = true → e.count = none → predicate e c = false →
      (readHazards e e.now e.pc (predReads c)).isEmpty = true →
      exec (.j die slot i) s = .next (modEng (spend (traceCmd b key i) key i 1) key i advancePc)) ∧
    (comesTo s key i 0x03 c rep n = true → unhindered s key i c cntReads [] [] [] = true →
      cnt < 2 ^ 32 → (lReg e l).active = false → (activeWhorls e).length < 4 → e.pc + len ≤ 8191 →
      (∀ m ∈ activeWhorls e, e.pc + len ≤ (lReg e m).last.toNat) →
      exec (.whorl die slot i) s = .next (perform b key i n {
        occ := 2, next := some (fun e =>
        if cnt = 0 then { e with pc := e.pc + len + 1 }
        else { setL e l { programmed := (lReg e l).programmed, remaining := BitVec.ofNat 32 cnt,
                          first := BitVec.ofNat 13 (e.pc + 1), last := BitVec.ofNat 13 (e.pc + len), active := true,
                          level := (activeWhorls e).length + 1 }
          with pc := e.pc + 1 }) })) ∧
    (comesTo s key i 0x10 c rep n = true → unhindered s key i c [] [] [] [] = true →
      exec (.sLi die slot i) s = .next (perform b key i n { results := [(1, nameTarget (bits c 36 32) imm)] })) ∧
    (comesTo s key i 0x11 c rep n = true →
      let y := if bit c 47 then imm else nameVal e (bits c 46 42)
      let x := nameVal e (bits c 41 37)
      unhindered s key i c ((if bits c 52 48 = 17 then [] else [nameReg (bits c 41 37)])
        ++ (if bit c 47 then [] else [nameReg (bits c 46 42)])) [] [] [] = true →
      ∀ v : Word, (bits c 52 48, v) ∈ [(0, x + y), (1, x - y), (2, x * y), (3, x &&& y), (4, x ||| y), (5, x ^^^ y),
          (6, x <<< (y.toNat % 64)), (7, x >>> (y.toNat % 64)), (8, x.sshiftRight (y.toNat % 64)),
          (9, if x.toInt ≤ y.toInt then x else y), (10, if x.toInt ≤ y.toInt then y else x),
          (11, if x = y then 1 else 0), (12, if x = y then 0 else 1), (13, if x.toInt < y.toInt then 1 else 0),
          (14, if x.toInt ≤ y.toInt then 1 else 0), (15, if x < y then 1 else 0), (16, if x ≤ y then 1 else 0), (17, y)] →
        exec (.sOp die slot i) s = .next (perform b key i n { results := [(2, nameTarget (bits c 36 32) v)] })) ∧
    (comesTo s key i 0x12 c rep n = true →
      let v := if bit c 39 then imm else nameVal e (bits c 44 40)
      unhindered s key i c ((if bit c 39 then [] else [nameReg (bits c 44 40)])
        ++ (if bits c 38 36 = 1 then [(1, bits c 35 32)] else [])) [] [] [] = true →
      exec (.aSet die slot i) s = .next (perform b key i n {
        results := [(2,
        if bits c 38 36 = 1 then .aField (bits c 35 32) 0 ((aReg e (bits c 35 32)).base + v)
        else .aField (bits c 35 32) (bits c 38 36) v)] }))

/-- The Intake commands, and the vector moves of Arithmetic and Sift (R219, R220, R224, R266, R267): with their addresses
in the program area and aligned, a queue that has room or an entry, and fewer than 32 repeats outstanding, IN.GET sends its
GET and is outstanding, IN.COPY, IN.FILL and V.ST put a write in flight, V.LD and V.POP a register's value, IN.PUSH and
V.PUSH an entry; V.POP takes the oldest entry of its queue. -/
def Obligations.IntakeAndVectorMovesIssue : Prop :=
  ∀ (s : State) (die slot i c rep n : Nat), 10 ≤ die → die < 26 → slot < 17 → i < 4 → Sound s →
    let key := spKey die slot
    let e := getEng s key i
    let b := beginCycle s key i
    let sp := getSp s key
    let a1 := bits c 35 32
    let a2 := bits c 39 36
    let av := bits c 59 56
    let src := opdAddr (aReg e a1)
    let dst := opdAddr (aReg e a2)
    let vad := opdAddr (aReg e av)
    let m := bits c 55 40 + 1
    let occ := (m + 127) / 128
    (comesTo s key i 0x30 c rep n = true → ∀ k hd, k = bits c 51 40 + 1 → hd = word (opdHandle (aReg e a1)) →
      handleFits (aReg e a1) k = true → fits s key dst k 1 = true → e.gets.length < 32 →
      unhindered s key i c [] [] [(dst, k)] [a1, a2] = true →
      exec (.inGet die slot i) s = .next (perform b key i n {
        occ := 2, steps := [a1, a2], act := fun s =>
          let e := getEng s key 0
          let g : GetOut := {
            number := e.reqNumber.toNat, handle := hd, addr := dst, bytes := k, ord := e.seq,
            group := (e.reqNumber - BitVec.ofNat 20 rep).toNat, flag := if bit c 53 then some (bits c 59 54) else none }
          sendFrom (modEng s key 0 (fun e =>
              { e with reqNumber := e.reqNumber + 1, seq := e.seq + 1, gets := e.gets ++ [g] })) die
            { kind := 0x10, ord := bit c 52, dst := hndFeid hd, a4 := hd, a5 := word k,
              tag := 2 ^ 28 + (logicalOf s key).getD 0 * 2 ^ 20 + g.number } })) ∧
    (comesTo s key i 0x31 c rep n = true → fits s key src m 1 = true → fits s key dst m 1 = true →
      unhindered s key i c [] [(src, m, false)] [(src, m), (dst, m)] [a1, a2] = true →
      exec (.inCopy die slot i) s = .next (perform b key i n {
        occ := occ, steps := [a1, a2],
        results := [(occ + 6, .store dst (memRead sp.ls src m) false)] })) ∧
    (comesTo s key i 0x32 c rep n = true → fits s key dst m 1 = true →
      unhindered s key i c [] [] [(dst, m)] [a2] = true →
      exec (.inFill die slot i) s = .next (perform b key i n {
        occ := occ, steps := [a2],
        results := [(occ + 3, .store dst
          ((upTo 0 m).map (fun b => (wordBytes (word (bits c 127 64))).getD (b % 8) 0)) false)] })) ∧
    (comesTo s key i 0x33 c rep n = true → fits s key src 256 64 = true → queueFull sp i (bits c 48 48) = false →
      unhindered s key i c [] [(src, 256, false)] [(src, 256)] [a1] = true →
      exec (.inPush die slot i) s = .next (perform b key i n {
        occ := 2, steps := [a1],
        results := [(4, .push (bits c 48 48) (BitVec.ofNat 2048 (bytesNat (memRead sp.ls src 256))))] })) ∧
    (comesTo s key i 0x40 c rep n = true → fits s key vad 256 64 = true →
      unhindered s key i c [] [(vad, 256, false)] [(vad, 256)] [av] = true →
      exec (.vLd die slot i) s = .next (perform b key i n {
        steps := [av],
        results := [(6, .vreg (vdOf c rep) (BitVec.ofNat 2048 (bytesNat (memRead sp.ls vad 256))))] })) ∧
    (comesTo s key i 0x41 c rep n = true → fits s key vad 256 64 = true →
      unhindered s key i c [(2, vaOf c rep)] [] [(vad, 256)] [av] = true →
      exec (.vSt die slot i) s = .next (perform b key i n {
        steps := [av],
        results := [(4, .store vad (natBytes 256 (vReg e (vaOf c rep))) false)] })) ∧
    (comesTo s key i 0x42 c rep n = true → ∀ q, q = (if i = 1 then 2 else 3) + 2 * bits c 60 60 →
      queueFull sp i q = false → unhindered s key i c [(2, vaOf c rep)] [] [] [] = true →
      exec (.vPush die slot i) s = .next (perform b key i n {
        results := [(3, .push q (BitVec.ofNat 2048 (vReg e (vaOf c rep))))] })) ∧
    (comesTo s key i 0x43 c rep n = true → ∀ q v r, q = (if i = 1 then 3 * bits c 60 60 else 1 + bits c 60 60) →
      getQueue sp q = v :: r → unhindered s key i c [] [] [] [] = true →
      exec (.vPop die slot i) s = .next (perform b key i n {
        results := [(2, .vreg (vdOf c rep) v)],
        act := fun s => modSp s key (fun sp => setQueue sp q ((getQueue sp q).drop 1)) }))

/-- Vector arithmetic (R233, R257, R268): element by element in the command's format, the sum, the product, the greater, the
less, the product added to a third, the exponential, the reciprocal and the square root of the decoded elements, each
rounded once; V.CVT converts one part of a register and keeps the others; V.CARD gives Carding outputs. -/
def Obligations.VectorArithmeticIssues : Prop :=
  ∀ (s : State) (die slot i c rep n : Nat), 10 ≤ die → die < 26 → slot < 17 → i < 4 → Sound s →
    let key := spKey die slot
    let e := getEng s key i
    let b := beginCycle s key i
    let f := bits c 63 56
    let w := fmtBits f
    let va := vaOf c rep
    let vd := vdOf c rep
    let x := fun k => decodeEl f 0 (vEl w (vReg e va) k)
    let y := fun k => decodeEl f 0 (opB e c rep k)
    let z := fun k => decodeEl f 0 (vEl w (vReg e (vcOf c rep)) k)
    let value := fun (g : Nat → Nat) => BitVec.ofNat 2048 (packBits w ((upTo 0 (2048 / max 1 w)).map g))
    let two := unhindered s key i c [(2, va), readB c rep] [] [] [] = true
    let one := unhindered s key i c [(2, va)] [] [] [] = true
    let slow := if f = 1 then 4 else 8
    (comesTo s key i 0x50 c rep n = true → two → exec (.vAdd die slot i) s = .next (perform b key i n {
      results := [(4, .vreg vd (value (fun k => roundRne f (fAdd (x k) (y k)))))] })) ∧
    (comesTo s key i 0x51 c rep n = true → two → exec (.vMul die slot i) s = .next (perform b key i n {
      results := [(4, .vreg vd (value (fun k => roundRne f (fMul (x k) (y k)))))] })) ∧
    (∀ (row : Instr) (op : Nat) (greater : Bool),
      (row, op, greater) ∈ [(.vMax die slot i, 0x52, true), (.vMin die slot i, 0x53, false)] →
      comesTo s key i op c rep n = true → two → exec row s = .next (perform b key i n {
        results := [(4, .vreg vd (value (fun k =>
          match keyOf f (vEl w (vReg e va) k), keyOf f (opB e c rep k) with
          | .fin p, .fin q => if decide (q ≤ p) = greater then vEl w (vReg e va) k else opB e c rep k
          | _, _ => canonNan f)))] })) ∧
    (comesTo s key i 0x54 c rep n = true → unhindered s key i c [(2, va), (2, vd)] [] [] [] = true →
      let g := bits c 71 64
      let m := 2048 / max w (fmtBits g)
      exec (.vCvt die slot i) s = .next (perform b key i n {
        results := [(4, .vreg vd (value (fun k =>
        if bits c 75 74 * m ≤ k ∧ k < (bits c 75 74 + 1) * m
        then roundRne f (decodeEl g 0 (vEl (fmtBits g) (vReg e va) (bits c 73 72 * m + (k - bits c 75 74 * m))))
        else vEl w (vReg e vd) k)))] })) ∧
    (comesTo s key i 0x55 c rep n = true → unhindered s key i c [(2, va), readB c rep, (2, vcOf c rep)] [] [] [] = true →
      exec (.vFma die slot i) s = .next (perform b key i n {
        results := [(6, .vreg vd (value (fun k => roundRne f (fAdd (fMul (x k) (y k)) (z k)))))] })) ∧
    (∀ (row : Instr) (op : Nat) (g : FVal → FVal),
      (row, op, g) ∈ [(.vExp die slot i, 0x56, fExp), (.vRcp die slot i, 0x57, fRcp), (.vSqrt die slot i, 0x58, fSqrt)] →
      comesTo s key i op c rep n = true → one → exec row s = .next (perform b key i n {
        occ := slow,
        results := [(slow + 12, .vreg vd (value (fun k => roundRne f (g (x k)))))] })) ∧
    (comesTo s key i 0x59 c rep n = true →
      unhindered s key i c [(0, bits c 83 80), (0, bits c 87 84), (0, bits c 91 88), (0, bits c 95 92)] [] [] [] = true →
      let idx := (sReg e (bits c 95 92)).toNat % 2 ^ 40
      let at40 := fun k => carding (sReg e (bits c 83 80)) (BitVec.ofNat 32 (sReg e (bits c 87 84)).toNat)
        ((sReg e (bits c 91 88)).toNat % 2 ^ 48) ((idx + k) % 2 ^ 40)
      exec (.vCard die slot i) s = .next (perform b key i n {
        occ := 4, results := [(16, .vreg vd
        (BitVec.ofNat 2048 (packBits 32 (if bit c 96 then (upTo 0 16).flatMap (fun k =>
            let o := at40 (16 * rep + k)
            [o.1.toNat, o.2.1.toNat, o.2.2.1.toNat, o.2.2.2.toNat])
          else (upTo 0 64).map (fun k => (at40 (64 * rep + k)).1.toNat)))))] }))

/-- The tensor array and the exact lanes (R230-R232, R269-R274): MM.CLR clears a tile; MM.T adds the products of two slices
onto it, reading an MX format's scales once in 32 values of the index; MM.ST stores it rounded; ACC.X converts 32 elements
into the accumulator's integers and ACC.C takes 32 accumulators, each merging them into the accumulators at DST, and an
element that leaves its range is counted and kept for the next drain point; ACC.R rounds 32 accumulators out, an MX format
as one block with its scale. -/
def Obligations.MatrixAndExactCommandsIssue : Prop :=
  ∀ (s : State) (die slot i c rep n : Nat), 10 ≤ die → die < 26 → slot < 17 → i < 4 → Sound s →
    let key := spKey die slot
    let e := getEng s key i
    let b := beginCycle s key i
    let ls := (getSp s key).ls
    let ad := fun k => opdAddr (aReg e k)
    let a1 := bits c 35 32
    let a2 := bits c 39 36
    let a3 := bits c 71 68
    let tile := bits c 32 32
    let mode := bits c 55 52
    let op := bits c 51 48
    let af := bits c 47 40
    let m := 32 * accBytes mode
    let mx := isMx af
    (comesTo s key i 0x60 c rep n = true → unhindered s key i c [] [] [] [] = true →
      exec (.mmClr die slot i) s = .next (perform b key i n { results := [(1, .tile tile (List.replicate 1024 0))] })) ∧
    (comesTo s key i 0x61 c rep n = true →
      let fa := bits c 59 52
      let k := mmK fa
      let sz := 4 * k * fmtBits fa
      let p := ad (bits c 39 36)
      let q := ad (bits c 43 40)
      let sp := ad (bits c 47 44)
      let sq := ad (bits c 51 48)
      let first := isMx fa && k * rep % 32 == 0
      let sa := if first then memRead ls sp 32 else e.scaleA
      let sb := if first then memRead ls sq 32 else e.scaleB
      let ranges := [(p, sz), (q, sz)] ++ (if first then [(sp, 32), (sq, 32)] else [])
      let steps := [bits c 39 36, bits c 43 40] ++ (if first then [bits c 47 44, bits c 51 48] else [])
      fits s key p sz 16 = true → fits s key q sz 16 = true →
      (first = true → fits s key sp 32 1 = true ∧ fits s key sq 32 1 = true) →
      unhindered s key i c [] (ranges.map (fun r => (r.1, r.2, false))) ranges steps = true →
      exec (.mmT die slot i) s = .next (perform b key i n {
        steps := steps,
        results := [(8, .tile tile ((mmBase e tile).zipIdx.map (fun x =>
          mmSum k (mmEl fa (memRead ls p sz) sa (x.2 / 32)) (mmEl (bits c 67 60) (memRead ls q sz) sb (x.2 % 32)) x.1)))],
        act := fun s => modEng s key i (fun e => { e with scaleA := sa, scaleB := sb }) })) ∧
    (comesTo s key i 0x62 c rep n = true →
      let f := bits c 47 40
      let sz := fmtBits f / 8
      let occ := if f = 1 then 16 else 8
      fits s key (ad a2) (1024 * sz) 16 = true →
      unhindered s key i c [(5, tile)] [] [(ad a2, 1024 * sz)] [a2] = true →
      exec (.mmSt die slot i) s = .next (perform b key i n {
        occ := occ, steps := [a2],
        results := [(occ + 6, .store (ad a2)
          ((tileEls e tile).flatMap (fun x => natBytes sz (roundRne f (decodeEl 1 0 x.toNat)))) false)] })) ∧
    (comesTo s key i 0x70 c rep n = true →
      let k := 4 * fmtBits af
      let scale := ((memRead ls (ad a3) 1).headD 0).toNat
      let occ := if af = 1 ∧ mode ≠ modeKey then 4 else if af = 0x12 ∨ af = 0x1B then 2 else 1
      let new := (upTo 0 32).map (fun j =>
        let x := unpackEl (fmtBits af) (memRead ls (ad a1) k) j
        if mx then (if scale = 255 then Acc.nan
          else (accOfFloat mode (cmdFloor c) (decodeEl af ((scale : Int) - 127) x)).1)
        else (accIn mode (cmdFloor c) af x).1)
      let r := ((accRead b key i mode (ad a2)).zip new).map (fun x => accMerge mode op x.1 x.2)
      let left := (r.zipIdx.filter (fun x => x.1.2)).map (·.2)
      fits s key (ad a1) k 8 = true → fits s key (ad a2) m 8 = true → (mx = true → fits s key (ad a3) 1 1 = true) →
      unhindered s key i c [] ([(ad a1, k, false), (ad a2, m, true)] ++ (if mx then [(ad a3, 1, false)] else []))
        ([(ad a1, k), (ad a2, m)] ++ (if mx then [(ad a3, 1)] else [])) [a1, a2, a3] = true →
      exec (.accX die slot i) s = .next (perform b key i n {
        occ := occ, steps := [a1, a2, a3],
        results := [(occ + 10, .store (ad a2) (r.flatMap (fun x => natBytes (accBytes mode) (accWord mode x.1))) true)],
        act := exactRange key i mode (ad a2) left })) ∧
    (comesTo s key i 0x71 c rep n = true →
      let occ := if mode = modeEx then 4 else if mode = modeWx then 2 else 1
      let r := ((accRead b key i mode (ad a2)).zip (accRead b key i mode (ad a1))).map (fun x => accMerge mode op x.1 x.2)
      let left := (r.zipIdx.filter (fun x => x.1.2)).map (·.2)
      fits s key (ad a1) m 8 = true → fits s key (ad a2) m 8 = true →
      unhindered s key i c [] [(ad a1, m, true), (ad a2, m, true)] [(ad a1, m), (ad a2, m)] [a1, a2] = true →
      exec (.accC die slot i) s = .next (perform b key i n {
        occ := occ, steps := [a1, a2],
        results := [(occ + 10, .store (ad a2) (r.flatMap (fun x => natBytes (accBytes mode) (accWord mode x.1))) true)],
        act := exactRange key i mode (ad a2) left })) ∧
    (comesTo s key i 0x72 c rep n = true →
      let k := 4 * fmtBits af
      let rnd := bits c 66 65
      let sr := rnd == 2
      let bs := memRead ls (ad a1) m
      let els := (upTo 0 32).map (fun j => (wordAcc mode (bytesNat ((bs.drop (j * accBytes mode)).take (accBytes mode))),
        if sr then cardU (sReg e (bits c 75 72)) (BitVec.ofNat 32 (sReg e (bits c 79 76)).toNat)
          ((sReg e (bits c 83 80)).toNat % 2 ^ 48) (((sReg e (bits c 87 84)).toNat + 32 * rep + j) % 2 ^ 40) else 0))
      let block := encodeBlock af rnd (els.map (fun x => (accVal mode (cmdFloor c) x.1, x.2)))
      fits s key (ad a1) m 8 = true → fits s key (ad a2) k 8 = true → (mx = true → fits s key (ad a3) 1 1 = true) →
      unhindered s key i c
        (if sr then [(0, bits c 75 72), (0, bits c 79 76), (0, bits c 83 80), (0, bits c 87 84)] else [])
        [(ad a1, m, false)] ([(ad a1, m), (ad a2, k)] ++ (if mx then [(ad a3, 1)] else []))
        [a1, a2, a3] = true →
      exec (.accR die slot i) s = .next (perform b key i n {
        occ := 2, steps := [a1, a2, a3],
        results := if mx then [(16, .store (ad a2) (packEls (fmtBits af) block.2) false),
            (16, .store (ad a3) [BitVec.ofNat 8 block.1] false)]
          else [(16, .store (ad a2) (els.flatMap (fun x =>
            natBytes (fmtBits af / 8) (accOut mode op rnd (cmdFloor c) af x.2 x.1))) false)] }))

/-- The Sift commands (R288-R297, R302-R309): SORT.K and TOPK.K put the source's pairs in key order and keep all or the
first K; FILT and COMPACT keep the elements that a comparison or a mask bit selects and may count them; PAD.C writes its
pattern from the valid length on; TILE.EXP expands a tile that its header describes and keeps a malformed one's address for
the next drain point; TILE.CMP compresses a dense tile and writes its header, counting a fallback. -/
def Obligations.SiftCommandsIssue : Prop :=
  ∀ (s : State) (die slot i c rep n : Nat), 10 ≤ die → die < 26 → slot < 17 → i < 4 → Sound s →
    let key := spKey die slot
    let e := getEng s key i
    let b := beginCycle s key i
    let ls := (getSp s key).ls
    let a1 := bits c 35 32
    let a2 := bits c 39 36
    let a3 := bits c 43 40
    let src := opdAddr (aReg e a1)
    let dst := opdAddr (aReg e a2)
    let aux := opdAddr (aReg e a3)
    let m := if bit c 60 then (sReg e (bits c 47 44)).toNat else bits c 59 44
    let mreg := if bit c 60 then [(0, bits c 47 44)] else []
    let f := bits c 79 72
    let sz := max 1 (fmtBits f / 8)
    let sorted := sortPairs (bit c 109) (bit c 110) ((chunksOf 8 m (memRead ls src (8 * m))).map bytesNat)
    let els := ((chunksOf sz m (memRead ls src m)).map bytesNat).zipIdx
    let select := fun (kept : List (Nat × Nat)) =>
      let occ := max 1 ((m + 127) / 128)
      (occ + 6, Target.store dst ((kept.map (·.1)).flatMap (natBytes sz)) false)
        :: (if bit c 68 then [(occ + 6, Target.sreg (bits c 67 64) (word kept.length))] else [])
    (∀ (row : Instr) (op k cyc : Nat),
      (row, op, k, cyc) ∈ [(.sortK die slot i, 0x80, m, 8 + (m + 31) / 32 * clog2 m),
        (.topkK die slot i, 0x81, min (bits c 108 96) m, 8 + (m + 31) / 32 * clog2 (bits c 108 96 + 1))] →
      comesTo s key i op c rep n = true → m ≤ 4096 → (op = 0x81 → bits c 108 96 ≤ 4096) →
      (m = 0 ∨ fits s key src (8 * m) 8 = true) → (k = 0 ∨ fits s key dst (8 * k) 8 = true) →
      unhindered s key i c mreg [(src, 8 * m, false)] [(src, 8 * m), (dst, 8 * k)] [a1, a2] = true →
      let occ := if m ≤ 1 then 1 else cyc
      exec row s = .next (perform b key i n {
        occ := occ, steps := [a1, a2],
        results := [(occ + 6, .store dst ((sorted.take k).flatMap (natBytes 8)) false)] })) ∧
    (comesTo s key i 0x82 c rep n = true → m < 65536 → m % sz = 0 → (m = 0 ∨ fits s key src m 8 = true) →
      (m = 0 ∨ fits s key dst m 8 = true) → unhindered s key i c (mreg ++ (if bits c 83 80 ≤ 5 then [(0, bits c 87 84)] else []))
        [(src, m, false)] [(src, m), (dst, m)] [a1, a2] = true →
      exec (.filt die slot i) s = .next (perform b key i n {
        occ := max 1 ((m + 127) / 128), steps := [a1, a2],
        results := select (els.filter (fun x =>
          filtKeeps f (bits c 83 80) x.1 ((sReg e (bits c 87 84)).toNat % 2 ^ fmtBits f))) })) ∧
    (comesTo s key i 0x83 c rep n = true → m < 65536 → m % sz = 0 → ∀ k, k = (m / sz + 7) / 8 →
      (m = 0 ∨ fits s key src m 8 = true) → (m = 0 ∨ fits s key dst m 8 = true) → (k = 0 ∨ fits s key aux k 8 = true) →
      unhindered s key i c mreg [(src, m, false), (aux, k, false)] [(src, m), (dst, m), (aux, k)] [a1, a2, a3] = true →
      exec (.compact die slot i) s = .next (perform b key i n {
        occ := max 1 ((m + 127) / 128), steps := [a1, a2, a3],
        results := select (els.filter (fun x => ((memRead ls aux k).getD (x.2 / 8) 0).toNat.testBit (x.2 % 8))) })) ∧
    (comesTo s key i 0x86 c rep n = true → m < 65536 → (m = 0 ∨ fits s key dst m 8 = true) →
      unhindered s key i c ((0, bits c 43 40) :: mreg) [] [(dst, m)] [a2] = true →
      let v := min m (sReg e (bits c 43 40)).toNat
      let occ := max 1 ((m + 255) / 256)
      exec (.padC die slot i) s = .next (perform b key i n {
        occ := occ, steps := [a2],
        results := [(occ + 4, .store (dst + v)
          ((upTo v (m - v)).map (fun b => (wordBytes (word (bits c 127 64))).getD (b % 8) 0)) false)] })) ∧
    (comesTo s key i 0x84 c rep n = true → bit c 62 = false →
      let h := bytesNat (memRead ls aux 8)
      let k := if headerOk f h then bits h 47 32 else 0
      let occ := tileCycles f
      let out := expandTile f h (memRead ls src k)
      (k = 0 ∨ fits s key src k 8 = true) → fits s key dst (denseBytes f) 8 = true → fits s key aux 8 8 = true →
      unhindered s key i c [] [(aux, 8, false), (src, k, false)] [(aux, 8), (src, k), (dst, denseBytes f)] [a1, a2, a3]
        = true →
      exec (.tileExp die slot i) s = .next (perform b key i n (match out with
        | some bs => { occ := occ, steps := [a1, a2, a3], results := [(occ + 8, .store dst bs false)] }
        | none => {
            occ := occ, steps := [a1, a2, a3], act := fun s => modEng s key i (fun e =>
            if e.errSparse.isSome then e else { e with errSparse := some (word src) }) }))) ∧
    (comesTo s key i 0x84 c rep n = true → bit c 62 = true →
      let ha := aReg e a3
      let hb := unsigned 64 ((ha.base.toNat : Int) + (ha.count.toNat / 8 : Nat))
      let present := ((memRead ls hb 1).headD 0).toNat.testBit (ha.count.toNat % 8)
      let h := bytesNat (memRead ls src 8)
      let k := if headerOk f h then bits h 47 32 else 0
      let occ := tileCycles f
      fits s key hb 1 1 = true → fits s key dst (denseBytes f) 8 = true →
      (present = false → unhindered s key i c [] [(hb, 1, false)] [(hb, 1), (dst, denseBytes f)] [a2, a3] = true →
        exec (.tileExp die slot i) s = .next (perform b key i n {
          occ := occ, steps := [a2, a3],
          results := [(occ + 8, .store dst (List.replicate (denseBytes f) 0) false)] })) ∧
      (present = true → fits s key src (8 + k) 8 = true →
        unhindered s key i c [(1, a1)] [(hb, 1, false), (src, 8 + k, false)]
          [(hb, 1), (dst, denseBytes f), (src, 8 + k)] [a2, a3] = true →
        exec (.tileExp die slot i) s = .next (perform b key i n (match expandTile f h (memRead ls (src + 8) k) with
          | some bs => {
            occ := occ, steps := [a2, a3],
            results := [(occ + 8, .store dst bs false),
              (1, .aBase a1 ((aReg e a1).base + word (64 * ((8 + bits h 47 32 + 63) / 64))))] }
          | none => {
            occ := occ, steps := [a2, a3], act := fun s => modEng s key i (fun e =>
              if e.errSparse.isSome then e else { e with errSparse := some (word src) }) })))) ∧
    (comesTo s key i 0x85 c rep n = true → ∀ enc fall data,
      compressTile f (validCols (bytesNat (memRead ls aux 8))) (bit c 61) (memRead ls src (denseBytes f))
        = (enc, fall, data) →
      let occ := tileCycles f
      fits s key src (denseBytes f) 8 = true → fits s key dst (denseBytes f) 8 = true → fits s key aux 8 8 = true →
      unhindered s key i c [] [(src, denseBytes f, false), (aux, 8, false)]
        [(src, denseBytes f), (dst, denseBytes f), (aux, 8)] [a1, a2, a3] = true →
      exec (.tileCmp die slot i) s = .next (perform b key i n {
        occ := occ, steps := [a1, a2, a3],
        results := [(occ + 8, .store dst data false),
          (occ + 8, .store aux (natBytes 8 (0x10 + enc * 2 ^ 8 + fall * 2 ^ 10 + f * 2 ^ 16
            + bits (bytesNat (memRead ls aux 8)) 28 24 * 2 ^ 24 + data.length * 2 ^ 32)) false)],
        act := fun s =>
          if fall = 1 then fadd s .siftFallback die slot 0 31 0 1
          else if fall = 2 then fadd s .siftFallback die slot 0 63 32 1
          else s }))

/-- The Outlet's sends (R276, R277, R325, R356): with their source and handle in range and fewer than 256 packets
unanswered, OUT.PUT sends bytes of the local store, OUT.DRAIN the oldest entry of its queue, OUT.ATOM an atomic whose result
has a place, and OUT.SIG a signal with its expected count; each takes the next request number and awaits its answer. -/
def Obligations.OutletCommandsSend : Prop :=
  ∀ (s : State) (die slot c rep n : Nat), 10 ≤ die → die < 26 → slot < 17 → Sound s →
    let key := spKey die slot
    let e := getEng s key 3
    let b := beginCycle s key 3
    let sp := getSp s key
    let a1 := bits c 35 32
    let a2 := bits c 39 36
    let a3 := bits c 51 48
    let src := opdAddr (aReg e a1)
    let h : Word := word (opdHandle (aReg e a2))
    let res := opdAddr (aReg e a3)
    let k := bits c 51 40 + 1
    let occ := (k + 127) / 128 + 1
    let v := sReg e (bits c 43 40)
    let w := sReg e (bits c 47 44)
    let counter := if bit c 54 then sReg e (bits c 59 56) else 0
    let creg := if bit c 54 then [(0, bits c 59 56)] else []
    let sent := fun (f : Fields) (r : Option Nat) (s : State) =>
      let e := getEng s key 3
      sendFrom (modEng s key 3 (fun e => { e with
        reqNumber := e.reqNumber + 1, seq := e.seq + 1,
        sent := e.sent ++ [{ number := e.reqNumber.toNat, kind := f.kind, handle := f.a4, res := r, answered := none,
                             ord := e.seq }] })) die
        { f with tag := 2 * 2 ^ 28 + (logicalOf s key).getD 0 * 2 ^ 20 + e.reqNumber.toNat }
    let put := fun (bs : List Byte) => ({
      kind := if bit c 53 then kBulkPut else kPut, ord := bit c 52, dst := hndFeid h,
      a4 := h, a5 := counter, payload := bs } : Fields)
    unanswered e < 256 →
    (comesTo s key 3 0x90 c rep n = true → fits s key src k 1 = true → handleFits (aReg e a2) k = true →
      unhindered s key 3 c creg [(src, k, false)] [(src, k)] [a1, a2] = true →
      exec (.outPut die slot 3) s = .next (perform b key 3 n {
        occ := occ, steps := [a1, a2],
        results := [(occ + 2, .store src [] false)], act := sent (put (memRead sp.ls src k)) none })) ∧
    (comesTo s key 3 0x91 c rep n = true → handleFits (aReg e a2) 256 = true →
      ∀ q x r, q = 4 + bits c 48 48 → getQueue sp q = x :: r → unhindered s key 3 c creg [] [] [a2] = true →
      exec (.outDrain die slot 3) s = .next (perform b key 3 n {
        occ := 2, steps := [a2], act := fun s =>
        sent (put (natBytes 256 x.toNat)) none (modSp s key (fun sp => setQueue sp q ((getQueue sp q).drop 1))) })) ∧
    (comesTo s key 3 0x92 c rep n = true →
      (let g := bits c 55 52
       let m := if g = 1 then accBytes (wbits w 3 0) else if g ≤ 5 then fmtBits (bits c 63 56) / 8 else 0
       m = 0 ∨ handleFits (aReg e a2) m = true) →
      fits s key res 8 8 = true →
      unhindered s key 3 c [(0, bits c 43 40), (0, bits c 47 44)] [] [(res, 8)] [a2, a3] = true →
      exec (.outAtom die slot 3) s = .next (perform b key 3 n {
        steps := [a2, a3], act := sent
          { kind := kAtomic, dst := hndFeid h, a4 := h, a5 := v, a6 := w, a7 := word (bits c 55 52 + bits c 63 56 * 2 ^ 8) }
          (some res) })) ∧
    (comesTo s key 3 0x93 c rep n = true → handleFits (aReg e a2) 64 = true → v.toNat < 2 ^ 48 →
      unhindered s key 3 c [(0, bits c 43 40)] [] [] [a2] = true →
      exec (.outSig die slot 3) s = .next (perform b key 3 n {
        steps := [a2], act := sent
          { kind := if bit c 53 then kBulkSignal else kSignal, ord := bit c 52, dst := hndFeid h, a4 := h, a5 := v } none }))

/-- Drain points (R218, R234, R277, R318-R332): all that is in flight lands first. SYNC.RAISE sends its raise and goes on;
SYNC.WAIT waits, and ends in the cycle after it sees its flag at 1, which it may clear (R320); BAR.WAIT, HALT and OUT.FENCE
go on at once where what they wait for holds, and otherwise the engine is WAITING; HALT leaves the engine HALTED at the
command after it; OUT.FENCE writes the results of answered atomics and may raise a flag; BAR.ARRIVE sends its arrival and
waits for its home's answer; BAR.WAIT by an engine that is no member, or at a home that is unavailable, raises BARCHAN. A
wait that ended while the debugger held the engine takes effect when the engine goes on (R475). -/
def Obligations.DrainPointsWaitAndGoOn : Prop :=
  ∀ (s : State) (die slot i c : Nat), 10 ≤ die → die < 26 → slot < 17 → i < 4 → Sound s →
    let key := spKey die slot
    let b := beginCycle s key i
    let u := drained s key i
    let e := getEng u key i
    let go := fun (s : State) => modEng (spend s key i 1) key i advancePc
    let waiting := fun (s : State) => modEng (eadd s .waitingCycles key i 0 47 0 1) key i (fun e =>
      { e with state := .waiting, hold := 0 })
    let wait := fun (s : State) => waiting (modEng s key i (fun e => { e with state := .waiting, hold := 0, waitBegun := true }))
    let n := bits c 45 40
    let home := fun (s : State) => localSpindle s die (bits c 39 36)
    let able := logicalAvailable u (16 * (die - 10) + bits c 39 36)
    let bar := fun (s : State) => getBarchan (getSp s (home s)) (bits c 35 32)
    let p := participant u key i
    let far := 10 + bits c 39 32 / 16
    (comesToDrain s key i 0x20 c false = true → exec (.syncRaise die slot i) s = .next (go
      (if far = die ∨ anyPlane u = true then { u with sync := u.sync ++ [.raise (bits c 39 32) n] } else u))) ∧
    (comesToDrain s key i 0x21 c false = true → exec (.syncWait die slot i) s = .next (wait u)) ∧
    (comesToDrain s key i 0x22 c false = true → exec (.barArrive die slot i) s
      = .next (wait { u with sync := u.sync ++ [.arrival die (bits c 39 36) (bits c 35 32) p] })) ∧
    (comesToDrain s key i 0x23 c false = true →
      (able = true → wbit (bar u).members p = true →
        (wbit (bar u).cur p = false ∧ wbit (bar u).next p = false → exec (.barWait die slot i) s = .next (go u)) ∧
        (wbit (bar u).cur p = true ∨ wbit (bar u).next p = true → exec (.barWait die slot i) s = .next (wait u))) ∧
      (able = false → exec (.barWait die slot i) s = .next (fault u key i 14 0 (word (3 * 2 ^ 12 + bits c 43 32)))) ∧
      (able = true → wbit (bar u).members p = false →
        exec (.barWait die slot i) s = .next (fault u key i 14 0 (word (2 ^ 12 + bits c 43 32))))) ∧
    (comesToDrain s key i 0x04 c true = true →
      (haltWaits e = false → e.debugHalt = false → exec (.halt die slot i) s
        = .next (modEng (spend u key i 1) key i (fun e => { advancePc e with state := .halted }))) ∧
      (haltWaits e = false → e.debugHalt = true → exec (.halt die slot i) s
        = .next (modEng u key i (fun e => { e with state := .held, hold := 5, debugHalt := false, ended := none }))) ∧
      (haltWaits e = true → exec (.halt die slot i) s = .next (wait u))) ∧
    (i = 3 → comesToDrain s key i 0x94 c true = true → e.debugHalt = false →
      (unanswered e = 0 → bit c 53 = false → exec (.outFence die slot i) s = .next (go (writeResults key u))) ∧
      (unanswered e = 0 → bit c 53 = true → exec (.outFence die slot i) s
        = .next (raiseOwn (go (writeResults key u)) key (bits c 59 54))) ∧
      (unanswered e ≠ 0 → exec (.outFence die slot i) s = .next (wait u))) ∧
    (∀ (row : Instr) (op : Nat), (row, op) ∈ [(.syncWait die slot i, 0x21), (.barArrive die slot i, 0x22),
        (.barWait die slot i, 0x23)] →
      standsAt s key i op c = true → (getEng s key i).count.isSome = true →
      (∀ a, (getEng s key i).ended = some a → exec row s
        = .next (if a = 0 then go b else fault b key i 14 0 (word a))) ∧
      ((getEng s key i).ended = none → (getEng s key i).waitBegun = true →
        (op = 0x21 → flagOf b key n = false → exec row s = .next (waiting b)) ∧
        (op = 0x21 → flagOf b key n = true → exec row s = .next (newCycle (
          let ws := flagWaiters b key n
          let v := ws.foldl (fun s w => endWait s key w.1 0) b
          if ws.any (·.2) then modSp v key (fun sp => { sp with clearing := sp.clearing ||| BitVec.ofNat 64 (2 ^ n) }) else v)
          key)) ∧
        (op = 0x22 → exec row s = .next (waiting b)) ∧
        (op = 0x23 → wbit (bar b).cur (participant b key i) = false ∧ wbit (bar b).next (participant b key i) = false →
          exec row s = .next (go b)) ∧
        (op = 0x23 → wbit (bar b).cur (participant b key i) = true ∨ wbit (bar b).next (participant b key i) = true →
          exec row s = .next (wait b))))

/-- What travels on the sync lanes arrives (R318-R321, R329-R332): the oldest raise for a spindle sets its flag and ends the
waits for it, or is dropped and counted where the spindle is unavailable; it waits while the spindle's die relocks its clock
(R444) or its context is restored (R340). A flag that an ended wait clears does so as the next cycle begins; whether a raise
meanwhile comes in the same cycle is a free value (log 99). The oldest arrival of a die is accepted, in CUR or in NEXT where
CUR holds it, and the engine that arrived goes on, or it is refused and that engine raises BARCHAN; an engine that the
debugger has asked to halt is held when its wait ends (R475); when every member has arrived the barchan releases: SENSE
turns, NEXT becomes CUR, RELEASES counts and waits end; one that is complete again releases in the next cycle. -/
def Obligations.RaisesAndArrivalsTakeEffect : Prop :=
  let ended := fun (s : State) (key i a : Nat) =>
    if (getEng s key i).debugHalt then
      modEng s key i (fun e => { e with state := .held, hold := 5, debugHalt := false, ended := some a })
    else if a = 0 then modEng (spend s key i 1) key i advancePc
    else fault s key i 14 0 (word a)
  let released := fun (s : State) (key b : Nat) (v : Barchan) =>
    let u := setBarchan s key b { v with sense := !v.sense, cur := v.next, next := 0, releases := v.releases + 1 }
    match logicalOf s key with
    | some l => settleBarWaits u (key / 32) (l % 16) b
    | none => u
  (∀ (s : State) (l : Nat), l < 256 →
    (takeSync (isRaise l) s.sync = none → exec (.raise l) s = .next s) ∧
    ((getDie s (10 + l / 16)).relock ≠ none ∨ restoring s l = true → exec (.raise l) s = .next s)) ∧
  (∀ (s : State) (l n : Nat) (rest : List SyncMsg), Sound s → l < 256 → (getDie s (10 + l / 16)).relock = none →
    restoring s l = false → takeSync (isRaise l) s.sync = some (.raise l n, rest) →
    let key := spindleOf s l
    let r : State := { s with sync := rest }
    let f := freeBelow 2 r
    let w := if flagClearing s key n then (if f.1 = 1 then newCycle f.2 key else f.2) else r
    let u := modSp w key (fun sp => { sp with flags := sp.flags ||| BitVec.ofNat 64 (2 ^ n) })
    let ws := flagWaiters u key n
    (logicalAvailable s l = false → exec (.raise l) s = .next (fadd r .syncDrops (10 + l / 16) 0 0 31 0 1)) ∧
    (logicalAvailable s l = true → ws = [] ∨ engineClocked s key = false → exec (.raise l) s = .next u) ∧
    (logicalAvailable s l = true → n < 64 → engineClocked s key = true →
      let v := ws.foldl (fun s w => ended s key w.1 0) u
      exec (.raise l) s = .next (if ws.any (·.2)
        then modSp v key (fun sp => { sp with clearing := sp.clearing ||| BitVec.ofNat 64 (2 ^ n) }) else v))) ∧
  (∀ (s : State) (die : Nat), 10 ≤ die → die < 26 →
    takeSync (isArrival die) s.sync = none ∨ (getDie s die).relock ≠ none → exec (.barchanArrival die) s = .next s) ∧
  (∀ (s : State) (die home b p : Nat) (rest : List SyncMsg), Sound s → 10 ≤ die → die < 26 → (getDie s die).relock = none →
    takeSync (isArrival die) s.sync = some (.arrival die home b p, rest) →
    let key := localSpindle s die home
    let from_ := localSpindle s die (p / 4)
    let waits := (waitsAt (getSp s from_) (p % 4) 0x22).isSome && engineClocked s from_
    let able := logicalAvailable s (16 * (die - 10) + home)
    let v := getBarchan (getSp s key) b
    let w := if wbit v.cur p then { v with next := v.next ||| word (2 ^ p) } else { v with cur := v.cur ||| word (2 ^ p) }
    let set := setBarchan { s with sync := rest } key b w
    let u := if waits then ended set from_ (p % 4) 0 else set
    (able = true → wbit v.members p = true → p < 64 → (wbit v.cur p = false ∨ wbit v.next p = false) →
      (popCount 64 w.cur.toNat ≠ popCount 64 v.members.toNat → exec (.barchanArrival die) s = .next u) ∧
      (popCount 64 w.cur.toNat = popCount 64 v.members.toNat → exec (.barchanArrival die) s = .next (released u key b w))) ∧
    (∀ cause, (able = false ∧ cause = 3) ∨ (able = true ∧ wbit v.members p = false ∧ cause = 1) ∨
        (able = true ∧ wbit v.members p = true ∧ wbit v.cur p = true ∧ wbit v.next p = true ∧ cause = 2) →
      exec (.barchanArrival die) s = .next (if waits
        then ended { s with sync := rest } from_ (p % 4) (cause * 2 ^ 12 + 16 * home + b)
        else { s with sync := rest }))) ∧
  (∀ (s : State) (die slot b : Nat), 10 ≤ die → die < 26 → slot < 17 → b < 16 → unitContained s die 0x10 slot = false →
    (getDie s die).relock = none →
    let key := spKey die slot
    let v := getBarchan (getSp s key) b
    (v.members ≠ 0 → popCount 64 v.cur.toNat = popCount 64 v.members.toNat →
      exec (.furtherRelease die slot b) s = .next (released s key b v)) ∧
    (v.members = 0 ∨ popCount 64 v.cur.toNat ≠ popCount 64 v.members.toNat →
      exec (.furtherRelease die slot b) s = .next s))

/-- What keeps a command from its effect (R215, R243-R245, R255, R256, R278-R281): a false predicate skips it in one cycle;
a count of 0 passes over it, in no cycle the first time; a full queue holds the engine, which counts a held cycle; a count
beyond 32 bits, a bad command word, a program counter past the memory, an operand out of range or misaligned raises its
exception; a register read early is counted, and with STOP_ON_HAZARD raises SLUB_STOP. An exception lets what is in flight
land and is taken once no IN.GET is outstanding: the engine is FAULTED, with the exception, its repeat and its program
counter in EXC_STATUS and the address in EXC_ADDRESS. An engine that is not running a program, or that waits to take an
exception, does nothing; one the debugger holds counts a held cycle. -/
def Obligations.CommandsAreSkippedHeldOrStopped : Prop :=
  ∀ (s : State) (die slot i c rep n : Nat), 10 ≤ die → die < 26 → slot < 17 → i < 4 → Sound s →
    let key := spKey die slot
    let e := getEng s key i
    let b := beginCycle s key i
    let av := bits c 59 56
    let ad := opdAddr (aReg e av)
    (∀ row ∈ [Instr.nop die slot i, .whorl die slot i, .inGet die slot i, .vAdd die slot i, .accX die slot i,
        .sortK die slot i, .outPut die slot i, .halt die slot i, .syncWait die slot i],
      (engineClocked s key = false ∨ engineActive e = false ∨ e.faulting ≠ none → exec row s = .next s) ∧
      (engineClocked s key = true → e.faulting = none → e.state = .held → e.hold = 5 → exec row s
        = .next (modEng (eadd s .heldCycles key i 0 47 0 1) key i (fun e => { e with state := .held, hold := 5 })))) ∧
    (∀ (row : Instr) (op : Nat), (row, op) ∈ [(.nop die slot i, 0x01), (.sOp die slot i, 0x11), (.inGet die slot i, 0x30),
        (.vAdd die slot i, 0x50), (.accX die slot i, 0x70), (.sortK die slot i, 0x80), (.outPut die slot i, 0x90),
        (.halt die slot i, 0x04), (.syncRaise die slot i, 0x20)] →
      standsAt s key i op c = true → e.count = none → predicate e c = false →
      (readHazards e e.now e.pc (predReads c)).isEmpty = true →
      exec row s = .next (modEng (spend (traceCmd b key i) key i 1) key i advancePc)) ∧
    (∀ (row : Instr) (op : Nat), (row, op) ∈ [(.nop die slot i, 0x01), (.inFill die slot i, 0x32), (.vMul die slot i, 0x51),
        (.accC die slot i, 0x71), (.filt die slot i, 0x82), (.outSig die slot i, 0x93)] →
      standsAt s key i op c = true → e.count = none → predicate e c = true →
      (readHazards e e.now e.pc (predReads c ++ countReads c)).isEmpty = true →
      (repeatCount e c = 0 → exec row s = .next (modEng (traceCmd (if e.passed then spend b key i 1 else b) key i) key i
        (fun e => { advancePc e with passed := true, state := .running, hold := 0 }))) ∧
      (2 ^ 32 ≤ repeatCount e c → exec row s = .next (fault b key i 6 0 0))) ∧
    (comesTo s key i 0x42 c rep n = true →
      queueFull (getSp s key) i ((if i = 1 then 2 else 3) + 2 * bits c 60 60) = true →
      exec (.vPush die slot i) s = .next (modEng (eadd b .heldCycles key i 0 47 0 1) key i (fun e =>
        { e with state := .held, hold := 1 }))) ∧
    (comesTo s key i 0x40 c rep n = true → getOverlap (getSp s key) [(ad, 256)] = false →
      unhindered s key i c [] [(ad, 256, false)] [(ad, 256)] [av] = true →
      (areaBytes s key < ad + 256 → exec (.vLd die slot i) s = .next (fault b key i 3 rep (word ad))) ∧
      (ad + 256 ≤ areaBytes s key → ad % 64 ≠ 0 → exec (.vLd die slot i) s = .next (fault b key i 4 rep (word ad)))) ∧
    (engineClocked s key = true → e.state = .running → e.faulting = none → (∀ f ∈ e.flight, e.now < f.due) →
      (8192 ≤ e.pc → exec (.nop die slot i) s = .next (fault b key i 2 0 0)) ∧
      (e.pc < 8192 → imemWord (getSp s key) i e.pc = c → (opValid i (opcode c) = true → opcode c = 0x01) →
        cmdLegal i c = false → exec (.nop die slot i) s = .next (fault b key i 1 0 0))) ∧
    (∀ f ∈ e.flight, comesTo s key i 0x42 c rep n = true →
      queueFull (getSp s key) i ((if i = 1 then 2 else 3) + 2 * bits c 60 60) = false →
      e.count = some n → e.flight = [f] → tgtField f.tgt = some (2, vaOf c rep, 0) →
      let hz : Hazard := { cycle := e.now, kind := 1, cls := 2, num := vaOf c rep, early := f.due - e.now, pc := e.pc,
                           line := 0, ea := 0 }
      (stopOnHazard s key i = false → exec (.vPush die slot i) s = .next (perform (countHazard b key i hz) key i n
        { results := [(3, .push ((if i = 1 then 2 else 3) + 2 * bits c 60 60) (BitVec.ofNat 2048 (vReg e (vaOf c rep))))] })) ∧
      (stopOnHazard s key i = true → exec (.vPush die slot i) s = .next (fault b key i 13 rep 0))) ∧
    (∀ (code : Nat) (a : Word),
      let cut := if 0 < e.rep ∧ opcode (imemWord (getSp s key) i e.pc) = 0x30
        then [(e.reqNumber - BitVec.ofNat 20 e.rep).toNat] else []
      let stopped := modEng (drainAll s key i) key i (fun e =>
        { e with state := .running, hold := 0, rep := 0, count := none, passed := false, waitBegun := false, ended := none,
                 badGroups := e.badGroups ++ cut, faulting := some (code, rep, a) })
      (e.gets ≠ [] → fault s key i code rep a = stopped) ∧
      (e.gets = [] → e.pc < 8192 → fault s key i code rep a = (
        let f := modEng stopped key i (fun e => { e with state := .faulted, hold := 0, debugHalt := false, faulting := none })
        let v := eset (eset f .excStatus key i 0 63 0 (2 ^ 63 + rep % 2 ^ 32 * 2 ^ 24 + code * 2 ^ 16 + e.pc))
          .excAddress key i 0 63 0 a.toNat
        raiseDetail v (srcEngine key i 0)
          [word (eget v .excStatus key i 0 63 0), word (eget v .excAddress key i 0 63 0)])))
end

