-- ==== Sys2Proof/Laws/Store.lean ====
section
/-! SUPPORT. Laws of the sparse stores and memories: a read after a write, and the canonical form every operation
keeps. -/

namespace Sys2Proof.Machine

variable {α : Type}

theorem mapRising_mono {lo lo' : Nat} {m : SMap α} (h : mapRising lo m = true) (hl : lo' ≤ lo) :
    mapRising lo' m = true := by
  cases m with
  | nil => rfl
  | cons e r => simp only [mapRising, Bool.and_eq_true, decide_eq_true_eq] at h ⊢; exact ⟨by omega, h.2⟩

theorem mapIns_rising {lo k : Nat} {v : α} {m : SMap α} (h : mapRising lo m = true) (hk : lo ≤ k) :
    mapRising lo (mapIns m k v) = true := by
  induction m generalizing lo with
  | nil => simp [mapIns, mapRising, hk]
  | cons e r ih =>
    obtain ⟨j, w⟩ := e
    simp only [mapRising, Bool.and_eq_true, decide_eq_true_eq] at h
    unfold mapIns
    split
    · simp_all [mapRising]
    · split
      · simp only [mapRising, Bool.and_eq_true, decide_eq_true_eq]; exact ⟨hk, by omega, h.2⟩
      · simp only [mapRising, Bool.and_eq_true, decide_eq_true_eq]
        exact ⟨h.1, ih h.2 (by omega)⟩

theorem mapDel_rising {lo k : Nat} {m : SMap α} (h : mapRising lo m = true) : mapRising lo (mapDel m k) = true := by
  induction m generalizing lo with
  | nil => rfl
  | cons e r ih =>
    obtain ⟨j, w⟩ := e
    simp only [mapRising, Bool.and_eq_true, decide_eq_true_eq] at h
    unfold mapDel
    split
    · exact mapRising_mono h.2 (by omega)
    · split
      · simp [mapRising, h]
      · simp [mapRising, h, ih h.2]

theorem mem_mapIns {m : SMap α} {k : Nat} {v : α} {e : Nat × α} (h : e ∈ mapIns m k v) : e = (k, v) ∨ e ∈ m := by
  induction m with
  | nil => simpa [mapIns] using h
  | cons x r ih =>
    unfold mapIns at h
    split at h
    · simp only [List.mem_cons] at h ⊢; tauto
    · split at h
      · simp only [List.mem_cons] at h ⊢; tauto
      · simp only [List.mem_cons] at h ⊢; rcases h with h | h
        · exact .inr (.inl h)
        · rcases ih h with h | h
          · exact .inl h
          · exact .inr (.inr h)

theorem mem_mapDel {m : SMap α} {k : Nat} {e : Nat × α} (h : e ∈ mapDel m k) : e ∈ m := by
  induction m with
  | nil => exact h
  | cons x r ih =>
    unfold mapDel at h
    split at h
    · exact List.mem_cons_of_mem _ h
    · split at h
      · exact h
      · simp only [List.mem_cons] at h ⊢; exact h.imp id ih

theorem mem_mapPut [DecidableEq α] {m : SMap α} {d v : α} {k : Nat} {e : Nat × α} (h : e ∈ mapPut m d k v) :
    e = (k, v) ∨ e ∈ m := by
  unfold mapPut at h
  split at h
  · exact .inr (mem_mapDel h)
  · exact mem_mapIns h

/-- Setting a key keeps the canonical form. -/
theorem mapPut_wf [DecidableEq α] {m : SMap α} {d : α} (h : mapWf d m = true) (k : Nat) (v : α) :
    mapWf d (mapPut m d k v) = true := by
  simp only [mapWf, Bool.and_eq_true, List.all_eq_true, decide_eq_true_eq] at h ⊢
  unfold mapPut
  split
  · exact ⟨mapDel_rising h.1, fun e he => h.2 e (mem_mapDel he)⟩
  · refine ⟨mapIns_rising h.1 (Nat.zero_le k), fun e he => ?_⟩
    rcases mem_mapIns he with rfl | he
    · assumption
    · exact h.2 e he

/-- A write to a memory keeps its canonical form. -/
theorem memWrite_wf {m : List Host.Cell} (h : memWf m = true) (a : Nat) (l : List Byte) :
    memWf (memWrite m a l) = true := by
  induction l generalizing m a with
  | nil => exact h
  | cons b r ih => exact ih (mapPut_wf h a b) (a + 1)

/-- Dropping entries keeps the order of keys. -/
theorem mapRising_filter {lo : Nat} {m : SMap α} (h : mapRising lo m = true) (p : Nat × α → Bool) :
    mapRising lo (m.filter p) = true := by
  induction m generalizing lo with
  | nil => rfl
  | cons e r ih =>
    simp only [mapRising, Bool.and_eq_true, decide_eq_true_eq] at h
    rw [List.filter_cons]
    split
    · simp [mapRising, h.1, ih h.2]
    · exact mapRising_mono (ih h.2) (by omega)

theorem memWf_filter {m : List Host.Cell} (h : memWf m = true) (p : Host.Cell → Bool) :
    memWf (m.filter p) = true := by
  simp only [memWf, mapWf, Bool.and_eq_true, List.all_eq_true] at h ⊢
  exact ⟨mapRising_filter h.1 p, fun e he => h.2 e (List.mem_filter.1 he).1⟩

/-- Reading a key below every key listed gives the default. -/
theorem mapGet_low {m : SMap α} {d : α} {k lo : Nat} (h : mapRising lo m = true) (hk : k < lo) : mapGet m d k = d := by
  cases m with
  | nil => rfl
  | cons e r =>
    simp only [mapRising, Bool.and_eq_true, decide_eq_true_eq] at h
    rw [mapGet, if_neg (by omega), if_pos (by omega)]

theorem mapGet_mapIns {lo : Nat} {m : SMap α} (h : mapRising lo m = true) (d v : α) (k j : Nat) :
    mapGet (mapIns m k v) d j = if j = k then v else mapGet m d j := by
  induction m generalizing lo with
  | nil => simp only [mapIns, mapGet]; split <;> simp_all
  | cons e r ih =>
    obtain ⟨i, w⟩ := e
    simp only [mapRising, Bool.and_eq_true, decide_eq_true_eq] at h
    unfold mapIns
    split
    next hk =>
      subst hk; simp only [mapGet]
      by_cases hj : j = k <;> simp [hj]
    · split
      · simp only [mapGet]
        by_cases hj : j = k
        · simp [hj]
        · simp only [hj, if_false]
          split
          · rw [if_neg (by omega), if_pos (by omega)]
          · rfl
      · simp only [mapGet, ih h.2]
        by_cases hj : j = k
        · subst hj; rw [if_neg (by omega), if_neg (by omega)]; simp
        · simp [hj]

theorem mapGet_mapDel {lo : Nat} {m : SMap α} (h : mapRising lo m = true) (d : α) (k j : Nat) :
    mapGet (mapDel m k) d j = if j = k then d else mapGet m d j := by
  induction m generalizing lo with
  | nil => simp [mapDel, mapGet]
  | cons e r ih =>
    obtain ⟨i, w⟩ := e
    simp only [mapRising, Bool.and_eq_true, decide_eq_true_eq] at h
    unfold mapDel
    split
    next hk =>
      subst hk
      by_cases hj : j = k
      · subst hj; rw [if_pos rfl, mapGet_low h.2 (by omega)]
      · simp only [mapGet, hj, if_false]
        split
        · exact mapGet_low h.2 (by omega)
        · rfl
    · split
      · by_cases hj : j = k
        · subst hj; simp only [mapGet, if_true]; rw [if_neg (by assumption), if_pos (by assumption)]
        · simp [hj]
      · simp only [mapGet, ih h.2]
        by_cases hj : j = k
        · subst hj; rw [if_neg (by omega), if_neg (by omega)]; simp
        · simp [hj]

/-- A read after a write: the value at the key written, what stood before everywhere else. -/
theorem mapGet_mapPut [DecidableEq α] {lo : Nat} {m : SMap α} (h : mapRising lo m = true) (d v : α) (k j : Nat) :
    mapGet (mapPut m d k v) d j = if j = k then v else mapGet m d j := by
  unfold mapPut
  split
  · rw [mapGet_mapDel h]; simp_all
  · exact mapGet_mapIns h d v k j

theorem mapFind_mapIns {lo : Nat} {m : SMap α} (h : mapRising lo m = true) (v : α) (k j : Nat) :
    mapFind (mapIns m k v) j = if j = k then some v else mapFind m j := by
  induction m generalizing lo with
  | nil => simp only [mapIns, mapFind]; split <;> simp_all
  | cons e r ih =>
    obtain ⟨i, w⟩ := e
    simp only [mapRising, Bool.and_eq_true, decide_eq_true_eq] at h
    unfold mapIns
    split
    next hk =>
      subst hk; simp only [mapFind]
      by_cases hj : j = k <;> simp [hj]
    · split
      · simp only [mapFind]
        by_cases hj : j = k
        · simp [hj]
        · simp only [hj, if_false]
          split
          · rw [if_neg (by omega), if_pos (by omega)]
          · rfl
      · simp only [mapFind, ih h.2]
        by_cases hj : j = k
        · subst hj; rw [if_neg (by omega), if_neg (by omega)]; simp
        · simp [hj]

/-- One byte after a write of a byte. -/
theorem memByte_put {m : List Host.Cell} (h : memWf m = true) (a : Nat) (b : Byte) (j : Nat) :
    memByte (mapPut m 0 a b) j = if j = a then b else memByte m j := by
  have hr : mapRising 0 m = true := by
    have := h; simp only [memWf, mapWf, Bool.and_eq_true] at this; exact this.1
  exact mapGet_mapPut hr 0 b a j

/-- One byte after a write: within the bytes written the byte written there, outside them what stood before. -/
theorem memByte_memWrite {m : List Host.Cell} (h : memWf m = true) (a : Nat) (l : List Byte) (j : Nat) :
    memByte (memWrite m a l) j = if a ≤ j ∧ j < a + l.length then l.getD (j - a) 0 else memByte m j := by
  induction l generalizing m a with
  | nil => simp only [memWrite, List.length_nil]; rw [if_neg (by omega)]
  | cons b r ih =>
    rw [memWrite, ih (mapPut_wf h a b), memByte_put h]
    simp only [List.length_cons]
    by_cases h1 : j = a
    · subst h1; rw [if_neg (by omega), if_pos rfl, if_pos (by omega)]; simp
    · by_cases h2 : a + 1 ≤ j ∧ j < a + 1 + r.length
      · rw [if_pos h2, if_pos (by omega)]
        obtain ⟨n, hn⟩ : ∃ n, j - a = n + 1 := ⟨j - a - 1, by omega⟩
        rw [hn, List.getD_cons_succ, show j - (a + 1) = n by omega]
      · rw [if_neg h2, if_neg h1, if_neg (by omega)]

end Sys2Proof.Machine
end

