-- ==== Sys2Proof/Laws/Sound.lean ====
section
/-! SUPPORT. What makes a state sound, field by field, and the setters of Machine/Ops.lean. -/

namespace Sys2Proof.Machine

/-- A record update that leaves what soundness looks at. -/
theorem sound_upd {s : State} {p f n r u d pd po re ib pa pb cv j h sp sy er st ops ou ot cp sec rec nr ru w ra ep o}
    (hs : Sound s) (he : er.mem = s.erg.mem) (hst : st = s.staging) (hsp : sp = s.spindles) (hr : rec = s.records)
    (hc : cp.remembered = s.cp.remembered) :
    Sound (State.mk p f n s.module r u d pd po re ib pa pb cv j h sp sy er st ops ou ot cp sec rec nr ru w ra ep o) :=
  ⟨hs.module, he ▸ hs.erg, hst ▸ hs.staging, hsp ▸ hs.stores, hr ▸ hs.records, hc ▸ hs.remembered⟩

theorem id_sound {s : State} (h : Sound s) : Sound (id s) := h

/-- A module update that leaves its codes. -/
theorem legal_upd {s : State} {a b c d e f g h i j k l m n o p q r t u v} (hs : Sound s) :
    (Module.mk s.module.state s.module.phase a b s.module.activeKd c d e f g h i j k l m n o p q s.module.standby r t u
      v).legal := hs.module

theorem snd_sound {α : Type} {x : α × State} {a : α} {s : State} (e : x = (a, s)) (h : Sound x.2) : Sound s := by
  subst e; exact h

theorem fst_sound {α : Type} {x : State × α} {a : α} {s : State} (e : x = (s, a)) (h : Sound x.1) : Sound s := by
  subst e; exact h

theorem trd_sound {α β : Type} {x : α × β × State} {a : α} {b : β} {s : State} (e : x = (a, b, s)) (h : Sound x.2.2) :
    Sound s := by
  subst e; exact h

/-- A fold of a step that keeps soundness keeps it. -/
theorem foldl_sound {α : Type} {g : State → α → State} (hg : ∀ s x, Sound s → Sound (g s x)) {s : State} (l : List α)
    (h : Sound s) : Sound (l.foldl g s) := by
  induction l generalizing s with
  | nil => exact h
  | cons x r ih => exact ih (hg s x h)

theorem mapRising_filterMap {α : Type} {lo : Nat} {l : SMap α} (h : mapRising lo l = true) {g : Nat × α → Option (Nat × α)}
    (hg : ∀ x y, g x = some y → y.1 = x.1) : mapRising lo (l.filterMap g) = true := by
  induction l generalizing lo with
  | nil => rfl
  | cons x r ih =>
    simp only [mapRising, Bool.and_eq_true, decide_eq_true_eq] at h
    have h2 := ih h.2
    cases e : g x with
    | none => rw [List.filterMap_cons_none e]; exact mapRising_mono h2 (Nat.le_succ_of_le h.1)
    | some y =>
      rw [List.filterMap_cons_some e]
      simp only [mapRising, Bool.and_eq_true, decide_eq_true_eq, hg x y e]
      exact ⟨h.1, h2⟩

theorem mapAll_wf {α : Type} [DecidableEq α] {l : SMap α} {d : α} (h : mapWf d l = true) (f : Nat → α → α) :
    mapWf d (mapAll l d f) = true := by
  simp only [mapWf, Bool.and_eq_true, List.all_eq_true, decide_eq_true_eq] at h ⊢
  refine ⟨mapRising_filterMap h.1 (fun x y hy => ?_), fun e he => ?_⟩
  · dsimp only at hy
    split at hy
    · cases hy
    · cases hy; rfl
  · simp only [mapAll, List.mem_filterMap] at he
    obtain ⟨x, -, hy⟩ := he
    split at hy
    next => cases hy
    next hn => cases hy; exact hn

theorem mapFilter_wf {α : Type} [DecidableEq α] {l : SMap α} {d : α} (h : mapWf d l = true) (p : Nat × α → Bool) :
    mapWf d (l.filter p) = true := by
  simp only [mapWf, Bool.and_eq_true, List.all_eq_true] at h ⊢
  exact ⟨mapRising_filter h.1 p, fun e he => h.2 e (List.mem_filter.1 he).1⟩

theorem storesCanonical_put {l : SMap Spindle} (h : storesCanonical l) (k : Nat) {v : Spindle} (hv : v.canonical) :
    storesCanonical (mapPut l Spindle.init k v) := by
  refine ⟨mapPut_wf h.1 _ _, fun e he => ?_⟩
  rcases mem_mapPut he with rfl | he
  · exact hv
  · exact h.2 e he

theorem storesCanonical_all {l : SMap Spindle} (h : storesCanonical l) {f : Nat → Spindle → Spindle}
    (hf : ∀ k sp, sp.canonical → (f k sp).canonical) : storesCanonical (mapAll l Spindle.init f) := by
  refine ⟨mapAll_wf h.1 f, fun e he => ?_⟩
  simp only [mapAll, List.mem_filterMap] at he
  obtain ⟨x, hx, hy⟩ := he
  split at hy
  · cases hy
  · cases hy; exact hf _ _ (h.2 x hx)

theorem storesCanonical_filter {l : SMap Spindle} (h : storesCanonical l) (p : Nat × Spindle → Bool) :
    storesCanonical (l.filter p) := ⟨mapFilter_wf h.1 p, fun e he => h.2 e (List.mem_filter.1 he).1⟩

/-- A record update that changes the spindles. -/
theorem sound_updSp {s : State} {p f n r u d pd po re ib pa pb cv j h sp sy er st ops ou ot cp sec rec nr ru w ra ep o}
    (hs : Sound s) (hsp : storesCanonical sp) (he : er.mem = s.erg.mem) (hst : st = s.staging) (hr : rec = s.records)
    (hc : cp.remembered = s.cp.remembered) :
    Sound (State.mk p f n s.module r u d pd po re ib pa pb cv j h sp sy er st ops ou ot cp sec rec nr ru w ra ep o) :=
  ⟨hs.module, he ▸ hs.erg, hst ▸ hs.staging, hsp, hr ▸ hs.records, hc ▸ hs.remembered⟩

/-- A spindle of a sound state is canonical. -/
theorem getSp_sound {s : State} (h : Sound s) (k : Nat) : (getSp s k).canonical := by
  have : ∀ l : SMap Spindle, (∀ e ∈ l, e.2.canonical) → (mapGet l Spindle.init k).canonical := by
    intro l hl
    induction l with
    | nil => exact ⟨rfl, rfl⟩
    | cons e r ih =>
      unfold mapGet
      split
      · exact hl e (List.mem_cons_self ..)
      · split
        · exact ⟨rfl, rfl⟩
        · exact ih (fun e he => hl e (List.mem_cons_of_mem _ he))
  exact this _ h.stores.2

theorem setSp_sound {s : State} (h : Sound s) (k : Nat) {v : Spindle} (hv : v.canonical) : Sound (setSp s k v) :=
  ⟨h.module, h.erg, h.staging, storesCanonical_put h.stores k hv, h.records, h.remembered⟩

theorem modSp_sound {s : State} (h : Sound s) (k : Nat) {f : Spindle → Spindle}
    (hf : ∀ sp, sp.canonical → (f sp).canonical) : Sound (modSp s k f) :=
  setSp_sound h k (hf _ (getSp_sound h k))

/-- A spindle update that leaves its engines and its local store. -/
theorem canonical_upd {sp : Spindle} {im q f cl b il me c w} (h : sp.canonical) :
    (Spindle.mk sp.engines im sp.ls q f cl b il me c w).canonical := h

/-- A spindle update that changes every engine. -/
theorem canonical_all {sp : Spindle} {g : Nat → Engine → Engine} {im q f cl b il me c w} (h : sp.canonical) :
    (Spindle.mk (mapAll sp.engines Engine.init g) im sp.ls q f cl b il me c w).canonical :=
  ⟨h.1, mapAll_wf h.2 g⟩

/-- Engines set one by one. -/
theorem foldPut_wf (g : Nat → Engine) (l : List Nat) {es : SMap Engine} (h : mapWf Engine.init es = true) :
    mapWf Engine.init (l.foldl (fun es k => mapPut es Engine.init k (g k)) es) = true := by
  induction l generalizing es with
  | nil => exact h
  | cons k r ih => exact ih (mapPut_wf h _ _)

end Sys2Proof.Machine
end

