-- ==== Sys2Proof/Laws/Engine.lean ====
section
/-! SUPPORT. The engine's shared operations: reading a spindle and an engine back after they were set, a state in which
nothing is due, and what an event of a repeated command answers. -/

namespace Sys2Proof.Machine

/-! ### Sparse stores -/

theorem mapGet_high {α : Type} {m : SMap α} {d : α} {k lo : Nat} (h : mapRising lo m = true) (hk : k < lo) :
    mapGet m d k = d := mapGet_low h hk

/-- Setting a key to what it holds changes nothing in a canonical store. -/
theorem mapPut_self {α : Type} [DecidableEq α] {m : SMap α} {d : α} (h : mapWf d m = true) (k : Nat) :
    mapPut m d k (mapGet m d k) = m := by
  simp only [mapWf, Bool.and_eq_true, List.all_eq_true, decide_eq_true_eq] at h
  obtain ⟨h1, h2⟩ := h
  generalize (0 : Nat) = lo at h1
  induction m generalizing lo with
  | nil => simp [mapPut, mapGet, mapDel]
  | cons e r ih =>
    obtain ⟨j, v⟩ := e
    simp only [mapRising, Bool.and_eq_true, decide_eq_true_eq] at h1
    have hv : v ≠ d := h2 (j, v) (List.mem_cons_self ..)
    have hr := ih (fun e he => h2 e (List.mem_cons_of_mem _ he)) (j + 1) h1.2
    by_cases hk : k = j
    · subst hk; simp [mapPut, mapGet, mapIns, hv]
    · by_cases hl : k < j
      · simp [mapPut, mapGet, mapDel, hk, hl]
      · unfold mapPut at hr ⊢
        simp only [mapGet, hk, hl, if_false] at hr ⊢
        split at hr
        next he => simp only [he, if_true, mapDel, hk, hl, if_false, hr]
        next he => simp only [he, if_false, mapIns, hk, hl, hr]

/-- A later setting of a key replaces an earlier one. -/
theorem mapPut_mapPut {α : Type} [DecidableEq α] {m : SMap α} {d : α} (h : mapWf d m = true) (k : Nat) (v w : α) :
    mapPut (mapPut m d k v) d k w = mapPut m d k w := by
  have ins : ∀ (l : SMap α) (a b : α), mapIns (mapIns l k a) k b = mapIns l k b := by
    intro l a b
    induction l with
    | nil => simp [mapIns]
    | cons e r ih =>
      obtain ⟨j, x⟩ := e
      by_cases hk : k = j
      · simp [mapIns, hk]
      · by_cases hl : k < j <;> simp [mapIns, hk, hl, ih]
  have delIns : ∀ (l : SMap α) (a : α), mapDel (mapIns l k a) k = mapDel l k := by
    intro l a
    induction l with
    | nil => simp [mapIns, mapDel]
    | cons e r ih =>
      obtain ⟨j, x⟩ := e
      by_cases hk : k = j
      · simp [mapIns, mapDel, hk]
      · by_cases hl : k < j <;> simp [mapIns, mapDel, hk, hl, ih]
  have del : ∀ (lo : Nat) (l : SMap α), mapRising lo l = true → mapDel (mapDel l k) k = mapDel l k := by
    intro lo l
    induction l generalizing lo with
    | nil => intro; rfl
    | cons e r ih =>
      intro hr
      obtain ⟨j, x⟩ := e
      simp only [mapRising, Bool.and_eq_true, decide_eq_true_eq] at hr
      by_cases hk : k = j
      · subst hk
        have : ∀ l : SMap α, mapRising (k + 1) l = true → mapDel l k = l := by
          intro l hl
          cases l with
          | nil => rfl
          | cons y t =>
            obtain ⟨p, z⟩ := y
            simp only [mapRising, Bool.and_eq_true, decide_eq_true_eq] at hl
            simp [mapDel, show ¬ k = p by omega, show k < p by omega]
        simp [mapDel, this r hr.2]
      · by_cases hl : k < j <;> simp [mapDel, hk, hl, ih _ hr.2]
  have insDel : ∀ (lo : Nat) (l : SMap α) (b : α), mapRising lo l = true → mapIns (mapDel l k) k b = mapIns l k b := by
    intro lo l b
    induction l generalizing lo with
    | nil => intro; rfl
    | cons e r ih =>
      intro hr
      obtain ⟨j, x⟩ := e
      simp only [mapRising, Bool.and_eq_true, decide_eq_true_eq] at hr
      by_cases hk : k = j
      · subst hk
        cases r with
        | nil => simp [mapDel, mapIns]
        | cons y t =>
          obtain ⟨p, z⟩ := y
          have h2 := hr.2
          simp only [mapRising, Bool.and_eq_true, decide_eq_true_eq] at h2
          simp [mapDel, mapIns, show ¬ k = p by omega, show k < p by omega]
      · by_cases hl : k < j <;> simp [mapDel, mapIns, hk, hl, ih _ hr.2]
  simp only [mapWf, Bool.and_eq_true] at h
  unfold mapPut
  by_cases h1 : v = d <;> by_cases h2 : w = d <;>
    simp only [h1, h2, if_true, if_false, ins, delIns, del _ _ h.1, insDel _ _ _ h.1]

/-! ### Spindles and engines read back -/

theorem getSp_setSp {s : State} (h : Sound s) (k j : Nat) (v : Spindle) :
    getSp (setSp s k v) j = if j = k then v else getSp s j := by
  have hr := h.stores.1
  simp only [mapWf, Bool.and_eq_true] at hr
  exact mapGet_mapPut hr.1 _ _ _ _

theorem setSp_self {s : State} (h : Sound s) (k : Nat) : setSp s k (getSp s k) = s := by
  unfold setSp getSp; rw [mapPut_self h.stores.1]

theorem setSp_setSp {s : State} (h : Sound s) (k : Nat) (v w : Spindle) : setSp (setSp s k v) k w = setSp s k w := by
  unfold setSp; simp only [mapPut_mapPut h.stores.1]

theorem spEngine_spSetEngine {sp : Spindle} (h : sp.canonical) (e j : Nat) (v : Engine) :
    spEngine (spSetEngine sp e v) j = if j = e then v else spEngine sp j := by
  have hr := h.2
  simp only [mapWf, Bool.and_eq_true] at hr
  exact mapGet_mapPut hr.1 _ _ _ _

theorem getEng_modEng {s : State} (h : Sound s) (k e : Nat) (f : Engine → Engine) :
    getEng (modEng s k e f) k e = f (getEng s k e) := by
  show spEngine (getSp (setSp s k _) k) e = _
  rw [getSp_setSp h, if_pos rfl, spEngine_spSetEngine (getSp_sound h k), if_pos rfl]

theorem getSp_modEng {s : State} (h : Sound s) (k e : Nat) (f : Engine → Engine) :
    getSp (modEng s k e f) k = spSetEngine (getSp s k) e (f (getEng s k e)) := by
  show getSp (setSp s k _) k = _
  rw [getSp_setSp h, if_pos rfl]

/-! ### Nothing due -/

theorem firstDue_mem {l : List Flight} {f : Flight} (h : firstDue l = some f) : f ∈ l := by
  induction l generalizing f with
  | nil => cases h
  | cons x r ih =>
    simp only [firstDue] at h
    split at h
    · cases h; exact List.mem_cons_self ..
    next g hg =>
      split at h <;> cases h
      · exact List.mem_cons_of_mem _ (ih hg)
      · exact List.mem_cons_self ..

theorem landed_nothing {s : State} {key i c : Nat} (hd : ∀ f ∈ (getEng s key i).flight, c < f.due) :
    landed s key i c = (getSp s key, []) := by
  unfold landed
  generalize hn : (spEngine (getSp s key) i).flight.length = n
  dsimp only
  rw [hn]
  cases n with
  | zero => rfl
  | succ n =>
    unfold landDue
    dsimp only
    split
    · rfl
    next f hf => rw [if_pos (hd f (firstDue_mem hf))]

theorem landBy_nothing {s : State} (hs : Sound s) {key i c : Nat} (hd : ∀ f ∈ (getEng s key i).flight, c < f.due) :
    landBy s key i c = s := by
  simp only [landBy, landed_nothing hd, setSp_self hs]; rfl

/-! ### A cycle begins -/

theorem newCycle_sound {s : State} (hs : Sound s) (key : Nat) : Sound (newCycle s key) :=
  modSp_sound hs key (fun _ h => canonical_upd h)

theorem beginCycle_sound {s : State} (hs : Sound s) (key i : Nat) : Sound (beginCycle s key i) := by
  unfold beginCycle
  refine setSp_sound (newCycle_sound hs key) key ?_
  exact ⟨(getSp_sound (newCycle_sound hs key) key).1, mapPut_wf (getSp_sound (newCycle_sound hs key) key).2 _ _⟩

theorem getSp_newCycle {s : State} (hs : Sound s) (key : Nat) :
    getSp (newCycle s key) key = { getSp s key with flags := flagsNow (getSp s key), clearing := 0 } := by
  show getSp (setSp s key _) key = _
  rw [getSp_setSp hs, if_pos rfl]

/-- The engine whose cycle begins: EXC_CONTROL is taken for a command that has not begun, nothing else of it changes. -/
theorem getEng_beginCycle {s : State} (hs : Sound s) (key i : Nat) : ∃ v,
    getEng (beginCycle s key i) key i = { getEng s key i with control := v } := by
  unfold beginCycle
  rw [getEng_modEng (newCycle_sound hs key)]
  have h : getEng (newCycle s key) key i = getEng s key i := by
    show spEngine (getSp (newCycle s key) key) i = _
    rw [getSp_newCycle hs]; rfl
  rw [h]
  split
  · exact ⟨_, rfl⟩
  · exact ⟨(getEng s key i).control, rfl⟩

theorem getSp_beginCycle {s : State} (hs : Sound s) (key i : Nat) : ∃ v,
    getSp (beginCycle s key i) key = spSetEngine { getSp s key with flags := flagsNow (getSp s key), clearing := 0 } i
      { getEng s key i with control := v } := by
  obtain ⟨v, hv⟩ := getEng_beginCycle hs key i
  refine ⟨v, ?_⟩
  rw [← hv]
  unfold beginCycle
  rw [getSp_modEng (newCycle_sound hs key), getSp_newCycle hs, getEng_modEng (newCycle_sound hs key)]

theorem imemWord_beginCycle {s : State} (hs : Sound s) (key i pc : Nat) :
    imemWord (getSp (beginCycle s key i) key) i pc = imemWord (getSp s key) i pc := by
  obtain ⟨v, hv⟩ := getSp_beginCycle hs key i
  rw [hv]; rfl

theorem getOverlap_beginCycle {s : State} (hs : Sound s) (key i : Nat) (l : List (Nat × Nat)) :
    getOverlap (getSp (beginCycle s key i) key) l = getOverlap (getSp s key) l := by
  obtain ⟨v, hv⟩ := getSp_beginCycle hs key i
  rw [hv]
  unfold getOverlap
  have hc : (({ getSp s key with flags := flagsNow (getSp s key), clearing := 0 } : Spindle)).canonical := canonical_upd (getSp_sound hs key)
  rw [spEngine_spSetEngine hc]
  split
  next h => subst h; rfl
  · rfl

/-- A row's event where the engine stands at its command and nothing in flight is due: a cycle begins and the command is
issued. -/
theorem atCommand_stands {s : State} (hs : Sound s) {key i op c : Nat} (h : standsAt s key i op c = true)
    (k : State → Nat → State) : atCommand s key i op k = k (beginCycle s key i) c := by
  simp only [standsAt, Bool.and_eq_true, decide_eq_true_eq, beq_iff_eq, Bool.not_eq_true', List.all_eq_true] at h
  obtain ⟨⟨⟨⟨⟨⟨⟨⟨h1, h1a⟩, h2⟩, h3⟩, h4⟩, h5⟩, h6⟩, h7⟩, h8⟩ := h
  have hi : engineIssues (getEng s key i) = true := by simp [engineIssues, h1a, h2]
  have hd : ∀ f ∈ (getEng (beginCycle s key i) key i).flight, (getEng s key i).now - 1 < f.due := by
    obtain ⟨v, hv⟩ := getEng_beginCycle hs key i
    rw [hv]
    exact fun f hf => lt_of_le_of_lt (Nat.sub_le _ _) (h8 f hf)
  unfold atCommand
  simp only [h1, hi, landBy_nothing (beginCycle_sound hs key i) hd, imemWord_beginCycle hs, h5, h6, h7, Bool.not_true,
    Bool.or_self, Bool.false_eq_true, if_false, not_le.2 h4, ne_eq, not_true_eq_false, and_false]
  rw [if_neg]
  rintro ⟨ha, hb⟩
  rw [ha, hb] at h3
  exact absurd h3 (by decide)

/-! ### Operands in range -/

theorem localAt_ok {s : State} {key a n al : Nat} (h : n = 0 ∨ fits s key a n al = true) :
    (localAt (areaBytes s key) a n al).errs = [] := by
  unfold localAt
  rcases h with h | h
  · simp [h]
  · simp only [fits, Bool.and_eq_true, decide_eq_true_eq, beq_iff_eq] at h
    simp [h.2, Nat.not_lt.2 h.1]

theorem localOpd_ok {s : State} {key n al : Nat} {a : AReg} (h : n = 0 ∨ fits s key (opdAddr a) n al = true) :
    (localOpd (areaBytes s key) a n al).errs = [] := localAt_ok h

theorem handleOpd_ok {a : AReg} {n : Nat} (h : n = 0 ∨ handleFits a n = true) : (handleOpd a n).errs = [] := by
  unfold handleOpd
  rcases h with h | h
  · simp [h]
  · simp only [handleFits, Bool.and_eq_true, decide_eq_true_eq] at h
    dsimp only
    rw [if_neg]
    rintro ⟨-, h1 | h1⟩
    · exact absurd h.1 (by unfold stepOff at h1; omega)
    · exact absurd h.2 (by unfold stepOff at h1; omega)

/-- A command that comes to issue is one of its engine's. -/
theorem comesTo_engine {s : State} {key i op c rep n : Nat} (h : comesTo s key i op c rep n = true) :
    (opEngines op).testBit i = true := by
  simp only [comesTo, standsAt, Bool.and_eq_true, beq_iff_eq, cmdLegal, opValid] at h
  obtain ⟨⟨⟨⟨⟨⟨-, ho⟩, hl⟩, -⟩, -⟩, -⟩, -⟩ := h
  rw [← ho]; exact hl.1.1

/-- A repeat of a command comes to issue unhindered and meets no exception: it is performed in the cycle that begins. -/
theorem execCmd_issues {s : State} (hs : Sound s) {die slot i op c rep n : Nat} (hr : 10 ≤ die ∧ die < 26 ∧ slot < 17 ∧ i < 4)
    {plan : Nat → Nat → Nat → State → Nat → Plan} {p : Plan}
    (hp : plan (spKey die slot) i c (beginCycle s (spKey die slot) i) rep = p)
    (h : comesTo s (spKey die slot) i op c rep n = true)
    (hu : unhindered s (spKey die slot) i c p.reads p.lines p.touches p.steps = true) (he : p.errs = []) (hh : p.hold = 0) :
    execCmd die slot i op plan s = .next (perform (beginCycle s (spKey die slot) i) (spKey die slot) i n p) := by
  subst hp
  simp only [comesTo, Bool.and_eq_true, decide_eq_true_eq, beq_iff_eq] at h
  obtain ⟨⟨⟨h1, h2⟩, h3⟩, h4⟩ := h
  have hst := h1
  simp only [standsAt, Bool.and_eq_true, decide_eq_true_eq, List.all_eq_true] at hst
  have hd := hst.2
  simp only [unhindered, Bool.and_eq_true, List.isEmpty_iff, Bool.not_eq_true'] at hu
  obtain ⟨⟨hu1, hu2⟩, hu3⟩ := hu
  unfold execCmd
  rw [if_pos hr]
  generalize hk : spKey die slot = key at *
  have hb := beginCycle_sound hs key i
  rw [← getOverlap_beginCycle hs key i] at hu3
  obtain ⟨v, hv⟩ := getEng_beginCycle hs key i
  have hd' : ∀ f ∈ (getEng (beginCycle s key i) key i).flight, (getEng (beginCycle s key i) key i).now < f.due := by
    rw [hv]; exact hd
  simp only [atCommand_stands hs h1]
  generalize hg : beginCycle s key i = b at *
  simp only [issueCmd, landed_nothing hd', setSp_self hb]
  have e1 : (getEng b key i).count = (getEng s key i).count := by rw [hv]
  have e2 : (getEng b key i).rep = (getEng s key i).rep := by rw [hv]
  have e3 : predicate (getEng b key i) c = predicate (getEng s key i) c := by rw [hv]; rfl
  have e4 : repeatCount (getEng b key i) c = repeatCount (getEng s key i) c := by rw [hv]; rfl
  have e5 : ∀ l, readHazards (getEng b key i) (getEng b key i).now (getEng b key i).pc l
      = readHazards (getEng s key i) (getEng s key i).now (getEng s key i).pc l := by intro l; rw [hv]; rfl
  have e6 : lineHazards (getEng b key i) (getEng b key i).now (getEng b key i).pc (plan key i c b rep).lines = [] := by
    rw [hv]; exact hu2
  have hc : ∀ q : Plan, q.hold = 0 → getOverlap (getSp b key) q.touches = false → holdCause (getSp b key) q = 0 := by
    intro q h1 h2; simp [holdCause, h1, h2]
  have run : ∀ first hz, readHazards (getEng s key i) (getEng s key i).now
        (getEng s key i).pc (first ++ (plan key i c b rep).reads
          ++ (plan key i c b rep).steps.map (fun a => (1, a))) = [] → hz = [] →
      issueRepeat b key i n first hz (plan key i c b rep) = perform b key i n (plan key i c b rep) := by
    intro first hz hf hz0
    subst hz0
    simp only [issueRepeat, e5, hf, e6, he, List.append_nil, List.foldr_nil, ite_self, lowestErr]
    rfl
  by_cases hcount : (getEng s key i).count = some n
  · simp only [e1, hcount, e2, h2, hc _ hh hu3, if_true]
    rw [run [] [] _ rfl]
    simpa [hcount] using hu1
  · simp only [hcount, false_or, Bool.or_eq_true, beq_iff_eq, Bool.and_eq_true, decide_eq_true_eq, Option.isNone_iff_eq_none]
      at h4
    obtain ⟨⟨⟨⟨g1, g2⟩, g3⟩, g4⟩, g5⟩ := h4
    subst g2
    simp only [e1, e3, e4, g1, g3, g4, Bool.not_true, Bool.false_eq_true, if_false, not_le.2 g5, show ¬ n = 0 by omega, hc _ hh hu3,
      if_true]
    rw [run _ [] _ rfl]
    simpa [g1] using hu1

/-! ### Several changes of one engine -/

theorem modEng_modEng {s : State} (h : Sound s) (k e : Nat) (f g : Engine → Engine) :
    modEng (modEng s k e f) k e g = modEng s k e (fun x => g (f x)) := by
  show setSp (setSp s k _) k _ = setSp s k _
  rw [setSp_setSp h]
  have hm := getSp_modEng h k e f
  congr 1
  show spSetEngine (getSp (modEng s k e f) k) e (g (getEng (modEng s k e f) k e)) = spSetEngine (getSp s k) e (g (f (getEng s k e)))
  rw [hm, getEng_modEng h]
  simp only [spSetEngine, mapPut_mapPut (getSp_sound h k).2]

theorem modEng_eadd (s : State) (k e k' e' hi lo n x : Nat) (r : Reg) (f : Engine → Engine) :
    modEng (eadd s r k' e' x hi lo n) k e f = eadd (modEng s k e f) r k' e' x hi lo n := rfl

/-- A repeat without effects besides its results is one change of its engine and ADVANCE_CYCLES. -/
theorem perform_eq {s : State} (hs : Sound s) (key i n : Nat) (occ : Nat) (results : List (Nat × Target)) (steps : List Nat) :
    perform s key i n { occ := occ, results := results, steps := steps } =
      eadd (modEng s key i (fun e =>
        let f := (results ++ (steps.eraseDups.map (fun a => (1, Target.aStep a (nextCount (aReg e a)))))).foldl
          (fly (getEng s key i).now)
          { e with trace := if (getEng s key i).rep = 0
              then ((eget s .advanceCycles key i 0 47 0, e.pc) :: e.trace).take 32 else e.trace }
        let g := { f with now := f.now + occ, state := .running, hold := 0, passed := false, wdRaised := false }
        if n ≤ g.rep + 1 then advancePc g else { g with rep := g.rep + 1, count := some n })) .advanceCycles key i 0 47 0 occ := by
  unfold perform
  by_cases h : (getEng s key i).rep = 0
  · simp only [h, if_true, traceCmd, spend, id, stepResults, modEng_eadd, modEng_modEng hs]; rfl
  · simp only [h, if_false, spend, id, stepResults, modEng_eadd, modEng_modEng hs]

end Sys2Proof.Machine
end

