-- ==== Sys2Proof/Laws/Replies.lean ====
section
/-! SUPPORT. How a command that the control port accepts comes to run, and what answering it leaves. -/

namespace Sys2Proof.Machine

/-! ### What waits is sent: only the control port and the log change -/

theorem pumpList_eq (s : State) (l : List CpMsg) :
    pumpList s l = { s with cp := (pumpList s l).cp, out := (pumpList s l).out } := by
  induction l generalizing s with
  | nil => rfl
  | cons m r ih =>
    unfold pumpList
    split
    · dsimp only
      rw [ih]
      rfl
    · rfl

theorem pumpList_cp (s : State) (l : List CpMsg) :
    (pumpList s l).cp = { s.cp with queue := (pumpList s l).cp.queue, unacked := (pumpList s l).cp.unacked,
                                    txNext := (pumpList s l).cp.txNext } := by
  induction l generalizing s with
  | nil => rfl
  | cons m r ih =>
    unfold pumpList
    split
    · dsimp only
      rw [ih]
      rfl
    · rfl

theorem pumpList_out (s : State) (l : List CpMsg) : s.out <+: (pumpList s l).out := by
  induction l generalizing s with
  | nil => exact List.prefix_rfl
  | cons m r ih =>
    unfold pumpList
    split
    · refine List.IsPrefix.trans ?_ (ih _)
      exact List.prefix_append _ _
    · exact List.prefix_rfl

/-- What waited waits on or is unacknowledged, and so is what was unacknowledged. -/
theorem pumpList_mem (s : State) (l : List CpMsg) (m : CpMsg)
    (h : m ∈ l ∨ m ∈ s.cp.unacked.map (fun e => e.2.1)) :
    m ∈ (pumpList s l).cp.queue ++ (pumpList s l).cp.unacked.map (fun e => e.2.1) := by
  induction l generalizing s with
  | nil =>
    rcases h with h | h
    · cases h
    · exact List.mem_append_right _ h
  | cons x r ih =>
    unfold pumpList
    split
    · refine ih _ ?_
      rcases h with h | h
      · rcases List.mem_cons.1 h with rfl | h
        · exact .inr (by simp [emit])
        · exact .inl h
      · exact .inr (by simp only [emit, List.map_append, List.mem_append]; exact .inl h)
    · rcases h with h | h
      · exact List.mem_append_left _ h
      · exact List.mem_append_right _ h

theorem pump_eq (s : State) : pump s = { s with cp := (pump s).cp, out := (pump s).out } := by
  unfold pump; split
  · exact pumpList_eq s _
  · rfl

theorem pump_cp (s : State) :
    (pump s).cp = { s.cp with queue := (pump s).cp.queue, unacked := (pump s).cp.unacked,
                              txNext := (pump s).cp.txNext } := by
  unfold pump; split
  · exact pumpList_cp s _
  · rfl

theorem pump_out (s : State) : s.out <+: (pump s).out := by
  unfold pump; split
  · exact pumpList_out s _
  · exact List.prefix_rfl

theorem pump_mem (s : State) (m : CpMsg) (h : m ∈ s.cp.queue) :
    m ∈ (pump s).cp.queue ++ (pump s).cp.unacked.map (fun e => e.2.1) := by
  unfold pump; split
  · exact pumpList_mem s _ m (.inl h)
  · exact List.mem_append_left _ h

/-! ### Answering -/

/-- A command is noted under its TAG, alone, and not yet answered. -/
def TakenAs (s : State) (tag opcode : Nat) : Prop :=
  ∃ pre, s.cp.remembered = pre ++ [{ tag := tag, opcode := opcode, done := none }] ∧ ∀ r ∈ pre, r.tag ≠ tag

theorem noted_eq (s : State) (tag opcode : Nat) :
    noted s tag opcode = { s with cp := { s.cp with remembered := rememberNew tag opcode s.cp.remembered } } := rfl

theorem noted_taken {s : State} {tag : Nat} (h : (findRemembered s tag).isNone = true) (opcode : Nat) :
    TakenAs (noted s tag opcode) tag opcode := by
  simp only [findRemembered, Option.isNone_iff_eq_none, List.find?_eq_none, List.mem_reverse, beq_iff_eq] at h
  refine ⟨(s.cp.remembered).drop (s.cp.remembered.length + 1 - 1024), ?_, fun r hr => h r (List.mem_of_mem_drop hr)⟩
  simp only [noted, modCp, rememberNew, List.length_append, List.length_cons, List.length_nil]
  rw [List.drop_append]
  congr 1
  rw [show s.cp.remembered.length + (0 + 1) - 1024 - s.cp.remembered.length = 0 by omega]
  rfl

theorem rememberDone_taken (tag opcode status : Nat) (payload : List Byte) (pre : List Remembered)
    (h : ∀ r ∈ pre, r.tag ≠ tag) :
    rememberDone tag status payload (pre ++ [{ tag := tag, opcode := opcode, done := none }])
      = pre ++ [{ tag := tag, opcode := opcode, done := some (status, payload) }] := by
  induction pre with
  | nil => simp [rememberDone]
  | cons r l ih =>
    rw [List.cons_append, rememberDone, if_neg (fun e => h r (List.mem_cons_self ..) e.1),
      ih (fun r hr => h r (List.mem_cons_of_mem _ hr)), List.cons_append]

/-- What an answer puts before what waits. -/
def answering (s : State) (tag opcode status : Nat) (payload : List Byte) : State :=
  modCp s (fun c => { c with
    remembered := rememberDone tag status payload c.remembered,
    queue := c.queue ++ [{ type := 2, tag := BitVec.ofNat 32 tag, opcode := BitVec.ofNat 16 opcode,
                           status := BitVec.ofNat 8 status, payload := payload }] })

theorem answer_pump (s : State) (tag opcode status : Nat) (payload : List Byte) :
    answer s tag opcode status payload = pump (answering s tag opcode status payload) := rfl

/-- An answer changes the control port and the log alone. -/
theorem answer_eq (s : State) (tag opcode status : Nat) (payload : List Byte) :
    answer s tag opcode status payload
      = { s with cp := (answer s tag opcode status payload).cp, out := (answer s tag opcode status payload).out } := by
  unfold answer respond cpSend
  rw [pump_eq]
  rfl

/-- What an answer leaves in a state that has what s has remembered and the command as taken, and to which frames may
have been added since. -/
theorem answer_replies_of {s u : State} {tag opcode : Nat} (hn : (findRemembered s tag).isNone = true)
    (hrem : u.cp.remembered = (noted s tag opcode).cp.remembered)
    (hport : u.cp = { s.cp with queue := u.cp.queue, unacked := u.cp.unacked, txNext := u.cp.txNext,
                                remembered := u.cp.remembered })
    (hout : s.out <+: u.out) (status : Nat) (payload : List Byte) :
    Replies s (answer u tag opcode status payload) tag opcode status payload := by
  obtain ⟨pre, hp, hne⟩ := noted_taken hn opcode
  have hr : u.cp.remembered = pre ++ [{ tag := tag, opcode := opcode, done := none }] := by rw [hrem]; exact hp
  rw [answer_pump]
  have hc := pump_cp (answering u tag opcode status payload)
  generalize ht : pump (answering u tag opcode status payload) = t at hc ⊢
  refine ⟨?_, ?_, ?_, ?_⟩
  · unfold findRemembered
    rw [hc]
    simp only [answering, modCp, hr, rememberDone_taken tag opcode status payload pre hne]
    simp
  · rw [← ht]; exact pump_mem _ _ (by simp [answering, modCp])
  · rw [hc]
    simp only [answering, modCp]
    rw [hport]
  · rw [← ht]
    exact hout.trans (pump_out (answering u tag opcode status payload))

/-- What an answer leaves when the command stands as taken in a state that has the control port of s noted. -/
theorem answer_replies {s u : State} {tag opcode : Nat} (hn : (findRemembered s tag).isNone = true)
    (hcp : u.cp = (noted s tag opcode).cp) (hout : u.out = s.out) (status : Nat) (payload : List Byte) :
    Replies s (answer u tag opcode status payload) tag opcode status payload :=
  answer_replies_of hn (by rw [hcp]) (by rw [hcp, noted_eq]) (by rw [hout]) status payload

/-! ### Taking a command -/

/-- What `accepts` says, piece by piece. -/
theorem accepts_iff {s : State} {tag : Nat} (h : accepts s tag = true) :
    listens s = true ∧ 6 ≤ s.module.phase ∧ awaitingCount s < 64 ∧ (findRemembered s tag).isNone = true
      ∧ s.sec.zeroising = false ∧ 2 ≤ s.module.state ∧ d3Open s = false ∧ ∀ d < 32, (getDie s d).hung = false := by
  simp only [accepts, Bool.and_eq_true, decide_eq_true_eq, beq_iff_eq, Bool.not_eq_true', List.all_eq_true] at h
  obtain ⟨⟨⟨⟨⟨⟨⟨h1, h2⟩, h3⟩, h4⟩, h5⟩, h6⟩, h7⟩, h8⟩ := h
  refine ⟨h1, h2, h3, h4, h5, h6, h7, fun d hd => h8 d ?_⟩
  have : ∀ (a k d : Nat), a ≤ d → d < a + k → d ∈ upTo a k := by
    intro a k
    induction k generalizing a with
    | zero => intro d _ _; omega
    | succ k ih =>
      intro d h1 h2
      unfold upTo
      rcases Nat.lt_or_ge a d with h | h
      · exact List.mem_cons_of_mem _ (ih (a + 1) d (by omega) (by omega))
      · rw [show d = a by omega]; exact List.mem_cons_self ..
  exact this 0 32 d (Nat.zero_le d) (by omega)

/-- A command that is accepted, of the right length and permitted, whose stewards are dies of the part, runs on the
state that has it noted. -/
theorem takeCommand_runs {s : State} {c : Cmd} (h : accepts s c.tag = true) (hl : c.lengthOk = true)
    (hp : c.permitted = true) (ha : c.active = true → s.module.state = 4) (hd : ∀ d ∈ c.dies, d < 32) :
    takeCommand s c = c.run (noted s c.tag c.opcode) := by
  obtain ⟨h1, h2, h3, h4, h5, h6, h7, h8⟩ := accepts_iff h
  have hd3 : ∀ f, d3Open (modCp s f) = d3Open s := fun _ => rfl
  have hdie : ∀ f d, getDie (modCp s f) d = getDie s d := fun _ _ => rfl
  have hi : (findRemembered s c.tag).isSome = false := by
    cases hx : findRemembered s c.tag <;> simp_all
  unfold takeCommand takeKnown takeNew
  rw [if_pos h1, if_neg (by omega)]
  simp only [Bool.false_eq_true, if_false, hi, hl, hp, and_false, Bool.not_true]
  rw [if_neg (by omega)]
  unfold noted
  generalize hf : (fun p : ControlPort => { p with remembered := rememberNew c.tag c.opcode p.remembered }) = f
  have hs : stateRefuses (modCp s f) c = false := by
    simp only [stateRefuses, hd3, h7]
    cases hc : c.active with
    | false => simp [modCp, h5]; omega
    | true => simp [modCp, h5, ha hc]
  have hfind : c.dies.find? (fun d => (getDie (modCp s f) d).hung) = none := by
    rw [List.find?_eq_none]
    intro d hd'
    rw [hdie, h8 d (hd d hd')]
    decide
  rw [hs]
  simp only [Bool.false_eq_true, if_false]
  unfold carryOut
  rw [hfind]

/-- An OK answer in a state that differs from u in what is remembered alone. -/
theorem answerOk_done {s u v : State} {tag opcode : Nat} (hn : (findRemembered s tag).isNone = true)
    (hv : v = { u with cp := (noted s tag opcode).cp }) (hout : u.out = s.out) (result : List Word) :
    Done s u (answerOk v tag opcode result) tag opcode result := by
  subst hv
  refine ⟨answer_replies (u := { u with cp := (noted s tag opcode).cp }) hn rfl hout stOk (wordsBytes result), ?_⟩
  unfold answerOk
  rw [answer_eq]

/-! ### Commands whose effect does not look at what is remembered -/

/-- What `noted` remembers stays opaque to what follows. -/
theorem noted_form (s : State) (tag opcode : Nat) :
    ∃ r, noted s tag opcode = { s with cp := { s.cp with remembered := r } } := ⟨_, noted_eq s tag opcode⟩

/-- A command whose run answers OK over u, whatever is remembered, leaves u answered. -/
theorem takeCommand_done {s u : State} {c : Cmd} {tag opcode : Nat} {result : List Word} (h : accepts s tag = true)
    (ht : c.tag = tag) (ho : c.opcode = opcode) (hl : c.lengthOk = true) (hp : c.permitted = true)
    (ha : c.active = true → s.module.state = 4) (hd : ∀ d ∈ c.dies, d < 32) (hout : u.out = s.out)
    (hrun : ∀ r, c.run { s with cp := { s.cp with remembered := r } }
      = answerOk { u with cp := { s.cp with remembered := r } } tag opcode result) :
    Done s u (takeCommand s c) tag opcode result := by
  subst ht ho
  rw [takeCommand_runs h hl hp ha hd]
  obtain ⟨r, hr⟩ := noted_form s c.tag c.opcode
  rw [hr, hrun r]
  refine answerOk_done (accepts_iff h).2.2.2.1 ?_ hout result
  rw [hr]

/-- A command whose run answers something else, whatever is remembered, changes nothing but the control port. -/
theorem takeCommand_fails {s : State} {c : Cmd} {tag opcode status : Nat} {payload : List Byte}
    (h : accepts s tag = true) (ht : c.tag = tag) (ho : c.opcode = opcode) (hl : c.lengthOk = true)
    (hp : c.permitted = true) (ha : c.active = true → s.module.state = 4) (hd : ∀ d ∈ c.dies, d < 32)
    (hrun : ∀ r, c.run { s with cp := { s.cp with remembered := r } }
      = answer { s with cp := { s.cp with remembered := r } } tag opcode status payload) :
    Replies s (takeCommand s c) tag opcode status payload ∧
      takeCommand s c = { s with cp := (takeCommand s c).cp, out := (takeCommand s c).out } := by
  subst ht ho
  rw [takeCommand_runs h hl hp ha hd]
  obtain ⟨r, hr⟩ := noted_form s c.tag c.opcode
  rw [hr, hrun r]
  refine ⟨answer_replies (u := { s with cp := { s.cp with remembered := r } }) (accepts_iff h).2.2.2.1 ?_ rfl _ _, ?_⟩
  · rw [hr]
  · conv => lhs; rw [answer_eq]

end Sys2Proof.Machine
end

