-- ==== Sys2Proof/Laws/Reports.lean ====
section
/-! SUPPORT. What an event or a fault record that contains nothing can change: the report alone. -/

namespace Sys2Proof.Machine

/-- Going from s to t only what reports events has changed: free values, event numbers, counting registers, the frames
that wait or are unacknowledged, the record store, ERR_N and the log. -/
def Reported (s t : State) : Prop :=
  t = { s with freeCtr := t.freeCtr, dies := t.dies, regs := t.regs, records := t.records,
               nextRecord := t.nextRecord, windows := t.windows, out := t.out,
               cp := { s.cp with queue := t.cp.queue, unacked := t.cp.unacked, txNext := t.cp.txNext,
                                 lost := t.cp.lost },
               module := { s.module with pulse := t.module.pulse, errLow := t.module.errLow } }

theorem Reported.refl (s : State) : Reported s s := rfl

theorem Reported.trans {s t u : State} (h : Reported s t) (k : Reported t u) : Reported s u := by
  unfold Reported at *
  rw [k, h]

theorem pump_reported (s : State) : Reported s (pump s) := by
  have h := pump_eq s
  have k := pump_cp s
  unfold Reported
  generalize pump s = t at h k
  rw [h]
  dsimp only
  rw [k]

theorem reported_regs (s : State) (l : SMap Word) : Reported s { s with regs := l } := rfl

theorem rset_reported (s : State) (r : Reg) (d i k v : Nat) : Reported s (rset s r d i k v) := by
  unfold rset; exact reported_regs ..

theorem fset_reported (s : State) (r : Reg) (d i k hi lo v : Nat) : Reported s (fset s r d i k hi lo v) := by
  unfold fset; exact rset_reported ..

theorem fadd_reported (s : State) (r : Reg) (d i k hi lo n : Nat) : Reported s (fadd s r d i k hi lo n) := by
  unfold fadd; exact fset_reported ..

theorem queued_reported (s : State) (l : List CpMsg) : Reported s { s with cp := { s.cp with queue := l } } := rfl

theorem lost_reported (s : State) (f : List (Nat × BitVec 32 × Nat) → List (Nat × BitVec 32 × Nat)) :
    Reported s (modCp s (fun c => { c with lost := f c.lost })) := rfl

theorem noteHigh_reported (s : State) : Reported s (noteHigh s) := by
  unfold noteHigh; dsimp only; split
  · exact fset_reported ..
  · exact .refl _

theorem noteDropped_reported (s : State) (die : Nat) (q : BitVec 32) : Reported s (noteDropped s die q) := by
  unfold noteDropped; exact (fadd_reported ..).trans (lost_reported _ (noteLost die q))

theorem countSource_reported (s : State) (id : Nat) : Reported s (countSource s id) := by
  unfold countSource; dsimp only; split
  · exact .refl _
  · exact fadd_reported ..

theorem setErr_reported (s : State) (b : Bool) : Reported s (setErr s b) := by
  unfold setErr; split <;> rfl

theorem pulseErr_reported (s : State) : Reported s (pulseErr s) :=
  Reported.trans (t := modModule s (fun m => { m with pulse := true })) rfl (setErr_reported _ _)

theorem suppressRecord_reported (s : State) (w : Window) (r : FaultRec) : Reported s (suppressRecord s w r) := rfl

theorem openWindow_reported (s : State) (id : Nat) : Reported s (openWindow s id) := rfl

theorem reported_records (s : State) (l : List FaultRec) (n : BitVec 32) :
    Reported s { s with records := l, nextRecord := n } := rfl

theorem putRecord_reported (s : State) (r : FaultRec) : Reported s (putRecord s r).2.2 := by
  unfold putRecord
  exact reported_records ..

theorem formRecord_reported (s : State) (id sev action : Nat) (inj : Bool) (a : Nat) (d : List Word) :
    Reported s (formRecord s id sev action inj a d).2 := rfl

theorem bumpSeq_reported (s : State) (die : Nat) (f : Die → Die) : Reported s (modDie s die f) := rfl

theorem dropRecord_reported (s : State) (id sev : Nat) : Reported s (dropRecord s id sev) := by
  unfold dropRecord
  dsimp only
  refine (formRecord_reported s id sev 0 false (sourceUnit id) []).trans ?_
  split
  · exact suppressRecord_reported ..
  · exact ((openWindow_reported ..).trans <| (putRecord_reported ..).trans <| (bumpSeq_reported ..).trans <|
      (noteDropped_reported ..).trans <| (countSource_reported ..).trans (suppressRecord_reported ..))

theorem ite_reported {s t u : State} (b : Prop) [Decidable b] (h : Reported s t) (k : Reported s u) :
    Reported s (if b then t else u) := by
  split <;> assumption

theorem pulsed_reported {s t : State} (b : Prop) [Decidable b] (h : Reported s t) :
    Reported s (if b then t else pulseErr t) :=
  ite_reported b h (h.trans (pulseErr_reported t))

theorem dropEvent_reported (s : State) (die : Nat) (q : BitVec 32) : Reported s (dropEvent s die q) := by
  unfold dropEvent
  have h := (noteDropped_reported s die q).trans (countSource_reported _ (srcDistaff (activeDie s) 3))
  exact pulsed_reported _ (ite_reported _ h (h.trans (dropRecord_reported ..)))

/-- An event of a die is a report: it changes nothing of what the commands act on. -/
theorem sendEvent_reported (s : State) (die ty : Nat) (body : List Byte) : Reported s (sendEvent s die ty body) := by
  unfold sendEvent
  dsimp only
  refine (bumpSeq_reported s die (fun d => { d with eventSeq := d.eventSeq + 1 })).trans ?_
  generalize modDie s die (fun d => { d with eventSeq := d.eventSeq + 1 }) = t
  refine Reported.trans (t := (freeCycle t).2) rfl ?_
  split
  · exact fadd_reported ..
  · split
    · exact dropEvent_reported ..
    · exact (queued_reported ..).trans ((noteHigh_reported _).trans (pump_reported _))

theorem sendEventW_reported (s : State) (die ty : Nat) (body : List Nat) : Reported s (sendEventW s die ty body) :=
  sendEvent_reported ..

theorem storeOverwritten_reported (s : State) : Reported s (storeOverwritten s) := by
  unfold storeOverwritten
  have h := countSource_reported s (srcCollector (activeDie s) 0)
  refine pulsed_reported _ (ite_reported _ h (h.trans ?_))
  dsimp only
  generalize countSource s (srcCollector (activeDie s) 0) = t
  generalize srcCollector (activeDie s) 0 = id
  refine (formRecord_reported t id (severityOf t id) 0 false (sourceUnit id) []).trans ?_
  generalize formRecord t id (severityOf t id) 0 false (sourceUnit id) [] = x
  split
  · exact suppressRecord_reported ..
  · refine (openWindow_reported x.2 id).trans ((putRecord_reported _ x.1).trans ?_)
    refine (sendEvent_reported _ _ _ _).trans (ite_reported _ ?_ (.refl _))
    exact (countSource_reported ..).trans (suppressRecord_reported ..)

theorem keepRecord_reported (s : State) (r : FaultRec) : Reported s (keepRecord s r) := by
  unfold keepRecord
  have h := (putRecord_reported s r).trans (sendEvent_reported _ ((putRecord s r).2.1.source / 2048) 3
    (wordsBytes (recordWords (putRecord s r).2.1)))
  exact ite_reported _ (h.trans (storeOverwritten_reported _)) h

theorem storeRecord_reported (s : State) (r : FaultRec) : Reported s (storeRecord s r) := by
  unfold storeRecord
  split
  · exact suppressRecord_reported ..
  · exact (openWindow_reported ..).trans (keepRecord_reported ..)

theorem storeRecords_reported (s : State) (l : List FaultRec) : Reported s (l.foldl storeRecord s) := by
  induction l generalizing s with
  | nil => exact .refl _
  | cons r l ih => exact (storeRecord_reported s r).trans (ih _)

theorem reported_raised {s t : State} (h : Reported s t) (l : List FaultRec) :
    Reported { s with raised := l } { t with raised := l } := by
  unfold Reported at *
  rw [h]

theorem noteRecord_reported (s : State) (id sev action : Nat) (inj : Bool) (a : Nat) (d : List Word) :
    Reported { s with raised := (noteRecord s id sev action inj a d).raised } (noteRecord s id sev action inj a d) :=
  rfl

/-- A source whose severity is at most NOTIFY only counts and notes a record: its event contains nothing (R486). -/
theorem raiseN_reported (n : Nat) (s : State) (id : Nat) (inj : Bool) (detail : List Word) (h : severityOf s id ≤ 2) :
    Reported { s with raised := (raiseN n s id inj detail).raised } (raiseN n s id inj detail) := by
  have hc := countSource_reported s id
  have hr : Reported { s with raised := (countSource s id).raised } (countSource s id) := by
    rw [show (countSource s id).raised = s.raised by rw [hc]]
    exact hc
  cases n with
  | zero => exact hr
  | succ n =>
    unfold raiseN
    dsimp only
    split
    · exact hr
    · rw [if_pos (.inl (by omega))]
      exact (reported_raised hc _).trans (noteRecord_reported ..)

/-- The event of a source whose severity is at most NOTIFY is a report (R486). -/
theorem raiseDetail_reported (s : State) (id : Nat) (detail : List Word) (h : severityOf s id ≤ 2) :
    Reported s (raiseDetail s id detail) := by
  have h1 := raiseN_reported 4 { s with raised := [] } id false detail h
  have h2 := storeRecords_reported (raiseN 4 { s with raised := [] } id false detail)
    (raiseN 4 { s with raised := [] } id false detail).raised
  exact reported_raised (h1.trans h2) s.raised

theorem raiseFault_reported (s : State) (id : Nat) (h : severityOf s id ≤ 2) : Reported s (raiseFault s id) :=
  raiseDetail_reported s id [] h

end Sys2Proof.Machine
end

