-- ==== Sys2Proof/Laws/Runs.lean ====
section
/-! SUPPORT. Runs of sparse memories: windows, splices and what is gathered from pieces keep the canonical form. -/

namespace Sys2Proof.Machine

/-- A canonical run of cells with addresses from lo on and below hi. -/
def Run (lo hi : Nat) (m : List Host.Cell) : Prop := mapRising lo m = true ∧ ∀ e ∈ m, e.1 < hi ∧ e.2 ≠ 0

theorem memWf_iff {m : List Host.Cell} : memWf m = true ↔ mapRising 0 m = true ∧ ∀ e ∈ m, e.2 ≠ 0 := by
  simp [memWf, mapWf, List.all_eq_true]

theorem Run.wf {lo hi : Nat} {m : List Host.Cell} (h : Run lo hi m) : memWf m = true :=
  memWf_iff.2 ⟨mapRising_mono h.1 (Nat.zero_le lo), fun e he => (h.2 e he).2⟩

theorem Run.nil (lo hi : Nat) : Run lo hi [] := ⟨rfl, fun _ h => (List.not_mem_nil h).elim⟩

theorem Run.mono {lo hi lo' hi' : Nat} {m : List Host.Cell} (h : Run lo hi m) (hl : lo' ≤ lo) (hh : hi ≤ hi') :
    Run lo' hi' m :=
  ⟨mapRising_mono h.1 hl, fun e he => ⟨Nat.lt_of_lt_of_le (h.2 e he).1 hh, (h.2 e he).2⟩⟩

theorem mapRising_append {α : Type} {lo mid : Nat} {x y : SMap α} (hx : mapRising lo x = true) (hm : ∀ e ∈ x, e.1 < mid)
    (hy : mapRising mid y = true) (hl : lo ≤ mid) : mapRising lo (x ++ y) = true := by
  induction x generalizing lo with
  | nil => exact mapRising_mono hy hl
  | cons e r ih =>
    simp only [mapRising, Bool.and_eq_true, decide_eq_true_eq, List.cons_append] at hx ⊢
    have := hm e (List.mem_cons_self ..)
    exact ⟨hx.1, ih hx.2 (fun e he => hm e (List.mem_cons_of_mem _ he)) (by omega)⟩

theorem Run.append {lo mid hi : Nat} {x y : List Host.Cell} (hx : Run lo mid x) (hy : Run mid hi y) (hl : lo ≤ mid)
    (hh : mid ≤ hi) : Run lo hi (x ++ y) := by
  refine ⟨mapRising_append hx.1 (fun e he => (hx.2 e he).1) hy.1 hl, fun e he => ?_⟩
  rcases List.mem_append.1 he with he | he
  · exact (hx.mono (Nat.le_refl lo) hh).2 e he
  · exact hy.2 e he

theorem mapRising_shift {α : Type} {lo a b : Nat} {m : SMap α} (h : mapRising lo m = true) (ha : a ≤ lo) :
    mapRising (lo - a + b) (m.map (fun e => (e.1 - a + b, e.2))) = true := by
  induction m generalizing lo with
  | nil => rfl
  | cons e r ih =>
    simp only [mapRising, Bool.and_eq_true, decide_eq_true_eq, List.map_cons] at h ⊢
    refine ⟨by omega, ?_⟩
    have := ih h.2 (by omega)
    rwa [show e.1 + 1 - a + b = e.1 - a + b + 1 by omega] at this

theorem mapRising_from {α : Type} {lo a : Nat} {m : SMap α} (h : mapRising lo m = true) (ha : ∀ e ∈ m, a ≤ e.1) :
    mapRising a m = true := by
  cases m with
  | nil => rfl
  | cons e r =>
    simp only [mapRising, Bool.and_eq_true, decide_eq_true_eq] at h ⊢
    exact ⟨ha e (List.mem_cons_self ..), h.2⟩

/-- A window of a canonical memory is a run at the place it is moved to. -/
theorem window_run {m : List Host.Cell} (h : memWf m = true) (a n b : Nat) : Run b (b + n) (window m a n b) := by
  obtain ⟨h1, h2⟩ := memWf_iff.1 h
  refine ⟨?_, fun e he => ?_⟩
  · have hr := mapRising_filter h1 (fun e => decide (a ≤ e.1) && decide (e.1 < a + n))
    have hf : mapRising a (m.filter (fun e => decide (a ≤ e.1) && decide (e.1 < a + n))) = true :=
      mapRising_from hr (fun e he => by
        have := (List.mem_filter.1 he).2
        simp only [Bool.and_eq_true, decide_eq_true_eq] at this
        exact this.1)
    have := mapRising_shift (b := b) hf (Nat.le_refl a)
    rwa [Nat.sub_self, Nat.zero_add] at this
  · obtain ⟨x, hx, rfl⟩ := List.mem_map.1 he
    obtain ⟨hm, hx⟩ := List.mem_filter.1 hx
    simp only [Bool.and_eq_true, decide_eq_true_eq] at hx
    exact ⟨by show x.1 - a + b < b + n; omega, h2 x hm⟩

/-- A memory with a run replaced by another is canonical. -/
theorem splice_wf {m w : List Host.Cell} {a n : Nat} (hm : memWf m = true) (hw : Run a (a + n) w) :
    memWf (splice m a n w) = true := by
  obtain ⟨h1, h2⟩ := memWf_iff.1 hm
  have hx : Run 0 a (m.filter (fun e => decide (e.1 < a))) :=
    ⟨mapRising_filter h1 _, fun e he => by
      obtain ⟨hm, hx⟩ := List.mem_filter.1 he
      exact ⟨of_decide_eq_true hx, h2 e hm⟩⟩
  have hy : mapRising (a + n) (m.filter (fun e => decide (a + n ≤ e.1))) = true :=
    mapRising_from (mapRising_filter h1 _) (fun e he => of_decide_eq_true (List.mem_filter.1 he).2)
  have hxw := hx.append hw (Nat.zero_le a) (Nat.le_add_right a n)
  refine memWf_iff.2 ⟨mapRising_append hxw.1 (fun e he => (hxw.2 e he).1) hy (Nat.zero_le _), fun e he => ?_⟩
  rcases List.mem_append.1 he with he | he
  · exact (hxw.2 e he).2
  · exact h2 e (List.mem_filter.1 he).1

/-- Where the cells of a memory after a write can stand. -/
theorem memWrite_run {lo hi : Nat} {m : List Host.Cell} (h : Run lo hi m) (a : Nat) (l : List Byte) (ha : lo ≤ a)
    (hl : a + l.length ≤ hi) : Run lo hi (memWrite m a l) := by
  induction l generalizing m a with
  | nil => exact h
  | cons b r ih =>
    rw [List.length_cons] at hl
    refine ih ⟨?_, fun e he => ?_⟩ (a + 1) (by omega) (by omega)
    · unfold mapPut
      split
      · exact mapDel_rising h.1
      · exact mapIns_rising h.1 ha
    · unfold mapPut at he
      split at he
      · exact h.2 e (mem_mapDel he)
      · rcases mem_mapIns he with rfl | he
        · exact ⟨by show a < hi; omega, by assumption⟩
        · exact h.2 e he

/-! ### Lengths of what is written -/

@[simp] theorem natBytes_length (k n : Nat) : (natBytes k n).length = k := by
  induction k generalizing n with
  | zero => rfl
  | succ k ih => simp [natBytes, ih]

@[simp] theorem wordBytes_length (w : Word) : (wordBytes w).length = 8 := natBytes_length 8 _

theorem flatMap_length_const {α β : Type} (l : List α) (f : α → List β) (k : Nat) (h : ∀ x ∈ l, (f x).length = k) :
    (l.flatMap f).length = k * l.length := by
  induction l with
  | nil => rfl
  | cons x r ih =>
    rw [List.flatMap_cons, List.length_append, h x (List.mem_cons_self ..), ih (fun y hy => h y (List.mem_cons_of_mem _ hy)),
      List.length_cons, Nat.mul_succ, Nat.add_comm]

@[simp] theorem wordsBytes_length (ws : List Word) : (wordsBytes ws).length = 8 * ws.length :=
  flatMap_length_const ws wordBytes 8 (fun w _ => wordBytes_length w)

@[simp] theorem upTo_length (a k : Nat) : (upTo a k).length = k := by
  induction k generalizing a with
  | zero => rfl
  | succ k ih => simp [upTo, ih]

@[simp] theorem padTo_length (n : Nat) (l : List Byte) : (padTo n l).length = n := by
  simp only [padTo, List.length_take, List.length_append, List.length_replicate]; omega

theorem engineBlock_length (s : State) (key e : Nat) : (engineBlock s key e).length = 1024 := by
  have h1 : ((upTo 0 4).flatMap (fun n => whorlWords (lReg (getEng s key e) n))).length = 8 := by
    rw [flatMap_length_const _ _ 2 (fun _ _ => rfl), upTo_length]
  have h2 : ((upTo 0 16).flatMap (fun n => aWords (aReg (getEng s key e) n))).length = 32 := by
    rw [flatMap_length_const _ _ 2 (fun _ _ => rfl), upTo_length]
  simp only [engineBlock, List.length_append, wordsBytes_length, h1, h2, List.length_map, upTo_length,
    List.length_replicate, padTo_length, List.length_cons, List.length_nil]

theorem engineVectors_length (x : Engine) : (engineVectors x).length = 8192 := by
  rw [engineVectors, flatMap_length_const _ _ 256 (fun n _ => natBytes_length 256 _), upTo_length]

/-! ### Contexts and what is gathered -/

/-- A saved context is a canonical run. -/
theorem contextCells_run {s : State} (h : ∀ k, memWf (getSp s k).ls = true) (l step : Nat) :
    ∃ hi, Run 0 hi (contextCells s l step) := by
  unfold contextCells
  refine ⟨0x20000 + programBytes s l, Run.append (mid := 0x20000) ?_ (window_run (h _) _ _ _) (Nat.zero_le _)
    (Nat.le_add_right _ _)⟩
  have hb : ((upTo 0 16).flatMap (fun b => barchanWords (getBarchan (getSp s (spindleOf s l)) b))).length = 64 := by
    rw [flatMap_length_const _ _ 4 (fun _ _ => rfl), upTo_length]
  have ht : ((tileEls (spEngine (getSp s (spindleOf s l)) tensorEngine) 0
      ++ tileEls (spEngine (getSp s (spindleOf s l)) tensorEngine) 1).flatMap (fun v => natBytes 4 v.toNat)).length = 8192 := by
    rw [flatMap_length_const _ _ 4 (fun _ _ => natBytes_length 4 _)]
    simp [tileEls]
  refine memWrite_run ?_ _ _ (Nat.zero_le _) (by rw [ht]; decide)
  have h0 : Run 0 0x20000 (memWrite (memWrite [] 0 (wordsBytes
      ([word (0x10 + l * 2 ^ 8 + fget s .slotLimit (spindleOf s l / 32) (spindleOf s l % 32) 0 11 0 * 2 ^ 16), word step,
        word (programBytes s l), 0]) ++ padTo 64 (getSp s (spindleOf s l)).measurement)) 0x100
      (wordBytes (flagsNow (getSp s (spindleOf s l)))
        ++ wordsBytes ((upTo 0 16).flatMap (fun b => barchanWords (getBarchan (getSp s (spindleOf s l)) b))))) := by
    refine memWrite_run (memWrite_run (Run.nil _ _) _ _ (Nat.zero_le _) ?_) _ _ (Nat.zero_le _) ?_
    · simp only [List.length_append, wordsBytes_length, padTo_length, List.length_cons, List.length_nil]; decide
    · simp only [List.length_append, wordBytes_length, wordsBytes_length, hb]; decide
  have hf : ∀ (es : List Nat) (m : List Host.Cell), (∀ e ∈ es, e < 4) → Run 0 0x20000 m →
      Run 0 0x20000 (es.foldl (fun m e =>
        if hasVectors e then memWrite (memWrite m (0x1000 + 0x4000 * e) (engineBlock s (spindleOf s l) e))
          (0x1400 + 0x4000 * e) (engineVectors (spEngine (getSp s (spindleOf s l)) e))
        else memWrite m (0x1000 + 0x4000 * e) (engineBlock s (spindleOf s l) e)) m) := by
    intro es
    induction es with
    | nil => exact fun m _ h => h
    | cons e r ih =>
      intro m he hm
      have hlt := he e (List.mem_cons_self ..)
      have h1 : Run 0 0x20000 (memWrite m (0x1000 + 0x4000 * e) (engineBlock s (spindleOf s l) e)) :=
        memWrite_run hm _ _ (Nat.zero_le _) (by rw [engineBlock_length]; omega)
      refine ih _ (fun e he' => he e (List.mem_cons_of_mem _ he')) ?_
      dsimp only
      split
      · exact memWrite_run h1 _ _ (Nat.zero_le _) (by rw [engineVectors_length]; omega)
      · exact h1
  exact hf (upTo 0 4) _ (by decide) h0

/-- What is gathered from the pieces of an area is a canonical run. -/
theorem gather_run {s : State} (h : memWf s.erg.mem = true) (region o : Nat) (fuel o' n : Nat) (ho : o ≤ o') :
    Run (o' - o) (o' - o + n) (gather s region o (granules fuel o' n)) := by
  induction fuel generalizing o' n with
  | zero => exact Run.nil _ _
  | succ fuel ih =>
    unfold granules
    split
    · exact Run.nil _ _
    · have hk : min n (4096 - o' % 4096) ≤ n := Nat.min_le_left _ _
      generalize min n (4096 - o' % 4096) = k at hk
      have h1 : Run (o' - o) (o' - o + k) (window s.erg.mem (ergAddr s (region - 1) o') k (o' - o)) := window_run h _ _ _
      have h2 := ih (o' + k) (n - k) (by omega)
      rw [show o' + k - o = o' - o + k by omega, show o' - o + k + (n - k) = o' - o + n by omega] at h2
      exact h1.append h2 (by omega) (by omega)

/-- A local store loaded from a canonical image is canonical. -/
theorem imageData_wf {m ls : List Host.Cell} (hm : memWf m = true) (hl : memWf ls = true) : memWf (imageData m ls) = true := by
  unfold imageData
  generalize imgTable m = t
  induction t generalizing ls with
  | nil => exact hl
  | cons x r ih =>
    rw [List.foldl_cons]
    refine ih ?_
    split
    · exact splice_wf hl (window_run hm _ _ _)
    · exact hl

theorem loadedSpindle_wf {m : List Host.Cell} {sp : Spindle} (hm : memWf m = true) (hs : memWf sp.ls = true) (area : Nat) :
    memWf (loadedSpindle m area sp).ls = true :=
  imageData_wf hm (splice_wf hs (Run.nil _ _))

end Sys2Proof.Machine
end

