-- ==== Sys2Proof/Laws/SoundOps.lean ====
section
/-! SUPPORT. What keeps a state sound: the named operations, the register readers and writers, the control-port
  reports and the packets. -/

namespace Sys2Proof.Machine

theorem freeWord_sound (s : State) (s_ok : Sound s) : Sound (freeWord s).2 := by
  unfold freeWord; (repeat' (with_reducible (first
    | assumption | (fail_if_no_progress (refine sound_upd ?_ rfl rfl rfl rfl rfl)))))

theorem freeBelow_sound (n : Nat) (s : State) (s_ok : Sound s) : Sound (freeBelow n s).2 := by
  unfold freeBelow; (repeat' (with_reducible (first
    | assumption | apply freeWord_sound)))

theorem freeCycle_sound (s : State) (s_ok : Sound s) : Sound (freeCycle s).2 := by
  unfold freeCycle; (repeat' (with_reducible (first
    | assumption | (fail_if_no_progress (refine sound_upd ?_ rfl rfl rfl rfl rfl)))))

theorem takeNoise_sound (n : Nat) (s : State) (s_ok : Sound s) : Sound (takeNoise n s).2 := by
  unfold takeNoise; (repeat' (with_reducible (first
    | assumption | (fail_if_no_progress (refine sound_upd ?_ rfl rfl rfl rfl rfl)))))

theorem setPort_sound (s : State) (p : Nat) (v : Port) (s_ok : Sound s) : Sound (setPort s p v) := by
  unfold setPort; (repeat' (with_reducible (first
    | assumption | (fail_if_no_progress (refine sound_upd ?_ rfl rfl rfl rfl rfl)))))

theorem modPort_sound (s : State) (p : Nat) (f : Port → Port) (s_ok : Sound s) : Sound (modPort s p f) := by
  unfold modPort; (repeat' (with_reducible (first
    | assumption | apply setPort_sound)))

theorem setPortDie_sound (s : State) (d : Nat) (v : PortDie) (s_ok : Sound s) : Sound (setPortDie s d v) := by
  unfold setPortDie; (repeat' (with_reducible (first
    | assumption | (fail_if_no_progress (refine sound_upd ?_ rfl rfl rfl rfl rfl)))))

theorem modPortDie_sound (s : State) (d : Nat) (f : PortDie → PortDie) (s_ok : Sound s) : Sound (modPortDie s d f) :=
    by
  unfold modPortDie; (repeat' (with_reducible (first
    | assumption | apply setPortDie_sound)))

theorem setDie_sound (s : State) (d : Nat) (v : Die) (s_ok : Sound s) : Sound (setDie s d v) := by
  unfold setDie; (repeat' (with_reducible (first
    | assumption | (fail_if_no_progress (refine sound_upd ?_ rfl rfl rfl rfl rfl)))))

theorem modDie_sound (s : State) (d : Nat) (f : Die → Die) (s_ok : Sound s) : Sound (modDie s d f) := by
  unfold modDie; (repeat' (with_reducible (first
    | assumption | apply setDie_sound)))

theorem setJob_sound (s : State) (j : Nat) (v : Job) (s_ok : Sound s) : Sound (setJob s j v) := by
  unfold setJob; (repeat' (with_reducible (first
    | assumption | (fail_if_no_progress (refine sound_upd ?_ rfl rfl rfl rfl rfl)))))

theorem setHank_sound (s : State) (hh : Nat) (v : Hank) (s_ok : Sound s) : Sound (setHank s hh v) := by
  unfold setHank; (repeat' (with_reducible (first
    | assumption | (fail_if_no_progress (refine sound_upd ?_ rfl rfl rfl rfl rfl)))))

theorem delHank_sound (s : State) (hh : Nat) (s_ok : Sound s) : Sound (delHank s hh) := by
  unfold delHank; (repeat' (with_reducible (first
    | assumption | (fail_if_no_progress (refine sound_upd ?_ rfl rfl rfl rfl rfl)))))

theorem modHank_sound (s : State) (hh : Nat) (f : Hank → Hank) (s_ok : Sound s) : Sound (modHank s hh f) := by
  unfold modHank; (repeat' (with_reducible (first
    | assumption | apply setHank_sound | split)))

theorem modSp_sound' {s : State} (h : Sound s) (k : Nat) {f : Spindle → Spindle}
    (hf : (f (getSp s k)).canonical) : Sound (modSp s k f) := setSp_sound h k hf
theorem spSetEngine_sound (sp : Spindle) (e : Nat) (v : Engine) (h : sp.canonical) : (spSetEngine sp e v).canonical :=
  ⟨h.1, mapPut_wf h.2 _ _⟩
theorem setEng_sound (s : State) (k e v) (h : Sound s) : Sound (setEng s k e v) :=
  modSp_sound' h k (spSetEngine_sound _ e v (getSp_sound h k))

theorem modEng_sound (s : State) (k : Nat) (e : Nat) (f : Engine → Engine) (s_ok : Sound s) : Sound (modEng s k e f)
    := by
  unfold modEng; (repeat' (with_reducible (first
    | assumption | apply setEng_sound)))

theorem setPlane_sound (s : State) (p : Nat) (v : Plane) (s_ok : Sound s) : Sound (setPlane s p v) := by
  unfold setPlane; (repeat' (with_reducible (first
    | assumption | split | (fail_if_no_progress (refine sound_upd ?_ rfl rfl rfl rfl rfl)))))

theorem modPlane_sound (s : State) (p : Nat) (f : Plane → Plane) (s_ok : Sound s) : Sound (modPlane s p f) := by
  unfold modPlane; (repeat' (with_reducible (first
    | assumption | apply setPlane_sound)))

theorem setReady_sound (s : State) (link : Nat) (l : List Pkt) (s_ok : Sound s) : Sound (setReady s link l) := by
  unfold setReady; (repeat' (with_reducible (first
    | assumption | (fail_if_no_progress (refine sound_upd ?_ rfl rfl rfl rfl rfl)))))

theorem setInbox_sound (s : State) (die : Nat) (l : List Pkt) (s_ok : Sound s) : Sound (setInbox s die l) := by
  unfold setInbox; (repeat' (with_reducible (first
    | assumption | (fail_if_no_progress (refine sound_upd ?_ rfl rfl rfl rfl rfl)))))

theorem modErg_sound {s : State} (h : Sound s) {f : Erg → Erg} (hf : memWf (f s.erg).mem = true) : Sound (modErg s f) :=
  ⟨h.module, hf, h.staging, h.stores, h.records, h.remembered⟩

theorem modCp_sound {s : State} (h : Sound s) {f : ControlPort → ControlPort} (hf : (f s.cp).remembered.length ≤ 1024) : Sound (modCp s f) :=
  ⟨h.module, h.erg, h.staging, h.stores, h.records, hf⟩

theorem modSec_sound (s : State) (f : Security → Security) (s_ok : Sound s) : Sound (modSec s f) := by
  unfold modSec; (repeat' (with_reducible (first
    | assumption | (fail_if_no_progress (refine sound_upd ?_ rfl rfl rfl rfl rfl)))))

theorem modModule_sound {s : State} (h : Sound s) {f : Module → Module} (hf : (f s.module).legal) : Sound (modModule s f) :=
  ⟨hf, h.erg, h.staging, h.stores, h.records, h.remembered⟩

theorem setStandby_sound {s : State} (h : Sound s) {n : Nat} (hn : n ≤ 2) :
    Sound (modModule s (fun m => { m with standby := n })) :=
  modModule_sound h ⟨h.module.1, h.module.2.1, h.module.2.2.1, hn⟩
theorem setState_sound {s : State} (h : Sound s) {n : Nat} (hn : n ≤ 4) :
    Sound (modModule s (fun m => { m with state := n })) :=
  modModule_sound h ⟨h.module.1, hn, h.module.2.2⟩
theorem setPhase_sound {s : State} (h : Sound s) {n : Nat} (hn : n ≤ 6) :
    Sound (modModule s (fun m => { m with phase := n })) :=
  modModule_sound h ⟨h.module.1, h.module.2.1, hn, h.module.2.2.2⟩

theorem emit_sound (s : State) (o : Out) (s_ok : Sound s) : Sound (emit s o) := by
  unfold emit; (repeat' (with_reducible (first
    | assumption | (fail_if_no_progress (refine sound_upd ?_ rfl rfl rfl rfl rfl)))))

theorem newUid_sound (s : State) (s_ok : Sound s) : Sound (newUid s).2 := by
  unfold newUid; (repeat' (with_reducible (first
    | assumption | (fail_if_no_progress (refine sound_upd ?_ rfl rfl rfl rfl rfl)))))

theorem ergWrite_sound (s : State) (a : Nat) (d : List Byte) (s_ok : Sound s) : Sound (ergWrite s a d) := by
  exact modErg_sound s_ok (memWrite_wf s_ok.erg _ _)

theorem spWrite_sound (sp : Spindle) (a : Nat) (d : List Byte) (sp_ok : sp.canonical) : (spWrite sp a
    d).canonical := by
  exact ⟨memWrite_wf sp_ok.1 _ _, sp_ok.2⟩

theorem atPort_sound (p : Nat) (s : State) (s_ok : Sound s) : ∀ t, (atPort p s) = .next t → Sound t := by
  unfold atPort; intro t h; split at h
  · cases h; exact s_ok
  · cases h

theorem atUnit_sound (what : String) (lo : Nat) (n : Nat) (k : Nat) (s : State) (s_ok : Sound s) : ∀ t, (atUnit what
    lo n k s) = .next t → Sound t := by
  unfold atUnit; intro t h; split at h
  · cases h; exact s_ok
  · cases h

theorem atEngine_sound (die : Nat) (slot : Nat) (e : Nat) (s : State) (s_ok : Sound s) : ∀ t, (atEngine die slot e s)
    = .next t → Sound t := by
  unfold atEngine; intro t h; split at h
  · cases h; exact s_ok
  · cases h

theorem rset_sound (s : State) (r : Reg) (die : Nat) (inst : Nat) (k : Nat) (v : Nat) (s_ok : Sound s) : Sound (rset s
    r die inst k v) := by
  unfold rset; (repeat' (with_reducible (first
    | assumption | (fail_if_no_progress (refine sound_upd ?_ rfl rfl rfl rfl rfl)))))

theorem fset_sound (s : State) (r : Reg) (die : Nat) (inst : Nat) (k : Nat) (hi : Nat) (lo : Nat) (v : Nat) (s_ok :
    Sound s) : Sound (fset s r die inst k hi lo v) := by
  unfold fset; (repeat' (with_reducible (first
    | assumption | apply rset_sound)))

theorem fadd_sound (s : State) (r : Reg) (die : Nat) (inst : Nat) (k : Nat) (hi : Nat) (lo : Nat) (n : Nat) (s_ok :
    Sound s) : Sound (fadd s r die inst k hi lo n) := by
  unfold fadd; (repeat' (with_reducible (first
    | assumption | apply fset_sound)))

theorem fwrap_sound (s : State) (r : Reg) (die : Nat) (inst : Nat) (k : Nat) (hi : Nat) (lo : Nat) (n : Nat) (s_ok :
    Sound s) : Sound (fwrap s r die inst k hi lo n) := by
  unfold fwrap; (repeat' (with_reducible (first
    | assumption | apply fset_sound)))

theorem pset_sound (s : State) (r : Reg) (p : Nat) (k : Nat) (hi : Nat) (lo : Nat) (v : Nat) (s_ok : Sound s) : Sound
    (pset s r p k hi lo v) := by
  unfold pset; (repeat' (with_reducible (first
    | assumption | apply fset_sound)))

theorem padd_sound (s : State) (r : Reg) (p : Nat) (k : Nat) (hi : Nat) (lo : Nat) (n : Nat) (s_ok : Sound s) : Sound
    (padd s r p k hi lo n) := by
  unfold padd; (repeat' (with_reducible (first
    | assumption | apply fadd_sound)))

theorem eset_sound (s : State) (r : Reg) (key : Nat) (e : Nat) (k : Nat) (hi : Nat) (lo : Nat) (v : Nat) (s_ok : Sound
    s) : Sound (eset s r key e k hi lo v) := by
  unfold eset; (repeat' (with_reducible (first
    | assumption | apply fset_sound)))

theorem eadd_sound (s : State) (r : Reg) (key : Nat) (e : Nat) (k : Nat) (hi : Nat) (lo : Nat) (n : Nat) (s_ok : Sound
    s) : Sound (eadd s r key e k hi lo n) := by
  unfold eadd; (repeat' (with_reducible (first
    | assumption | apply fadd_sound)))

theorem resetDieRegs_sound (s : State) (die : Nat) (s_ok : Sound s) : Sound (resetDieRegs s die) := by
  unfold resetDieRegs; (repeat' (with_reducible (first
    | assumption | (fail_if_no_progress (refine sound_upd ?_ rfl rfl rfl rfl rfl)))))

theorem setUnit_sound (s : State) (die : Nat) (cls : Nat) (inst : Nat) (v : UnitState) (s_ok : Sound s) : Sound
    (setUnit s die cls inst v) := by
  unfold setUnit; (repeat' (with_reducible (first
    | assumption | (fail_if_no_progress (refine sound_upd ?_ rfl rfl rfl rfl rfl)))))

theorem pumpList_sound (s : State) (a : List CpMsg) (s_ok : Sound s) : Sound (pumpList s a) := by
  fun_induction pumpList s a <;> (repeat' (with_reducible (first
    | assumption | apply emit_sound | split | (dsimp only) | (intro _)
    | (fail_if_no_progress (refine sound_upd ?_ rfl rfl rfl rfl rfl)) | (refine snd_sound (by assumption) ?_)
    | (refine fst_sound (by assumption) ?_) | (refine trd_sound (by assumption) ?_)
    | (apply_assumption -exfalso -symm))))

theorem pump_sound (s : State) (s_ok : Sound s) : Sound (pump s) := by
  unfold pump; (repeat' (with_reducible (first
    | assumption | apply pumpList_sound | split)))

theorem cpSend_sound (s : State) (m : CpMsg) (s_ok : Sound s) : Sound (cpSend s m) := by
  unfold cpSend; (repeat' (with_reducible (first
    | assumption | apply pump_sound | apply modCp_sound | (refine Sound.remembered ?_))))

theorem respond_sound (s : State) (tag : Nat) (opcode : Nat) (status : Nat) (payload : List Byte) (s_ok : Sound s) :
    Sound (respond s tag opcode status payload) := by
  unfold respond; (repeat' (with_reducible (first
    | assumption | apply cpSend_sound)))

theorem rememberDone_length (tag status : Nat) (payload : List Byte) (l : List Remembered) :
    (rememberDone tag status payload l).length = l.length := by
  induction l with
  | nil => rfl
  | cons r l ih => unfold rememberDone; split <;> simp [ih]

theorem answer_sound (s : State) (tag : Nat) (opcode : Nat) (status : Nat) (payload : List Byte) (s_ok : Sound s) :
    Sound (answer s tag opcode status payload) := by
  exact respond_sound _ _ _ _ _ (modCp_sound s_ok (by rw [rememberDone_length]; exact s_ok.remembered))

theorem answerOk_sound (s : State) (tag : Nat) (opcode : Nat) (result : List Word) (s_ok : Sound s) : Sound (answerOk
    s tag opcode result) := by
  unfold answerOk; (repeat' (with_reducible (first
    | assumption | apply answer_sound)))

theorem fail8_sound (s : State) (tag : Nat) (opcode : Nat) (status : Nat) (check : Nat) (s_ok : Sound s) : Sound
    (fail8 s tag opcode status check) := by
  unfold fail8; (repeat' (with_reducible (first
    | assumption | apply answer_sound)))

theorem setErr_sound (s : State) (low : Bool) (s_ok : Sound s) : Sound (setErr s low) := by
  unfold setErr; (repeat' (with_reducible (first
    | assumption | apply modModule_sound | apply emit_sound | split | (dsimp only) | (intro _)
    | (fail_if_no_progress (refine sound_upd ?_ rfl rfl rfl rfl rfl)) | (refine snd_sound (by assumption) ?_)
    | (refine fst_sound (by assumption) ?_) | (refine trd_sound (by assumption) ?_) | (refine Sound.module ?_)
    | (refine legal_upd ?_))))

theorem settleErr_sound (s : State) (s_ok : Sound s) : Sound (settleErr s) := by
  unfold settleErr; (repeat' (with_reducible (first
    | assumption | apply setErr_sound)))

theorem pulseErr_sound (s : State) (s_ok : Sound s) : Sound (pulseErr s) := by
  unfold pulseErr; (repeat' (with_reducible (first
    | assumption | apply modModule_sound | apply settleErr_sound | (refine Sound.module ?_) | (refine legal_upd ?_))))

theorem noteHigh_sound (s : State) (s_ok : Sound s) : Sound (noteHigh s) := by
  unfold noteHigh; dsimp only; (repeat' (with_reducible (first
    | assumption | apply fset_sound | split)))

theorem countSource_sound (s : State) (id : Nat) (s_ok : Sound s) : Sound (countSource s id) := by
  unfold countSource; dsimp only; (repeat' (with_reducible (first
    | assumption | apply fadd_sound | split)))

/-- A store of at most 4,096 records. -/
theorem records_sound {s : State} {l : List FaultRec} {n : Nat} (hs : Sound s) (h : l.length ≤ 4096) :
    Sound { s with records := l, nextRecord := n } :=
  ⟨hs.module, hs.erg, hs.staging, hs.stores, h, hs.remembered⟩

theorem putRecord_sound (s : State) (r : FaultRec) (s_ok : Sound s) : Sound (putRecord s r).2.2 := by
  unfold putRecord
  refine records_sound s_ok ?_
  rw [List.length_drop]
  omega

theorem formRecord_sound (s : State) (id : Nat) (severity : Nat) (action : Nat) (injected : Bool) (address : Nat)
    (detail : List Word) (s_ok : Sound s) : Sound (formRecord s id severity action injected address detail).2 := by
  unfold formRecord; (repeat' (with_reducible (first
    | assumption | apply freeCycle_sound)))

theorem suppressRecord_sound (s : State) (w : Window) (r : FaultRec) (s_ok : Sound s) : Sound (suppressRecord s w r)
    := by
  unfold suppressRecord; (repeat' (with_reducible (first
    | assumption | (fail_if_no_progress (refine sound_upd ?_ rfl rfl rfl rfl rfl)))))

theorem openWindow_sound (s : State) (id : Nat) (s_ok : Sound s) : Sound (openWindow s id) := by
  unfold openWindow; (repeat' (with_reducible (first
    | assumption | (fail_if_no_progress (refine sound_upd ?_ rfl rfl rfl rfl rfl)))))

theorem noteDropped_sound (s : State) (die : Nat) (seq : BitVec 32) (s_ok : Sound s) : Sound (noteDropped s die seq)
    := by
  unfold noteDropped; (repeat' (with_reducible (first
    | assumption | apply fadd_sound | apply modCp_sound | (refine Sound.remembered ?_))))

theorem dropRecord_sound (s : State) (id : Nat) (sev : Nat) (s_ok : Sound s) : Sound (dropRecord s id sev) := by
  unfold dropRecord; dsimp only; (repeat' (with_reducible (first
    | assumption | apply countSource_sound | apply putRecord_sound | apply modDie_sound | apply formRecord_sound
    | apply openWindow_sound | apply noteDropped_sound | apply suppressRecord_sound | split)))

theorem dropEvent_sound (s : State) (die : Nat) (seq : BitVec 32) (s_ok : Sound s) : Sound (dropEvent s die seq) := by
  unfold dropEvent; dsimp only; (repeat' (with_reducible (first
    | assumption | apply countSource_sound | apply noteDropped_sound | apply dropRecord_sound | apply pulseErr_sound
    | split)))

theorem sendEvent_sound (s : State) (die : Nat) (ty : Nat) (body : List Byte) (s_ok : Sound s) : Sound (sendEvent s
    die ty body) := by
  unfold sendEvent; dsimp only; (repeat' (with_reducible (first
    | assumption | apply fadd_sound | apply modDie_sound | apply noteHigh_sound | apply pump_sound
    | apply dropEvent_sound | apply freeCycle_sound | split
    | (fail_if_no_progress (refine sound_upd ?_ rfl rfl rfl rfl rfl)))))

theorem sendEventW_sound (s : State) (die : Nat) (ty : Nat) (body : List Nat) (s_ok : Sound s) : Sound (sendEventW s
    die ty body) := by
  unfold sendEventW; (repeat' (with_reducible (first
    | assumption | apply sendEvent_sound)))

theorem reportLost_sound (s : State) (s_ok : Sound s) : Sound (reportLost s) := by
  unfold reportLost; (iterate 40 (all_goals (try (with_reducible (first
    | assumption | apply sendEventW_sound | apply modCp_sound | split | (dsimp only) | (intro _)
    | (fail_if_no_progress (refine sound_upd ?_ rfl rfl rfl rfl rfl)) | (refine snd_sound (by assumption) ?_)
    | (refine fst_sound (by assumption) ?_) | (refine trd_sound (by assumption) ?_) | (apply foldl_sound; intros)
    | (refine Sound.remembered ?_))))))

theorem sendBringup_sound (s : State) (phase : Nat) (st : Nat) (detail : Nat) (s_ok : Sound s) : Sound (sendBringup s
    phase st detail) := by
  unfold sendBringup; (repeat' (with_reducible (first
    | assumption | apply sendEventW_sound)))

theorem sendLink_sound (s : State) (p : Nat) (s_ok : Sound s) : Sound (sendLink s p) := by
  unfold sendLink; (repeat' (with_reducible (first
    | assumption | apply sendEventW_sound)))

theorem storeOverwritten_sound (s : State) (s_ok : Sound s) : Sound (storeOverwritten s) := by
  unfold storeOverwritten; dsimp only; (repeat' (with_reducible (first
    | assumption | apply countSource_sound | apply putRecord_sound | apply formRecord_sound | apply sendEvent_sound
    | apply openWindow_sound | apply suppressRecord_sound | apply pulseErr_sound | split)))

theorem keepRecord_sound (s : State) (r : FaultRec) (s_ok : Sound s) : Sound (keepRecord s r) := by
  unfold keepRecord; dsimp only; (repeat' (with_reducible (first
    | assumption | apply putRecord_sound | apply sendEvent_sound | apply storeOverwritten_sound | split)))

theorem storeRecord_sound (s : State) (r : FaultRec) (s_ok : Sound s) : Sound (storeRecord s r) := by
  unfold storeRecord; (repeat' (with_reducible (first
    | assumption | apply openWindow_sound | apply keepRecord_sound | apply suppressRecord_sound | split)))

theorem record_sound (s : State) (id : Nat) (severity : Nat) (action : Nat) (injected : Bool) (address : Nat) (detail
    : List Word) (s_ok : Sound s) : Sound (record s id severity action injected address detail) := by
  unfold record; (repeat' (with_reducible (first
    | assumption | apply formRecord_sound | apply storeRecord_sound)))

theorem noteRecord_sound (s : State) (id : Nat) (severity : Nat) (action : Nat) (injected : Bool) (address : Nat)
    (detail : List Word) (s_ok : Sound s) : Sound (noteRecord s id severity action injected address detail) := by
  unfold noteRecord; (repeat' (with_reducible (first
    | assumption | apply formRecord_sound | (fail_if_no_progress (refine sound_upd ?_ rfl rfl rfl rfl rfl)))))

theorem storeRaised_sound (s : State) (s_ok : Sound s) : Sound (storeRaised s) := by
  unfold storeRaised; (repeat' (with_reducible (first
    | assumption | apply storeRecord_sound | (apply foldl_sound; intros))))

theorem oneCycle_sound (f : State → State) (s : State) (f_ok : ∀ s1, Sound s1 → Sound (f s1)) (s_ok : Sound s) : Sound
    (oneCycle f s) := by
  unfold oneCycle; (repeat' (with_reducible (first
    | assumption | apply storeRaised_sound | (fail_if_no_progress (refine sound_upd ?_ rfl rfl rfl rfl rfl))
    | apply f_ok)))

theorem takeInjection_sound (s : State) (id : Nat) (s_ok : Sound s) : Sound (takeInjection s id).2 := by
  unfold takeInjection; dsimp only; (repeat' (with_reducible (first
    | assumption | apply fset_sound | split)))

theorem enqueueFrom_sound (s : State) (die : Nat) (f : Fields) (s_ok : Sound s) : Sound (enqueueFrom s die f) := by
  unfold enqueueFrom; (repeat' (with_reducible (first
    | assumption | apply newUid_sound | apply setReady_sound)))

theorem countDiscard_sound (s : State) (port : Nat) (reason : Nat) (raw : Header) (s_ok : Sound s) : Sound
    (countDiscard s port reason raw) := by
  unfold countDiscard; dsimp only; (repeat' (with_reducible (first
    | assumption | apply fadd_sound | apply rset_sound | split | (apply foldl_sound; intros))))

end Sys2Proof.Machine
end

