-- ==== Sys2Proof/Laws/SoundLost.lean ====
section
/-! SUPPORT. What keeps a state sound: packets lost, links that end, aborts, containment, faults and failover. -/

namespace Sys2Proof.Machine

theorem dropWork_sound (hanks : List Nat) (sp : Spindle) (sp_ok : sp.canonical) : (dropWork hanks sp).canonical := by
  exact canonical_upd sp_ok

theorem staleHank_sound (s : State) (hank : Nat) (s_ok : Sound s) : Sound (staleHank s hank) := by
  unfold staleHank; (repeat' (with_reducible (first
    | assumption | apply modHank_sound)))

theorem sendAbort_sound (s : State) (die : Nat) (f : Fields) (s_ok : Sound s) : Sound (sendAbort s die f) := by
  unfold sendAbort; (repeat' (with_reducible (first
    | assumption | apply staleHank_sound | apply enqueueFrom_sound | split)))

theorem abortJob_sound (s : State) (job : Nat) (which : List Hank) (up : Bool) (hank : Nat) (aux : Nat) (step : Nat)
    (reason : Nat) (origin : Nat) (s_ok : Sound s) : Sound (abortJob s job which up hank aux step reason origin) := by
  unfold abortJob; (iterate 40 (all_goals (try (with_reducible (first
    | assumption | apply dropWork_sound | apply sendEventW_sound | apply sendAbort_sound | apply setJob_sound | split
    | (dsimp only) | (intro _) | (fail_if_no_progress (refine sound_upd ?_ rfl rfl rfl rfl rfl))
    | (refine snd_sound (by assumption) ?_) | (refine fst_sound (by assumption) ?_)
    | (refine trd_sound (by assumption) ?_) | (apply foldl_sound; intros) | (refine Sound.remembered ?_)
    | (refine Sound.erg ?_) | (refine getSp_sound ?_ _) | (refine Sound.module ?_) | (refine legal_upd ?_)
    | (refine Sound.stores ?_)
    | ((fail_if_success (refine sound_upd ?_ rfl rfl rfl rfl rfl)); (refine sound_updSp ?_ ?_ rfl rfl rfl rfl))
    | (refine storesCanonical_all ?_ ?_))))))

theorem poison_sound (s : State) (hank : Nat) (attempt : Nat) (aux : Nat) (step : Nat) (reason : Nat) (origin : Nat)
    (up : Bool) (s_ok : Sound s) : Sound (poison s hank attempt aux step reason origin up) := by
  unfold poison; dsimp only; (repeat' (with_reducible (first
    | assumption | apply staleHank_sound | apply abortJob_sound | split)))

theorem foundPoison_sound (s : State) (hank : Nat) (aux : Nat) (step : Nat) (reason : Nat) (s_ok : Sound s) : Sound
    (foundPoison s hank aux step reason) := by
  unfold foundPoison; (repeat' (with_reducible (first
    | assumption | apply poison_sound | split)))

theorem poisonRound_sound (s : State) (hank : Nat) (reason : Nat) (s_ok : Sound s) : Sound (poisonRound s hank reason)
    := by
  unfold poisonRound; (repeat' (with_reducible (first
    | assumption | apply foundPoison_sound | split)))

theorem lostHeader_sound (s : State) (hh : Header) (s_ok : Sound s) : Sound (lostHeader s hh) := by
  unfold lostHeader; dsimp only; (repeat' (with_reducible (first
    | assumption | apply poison_sound | split)))

theorem lostAll_sound (s : State) (a : List Pkt) (s_ok : Sound s) : Sound (lostAll s a) := by
  fun_induction lostAll s a <;> (repeat' (with_reducible (first
    | assumption | apply lostHeader_sound | split | (dsimp only) | (intro _) | (apply_assumption -exfalso -symm))))

theorem sendFrom_sound (s : State) (die : Nat) (f : Fields) (s_ok : Sound s) : Sound (sendFrom s die f) := by
  unfold sendFrom; (repeat' (with_reducible (first
    | assumption | apply lostHeader_sound | apply enqueueFrom_sound | split)))

theorem discardAt_sound (s : State) (port : Nat) (reason : Nat) (hdr : Header) (raw : Header) (s_ok : Sound s) : Sound
    (discardAt s port reason hdr raw) := by
  unfold discardAt; (repeat' (with_reducible (first
    | assumption | apply lostHeader_sound | apply countDiscard_sound | split)))

theorem stompAt_sound (s : State) (p : Pkt) (s_ok : Sound s) : Sound (stompAt s p) := by
  unfold stompAt; (repeat' (with_reducible (first
    | assumption | apply lostHeader_sound | apply discardAt_sound | split)))

theorem noteFree_sound (s : State) (pl : Nat) (s_ok : Sound s) : Sound (noteFree s pl) := by
  unfold noteFree; dsimp only; (repeat' (with_reducible (first
    | assumption | apply fset_sound | split)))

theorem everyPkt_sound (s : State) (f : Pkt → Pkt) (s_ok : Sound s) : Sound (everyPkt s f) := by
  unfold everyPkt; (repeat' (with_reducible (first
    | assumption | (fail_if_no_progress (refine sound_upd ?_ rfl rfl rfl rfl rfl)))))

theorem markPkt_sound (s : State) (uid : Nat) (f : Pkt → Pkt) (s_ok : Sound s) : Sound (markPkt s uid f) := by
  unfold markPkt; (repeat' (with_reducible (first
    | assumption | apply everyPkt_sound)))

theorem closeThose_sound (s : State) (gone : Nat → Caravan → Bool) (s_ok : Sound s) : Sound (closeThose s gone) := by
  unfold closeThose; (repeat' (with_reducible (first
    | assumption | apply everyPkt_sound | (fail_if_no_progress (refine sound_upd ?_ rfl rfl rfl rfl rfl)))))

theorem closeCaravans_sound (s : State) (p : Nat) (s_ok : Sound s) : Sound (closeCaravans s p) := by
  unfold closeCaravans; (repeat' (with_reducible (first
    | assumption | apply closeThose_sound)))

theorem drainSamples_sound (s : State) (die : Nat) (s_ok : Sound s) : Sound (drainSamples s die) := by
  unfold drainSamples; (repeat' (with_reducible (first
    | assumption | apply modPortDie_sound | apply sendEvent_sound | apply freeBelow_sound | split
    | (apply foldl_sound; intros))))

theorem queueSample_sound (s : State) (p : Nat) (d : Nat) (record : List Byte) (s_ok : Sound s) : Sound (queueSample s
    p d record) := by
  unfold queueSample; (repeat' (with_reducible (first
    | assumption | apply modPortDie_sound | apply padd_sound | split)))

theorem countSample_sound (s : State) (p : Nat) (d : Nat) (s_ok : Sound s) : Sound (countSample s p d) := by
  unfold countSample; (repeat' (with_reducible (first
    | assumption | apply pset_sound)))

theorem takeSample_sound (s : State) (p : Nat) (d : Nat) (bad : Bool) (reason : Option Nat) (vc : Nat) (flits : Nat)
    (bytes : List Byte) (s_ok : Sound s) : Sound (takeSample s p d bad reason vc flits bytes) := by
  unfold takeSample; (repeat' (with_reducible (first
    | assumption | apply queueSample_sound | apply countSample_sound | apply drainSamples_sound
    | apply freeCycle_sound)))

theorem frameGone_sound (s : State) (p : Nat) (t : TxFrame) (s_ok : Sound s) : Sound (frameGone s p t) := by
  unfold frameGone; dsimp only; (repeat' (with_reducible (first
    | assumption | apply takeSample_sound | apply discardAt_sound | apply emit_sound | split)))

theorem finishCopies_sound (s : State) (uid : Nat) (s_ok : Sound s) : Sound (finishCopies s uid) := by
  unfold finishCopies; (repeat' (with_reducible (first
    | assumption | apply modPort_sound | apply frameGone_sound | (apply foldl_sound; intros))))

theorem packetWhole_sound (s : State) (uid : Nat) (f : Pkt → Pkt) (s_ok : Sound s) : Sound (packetWhole s uid f) := by
  unfold packetWhole; (repeat' (with_reducible (first
    | assumption | apply markPkt_sound | apply finishCopies_sound)))

theorem dropRaising_sound (raise : State → Nat → State) (s : State) (p : Nat) (reason : Nat) (hdr : Header) (raw :
    Header) (raise_ok : ∀ s1 n1, Sound s1 → Sound (raise s1 n1)) (s_ok : Sound s) : Sound (dropRaising raise s p reason
    hdr raw) := by
  unfold dropRaising; (repeat' (with_reducible (first
    | assumption | apply discardAt_sound | split | apply raise_ok)))

theorem countFrame_sound (raise : State → Nat → State) (s : State) (p : Nat) (f : RxFrame) (raise_ok : ∀ s1 n1, Sound
    s1 → Sound (raise s1 n1)) (s_ok : Sound s) : Sound (countFrame raise s p f) := by
  unfold countFrame; (repeat' (with_reducible (first
    | assumption | apply padd_sound | apply dropRaising_sound | split | apply raise_ok)))

theorem cutReception_sound (raise : State → Nat → State) (s : State) (p : Nat) (raise_ok : ∀ s1 n1, Sound s1 → Sound
    (raise s1 n1)) (s_ok : Sound s) : Sound (cutReception raise s p) := by
  unfold cutReception; dsimp only; (repeat' (with_reducible (first
    | assumption | apply packetWhole_sound | apply countFrame_sound | apply padd_sound | split | apply raise_ok)))

theorem clearRecal_sound (s : State) (p : Nat) (s_ok : Sound s) : Sound (clearRecal s p) := by
  unfold clearRecal; (repeat' (with_reducible (first
    | assumption | apply modPort_sound | apply fset_sound | split)))

theorem leavePort_sound (raise : State → Nat → State) (s : State) (p : Nat) (raise_ok : ∀ s1 n1, Sound s1 → Sound
    (raise s1 n1)) (s_ok : Sound s) : Sound (leavePort raise s p) := by
  unfold leavePort; (repeat' (with_reducible (first
    | assumption | apply clearRecal_sound | apply countSample_sound | apply lostAll_sound | apply cutReception_sound
    | apply padd_sound | apply closeCaravans_sound | apply setPort_sound | split | (dsimp only) | (intro _)
    | (fail_if_no_progress (refine sound_upd ?_ rfl rfl rfl rfl rfl)) | (apply foldl_sound; intros)
    | apply raise_ok)))

theorem setLink_sound (s : State) (p : Nat) (st : Nat) (s_ok : Sound s) : Sound (setLink s p st) := by
  unfold setLink; (repeat' (with_reducible (first
    | assumption | apply sendLink_sound | apply pset_sound | split)))

theorem linkEnds_sound (raise : State → Nat → State) (s : State) (p : Nat) (st : Nat) (raise_ok : ∀ s1 n1, Sound s1 →
    Sound (raise s1 n1)) (s_ok : Sound s) : Sound (linkEnds raise s p st) := by
  unfold linkEnds; (repeat' (with_reducible (first
    | assumption | apply leavePort_sound | apply setLink_sound | apply setPort_sound | split)))

theorem retrain_sound (raise : State → Nat → State) (s : State) (p : Nat) (cause : Nat) (raise_ok : ∀ s1 n1, Sound s1
    → Sound (raise s1 n1)) (s_ok : Sound s) : Sound (retrain raise s p cause) := by
  unfold retrain; (repeat' (with_reducible (first
    | assumption | apply modPort_sound | apply pset_sound | apply linkEnds_sound | split)))

theorem linkLost_sound (raise : State → Nat → State) (s : State) (p : Nat) (cause : Nat) (raise_ok : ∀ s1 n1, Sound s1
    → Sound (raise s1 n1)) (s_ok : Sound s) : Sound (linkLost raise s p cause) := by
  unfold linkLost; (repeat' (with_reducible (first
    | assumption | apply retrain_sound | apply raise_ok)))

theorem sendWord_sound (s : State) (p : Nat) (n : Nat) (s_ok : Sound s) : Sound (sendWord s p n) := by
  unfold sendWord; (repeat' (with_reducible (first
    | assumption | apply emit_sound)))

theorem onOneLane_sound (s : State) (p : Nat) (l : Nat) (s_ok : Sound s) : Sound (onOneLane s p l) := by
  unfold onOneLane; (repeat' (with_reducible (first
    | assumption | apply pset_sound | apply padd_sound)))

theorem dropLane_sound (raise : State → Nat → State) (s : State) (p : Nat) (l : Nat) (raise_ok : ∀ s1 n1, Sound s1 →
    Sound (raise s1 n1)) (s_ok : Sound s) : Sound (dropLane raise s p l) := by
  unfold dropLane; (repeat' (with_reducible (first
    | assumption | apply modPort_sound | apply onOneLane_sound | apply sendWord_sound | apply linkLost_sound | split
    | apply raise_ok)))

theorem cutCrossing_sound (s : State) (uid : Nat) (s_ok : Sound s) : Sound (cutCrossing s uid) := by
  unfold cutCrossing; (repeat' (with_reducible (first
    | assumption | apply packetWhole_sound | (fail_if_no_progress (refine sound_upd ?_ rfl rfl rfl rfl rfl)))))

theorem discardPlane_sound (s : State) (pl : Nat) (s_ok : Sound s) : Sound (discardPlane s pl) := by
  unfold discardPlane; (repeat' (with_reducible (first
    | assumption | apply fadd_sound | apply lostAll_sound | apply cutCrossing_sound | apply modPlane_sound
    | (apply foldl_sound; intros))))

theorem resetDie_sound (s : State) (die : Nat) (s_ok : Sound s) : Sound (resetDie s die) := by
  unfold resetDie; (iterate 40 (all_goals (try (with_reducible (first
    | assumption | apply modSec_sound | apply modDie_sound | apply modErg_sound | split | (dsimp only) | (intro _)
    | (fail_if_no_progress (refine sound_upd ?_ rfl rfl rfl rfl rfl)) | (refine snd_sound (by assumption) ?_)
    | (refine fst_sound (by assumption) ?_) | (refine trd_sound (by assumption) ?_) | (apply foldl_sound; intros)
    | (refine Sound.remembered ?_) | (refine Sound.erg ?_) | (refine getSp_sound ?_ _) | (refine Sound.module ?_)
    | (refine legal_upd ?_) | (refine Sound.stores ?_)
    | ((fail_if_success (refine sound_upd ?_ rfl rfl rfl rfl rfl)); (refine sound_updSp ?_ ?_ rfl rfl rfl rfl))
    | (refine storesCanonical_all ?_ ?_) | (refine storesCanonical_filter ?_ _) | (refine id_sound ?_)
    | (refine Sound.staging ?_) | (refine Sound.records ?_))))))

theorem loseErg_sound (s : State) (s_ok : Sound s) : Sound (loseErg s) := by
  exact ⟨s_ok.module, rfl, rfl, s_ok.stores, s_ok.records, s_ok.remembered⟩

theorem loseWork_sound (s : State) (s_ok : Sound s) : Sound (loseWork s) := by
  unfold loseWork; (repeat' (with_reducible (first
    | assumption | (fail_if_no_progress (refine sound_upd ?_ rfl rfl rfl rfl rfl)))))

theorem unpowerData_sound (s : State) (s_ok : Sound s) : Sound (unpowerData s) := by
  unfold unpowerData; (repeat' (with_reducible (first
    | assumption | apply modDie_sound | apply loseWork_sound | apply resetDie_sound | apply loseErg_sound
    | (apply foldl_sound; intros))))

theorem releaseHolds_sound (s : State) (s_ok : Sound s) : Sound (releaseHolds s) := by
  unfold releaseHolds; (iterate 40 (all_goals (try (with_reducible (first
    | assumption | split | (dsimp only) | (intro _) | (fail_if_no_progress (refine sound_upd ?_ rfl rfl rfl rfl rfl))
    | (refine snd_sound (by assumption) ?_) | (refine fst_sound (by assumption) ?_)
    | (refine trd_sound (by assumption) ?_) | (refine Sound.remembered ?_) | (refine Sound.erg ?_)
    | (refine getSp_sound ?_ _) | (refine Sound.module ?_) | (refine legal_upd ?_) | (refine Sound.stores ?_)
    | ((fail_if_success (refine sound_upd ?_ rfl rfl rfl rfl rfl)); (refine sound_updSp ?_ ?_ rfl rfl rfl rfl))
    | (refine storesCanonical_all ?_ ?_) | apply canonical_all)))))

theorem endSession_sound (raise : Raise) (s : State) (raise_ok : ∀ s1 n1, Sound s1 → Sound (raise s1 n1)) (s_ok :
    Sound s) : Sound (endSession raise s) := by
  unfold endSession
  split
  · exact s_ok
  · dsimp only
    refine raise_ok _ _ ?_
    have h1 := releaseHolds_sound _ (modSec_sound s (fun c => { c with session := none }) s_ok)
    split
    · have h2 := unpowerData_sound _ h1
      exact modModule_sound h2 ⟨h2.module.1, by show 1 ≤ 4; decide, h2.module.2.2.1, h2.module.2.2.2⟩
    · exact h1

theorem narrowSession_sound (raise : Raise) (s : State) (die : Nat) (raise_ok : ∀ s1 n1, Sound s1 → Sound (raise s1
    n1)) (s_ok : Sound s) : Sound (narrowSession raise s die) := by
  unfold narrowSession; dsimp only; (repeat' (with_reducible (first
    | assumption | apply modSec_sound | apply endSession_sound | split)))

theorem poisonHanks_sound (s : State) (hs : List Hank) (s_ok : Sound s) : Sound (poisonHanks s hs) := by
  unfold poisonHanks; (repeat' (with_reducible (first
    | assumption | apply poison_sound | (apply foldl_sound; intros))))

theorem stopEngines_sound (sp : Spindle) (sp_ok : sp.canonical) : (stopEngines sp).canonical := by
  exact canonical_all sp_ok

theorem containSpindle_sound (s : State) (key : Nat) (s_ok : Sound s) : Sound (containSpindle s key) := by
  unfold containSpindle; dsimp only; (repeat' (with_reducible (first
    | assumption | apply modSp_sound | apply setUnit_sound | apply poisonHanks_sound | apply stopEngines_sound | split)))

theorem containPort_sound (raise : Raise) (s : State) (p : Nat) (raise_ok : ∀ s1 n1, Sound s1 → Sound (raise s1 n1))
    (s_ok : Sound s) : Sound (containPort raise s p) := by
  unfold containPort; (repeat' (with_reducible (first
    | assumption | apply setUnit_sound | apply linkEnds_sound)))

theorem containLane_sound (raise : Raise) (s : State) (die : Nat) (lane : Nat) (raise_ok : ∀ s1 n1, Sound s1 → Sound
    (raise s1 n1)) (s_ok : Sound s) : Sound (containLane raise s die lane) := by
  unfold containLane; (repeat' (with_reducible (first
    | assumption | apply dropLane_sound | apply setUnit_sound)))

theorem containDevice_sound (s : State) (die : Nat) (cls : Nat) (k : Nat) (s_ok : Sound s) : Sound (containDevice s
    die cls k) := by
  unfold containDevice; (repeat' (with_reducible (first
    | assumption | apply setUnit_sound | split | (apply foldl_sound; intros))))

theorem containDie_sound (raise : Raise) (s : State) (die : Nat) (raise_ok : ∀ s1 n1, Sound s1 → Sound (raise s1 n1))
    (s_ok : Sound s) : Sound (containDie raise s die) := by
  unfold containDie
  dsimp only
  refine narrowSession_sound _ _ _ raise_ok ?_
  have key : ∀ t : State, Sound t → Sound (if die = 61 - t.module.activeKd then modModule t (fun m => { m with standby := 0 }) else t) := by
    intro t h; split
    · exact setStandby_sound h (by decide)
    · exact h
  refine key _ ?_
  split
  · refine setReady_sound _ _ _ (modDie_sound _ _ _ ?_)
    split
    · exact foldl_sound (fun s p h => linkEnds_sound _ _ _ _ raise_ok h) _ s_ok
    · exact discardPlane_sound _ _ s_ok
    · exact s_ok
  · refine poisonHanks_sound _ _ (foldl_sound (fun s k h => modSp_sound h _ (fun _ => stopEngines_sound _)) _ (modDie_sound _ _ _ ?_))
    split
    · exact foldl_sound (fun s p h => linkEnds_sound _ _ _ _ raise_ok h) _ s_ok
    · exact discardPlane_sound _ _ s_ok
    · exact s_ok
  · refine modDie_sound _ _ _ ?_
    split
    · exact foldl_sound (fun s p h => linkEnds_sound _ _ _ _ raise_ok h) _ s_ok
    · exact discardPlane_sound _ _ s_ok
    · exact s_ok

theorem containUnit_sound (raise : Raise) (s : State) (die : Nat) (cls : Nat) (inst : Nat) (raise_ok : ∀ s1 n1, Sound
    s1 → Sound (raise s1 n1)) (s_ok : Sound s) : Sound (containUnit raise s die cls inst) := by
  unfold containUnit; (repeat' (with_reducible (first
    | assumption | apply containLane_sound | apply containDevice_sound | apply containPort_sound
    | apply containSpindle_sound | apply setUnit_sound | apply containDie_sound | split | apply raise_ok)))

theorem stopModule_sound (raise : Raise) (s : State) (id : Nat) (raise_ok : ∀ s1 n1, Sound s1 → Sound (raise s1 n1))
    (s_ok : Sound s) : Sound (stopModule raise s id).1 := by
  unfold stopModule; (iterate 40 (all_goals (try (with_reducible (first
    | assumption | apply modModule_sound | apply containDie_sound | split | (dsimp only) | (intro _)
    | (fail_if_no_progress (refine sound_upd ?_ rfl rfl rfl rfl rfl)) | (refine snd_sound (by assumption) ?_)
    | (refine fst_sound (by assumption) ?_) | (refine trd_sound (by assumption) ?_) | (apply foldl_sound; intros)
    | (refine Sound.remembered ?_) | (refine Sound.erg ?_) | (refine getSp_sound ?_ _) | (refine Sound.module ?_)
    | (refine legal_upd ?_))))))

theorem containFor_sound (raise : Raise) (s : State) (id : Nat) (sev : Nat) (raise_ok : ∀ s1 n1, Sound s1 → Sound
    (raise s1 n1)) (s_ok : Sound s) : Sound (containFor raise s id sev).1 := by
  unfold containFor; dsimp only; (repeat' (with_reducible (first
    | assumption | apply stopModule_sound | apply containDie_sound | apply containUnit_sound | split)))

theorem cpRestart_sound (s : State) (s_ok : Sound s) : Sound (cpRestart s) := by
  unfold cpRestart; (repeat' (with_reducible (first
    | assumption | apply fadd_sound | apply modCp_sound | (refine Sound.remembered ?_))))

theorem newNonce_sound (s : State) (s_ok : Sound s) : Sound (newNonce s) := by
  unfold newNonce; (repeat' (with_reducible (first
    | assumption | apply takeNoise_sound | apply modSec_sound)))

theorem answerLost_sound (s : State) (s_ok : Sound s) : Sound (answerLost s) := by
  unfold answerLost; (iterate 40 (all_goals (try (with_reducible (first
    | assumption | apply answer_sound | apply modCp_sound | split | (dsimp only) | (intro _)
    | (fail_if_no_progress (refine sound_upd ?_ rfl rfl rfl rfl rfl)) | (refine snd_sound (by assumption) ?_)
    | (refine fst_sound (by assumption) ?_) | (refine trd_sound (by assumption) ?_) | (apply foldl_sound; intros)
    | (refine Sound.remembered ?_))))))

theorem failover_sound (raise : Raise) (s : State) (raise_ok : ∀ s1 n1, Sound s1 → Sound (raise s1 n1)) (s_ok : Sound
    s) : Sound (failover raise s) := by
  unfold failover
  dsimp only
  refine sendEventW_sound _ _ _ _ (pulseErr_sound _ (noteRecord_sound _ _ _ _ _ _ _ (countSource_sound _ _
    (answerLost_sound _ (endSession_sound _ _ raise_ok (modSec_sound _ _ (newNonce_sound _ (modDie_sound _ _ _
      (modDie_sound _ _ _ ?_)))))))))
  have h := cpRestart_sound _ s_ok
  refine sound_upd (modModule_sound h ⟨?_, h.module.2.1, h.module.2.2.1, ?_⟩) rfl rfl rfl rfl rfl
  · rcases s_ok.module.1 with e | e <;> simp [e]
  · show 1 ≤ 2; decide

theorem raiseN_sound (a : Nat) (a1 : State) (a2 : Nat) (a3 : Bool) (a4 : List Word) (a1_ok : Sound a1) : Sound (raiseN
    a a1 a2 a3 a4) := by
  fun_induction raiseN a a1 a2 a3 a4 <;> (repeat' (with_reducible (first
    | assumption | apply countSource_sound | (refine fst_sound (by assumption) (stopModule_sound _ _ _ ?_ ?_))
    | (refine fst_sound (by assumption) (containFor_sound _ _ _ _ ?_ ?_)) | apply stopModule_sound | apply containFor_sound
    | apply failover_sound | apply noteRecord_sound
    | apply pulseErr_sound | split | (dsimp only) | (intro _)
    | (refine fst_sound (by assumption) ?_))))

/-- Raising keeps soundness, as the hypothesis on `raise` of the lemmas above has it. -/
theorem raiseWith_sound : ∀ s n, Sound s → Sound (raiseWith s n) := fun s n h => raiseN_sound 4 s n false [] h

theorem raiseDetail_sound (s : State) (id : Nat) (detail : List Word) (s_ok : Sound s) : Sound (raiseDetail s id
    detail) := by
  unfold raiseDetail; (repeat' (with_reducible (first
    | assumption | apply raiseN_sound | apply oneCycle_sound | (dsimp only) | (intro _))))

theorem raiseFault_sound (s : State) (id : Nat) (s_ok : Sound s) : Sound (raiseFault s id) := by
  unfold raiseFault; (repeat' (with_reducible (first
    | assumption | apply raiseDetail_sound)))

theorem raisePort_sound (s : State) (p : Nat) (kind : Nat) (s_ok : Sound s) : Sound (raisePort s p kind) := by
  unfold raisePort; (repeat' (with_reducible (first
    | assumption | apply raiseFault_sound)))

theorem injected_sound (s : State) (id : Nat) (detail : List Word) (s_ok : Sound s) : Sound (injected s id detail).2
    := by
  unfold injected; (repeat' (with_reducible (first
    | assumption | apply raiseN_sound | apply takeInjection_sound | apply oneCycle_sound | split | (dsimp only)
    | (intro _) | (refine snd_sound (by assumption) ?_) | (refine fst_sound (by assumption) ?_)
    | (refine trd_sound (by assumption) ?_))))

end Sys2Proof.Machine
end

