-- ==== Sys2Proof/Laws/SoundErg.lean ====
section
/-! SUPPORT. What keeps a state sound: the Erg memory: requests, pools, replication and counters. -/

namespace Sys2Proof.Machine

theorem ergPut_sound (s : State) (a : Nat) (d : List Byte) (s_ok : Sound s) : Sound (ergPut s a d) := by
  unfold ergPut; (repeat' (with_reducible (first
    | assumption | apply ergWrite_sound | apply modErg_sound | (refine Sound.erg ?_))))

theorem markBad_sound (s : State) (b : Nat) (s_ok : Sound s) : Sound (markBad s b) := by
  unfold markBad; (repeat' (with_reducible (first
    | assumption | apply fadd_sound | apply modErg_sound | apply rset_sound | split | (dsimp only) | (intro _)
    | (refine Sound.erg ?_))))

theorem eccCheck_sound (s : State) (a : Nat) (s_ok : Sound s) : Sound (eccCheck s a) := by
  unfold eccCheck; (repeat' (with_reducible (first
    | assumption | apply raiseN_sound | apply fadd_sound | apply takeInjection_sound | apply injected_sound
    | apply oneCycle_sound | apply markBad_sound | split | (dsimp only) | (intro _)
    | (refine snd_sound (by assumption) ?_) | (refine fst_sound (by assumption) ?_)
    | (refine trd_sound (by assumption) ?_))))

theorem eccChecks_sound (s : State) (a : Nat) (n : Nat) (s_ok : Sound s) : Sound (eccChecks s a n) := by
  unfold eccChecks; (repeat' (with_reducible (first
    | assumption | apply eccCheck_sound | (apply foldl_sound; intros))))

theorem ergStore_sound (s : State) (tier : Nat) (o : Nat) (d : List Byte) (s_ok : Sound s) : Sound (ergStore s tier o
    d) := by
  unfold ergStore
  generalize pieces o d.length = l
  have : ∀ (l : List (Nat × Nat)) (x : State × List Byte), Sound x.1 → Sound ((l.foldl (fun (x : State × List Byte) p =>
      (ergPut x.1 (ergAddr x.1 tier p.1) (x.2.take p.2), x.2.drop p.2)) x).1) := by
    intro l
    induction l with
    | nil => exact fun x h => h
    | cons p r ih => exact fun x h => ih _ (ergPut_sound _ _ _ h)
  exact this l _ s_ok

theorem countAnswer_sound (s : State) (die : Nat) (status : Nat) (s_ok : Sound s) : Sound (countAnswer s die status)
    := by
  unfold countAnswer; (repeat' (with_reducible (first
    | assumption | apply fadd_sound)))

theorem ergRespond_sound (s : State) (die : Nat) (hh : Header) (status : Nat) (result : Word) (s_ok : Sound s) : Sound
    (ergRespond s die hh status result) := by
  unfold ergRespond; (repeat' (with_reducible (first
    | assumption | apply countAnswer_sound | apply sendFrom_sound)))

theorem refuseFor_sound (s : State) (die : Nat) (hh : Header) (s_ok : Sound s) : Sound (refuseFor s die hh) := by
  unfold refuseFor; (repeat' (with_reducible (first
    | assumption | apply sendFrom_sound)))

theorem takeHead_sound (s : State) (die : Nat) (want : Header → Bool) (f : Pkt → State → State) (s_ok : Sound s) (f_ok
    : ∀ x1 s1, Sound s1 → Sound (f x1 s1)) : Sound (takeHead s die want f) := by
  unfold takeHead; (repeat' (with_reducible (first
    | assumption | apply setInbox_sound | apply stompAt_sound | split | apply f_ok)))

theorem takeRequest_sound (s : State) (die : Nat) (want : Header → Bool) (f : Header → List Byte → State → State)
    (s_ok : Sound s) (f_ok : ∀ x1 y1 s1, Sound s1 → Sound (f x1 y1 s1)) : Sound (takeRequest s die want f) := by
  unfold takeRequest; (repeat' (with_reducible (first
    | assumption | apply refuseFor_sound | apply takeHead_sound | split | (dsimp only) | (intro _) | apply f_ok)))

theorem atErg_sound (die : Nat) (s : State) (s_ok : Sound s) : ∀ t, (atErg die s) = .next t → Sound t := by
  intro t ht; unfold atErg at ht; split at ht <;> cases ht; (repeat' (with_reducible (first
    | assumption)))

theorem setRepl_sound (s : State) (die : Nat) (n : Nat) (r : Repl) (s_ok : Sound s) : Sound (setRepl s die n r) := by
  unfold setRepl; (repeat' (with_reducible (first
    | assumption | apply modErg_sound | (refine Sound.erg ?_))))

theorem sendKept_sound (s : State) (die : Nat) (p : Pkt) (s_ok : Sound s) : Sound (sendKept s die p) := by
  unfold sendKept; (repeat' (with_reducible (first
    | assumption | apply newUid_sound | apply setReady_sound | split)))

theorem settleWrite_sound (s : State) (die : Nat) (hh : Option Header) (result : Word) (counted : Option (Nat × Nat))
    (s_ok : Sound s) : Sound (settleWrite s die hh result counted) := by
  unfold settleWrite; (repeat' (with_reducible (first
    | assumption | apply ergRespond_sound | apply modErg_sound | split | (dsimp only) | (intro _)
    | (refine Sound.erg ?_))))

theorem forward_sound (s : State) (die : Nat) (n : Nat) (hh : Option Header) (f : Fields) (result : Word) (counted :
    Option (Nat × Nat)) (s_ok : Sound s) : Sound (forward s die n hh f result counted) := by
  unfold forward; (repeat' (with_reducible (first
    | assumption | apply ergRespond_sound | apply setRepl_sound | apply sendKept_sound | apply fset_sound | split)))

theorem applied_sound (s : State) (die : Nat) (w : Word) (hh : Option Header) (f : Fields) (result : Word) (counted :
    Option (Nat × Nat)) (s_ok : Sound s) : Sound (applied s die w hh f result counted) := by
  unfold applied; (repeat' (with_reducible (first
    | assumption | apply forward_sound | apply settleWrite_sound | split)))

theorem replResend_sound (s : State) (die : Nat) (n : Nat) (s_ok : Sound s) : Sound (replResend s die n) := by
  unfold replResend; dsimp only; (repeat' (with_reducible (first
    | assumption | apply ergRespond_sound | apply setRepl_sound | apply raiseDetail_sound | apply sendKept_sound
    | apply fset_sound | split | (apply foldl_sound; intros))))

theorem replAck_sound (s : State) (die : Nat) (n : Nat) (seq : BitVec 32) (status : Nat) (s_ok : Sound s) : Sound
    (replAck s die n seq status) := by
  unfold replAck; dsimp only; (repeat' (with_reducible (first
    | assumption | apply ergRespond_sound | apply setRepl_sound | apply fset_sound | apply replResend_sound
    | apply settleWrite_sound | split)))

theorem execReplTimeout_sound (die : Nat) (range : Nat) (s : State) (s_ok : Sound s) : ∀ t, (execReplTimeout die range
    s) = .next t → Sound t := by
  intro t ht; unfold execReplTimeout at ht; (try dsimp only at ht); (repeat' (split at ht)) <;> (first | (cases ht; done) | ((try cases ht); (repeat' (with_reducible (first
    | assumption | (refine atErg_sound _ _ ?_ _ (by assumption)) | apply replResend_sound)))))

theorem ergGet_sound (s : State) (die : Nat) (hh : Header) (s_ok : Sound s) : Sound (ergGet s die hh) := by
  unfold ergGet; dsimp only; (repeat' (with_reducible (first
    | assumption | apply countAnswer_sound | apply ergRespond_sound | apply sendFrom_sound | apply eccChecks_sound
    | split)))

theorem ergPutReq_sound (s : State) (die : Nat) (hh : Header) (d : List Byte) (s_ok : Sound s) : Sound (ergPutReq s
    die hh d) := by
  unfold ergPutReq; dsimp only; (repeat' (with_reducible (first
    | assumption | apply applied_sound | apply ergPut_sound | apply ergRespond_sound | split)))

theorem execGet_sound (die : Nat) (s : State) (s_ok : Sound s) : ∀ t, (execGet die s) = .next t → Sound t := by
  intro t ht; unfold execGet at ht; (repeat' (with_reducible (first
    | assumption | apply ergGet_sound | (refine atErg_sound _ _ ?_ _ (by assumption)) | apply takeRequest_sound
    | (dsimp only) | (intro _))))

theorem execPut_sound (die : Nat) (s : State) (s_ok : Sound s) : ∀ t, (execPut die s) = .next t → Sound t := by
  intro t ht; unfold execPut at ht; (repeat' (with_reducible (first
    | assumption | apply ergPutReq_sound | (refine atErg_sound _ _ ?_ _ (by assumption)) | apply takeRequest_sound
    | (dsimp only) | (intro _))))

theorem execBulkPut_sound (die : Nat) (s : State) (s_ok : Sound s) : ∀ t, (execBulkPut die s) = .next t → Sound t :=
    by
  intro t ht; unfold execBulkPut at ht; (repeat' (with_reducible (first
    | assumption | apply ergPutReq_sound | (refine atErg_sound _ _ ?_ _ (by assumption)) | apply takeRequest_sound
    | (dsimp only) | (intro _))))

theorem atomApply_sound (s : State) (hh : Header) (s_ok : Sound s) : Sound (atomApply s hh).2 := by
  unfold atomApply; (repeat' (with_reducible (first
    | assumption | apply ergPut_sound)))

theorem ergAtomic_sound (s : State) (die : Nat) (hh : Header) (s_ok : Sound s) : Sound (ergAtomic s die hh) := by
  unfold ergAtomic; dsimp only; (repeat' (with_reducible (first
    | assumption | apply applied_sound | apply atomApply_sound | apply ergRespond_sound | apply eccChecks_sound
    | split)))

theorem takeAtomic_sound (s : State) (die : Nat) (want : Nat → Bool) (f : Header → State → State) (s_ok : Sound s)
    (f_ok : ∀ x1 s1, Sound s1 → Sound (f x1 s1)) : Sound (takeAtomic s die want f) := by
  unfold takeAtomic; (repeat' (with_reducible (first
    | assumption | apply takeRequest_sound | (dsimp only) | (intro _) | apply f_ok)))

theorem execAddExact_sound (die : Nat) (s : State) (s_ok : Sound s) : ∀ t, (execAddExact die s) = .next t → Sound t :=
    by
  intro t ht; unfold execAddExact at ht; (repeat' (with_reducible (first
    | assumption | apply ergAtomic_sound | (refine atErg_sound _ _ ?_ _ (by assumption)) | apply takeAtomic_sound
    | (dsimp only) | (intro _))))

theorem execFetchAdd_sound (die : Nat) (s : State) (s_ok : Sound s) : ∀ t, (execFetchAdd die s) = .next t → Sound t :=
    by
  intro t ht; unfold execFetchAdd at ht; (repeat' (with_reducible (first
    | assumption | apply ergAtomic_sound | (refine atErg_sound _ _ ?_ _ (by assumption)) | apply takeAtomic_sound
    | (dsimp only) | (intro _))))

theorem execAtomMax_sound (die : Nat) (s : State) (s_ok : Sound s) : ∀ t, (execAtomMax die s) = .next t → Sound t :=
    by
  intro t ht; unfold execAtomMax at ht; (repeat' (with_reducible (first
    | assumption | apply ergAtomic_sound | (refine atErg_sound _ _ ?_ _ (by assumption)) | apply takeAtomic_sound
    | (dsimp only) | (intro _))))

theorem execAtomMin_sound (die : Nat) (s : State) (s_ok : Sound s) : ∀ t, (execAtomMin die s) = .next t → Sound t :=
    by
  intro t ht; unfold execAtomMin at ht; (repeat' (with_reducible (first
    | assumption | apply ergAtomic_sound | (refine atErg_sound _ _ ?_ _ (by assumption)) | apply takeAtomic_sound
    | (dsimp only) | (intro _))))

theorem execCas_sound (die : Nat) (s : State) (s_ok : Sound s) : ∀ t, (execCas die s) = .next t → Sound t := by
  intro t ht; unfold execCas at ht; (repeat' (with_reducible (first
    | assumption | apply ergAtomic_sound | (refine atErg_sound _ _ ?_ _ (by assumption)) | apply takeAtomic_sound
    | (dsimp only) | (intro _))))

theorem setPool_sound (s : State) (p : Nat) (u : SMap Unit) (s_ok : Sound s) : Sound (setPool s p u) := by
  unfold setPool; (repeat' (with_reducible (first
    | assumption | apply modErg_sound | (refine Sound.erg ?_))))

theorem noteLow_sound (s : State) (p : Nat) (s_ok : Sound s) : Sound (noteLow s p) := by
  unfold noteLow; (repeat' (with_reducible (first
    | assumption | apply fset_sound | split)))

theorem poolAlloc_sound (s : State) (p : Nat) (s_ok : Sound s) : Sound (poolAlloc s p).2.2 := by
  unfold poolAlloc; (repeat' (with_reducible (first
    | assumption | apply fadd_sound | apply noteLow_sound | apply setPool_sound | split)))

theorem poolRelease_sound (s : State) (p : Nat) (hh : Word) (src : Nat) (s_ok : Sound s) : Sound (poolRelease s p hh
    src).2 := by
  unfold poolRelease; dsimp only; (repeat' (with_reducible (first
    | assumption | apply fadd_sound | apply raiseDetail_sound | apply setPool_sound | split)))

theorem ergAlloc_sound (s : State) (die : Nat) (hh : Header) (s_ok : Sound s) : Sound (ergAlloc s die hh) := by
  unfold ergAlloc; dsimp only; (repeat' (with_reducible (first
    | assumption | apply ergRespond_sound | apply poolAlloc_sound | split)))

theorem ergFree_sound (s : State) (die : Nat) (hh : Header) (s_ok : Sound s) : Sound (ergFree s die hh) := by
  unfold ergFree; dsimp only; (repeat' (with_reducible (first
    | assumption | apply ergRespond_sound | apply poolRelease_sound | split)))

theorem execAlloc_sound (die : Nat) (s : State) (s_ok : Sound s) : ∀ t, (execAlloc die s) = .next t → Sound t := by
  intro t ht; unfold execAlloc at ht; (repeat' (with_reducible (first
    | assumption | apply ergAlloc_sound | (refine atErg_sound _ _ ?_ _ (by assumption)) | apply takeAtomic_sound
    | (dsimp only) | (intro _))))

theorem execFree_sound (die : Nat) (s : State) (s_ok : Sound s) : ∀ t, (execFree die s) = .next t → Sound t := by
  intro t ht; unfold execFree at ht; (repeat' (with_reducible (first
    | assumption | (refine atErg_sound _ _ ?_ _ (by assumption)) | apply takeAtomic_sound | apply ergFree_sound
    | (dsimp only) | (intro _))))

theorem ergForwarded_sound (s : State) (die : Nat) (hh : Header) (early : Nat) (n : Nat) (reads : Bool) (run : State →
    State) (s_ok : Sound s) (run_ok : ∀ s1, Sound s1 → Sound (run s1)) : Sound (ergForwarded s die hh early n reads run)
    := by
  unfold ergForwarded; dsimp only; (repeat' (with_reducible (first
    | assumption | apply ergRespond_sound | apply fset_sound | apply eccChecks_sound | split | apply run_ok)))

theorem execPutFwd_sound (die : Nat) (s : State) (s_ok : Sound s) : ∀ t, (execPutFwd die s) = .next t → Sound t := by
  intro t ht; unfold execPutFwd at ht; (repeat' (with_reducible (first
    | assumption | apply ergPut_sound | apply ergForwarded_sound | (refine atErg_sound _ _ ?_ _ (by assumption))
    | apply takeRequest_sound | (dsimp only) | (intro _))))

theorem execAtomicFwd_sound (die : Nat) (s : State) (s_ok : Sound s) : ∀ t, (execAtomicFwd die s) = .next t → Sound t
    := by
  intro t ht; unfold execAtomicFwd at ht; (repeat' (with_reducible (first
    | assumption | apply atomApply_sound | apply ergForwarded_sound | (refine atErg_sound _ _ ?_ _ (by assumption))
    | apply takeRequest_sound | (dsimp only) | (intro _))))

theorem setCounter_sound (s : State) (n : Nat) (c : Counter) (s_ok : Sound s) : Sound (setCounter s n c) := by
  unfold setCounter; (repeat' (with_reducible (first
    | assumption | apply modErg_sound | (refine Sound.erg ?_))))

theorem ergSignal_sound (s : State) (die : Nat) (hh : Header) (s_ok : Sound s) : Sound (ergSignal s die hh) := by
  unfold ergSignal; dsimp only; (repeat' (with_reducible (first
    | assumption | apply ergRespond_sound | apply setCounter_sound | split)))

theorem execSignal_sound (die : Nat) (s : State) (s_ok : Sound s) : ∀ t, (execSignal die s) = .next t → Sound t := by
  intro t ht; unfold execSignal at ht; (repeat' (with_reducible (first
    | assumption | (refine atErg_sound _ _ ?_ _ (by assumption)) | apply takeRequest_sound | apply ergSignal_sound
    | (dsimp only) | (intro _))))

theorem execBulkSignal_sound (die : Nat) (s : State) (s_ok : Sound s) : ∀ t, (execBulkSignal die s) = .next t → Sound
    t := by
  intro t ht; unfold execBulkSignal at ht; (repeat' (with_reducible (first
    | assumption | (refine atErg_sound _ _ ?_ _ (by assumption)) | apply takeRequest_sound | apply ergSignal_sound
    | (dsimp only) | (intro _))))

theorem sendRaise_sound (s : State) (die : Nat) (logical : Nat) (flag : Nat) (s_ok : Sound s) : Sound (sendRaise s die
    logical flag) := by
  unfold sendRaise; (repeat' (with_reducible (first
    | assumption | split | (fail_if_no_progress (refine sound_upd ?_ rfl rfl rfl rfl rfl)))))

theorem fireCounter_sound (s : State) (n : Nat) (status : Nat) (s_ok : Sound s) : Sound (fireCounter s n status) := by
  unfold fireCounter; dsimp only; (repeat' (with_reducible (first
    | assumption | apply countAnswer_sound | apply sendRaise_sound | apply setCounter_sound | apply sendFrom_sound
    | split)))

theorem checkCounter_sound (s : State) (n : Nat) (s_ok : Sound s) : Sound (checkCounter s n) := by
  unfold checkCounter; dsimp only; (repeat' (with_reducible (first
    | assumption | apply fireCounter_sound | split)))

theorem atCounter_sound (n : Nat) (s : State) (s_ok : Sound s) : ∀ t, (atCounter n s) = .next t → Sound t := by
  intro t ht; unfold atCounter at ht; split at ht <;> cases ht; (repeat' (with_reducible (first
    | assumption)))

theorem execFire_sound (counter : Nat) (s : State) (s_ok : Sound s) : ∀ t, (execFire counter s) = .next t → Sound t :=
    by
  intro t ht; unfold execFire at ht; (repeat' (with_reducible (first
    | assumption | (refine atCounter_sound _ _ ?_ _ (by assumption)) | apply checkCounter_sound)))

theorem expireCounter_sound (s : State) (n : Nat) (s_ok : Sound s) : Sound (expireCounter s n) := by
  unfold expireCounter; dsimp only; (repeat' (with_reducible (first
    | assumption | apply fireCounter_sound | apply checkCounter_sound | split)))

theorem execSignalTimeout_sound (counter : Nat) (s : State) (s_ok : Sound s) : ∀ t, (execSignalTimeout counter s) =
    .next t → Sound t := by
  intro t ht; unfold execSignalTimeout at ht; (repeat' (with_reducible (first
    | assumption | (refine atCounter_sound _ _ ?_ _ (by assumption)) | apply expireCounter_sound)))

theorem countBytes_sound (s : State) (n : Nat) (bytes : Nat) (s_ok : Sound s) : Sound (countBytes s n bytes) := by
  unfold countBytes; dsimp only; (repeat' (with_reducible (first
    | assumption | apply setCounter_sound | split)))

theorem deliverCount_sound (s : State) (n : Nat) (s_ok : Sound s) : Sound (deliverCount s n) := by
  unfold deliverCount; (repeat' (with_reducible (first
    | assumption | apply countBytes_sound | apply ergRespond_sound | apply modErg_sound | split | (dsimp only)
    | (intro _) | (refine Sound.erg ?_))))

theorem execCountedWrite_sound (counter : Nat) (s : State) (s_ok : Sound s) : ∀ t, (execCountedWrite counter s) =
    .next t → Sound t := by
  intro t ht; unfold execCountedWrite at ht; (repeat' (with_reducible (first
    | assumption | apply deliverCount_sound | (refine atCounter_sound _ _ ?_ _ (by assumption)))))

end Sys2Proof.Machine
end

