-- ==== Sys2Proof/Laws/SoundHank.lean ====
section
/-! SUPPORT. What keeps a state sound: the hanks. -/

namespace Sys2Proof.Machine

theorem addWork_sound (s : State) (key : Nat) (w : Work) (s_ok : Sound s) : Sound (addWork s key w) := by
  unfold addWork; (repeat' (with_reducible (first
    | assumption | apply modSp_sound | apply canonical_upd | (dsimp only) | (intro _))))

theorem countStale_sound (s : State) (hank : Nat) (s_ok : Sound s) : Sound (countStale s hank) := by
  unfold countStale; (repeat' (with_reducible (first
    | assumption | apply staleHank_sound)))

theorem countDropped_sound (s : State) (hank : Nat) (n : Nat) (s_ok : Sound s) : Sound (countDropped s hank n) := by
  unfold countDropped; (repeat' (with_reducible (first
    | assumption | apply modHank_sound)))

theorem completeSlot_sound (s : State) (hank : Nat) (j : Nat) (c : Nat) (s_ok : Sound s) : Sound (completeSlot s hank
    j c) := by
  unfold completeSlot; dsimp only; (repeat' (with_reducible (first
    | assumption | apply setHank_sound | apply addWork_sound | split)))

theorem acceptPart_sound (s : State) (hank : Nat) (hh : Hank) (mi : Nat) (m : Member) (q : Nat) (hd : Header) (pl :
    List Byte) (s_ok : Sound s) : Sound (acceptPart s hank hh mi m q hd pl) := by
  unfold acceptPart; (repeat' (with_reducible (first
    | assumption | apply setHank_sound | apply completeSlot_sound | apply addWork_sound | split)))

theorem acceptTally_sound (s : State) (hank : Nat) (hh : Hank) (mi : Nat) (q : Nat) (c : Nat) (first : Nat) (els :
    List Acc) (s_ok : Sound s) : Sound (acceptTally s hank hh mi q c first els) := by
  unfold acceptTally; (repeat' (with_reducible (first
    | assumption | apply setHank_sound | apply completeSlot_sound | apply addWork_sound | split)))

theorem stageItems_sound (s : State) (staging : List Word) (s_ok : Sound s) : Sound (stageItems s staging) := by
  unfold stageItems; (repeat' (with_reducible (first
    | assumption | apply ergStore_sound | split | (dsimp only) | (intro _)
    | (fail_if_no_progress (refine sound_upd ?_ rfl rfl rfl rfl rfl)) | (apply foldl_sound; intros))))

theorem acceptItems_sound (s : State) (hank : Nat) (hh : Hank) (mi : Nat) (m : Member) (hd : Header) (pl : List Byte)
    (s_ok : Sound s) : Sound (acceptItems s hank hh mi m hd pl) := by
  unfold acceptItems; dsimp only; (repeat' (with_reducible (first
    | assumption | apply setHank_sound | apply stageItems_sound | apply foundPoison_sound | split)))

theorem decidePart_sound (s : State) (hank : Nat) (hh : Hank) (mi : Nat) (m : Member) (hd : Header) (pl : List Byte)
    (s_ok : Sound s) : Sound (decidePart s hank hh mi m hd pl) := by
  unfold decidePart; dsimp only; (repeat' (with_reducible (first
    | assumption | apply acceptPart_sound | apply countStale_sound | apply foundPoison_sound | split)))

theorem decideItems_sound (s : State) (hank : Nat) (hh : Hank) (mi : Nat) (m : Member) (hd : Header) (pl : List Byte)
    (s_ok : Sound s) : Sound (decideItems s hank hh mi m hd pl) := by
  unfold decideItems; dsimp only; (repeat' (with_reducible (first
    | assumption | apply acceptItems_sound | apply countStale_sound | apply foundPoison_sound | split)))

theorem notOpen_sound (s : State) (p : Pkt) (s_ok : Sound s) : Sound (notOpen s p) := by
  unfold notOpen; (repeat' (with_reducible (first
    | assumption | apply discardAt_sound | split)))

theorem hankContrib_sound (s : State) (p : Pkt) (s_ok : Sound s) : Sound (hankContrib s p) := by
  unfold hankContrib; dsimp only; (repeat' (with_reducible (first
    | assumption | apply decidePart_sound | apply modHank_sound | apply notOpen_sound | apply countStale_sound
    | apply countDropped_sound | apply decideItems_sound | split)))

theorem decideTally_sound (s : State) (hank : Nat) (hh : Hank) (mi : Nat) (hd : Header) (pl : List Byte) (s_ok : Sound
    s) : Sound (decideTally s hank hh mi hd pl) := by
  unfold decideTally; dsimp only; (repeat' (with_reducible (first
    | assumption | apply countStale_sound | apply acceptTally_sound | apply foundPoison_sound | split)))

theorem hankTally_sound (s : State) (p : Pkt) (s_ok : Sound s) : Sound (hankTally s p) := by
  unfold hankTally; dsimp only; (repeat' (with_reducible (first
    | assumption | apply modHank_sound | apply notOpen_sound | apply countStale_sound | apply countDropped_sound
    | apply poison_sound | apply decideTally_sound | apply foundPoison_sound | split)))

theorem hankNotice_sound (s : State) (p : Pkt) (s_ok : Sound s) : Sound (hankNotice s p) := by
  unfold hankNotice; dsimp only; (repeat' (with_reducible (first
    | assumption | apply poison_sound | split)))

theorem takeHank_sound (die : Nat) (kind : Nat) (s : State) (f : Pkt → State → State) (s_ok : Sound s) (f_ok : ∀ x1
    s1, Sound s1 → Sound (f x1 s1)) : Sound (takeHank die kind s f) := by
  unfold takeHank; (repeat' (with_reducible (first
    | assumption | apply takeHead_sound | split)))

theorem atSpindleDie_sound (die : Nat) (s : State) (s_ok : Sound s) : ∀ t, (atSpindleDie die s) = .next t → Sound t :=
    by
  intro t ht; unfold atSpindleDie at ht; split at ht <;> cases ht; (repeat' (with_reducible (first
    | assumption)))

theorem execContrib_sound (die : Nat) (s : State) (s_ok : Sound s) : ∀ t, (execContrib die s) = .next t → Sound t :=
    by
  intro t ht; unfold execContrib at ht; (repeat' (with_reducible (first
    | assumption | apply takeHank_sound | apply hankContrib_sound
    | (refine atSpindleDie_sound _ _ ?_ _ (by assumption)) | (dsimp only) | (intro _))))

theorem execTallyUp_sound (die : Nat) (s : State) (s_ok : Sound s) : ∀ t, (execTallyUp die s) = .next t → Sound t :=
    by
  intro t ht; unfold execTallyUp at ht; (repeat' (with_reducible (first
    | assumption | apply takeHank_sound | apply hankTally_sound | (refine atSpindleDie_sound _ _ ?_ _ (by assumption))
    | (dsimp only) | (intro _))))

theorem execChunkNotice_sound (die : Nat) (s : State) (s_ok : Sound s) : ∀ t, (execChunkNotice die s) = .next t →
    Sound t := by
  intro t ht; unfold execChunkNotice at ht; (repeat' (with_reducible (first
    | assumption | apply hankNotice_sound | apply takeHank_sound
    | (refine atSpindleDie_sound _ _ ?_ _ (by assumption)) | (dsimp only) | (intro _))))

theorem execResult_sound (die : Nat) (s : State) (s_ok : Sound s) : ∀ t, (execResult die s) = .next t → Sound t := by
  intro t ht; unfold execResult at ht; (repeat' (with_reducible (first
    | assumption | apply takeHank_sound | (refine atSpindleDie_sound _ _ ?_ _ (by assumption)) | (dsimp only)
    | (intro _))))

theorem reportRound_sound (s : State) (hh : Hank) (r : Nat) (rd : Round) (s_ok : Sound s) : Sound (reportRound s hh r
    rd) := by
  unfold reportRound; dsimp only; (repeat' (with_reducible (first
    | assumption | apply sendEventW_sound | split)))

theorem chunkDone_sound (s : State) (hank : Nat) (j : Nat) (out : Digest) (s_ok : Sound s) : Sound (chunkDone s hank j
    out) := by
  unfold chunkDone; dsimp only; (repeat' (with_reducible (first
    | assumption | apply setHank_sound | apply reportRound_sound | split)))

theorem sendOf_sound (s : State) (job : Nat) (attempt : Nat) (die : Nat) (f : Fields) (s_ok : Sound s) : Sound (sendOf
    s job attempt die f) := by
  unfold sendOf; (repeat' (with_reducible (first
    | assumption | apply sendFrom_sound | split)))

theorem slotDone_sound (s : State) (hank : Nat) (j : Nat) (awaits : Nat) (out : Digest) (s_ok : Sound s) : Sound
    (slotDone s hank j awaits out) := by
  unfold slotDone; (repeat' (with_reducible (first
    | assumption | apply chunkDone_sound | split)))

theorem sendTallies_sound (die : Nat) (f : Fields) (hh : Hank) (attempt : Nat) (a : Nat) (a5 : Nat) (a6 : List (List
    Byte)) (a7 : State) (a7_ok : Sound a7) : Sound (sendTallies die f hh attempt a a5 a6 a7) := by
  fun_induction sendTallies die f hh attempt a a5 a6 a7 <;> (repeat' (with_reducible (first
    | assumption | apply sendOf_sound | split | (dsimp only) | (intro _) | (apply foldl_sound; intros)
    | (apply_assumption -exfalso -symm))))

theorem sendUp_sound (s : State) (hank : Nat) (j : Nat) (s_ok : Sound s) : Sound (sendUp s hank j) := by
  unfold sendUp; (repeat' (with_reducible (first
    | assumption | apply slotDone_sound | apply sendTallies_sound | split)))

theorem sendResults_sound (s : State) (die : Nat) (d : HankDesc) (attempt : Nat) (step : Nat) (c : Nat) (n : Nat) (bs
    : List Byte) (s_ok : Sound s) : Sound (sendResults s die d attempt step c n bs) := by
  unfold sendResults; (repeat' (with_reducible (first
    | assumption | apply sendOf_sound | (apply foldl_sound; intros))))

theorem finishRoot_sound (s : State) (hank : Nat) (j : Nat) (s_ok : Sound s) : Sound (finishRoot s hank j) := by
  unfold finishRoot; dsimp only; (repeat' (with_reducible (first
    | assumption | apply sendRaise_sound | apply slotDone_sound | apply sendResults_sound | apply ergStore_sound
    | apply foundPoison_sound | apply sendOf_sound | split)))

theorem setWork_sound (s : State) (key : Nat) (l : List Work) (s_ok : Sound s) : Sound (setWork s key l) := by
  unfold setWork; (repeat' (with_reducible (first
    | assumption | apply modSp_sound | apply canonical_upd | (dsimp only) | (intro _))))

theorem countBurst_sound (s : State) (key : Nat) (cycles : Nat) (s_ok : Sound s) : Sound (countBurst s key cycles) :=
    by
  unfold countBurst; dsimp only; (repeat' (with_reducible (first
    | assumption | apply fadd_sound | apply modEng_sound | apply eadd_sound | split)))

theorem burstMerge_sound (s : State) (key : Nat) (hank : Nat) (j : Nat) (full : Nat) (els : List (Nat × Acc)) (rest :
    List Work) (left : List (Nat × Acc) → Work) (s_ok : Sound s) : Sound (burstMerge s key hank j full els rest left) :=
    by
  unfold burstMerge; (repeat' (with_reducible (first
    | assumption | apply setHank_sound | apply countBurst_sound | apply setWork_sound | split)))

theorem slotCheck_sound (s : State) (key : Nat) (s_ok : Sound s) : Sound (slotCheck s key).2 := by
  unfold slotCheck; (repeat' (with_reducible (first
    | assumption | apply injected_sound)))

theorem poisonSlot_sound (s : State) (attempt : Nat) (hh : Hank) (j : Nat) (s_ok : Sound s) : Sound (poisonSlot s
    attempt hh j) := by
  unfold poisonSlot; (repeat' (with_reducible (first
    | assumption | apply poison_sound)))

theorem burstWork_sound (s : State) (key : Nat) (s_ok : Sound s) : Sound (burstWork s key) := by
  unfold burstWork; dsimp only; (repeat' (with_reducible (first
    | assumption | apply sendUp_sound | apply getSp_sound | apply countBurst_sound | apply setWork_sound
    | apply burstMerge_sound | apply finishRoot_sound | split)))

theorem burst_sound (s : State) (key : Nat) (s_ok : Sound s) : Sound (burst s key) := by
  unfold burst; (repeat' (with_reducible (first
    | assumption | apply slotCheck_sound | apply poisonSlot_sound | apply getSp_sound | apply burstWork_sound | split
    | (refine snd_sound (by assumption) ?_) | (refine fst_sound (by assumption) ?_)
    | (refine trd_sound (by assumption) ?_))))

theorem atSpindle_sound (l : Nat) (s : State) (s_ok : Sound s) : ∀ t, (atSpindle l s) = .next t → Sound t := by
  intro t ht; unfold atSpindle at ht; split at ht <;> cases ht; (repeat' (with_reducible (first
    | assumption)))

theorem execHankBurst_sound (spindle : Nat) (s : State) (s_ok : Sound s) : ∀ t, (execHankBurst spindle s) = .next t →
    Sound t := by
  intro t ht; unfold execHankBurst at ht; dsimp only at ht; (repeat' (split at ht)) <;> (first | (cases ht; done) | ((try cases ht); (repeat' (with_reducible (first
    | assumption | apply burst_sound | (refine atSpindle_sound _ _ ?_ _ (by assumption)))))))

theorem chunkExpire_sound (s : State) (hank : Nat) (j : Nat) (s_ok : Sound s) : Sound (chunkExpire s hank j) := by
  unfold chunkExpire; dsimp only; (repeat' (with_reducible (first
    | assumption | apply foundPoison_sound | split)))

theorem execChunkTimeout_sound (hank : Nat) (slot : Nat) (s : State) (s_ok : Sound s) : ∀ t, (execChunkTimeout hank
    slot s) = .next t → Sound t := by
  intro t ht; unfold execChunkTimeout at ht; cases ht; (repeat' (with_reducible (first
    | assumption | apply chunkExpire_sound)))

theorem roundExpire_sound (s : State) (hank : Nat) (r : Nat) (s_ok : Sound s) : Sound (roundExpire s hank r) := by
  unfold roundExpire; (repeat' (with_reducible (first
    | assumption | apply foundPoison_sound | split)))

theorem execRoundTimeout_sound (hank : Nat) (round : Nat) (s : State) (s_ok : Sound s) : ∀ t, (execRoundTimeout hank
    round s) = .next t → Sound t := by
  intro t ht; unfold execRoundTimeout at ht; cases ht; (repeat' (with_reducible (first
    | assumption | apply roundExpire_sound)))

theorem sendReleases_sound (s : State) (hh : Hank) (s_ok : Sound s) : Sound (sendReleases s hh) := by
  unfold sendReleases; (repeat' (with_reducible (first
    | assumption | apply sendFrom_sound | (apply foldl_sound; intros))))

theorem releaseRound_sound (s : State) (hank : Nat) (s_ok : Sound s) : Sound (releaseRound s hank) := by
  unfold releaseRound; (repeat' (with_reducible (first
    | assumption | apply setHank_sound | apply sendRaise_sound | apply sendReleases_sound | split)))

theorem arriveUp_sound (s : State) (hh : Hank) (s_ok : Sound s) : Sound (arriveUp s hh) := by
  unfold arriveUp; (repeat' (with_reducible (first
    | assumption | apply setHank_sound | apply sendFrom_sound)))

theorem settleBarrier_sound (a : Nat) (a1 : State) (a2 : Nat) (a1_ok : Sound a1) : Sound (settleBarrier a a1 a2) := by
  fun_induction settleBarrier a a1 a2 <;> (repeat' (with_reducible (first
    | assumption | apply releaseRound_sound | apply arriveUp_sound | split | (dsimp only) | (intro _)
    | (apply_assumption -exfalso -symm))))

theorem hankArrive_sound (s : State) (p : Pkt) (s_ok : Sound s) : Sound (hankArrive s p) := by
  unfold hankArrive; dsimp only; (repeat' (with_reducible (first
    | assumption | apply setHank_sound | apply poisonRound_sound | apply notOpen_sound | apply countStale_sound
    | apply raiseDetail_sound | apply settleBarrier_sound | split)))

theorem execArrive_sound (die : Nat) (s : State) (s_ok : Sound s) : ∀ t, (execArrive die s) = .next t → Sound t := by
  intro t ht; unfold execArrive at ht; (repeat' (with_reducible (first
    | assumption | apply takeHank_sound | apply hankArrive_sound
    | (refine atSpindleDie_sound _ _ ?_ _ (by assumption)) | (dsimp only) | (intro _))))

theorem hankRelease_sound (s : State) (p : Pkt) (s_ok : Sound s) : Sound (hankRelease s p) := by
  unfold hankRelease; dsimp only; (repeat' (with_reducible (first
    | assumption | apply releaseRound_sound | apply countStale_sound | apply settleBarrier_sound | split)))

theorem execRelease_sound (die : Nat) (s : State) (s_ok : Sound s) : ∀ t, (execRelease die s) = .next t → Sound t :=
    by
  intro t ht; unfold execRelease at ht; (repeat' (with_reducible (first
    | assumption | apply takeHank_sound | apply hankRelease_sound
    | (refine atSpindleDie_sound _ _ ?_ _ (by assumption)) | (dsimp only) | (intro _))))

theorem sendItems_sound (s : State) (hh : Hank) (attempt : Nat) (e : Member × Nat) (s_ok : Sound s) : Sound (sendItems
    s hh attempt e) := by
  unfold sendItems; (repeat' (with_reducible (first
    | assumption | apply sendOf_sound | (apply foldl_sound; intros))))

theorem exchangeEnd_sound (s : State) (hank : Nat) (s_ok : Sound s) : Sound (exchangeEnd s hank) := by
  unfold exchangeEnd; dsimp only; (repeat' (with_reducible (first
    | assumption | apply modHank_sound | apply sendItems_sound | apply foundPoison_sound | apply sendOf_sound | split
    | (apply foldl_sound; intros))))

theorem execExchangeSend_sound (hank : Nat) (s : State) (s_ok : Sound s) : ∀ t, (execExchangeSend hank s) = .next t →
    Sound t := by
  intro t ht; unfold execExchangeSend at ht; cases ht; (repeat' (with_reducible (first
    | assumption | apply exchangeEnd_sound)))

theorem claimSlot_sound (s : State) (d : HankDesc) (j : Nat) (s_ok : Sound s) : ∀ t, (claimSlot s d j) = some t →
    Sound t := by
  intro t ht
  unfold claimSlot at ht
  dsimp only at ht
  split at ht
  · cases ht
  · cases ht; exact setSp_sound s_ok _ (canonical_upd (getSp_sound s_ok _))

theorem claimSlots_sound (s : State) (d : HankDesc) (a : List Nat) (s_ok : Sound s) : ∀ t, (claimSlots s d a) = some t
    → Sound t := by
  induction a generalizing s with
  | nil => intro t h; cases h; exact s_ok
  | cons j r ih =>
    intro t h
    simp only [claimSlots, Option.bind_eq_some_iff] at h
    obtain ⟨u, hu, h⟩ := h
    exact ih u (claimSlot_sound _ _ _ s_ok u hu) t h

theorem claimBobbins_sound (p : Nat) (a : Nat) (a2 : State) (a3 : List Word) (a2_ok : Sound a2) : ∀ t, (claimBobbins p
    a a2 a3) = some t → Sound t.2 := by
  induction a generalizing a2 a3 with
  | zero => intro t h; cases h; exact a2_ok
  | succ n ih =>
    intro t h
    unfold claimBobbins at h
    split at h
    · cases h
    · split at h
      next w s e => exact ih s _ (trd_sound e (poolAlloc_sound _ _ a2_ok)) t h
      · cases h

theorem hankOpen_sound (s : State) (bs : List Byte) (s_ok : Sound s) : Sound (hankOpen s bs).2.2 := by
  unfold hankOpen; dsimp only; (repeat' (with_reducible (first
    | assumption | apply setHank_sound | (refine claimBobbins_sound _ _ _ _ ?_ (_, _) (by assumption))
    | (refine claimSlots_sound _ _ _ ?_ _ (by assumption)) | split)))

/-- The slots of a spindle written into its local store leave it canonical. -/
theorem withSlots_wf {s : State} (hs : Sound s) (key : Nat) (cl : List Claim) : memWf (withSlots s key cl) = true := by
  unfold withSlots
  generalize hm : (getSp s key).ls = m
  have h : memWf m = true := hm ▸ (getSp_sound hs key).1
  clear hm
  induction cl generalizing m with
  | nil => exact h
  | cons c r ih =>
    rw [List.foldl_cons]
    refine ih _ ?_
    split
    · exact memWrite_wf h _ _
    · exact h

theorem hankClose_sound (s : State) (hank : Nat) (s_ok : Sound s) : Sound (hankClose s hank).2.2 := by
  unfold hankClose
  split
  · exact s_ok
  · split
    · exact s_ok
    · refine foldl_sound (fun s w h => poolRelease_sound _ _ _ _ h) _ ?_
      refine sound_updSp (delHank_sound _ _ s_ok) (storesCanonical_all s_ok.stores (fun k sp h => ?_)) rfl rfl rfl rfl
      exact ⟨withSlots_wf s_ok _ _, h.2⟩

theorem stepCommit_sound (s : State) (job : Nat) (step : Nat) (attempt : Nat) (s_ok : Sound s) : Sound (stepCommit s
    job step attempt).2.2 := by
  unfold stepCommit; dsimp only; (repeat' (with_reducible (first
    | assumption | apply setJob_sound | split)))

theorem stepAbort_sound (s : State) (job : Nat) (step : Nat) (attempt : Nat) (s_ok : Sound s) : Sound (stepAbort s job
    step attempt) := by
  unfold stepAbort; dsimp only; (repeat' (with_reducible (first
    | assumption | apply countStale_sound | apply abortJob_sound | split | (apply foldl_sound; intros))))

end Sys2Proof.Machine
end

