-- ==== Sys2Proof/Laws/SoundFabric.lean ====
section
/-! SUPPORT. What keeps a state sound: the ports, the links and the switch core. -/

namespace Sys2Proof.Machine

theorem returnCredits_sound (s : State) (p : Nat) (vc : Nat) (ded : Nat) (shared : Nat) (s_ok : Sound s) : Sound
    (returnCredits s p vc ded shared) := by
  unfold returnCredits; (repeat' (with_reducible (first
    | assumption | apply modPort_sound | apply sendWord_sound | split)))

theorem releaseRx_sound (s : State) (p : Nat) (uid : Nat) (s_ok : Sound s) : Sound (releaseRx s p uid) := by
  unfold releaseRx; dsimp only; (repeat' (with_reducible (first
    | assumption | apply returnCredits_sound | apply modPort_sound | split)))

theorem dropCounted_sound (s : State) (p : Nat) (reason : Nat) (hdr : Header) (raw : Header) (s_ok : Sound s) : Sound
    (dropCounted s p reason hdr raw) := by
  unfold dropCounted; (repeat' (with_reducible (first
    | assumption | apply raiseFault_sound | apply dropRaising_sound)))

theorem settleSample_sound (s : State) (k : Pkt) (reason : Option Nat) (s_ok : Sound s) : Sound (settleSample s k
    reason) := by
  unfold settleSample; (repeat' (with_reducible (first
    | assumption | apply takeSample_sound | split)))

theorem discardPkt_sound (s : State) (p : Nat) (reason : Nat) (k : Pkt) (s_ok : Sound s) : Sound (discardPkt s p
    reason k) := by
  unfold discardPkt; (repeat' (with_reducible (first
    | assumption | apply modPort_sound | apply settleSample_sound | apply dropCounted_sound | apply releaseRx_sound
    | split)))

theorem rankLookup_sound (s : State) (die : Nat) (job : Nat) (rank : Nat) (counted : Bool) (s_ok : Sound s) : Sound
    (rankLookup s die job rank counted).2 := by
  unfold rankLookup
  split
  · dsimp only
    split
    · exact fwrap_sound _ _ _ _ _ _ _ _ s_ok
    · exact s_ok
  · dsimp only
    split
    · exact fwrap_sound _ _ _ _ _ _ _ _ s_ok
    · exact s_ok

theorem translate_sound (s : State) (p : Nat) (hh : Header) (after : Nat) (s_ok : Sound s) : Sound (translate s p hh
    after).2 := by
  unfold translate
  dsimp only
  have h1 := rankLookup_sound s (p / 16) (hJob hh) (hSrcRank hh) (after == 0) s_ok
  split
  next e => exact snd_sound e h1
  next e => exact snd_sound e h1
  next f s' e =>
    have h2 : Sound s' := snd_sound e h1
    have h3 := rankLookup_sound s' (p / 16) (hJob hh) (hDstRank hh) (after != 3) h2
    split
    · exact h2
    · split
      · split
        next e => exact snd_sound e h3
        next e => exact snd_sound e h3
        next e => exact snd_sound e h3
      · split
        · exact h2
        · exact h2

theorem enqueueReady_sound (s : State) (k : Pkt) (s_ok : Sound s) : Sound (enqueueReady s k) := by
  unfold enqueueReady; (repeat' (with_reducible (first
    | assumption | apply setReady_sound)))

theorem waitFirst_sound (s : State) (die : Nat) (w : Waiter) (s_ok : Sound s) : Sound (waitFirst s die w) := by
  unfold waitFirst; (repeat' (with_reducible (first
    | assumption | apply modPortDie_sound)))

theorem routed_sound (s : State) (p : Nat) (k : Pkt) (e : BitVec 32) (s_ok : Sound s) : Sound (routed s p k e) := by
  unfold routed; (repeat' (with_reducible (first
    | assumption | apply discardPkt_sound | apply enqueueReady_sound | split)))

theorem lookUp_sound (s : State) (p : Nat) (k : Pkt) (s_ok : Sound s) : Sound (lookUp s p k) := by
  unfold lookUp; dsimp only; (repeat' (with_reducible (first
    | assumption | apply routed_sound | apply discardPkt_sound | apply waitFirst_sound | apply enqueueReady_sound
    | split)))

theorem begin_sound (s : State) (p : Nat) (k : Pkt) (after : Nat) (s_ok : Sound s) : Sound (begin s p k after) := by
  unfold begin; (repeat' (with_reducible (first
    | assumption | apply lookUp_sound | apply discardPkt_sound | apply translate_sound | apply waitFirst_sound | split
    | (refine snd_sound (by assumption) ?_))))

theorem dropWaiter_sound (s : State) (p : Nat) (vc : Nat) (s_ok : Sound s) : Sound (dropWaiter s p vc) := by
  unfold dropWaiter; (repeat' (with_reducible (first
    | assumption | apply modPortDie_sound)))

theorem advanceVc_sound (a : Nat) (a1 : State) (a2 : Nat) (a3 : Nat) (a1_ok : Sound a1) : Sound (advanceVc a a1 a2 a3)
    := by
  fun_induction advanceVc a a1 a2 a3 <;> (repeat' (with_reducible (first
    | assumption | apply dropWaiter_sound | apply begin_sound | split | (dsimp only) | (intro _)
    | (apply_assumption -exfalso -symm))))

theorem advance_sound (s : State) (p : Nat) (vc : Nat) (s_ok : Sound s) : Sound (advance s p vc) := by
  unfold advance; (repeat' (with_reducible (first
    | assumption | apply advanceVc_sound)))

theorem arrivePkt_sound (s : State) (p : Nat) (k : Pkt) (s_ok : Sound s) : Sound (arrivePkt s p k) := by
  unfold arrivePkt; (repeat' (with_reducible (first
    | assumption | apply modPortDie_sound | apply begin_sound | split)))

theorem atPortVc_sound (p : Nat) (vc : Nat) (s : State) (s_ok : Sound s) : ∀ t, (atPortVc p vc s) = .next t → Sound t
    := by
  intro t ht; unfold atPortVc at ht; split at ht <;> cases ht; (repeat' (with_reducible (first
    | assumption)))

theorem routeReturn_sound (s : State) (p : Nat) (vc : Nat) (s_ok : Sound s) : Sound (routeReturn s p vc) := by
  unfold routeReturn; (repeat' (with_reducible (first
    | assumption | apply modPortDie_sound | apply advance_sound | apply routed_sound | apply dropWaiter_sound
    | apply discardPkt_sound | split)))

theorem execRouteFetch_sound (port : Nat) (vc : Nat) (s : State) (s_ok : Sound s) : ∀ t, (execRouteFetch port vc s) =
    .next t → Sound t := by
  intro t ht; unfold execRouteFetch at ht; (repeat' (with_reducible (first
    | assumption | (refine atPortVc_sound _ _ _ ?_ _ (by assumption)) | apply routeReturn_sound)))

theorem fetchRank_sound (s : State) (job : Nat) (rank : Nat) (s_ok : Sound s) : Sound (fetchRank s job rank) := by
  unfold fetchRank; (repeat' (with_reducible (first
    | assumption | apply eccCheck_sound)))

theorem cacheRank_sound (s : State) (die : Nat) (job : Nat) (rank : Nat) (s_ok : Sound s) : Sound (cacheRank s die job
    rank) := by
  unfold cacheRank; (repeat' (with_reducible (first
    | assumption | apply modPortDie_sound)))

theorem orphanReturn_sound (s : State) (p : Nat) (vc : Nat) (o : Nat × Nat × Nat × BitVec 32) (s_ok : Sound s) : Sound
    (orphanReturn s p vc o) := by
  unfold orphanReturn; dsimp only; (repeat' (with_reducible (first
    | assumption | apply modPortDie_sound | apply cacheRank_sound | apply fetchRank_sound | split)))

theorem rankArrives_sound (s : State) (p : Nat) (vc : Nat) (w : Waiter) (s_ok : Sound s) : Sound (rankArrives s p vc
    w) := by
  unfold rankArrives; dsimp only; (repeat' (with_reducible (first
    | assumption | apply advance_sound | apply dropWaiter_sound | apply begin_sound | apply cacheRank_sound
    | apply discardPkt_sound | apply waitFirst_sound | apply fetchRank_sound | split)))

theorem rankReturn_sound (s : State) (p : Nat) (vc : Nat) (s_ok : Sound s) : Sound (rankReturn s p vc) := by
  unfold rankReturn; (repeat' (with_reducible (first
    | assumption | apply orphanReturn_sound | apply rankArrives_sound | apply dropWaiter_sound | apply waitFirst_sound
    | split)))

theorem execRankFetch_sound (port : Nat) (vc : Nat) (s : State) (s_ok : Sound s) : ∀ t, (execRankFetch port vc s) =
    .next t → Sound t := by
  intro t ht; unfold execRankFetch at ht; (repeat' (with_reducible (first
    | assumption | (refine atPortVc_sound _ _ _ ?_ _ (by assumption)) | apply rankReturn_sound)))

theorem rankExpire_sound (s : State) (p : Nat) (vc : Nat) (s_ok : Sound s) : Sound (rankExpire s p vc) := by
  unfold rankExpire; (repeat' (with_reducible (first
    | assumption | apply modPortDie_sound | apply advance_sound | apply dropWaiter_sound | apply discardPkt_sound
    | split)))

theorem execRankWaitTimeout_sound (port : Nat) (vc : Nat) (s : State) (s_ok : Sound s) : ∀ t, (execRankWaitTimeout
    port vc s) = .next t → Sound t := by
  intro t ht; unfold execRankWaitTimeout at ht; (repeat' (with_reducible (first
    | assumption | (refine atPortVc_sound _ _ _ ?_ _ (by assumption)) | apply rankExpire_sound)))

theorem whenUp_sound (s : State) (p : Nat) (f : State) (s_ok : Sound s) (f_ok : Sound f) : Sound (whenUp s p f) := by
  unfold whenUp; (repeat' (with_reducible (first
    | assumption | split)))

theorem rxError_sound (s : State) (p : Nat) (s_ok : Sound s) : Sound (rxError s p) := by
  unfold rxError; (repeat' (with_reducible (first
    | assumption | apply sendWord_sound | apply padd_sound | apply setPort_sound)))

theorem rxStart_sound (s : State) (p : Nat) (w : Word) (s_ok : Sound s) : Sound (rxStart s p w) := by
  unfold rxStart; dsimp only; (repeat' (with_reducible (first
    | assumption | apply rxError_sound | apply setPort_sound | split)))

theorem execFrameStart_sound (port : Nat) (word : Word) (s : State) (s_ok : Sound s) : ∀ t, (execFrameStart port word
    s) = .next t → Sound t := by
  intro t ht; unfold execFrameStart at ht; split at ht <;> (first | (cases ht; done) | ((try cases ht); (repeat' (with_reducible (first
    | assumption | (refine atPort_sound _ _ ?_ _ (by assumption)) | apply rxStart_sound | apply whenUp_sound)))))

theorem takeHeader_sound (s : State) (p : Nat) (f : RxFrame) (hh : Header) (s_ok : Sound s) : Sound (takeHeader s p f
    hh) := by
  unfold takeHeader; dsimp only; (repeat' (with_reducible (first
    | assumption | apply modPort_sound | apply newUid_sound | apply padd_sound | apply dropCounted_sound
    | apply arrivePkt_sound | apply setPort_sound | split)))

theorem rxHeader_sound (s : State) (p : Nat) (hh : Header) (s_ok : Sound s) : Sound (rxHeader s p hh) := by
  unfold rxHeader; (repeat' (with_reducible (first
    | assumption | apply modPort_sound | apply takeHeader_sound | split)))

theorem execHeaderFlit_sound (port : Nat) (hh : Header) (s : State) (s_ok : Sound s) : ∀ t, (execHeaderFlit port hh s)
    = .next t → Sound t := by
  intro t ht; unfold execHeaderFlit at ht; split at ht <;> (first | (cases ht; done) | ((try cases ht); (repeat' (with_reducible (first
    | assumption | (refine atPort_sound _ _ ?_ _ (by assumption)) | apply whenUp_sound | apply rxHeader_sound)))))

theorem forget_sound (s : State) (p : Nat) (uid : Nat) (s_ok : Sound s) : Sound (forget s p uid) := by
  unfold forget; (repeat' (with_reducible (first
    | assumption | apply modPortDie_sound | apply setReady_sound)))

theorem endBad_sound (s : State) (p : Nat) (u : Nat) (f : Pkt → Pkt) (s_ok : Sound s) : Sound (endBad s p u f) := by
  unfold endBad; (repeat' (with_reducible (first
    | assumption | apply packetWhole_sound | apply forget_sound | split)))

theorem rxCrcFail_sound (s : State) (p : Nat) (f : RxFrame) (s_ok : Sound s) : Sound (rxCrcFail s p f) := by
  unfold rxCrcFail; dsimp only; (repeat' (with_reducible (first
    | assumption | apply modPort_sound | apply forget_sound | apply raiseFault_sound | apply rxError_sound
    | apply endBad_sound | apply padd_sound | split)))

theorem rxLength_sound (s : State) (p : Nat) (f : RxFrame) (hh : Header) (flits : List Byte) (s_ok : Sound s) : Sound
    (rxLength s p f hh flits) := by
  unfold rxLength; (repeat' (with_reducible (first
    | assumption | apply modPort_sound | apply forget_sound | apply raiseFault_sound | apply rxError_sound
    | apply endBad_sound | apply dropCounted_sound | split)))

theorem sampleFrame_sound (s : State) (p : Nat) (f : RxFrame) (bad : Bool) (flits : List Byte) (s_ok : Sound s) :
    Sound (sampleFrame s p f bad flits) := by
  unfold sampleFrame; (repeat' (with_reducible (first
    | assumption | apply takeSample_sound | apply markPkt_sound | split)))

theorem rxWhole_sound (s : State) (p : Nat) (f : RxFrame) (bad : Bool) (flits : List Byte) (s_ok : Sound s) : Sound
    (rxWhole s p f bad flits) := by
  unfold rxWhole; (repeat' (with_reducible (first
    | assumption | apply returnCredits_sound | apply packetWhole_sound | apply modPort_sound | apply raiseFault_sound
    | apply countFrame_sound | apply sampleFrame_sound | apply sendWord_sound | split)))

theorem rxEnd_sound (s : State) (p : Nat) (w : Word) (flits : List Byte) (s_ok : Sound s) : Sound (rxEnd s p w flits)
    := by
  unfold rxEnd; dsimp only; (repeat' (with_reducible (first
    | assumption | apply rxCrcFail_sound | apply rxError_sound | apply rxLength_sound | apply rxWhole_sound | split)))

theorem execFrameEnd_sound (port : Nat) (word : Word) (flits : List Byte) (s : State) (s_ok : Sound s) : ∀ t,
    (execFrameEnd port word flits s) = .next t → Sound t := by
  intro t ht; unfold execFrameEnd at ht; split at ht <;> (first | (cases ht; done) | ((try cases ht); (repeat' (with_reducible (first
    | assumption | (refine atPort_sound _ _ ?_ _ (by assumption)) | apply whenUp_sound | apply rxEnd_sound)))))

theorem linkFails_sound (s : State) (p : Nat) (cause : Nat) (s_ok : Sound s) : Sound (linkFails s p cause) := by
  unfold linkFails; (repeat' (with_reducible (first
    | assumption | exact raiseWith_sound | apply oneCycle_sound | apply linkLost_sound | (dsimp only) | (intro _))))

theorem resendFrom_sound (s : State) (p : Nat) (seq : Nat) (s_ok : Sound s) : Sound (resendFrom s p seq) := by
  unfold resendFrom; (repeat' (with_reducible (first
    | assumption | apply emit_sound | apply padd_sound | apply setPort_sound | split | (apply foldl_sound; intros))))

theorem retryFrom_sound (s : State) (p : Nat) (seq : Nat) (s_ok : Sound s) : Sound (retryFrom s p seq) := by
  unfold retryFrom; (repeat' (with_reducible (first
    | assumption | apply linkFails_sound | apply resendFrom_sound | split)))

theorem execLinkWordNak_sound (port : Nat) (word : Word) (s : State) (s_ok : Sound s) : ∀ t, (execLinkWordNak port
    word s) = .next t → Sound t := by
  intro t ht; unfold execLinkWordNak at ht; split at ht <;> (first | (cases ht; done) | ((try cases ht); (repeat' (with_reducible (first
    | assumption | (refine atPort_sound _ _ ?_ _ (by assumption)) | apply whenUp_sound | apply retryFrom_sound)))))

theorem ackUpTo_sound (s : State) (p : Nat) (seq : Nat) (s_ok : Sound s) : Sound (ackUpTo s p seq) := by
  unfold ackUpTo; (repeat' (with_reducible (first
    | assumption | apply modPort_sound)))

theorem execLinkWordAck_sound (port : Nat) (word : Word) (s : State) (s_ok : Sound s) : ∀ t, (execLinkWordAck port
    word s) = .next t → Sound t := by
  intro t ht; unfold execLinkWordAck at ht; split at ht <;> (first | (cases ht; done) | ((try cases ht); (repeat' (with_reducible (first
    | assumption | apply ackUpTo_sound | (refine atPort_sound _ _ ?_ _ (by assumption)) | apply whenUp_sound)))))

theorem replayExpire_sound (s : State) (p : Nat) (s_ok : Sound s) : Sound (replayExpire s p) := by
  unfold replayExpire; (repeat' (with_reducible (first
    | assumption | apply retryFrom_sound | split)))

theorem execReplayTimeout_sound (port : Nat) (s : State) (s_ok : Sound s) : ∀ t, (execReplayTimeout port s) = .next t
    → Sound t := by
  intro t ht; unfold execReplayTimeout at ht; split at ht <;> (first | (cases ht; done) | ((try cases ht); (repeat' (with_reducible (first
    | assumption | (refine atPort_sound _ _ ?_ _ (by assumption)) | apply whenUp_sound | apply replayExpire_sound)))))

theorem rxCredit_sound (s : State) (p : Nat) (w : Word) (s_ok : Sound s) : Sound (rxCredit s p w) := by
  unfold rxCredit; (repeat' (with_reducible (first
    | assumption | apply modPort_sound | split)))

theorem execCredit_sound (port : Nat) (word : Word) (s : State) (s_ok : Sound s) : ∀ t, (execCredit port word s) =
    .next t → Sound t := by
  intro t ht; unfold execCredit at ht; split at ht <;> (first | (cases ht; done) | ((try cases ht); (repeat' (with_reducible (first
    | assumption | apply rxCredit_sound | (refine atPort_sound _ _ ?_ _ (by assumption)) | apply whenUp_sound)))))

theorem creditExpire_sound (s : State) (p : Nat) (vc : Nat) (s_ok : Sound s) : Sound (creditExpire s p vc) := by
  unfold creditExpire; dsimp only; (repeat' (with_reducible (first
    | assumption | apply raisePort_sound | apply padd_sound | apply setPort_sound | split)))

theorem execCreditStall_sound (port : Nat) (vc : Nat) (s : State) (s_ok : Sound s) : ∀ t, (execCreditStall port vc s)
    = .next t → Sound t := by
  intro t ht; unfold execCreditStall at ht; split at ht <;> (first | (cases ht; done) | ((try cases ht); (repeat' (with_reducible (first
    | assumption | (refine atPortVc_sound _ _ _ ?_ _ (by assumption)) | apply whenUp_sound | apply creditExpire_sound)))))

theorem countExcess_sound (s : State) (p : Nat) (k : Pkt) (s_ok : Sound s) : Sound (countExcess s p k) := by
  unfold countExcess; dsimp only; (repeat' (with_reducible (first
    | assumption | apply padd_sound | split)))

theorem debit_sound (s : State) (p : Nat) (k : Pkt) (s_ok : Sound s) : Sound (debit s p k) := by
  unfold debit; (repeat' (with_reducible (first
    | assumption | apply modPort_sound)))

theorem sendFrame_sound (s : State) (p : Nat) (k : Pkt) (tier : Nat) (s_ok : Sound s) : Sound (sendFrame s p k tier)
    := by
  unfold sendFrame; (repeat' (with_reducible (first
    | assumption | apply countExcess_sound | apply emit_sound | apply debit_sound | apply frameGone_sound
    | apply setPort_sound | split)))

theorem dropStaged_sound (s : State) (p : Nat) (k : Pkt) (s_ok : Sound s) : Sound (dropStaged s p k) := by
  unfold dropStaged; (repeat' (with_reducible (first
    | assumption | apply modPort_sound | apply discardAt_sound)))

theorem egress_sound (s : State) (p : Nat) (s_ok : Sound s) : Sound (egress s p) := by
  unfold egress; (repeat' (with_reducible (first
    | assumption | apply dropStaged_sound | apply sendFrame_sound | apply setPort_sound | split)))

theorem execEgressArbitration_sound (port : Nat) (s : State) (s_ok : Sound s) : ∀ t, (execEgressArbitration port s) =
    .next t → Sound t := by
  intro t ht; unfold execEgressArbitration at ht; split at ht <;> (first | (cases ht; done) | ((try cases ht); (repeat' (with_reducible (first
    | assumption | (refine atPort_sound _ _ ?_ _ (by assumption)) | apply whenUp_sound | apply egress_sound)))))

theorem refill_sound (s : State) (p : Nat) (s_ok : Sound s) : Sound (refill s p) := by
  unfold refill; (repeat' (with_reducible (first
    | assumption | apply modPort_sound)))

theorem execShaperRefill_sound (port : Nat) (s : State) (s_ok : Sound s) : ∀ t, (execShaperRefill port s) = .next t →
    Sound t := by
  intro t ht; unfold execShaperRefill at ht; split at ht <;> (first | (cases ht; done) | ((try cases ht); (repeat' (with_reducible (first
    | assumption | apply refill_sound | (refine atPort_sound _ _ ?_ _ (by assumption)))))))

theorem startTraining_sound (s : State) (p : Nat) (s_ok : Sound s) : Sound (startTraining s p) := by
  unfold startTraining; (repeat' (with_reducible (first
    | assumption | apply modPort_sound | apply setLink_sound | split)))

theorem sendAlignOn_sound (s : State) (p : Nat) (l : Nat) (s_ok : Sound s) : Sound (sendAlignOn s p l) := by
  unfold sendAlignOn; (repeat' (with_reducible (first
    | assumption | apply freeWord_sound | apply sendWord_sound)))

theorem toPhase2_sound (s : State) (p : Nat) (s_ok : Sound s) : Sound (toPhase2 s p) := by
  unfold toPhase2; (repeat' (with_reducible (first
    | assumption | apply modPort_sound | apply sendAlignOn_sound | (apply foldl_sound; intros))))

theorem toPhase3_sound (s : State) (p : Nat) (s_ok : Sound s) : Sound (toPhase3 s p) := by
  unfold toPhase3; (repeat' (with_reducible (first
    | assumption | apply modPort_sound | apply sendWord_sound)))

theorem advanceTraining_sound (s : State) (p : Nat) (s_ok : Sound s) : Sound (advanceTraining s p) := by
  unfold advanceTraining; dsimp only; (repeat' (with_reducible (first
    | assumption | apply toPhase3_sound | apply toPhase2_sound | split)))

theorem trainFail_sound (s : State) (p : Nat) (cause : Nat) (s_ok : Sound s) : Sound (trainFail s p cause) := by
  unfold trainFail; (repeat' (with_reducible (first
    | assumption | apply modPort_sound | apply raisePort_sound | apply pset_sound | apply padd_sound)))

theorem trainLimit_sound (s : State) (p : Nat) (s_ok : Sound s) : Sound (trainLimit s p) := by
  unfold trainLimit; dsimp only; (repeat' (with_reducible (first
    | assumption | apply advanceTraining_sound | apply toPhase3_sound | apply trainFail_sound
    | apply startTraining_sound | apply toPhase2_sound | split)))

theorem execTrainingLimit_sound (port : Nat) (s : State) (s_ok : Sound s) : ∀ t, (execTrainingLimit port s) = .next t
    → Sound t := by
  intro t ht; unfold execTrainingLimit at ht; split at ht <;> (first | (cases ht; done) | ((try cases ht); (repeat' (with_reducible (first
    | assumption | (refine atPort_sound _ _ ?_ _ (by assumption)) | apply trainLimit_sound)))))

theorem atPortLane_sound (p : Nat) (l : Nat) (s : State) (s_ok : Sound s) : ∀ t, (atPortLane p l s) = .next t → Sound
    t := by
  intro t ht; unfold atPortLane at ht; split at ht <;> cases ht; (repeat' (with_reducible (first
    | assumption)))

theorem execSignalDetect_sound (port : Nat) (lane : Nat) (s : State) (s_ok : Sound s) : ∀ t, (execSignalDetect port
    lane s) = .next t → Sound t := by
  intro t ht; unfold execSignalDetect at ht; (repeat' (with_reducible (first
    | assumption | apply modPort_sound | (refine atPortLane_sound _ _ _ ?_ _ (by assumption)))))

theorem rejoin_sound (s : State) (p : Nat) (l : Nat) (s_ok : Sound s) : Sound (rejoin s p l) := by
  unfold rejoin; (repeat' (with_reducible (first
    | assumption | apply modPort_sound | apply pset_sound | apply padd_sound | apply fset_sound)))

theorem recalReady_sound (s : State) (p : Nat) (s_ok : Sound s) : Sound (recalReady s p) := by
  unfold recalReady; (repeat' (with_reducible (first
    | assumption | apply freeWord_sound | apply rejoin_sound | apply sendWord_sound | split)))

theorem recalNote_sound (s : State) (p : Nat) (l : Nat) (b : Nat) (s_ok : Sound s) : Sound (recalNote s p l b) := by
  unfold recalNote; (repeat' (with_reducible (first
    | assumption | apply recalReady_sound | apply modPort_sound | split)))

theorem recalFails_sound (s : State) (p : Nat) (cause : Nat) (s_ok : Sound s) : Sound (recalFails s p cause) := by
  unfold recalFails; (repeat' (with_reducible (first
    | assumption | apply raisePort_sound | apply clearRecal_sound | apply pset_sound)))

theorem laneEqualised_sound (s : State) (p : Nat) (l : Nat) (s_ok : Sound s) : Sound (laneEqualised s p l) := by
  unfold laneEqualised; (repeat' (with_reducible (first
    | assumption | apply freeBelow_sound | apply fset_sound)))

theorem equalised_sound (s : State) (p : Nat) (l : Nat) (s_ok : Sound s) : Sound (equalised s p l) := by
  unfold equalised; dsimp only; (repeat' (with_reducible (first
    | assumption | apply modPort_sound | apply advanceTraining_sound | apply sendAlignOn_sound | apply sendWord_sound
    | apply laneEqualised_sound | apply recalNote_sound | split)))

theorem execEqualisationComplete_sound (port : Nat) (lane : Nat) (s : State) (s_ok : Sound s) : ∀ t,
    (execEqualisationComplete port lane s) = .next t → Sound t := by
  intro t ht; unfold execEqualisationComplete at ht; (repeat' (with_reducible (first
    | assumption | (refine atPortLane_sound _ _ _ ?_ _ (by assumption)) | apply equalised_sound)))

theorem rxAlign_sound (s : State) (p : Nat) (l : Nat) (w : Word) (s_ok : Sound s) : Sound (rxAlign s p l w) := by
  unfold rxAlign; dsimp only; (repeat' (with_reducible (first
    | assumption | apply modPort_sound | apply advanceTraining_sound | apply pset_sound | apply fset_sound
    | apply recalNote_sound | split)))

theorem execAlign_sound (port : Nat) (lane : Nat) (word : Word) (s : State) (s_ok : Sound s) : ∀ t, (execAlign port
    lane word s) = .next t → Sound t := by
  intro t ht; unfold execAlign at ht; (repeat' (with_reducible (first
    | assumption | (refine atPortLane_sound _ _ _ ?_ _ (by assumption)) | apply rxAlign_sound)))

theorem comeUp_sound (s : State) (p : Nat) (hh : PartnerHello) (lanes : Nat) (s_ok : Sound s) : Sound (comeUp s p hh
    lanes) := by
  unfold comeUp; (repeat' (with_reducible (first
    | assumption | apply pset_sound | apply setLink_sound | apply setPort_sound
    | (fail_if_no_progress (refine sound_upd ?_ rfl rfl rfl rfl rfl)))))

theorem rxHello_sound (s : State) (p : Nat) (w : Word) (s_ok : Sound s) : Sound (rxHello s p w) := by
  unfold rxHello; dsimp only; (repeat' (with_reducible (first
    | assumption | apply pset_sound | apply comeUp_sound | apply trainFail_sound | apply rset_sound | split)))

theorem execHello_sound (port : Nat) (word : Word) (s : State) (s_ok : Sound s) : ∀ t, (execHello port word s) = .next
    t → Sound t := by
  intro t ht; unfold execHello at ht; split at ht <;> (first | (cases ht; done) | ((try cases ht); (repeat' (with_reducible (first
    | assumption | apply rxHello_sound | (refine atPort_sound _ _ ?_ _ (by assumption)))))))

theorem recalBegin_sound (s : State) (p : Nat) (l : Nat) (own : Bool) (s_ok : Sound s) : Sound (recalBegin s p l own)
    := by
  unfold recalBegin; (repeat' (with_reducible (first
    | assumption | apply modPort_sound | apply sendWord_sound | apply fset_sound | split)))

theorem rxLaneDrop_sound (s : State) (p : Nat) (w : Word) (s_ok : Sound s) : Sound (rxLaneDrop s p w) := by
  unfold rxLaneDrop; (repeat' (with_reducible (first
    | assumption | exact raiseWith_sound | apply linkFails_sound | apply modPort_sound | apply dropLane_sound
    | apply oneCycle_sound | apply recalBegin_sound | split | (dsimp only) | (intro _))))

theorem execLaneDrop_sound (port : Nat) (word : Word) (s : State) (s_ok : Sound s) : ∀ t, (execLaneDrop port word s) =
    .next t → Sound t := by
  intro t ht; unfold execLaneDrop at ht; split at ht <;> (first | (cases ht; done) | ((try cases ht); (repeat' (with_reducible (first
    | assumption | apply rxLaneDrop_sound | (refine atPort_sound _ _ ?_ _ (by assumption)) | apply whenUp_sound)))))

theorem execLaneDropTimeout_sound (port : Nat) (s : State) (s_ok : Sound s) : ∀ t, (execLaneDropTimeout port s) =
    .next t → Sound t := by
  intro t ht; unfold execLaneDropTimeout at ht; (try dsimp only at ht); (repeat' (split at ht)) <;> (first | (cases ht; done) | ((try cases ht); (repeat' (with_reducible (first
    | assumption | apply linkFails_sound | (refine atPort_sound _ _ ?_ _ (by assumption)) | apply whenUp_sound)))))

theorem rxRecalReq_sound (s : State) (p : Nat) (w : Word) (s_ok : Sound s) : Sound (rxRecalReq s p w) := by
  unfold rxRecalReq; (repeat' (with_reducible (first
    | assumption | apply recalNote_sound | apply recalBegin_sound | split)))

theorem execRecalReq_sound (port : Nat) (word : Word) (s : State) (s_ok : Sound s) : ∀ t, (execRecalReq port word s) =
    .next t → Sound t := by
  intro t ht; unfold execRecalReq at ht; split at ht <;> (first | (cases ht; done) | ((try cases ht); (repeat' (with_reducible (first
    | assumption | (refine atPort_sound _ _ ?_ _ (by assumption)) | apply whenUp_sound | apply rxRecalReq_sound)))))

theorem rxLaneAdd_sound (s : State) (p : Nat) (w : Word) (s_ok : Sound s) : Sound (rxLaneAdd s p w) := by
  unfold rxLaneAdd; dsimp only; (repeat' (with_reducible (first
    | assumption | apply rejoin_sound | split)))

theorem execLaneAdd_sound (port : Nat) (word : Word) (s : State) (s_ok : Sound s) : ∀ t, (execLaneAdd port word s) =
    .next t → Sound t := by
  intro t ht; unfold execLaneAdd at ht; split at ht <;> (first | (cases ht; done) | ((try cases ht); (repeat' (with_reducible (first
    | assumption | (refine atPort_sound _ _ ?_ _ (by assumption)) | apply rxLaneAdd_sound | apply whenUp_sound)))))

theorem atLane_sound (die : Nat) (l : Nat) (s : State) (s_ok : Sound s) : ∀ t, (atLane die l s) = .next t → Sound t :=
    by
  intro t ht; unfold atLane at ht; split at ht <;> cases ht; (repeat' (with_reducible (first
    | assumption)))

theorem loseLock_sound (s : State) (die : Nat) (lane : Nat) (cw : Bool) (s_ok : Sound s) : Sound (loseLock s die lane
    cw) := by
  unfold loseLock; (repeat' (with_reducible (first
    | assumption | exact raiseWith_sound | apply raiseWith_sound | apply modPort_sound | apply dropLane_sound
    | apply fset_sound | apply recalFails_sound | apply oneCycle_sound | split | (dsimp only) | (intro _))))

theorem execLockLoss_sound (die : Nat) (lane : Nat) (cw : Bool) (s : State) (s_ok : Sound s) : ∀ t, (execLockLoss die
    lane cw s) = .next t → Sound t := by
  intro t ht; unfold execLockLoss at ht; (repeat' (with_reducible (first
    | assumption | apply loseLock_sound | (refine atLane_sound _ _ _ ?_ _ (by assumption)))))

theorem degrade_sound (s : State) (die : Nat) (lane : Nat) (s_ok : Sound s) : Sound (degrade s die lane) := by
  unfold degrade; dsimp only; (repeat' (with_reducible (first
    | assumption | exact raiseWith_sound | apply raiseWith_sound | apply fadd_sound | apply dropLane_sound
    | apply whenUp_sound | apply freeBelow_sound | apply oneCycle_sound | split | (dsimp only) | (intro _))))

theorem execDegradeThreshold_sound (die : Nat) (lane : Nat) (s : State) (s_ok : Sound s) : ∀ t, (execDegradeThreshold
    die lane s) = .next t → Sound t := by
  intro t ht; unfold execDegradeThreshold at ht; (repeat' (with_reducible (first
    | assumption | apply degrade_sound | (refine atLane_sound _ _ _ ?_ _ (by assumption)))))

theorem planeCredit_sound (s : State) (pl : Nat) (link : Nat) (vc : Nat) (s_ok : Sound s) : Sound (planeCredit s pl
    link vc) := by
  unfold planeCredit; (repeat' (with_reducible (first
    | assumption | apply noteFree_sound | apply setPlane_sound)))

theorem execPlaneCredit_sound (plane : Nat) (link : Nat) (vc : Nat) (s : State) (s_ok : Sound s) : ∀ t,
    (execPlaneCredit plane link vc s) = .next t → Sound t := by
  intro t ht; unfold execPlaneCredit at ht; (repeat' (split at ht)) <;> (first | (cases ht; done) | ((try cases ht); (repeat' (with_reducible (first
    | assumption | apply planeCredit_sound)))))

theorem enqueueOut_sound (s : State) (pl : Nat) (out : Nat) (k : Pkt) (s_ok : Sound s) : Sound (enqueueOut s pl out k)
    := by
  unfold enqueueOut; (repeat' (with_reducible (first
    | assumption | apply modPlane_sound)))

theorem routeCount_sound (s : State) (pl : Nat) (k : Nat) (s_ok : Sound s) : Sound (routeCount s pl k) := by
  unfold routeCount; (repeat' (with_reducible (first
    | assumption | apply fadd_sound)))

theorem adaptivePort_sound (s : State) (pl : Nat) (k : Pkt) (s_ok : Sound s) : Sound (adaptivePort s pl k).2 := by
  unfold adaptivePort
  dsimp only
  split
  · exact s_ok
  · dsimp only
    exact modPlane_sound _ _ _ s_ok

theorem upPort_sound (s : State) (pl : Nat) (k : Pkt) (s_ok : Sound s) : Sound (upPort s pl k).2 := by
  unfold upPort
  split
  · exact s_ok
  · split
    · exact s_ok
    · split
      · exact s_ok
      · exact adaptivePort_sound _ _ _ s_ok

theorem choosePort_sound (s : State) (pl : Nat) (k : Pkt) (s_ok : Sound s) : Sound (choosePort s pl k).2 := by
  unfold choosePort
  have h1 := adaptivePort_sound s pl k s_ok
  have h2 := upPort_sound s pl k s_ok
  split
  · split
    · exact s_ok
    · split
      · split
        next e => exact routeCount_sound _ _ _ (snd_sound e h1)
        next e => exact snd_sound e h1
      · exact s_ok
  · split
    · exact s_ok
    · split
      next e => exact snd_sound e h2
      next e =>
        split
        · exact routeCount_sound _ _ _ (snd_sound e h2)
        · exact snd_sound e h2

theorem routeDrop_sound (s : State) (pl : Nat) (k : Nat) (hdr : Header) (s_ok : Sound s) : Sound (routeDrop s pl k
    hdr) := by
  unfold routeDrop; (repeat' (with_reducible (first
    | assumption | apply lostHeader_sound | apply routeCount_sound)))

theorem dropHeld_sound (s : State) (pl : Nat) (k : Pkt) (s_ok : Sound s) : Sound (dropHeld s pl k) := by
  unfold dropHeld; (repeat' (with_reducible (first
    | assumption | apply modPlane_sound)))

theorem routeOne_sound (s : State) (pl : Nat) (k : Pkt) (s_ok : Sound s) : Sound (routeOne s pl k) := by
  unfold routeOne; (repeat' (with_reducible (first
    | assumption | apply enqueueOut_sound | apply dropHeld_sound | apply choosePort_sound | apply routeDrop_sound
    | split | (refine snd_sound (by assumption) ?_))))

theorem mcastCopies_sound (pl : Nat) (k : Pkt) (a : List Nat) (a3 : State × Bool) (a3_ok : Sound a3.1) : Sound
    (mcastCopies pl k a a3).1 := by
  induction a generalizing a3 with
  | nil => exact a3_ok
  | cons p r ih =>
    unfold mcastCopies
    split
    · exact ih _ (enqueueOut_sound _ _ _ _ a3_ok)
    · exact ih _ (routeCount_sound _ _ _ a3_ok)

theorem routeMany_sound (s : State) (pl : Nat) (k : Pkt) (s_ok : Sound s) : Sound (routeMany s pl k) := by
  unfold routeMany; dsimp only; (repeat' (with_reducible (first
    | assumption | apply mcastCopies_sound | apply enqueueOut_sound | apply dropHeld_sound | apply lostHeader_sound
    | apply discardAt_sound | apply routeCount_sound | split)))

theorem takeReady_sound (s : State) (k : Pkt) (s_ok : Sound s) : Sound (takeReady s k) := by
  unfold takeReady; (repeat' (with_reducible (first
    | assumption | apply setReady_sound)))

theorem noPlane_sound (s : State) (k : Pkt) (s_ok : Sound s) : Sound (noPlane s k) := by
  unfold noPlane; (repeat' (with_reducible (first
    | assumption | apply takeReady_sound | apply lostHeader_sound | apply discardPkt_sound | split)))

theorem cross_sound (s : State) (pl : Nat) (k : Pkt) (s_ok : Sound s) : Sound (cross s pl k) := by
  unfold cross; dsimp only; (repeat' (with_reducible (first
    | assumption | apply routeOne_sound | apply settleSample_sound | apply takeReady_sound | apply routeMany_sound
    | apply noteFree_sound | apply modPlane_sound | apply releaseRx_sound | split)))

theorem planeRoute_sound (s : State) (link : Nat) (vc : Nat) (s_ok : Sound s) : Sound (planeRoute s link vc) := by
  unfold planeRoute; (repeat' (with_reducible (first
    | assumption | apply noPlane_sound | apply cross_sound | apply takeReady_sound | apply lostHeader_sound | split)))

theorem execPlaneRoute_sound (link : Nat) (vc : Nat) (s : State) (s_ok : Sound s) : ∀ t, (execPlaneRoute link vc s) =
    .next t → Sound t := by
  intro t ht; unfold execPlaneRoute at ht; split at ht <;> cases ht; (repeat' (with_reducible (first
    | assumption | apply planeRoute_sound)))

theorem dispatchOut_sound (s : State) (pl : Nat) (out : Nat) (k : Pkt) (s_ok : Sound s) : Sound (dispatchOut s pl out
    k) := by
  unfold dispatchOut; (repeat' (with_reducible (first
    | assumption | apply modPort_sound | apply setInbox_sound | apply modPlane_sound | split)))

theorem wadiMove_sound (s : State) (pl : Nat) (out : Nat) (vc : Nat) (s_ok : Sound s) : Sound (wadiMove s pl out vc)
    := by
  unfold wadiMove; dsimp only; (repeat' (with_reducible (first
    | assumption | apply enqueueOut_sound | apply choosePort_sound | apply routeDrop_sound | apply routeCount_sound
    | apply modPlane_sound | split | (refine snd_sound (by assumption) ?_))))

theorem execWadiMove_sound (plane : Nat) (output : Nat) (vc : Nat) (s : State) (s_ok : Sound s) : ∀ t, (execWadiMove
    plane output vc s) = .next t → Sound t := by
  intro t ht; unfold execWadiMove at ht; (repeat' (split at ht)) <;> (first | (cases ht; done) | ((try cases ht); (repeat' (with_reducible (first
    | assumption | apply wadiMove_sound)))))

theorem moveAtOnce_sound (s : State) (pl : Nat) (out : Nat) (s_ok : Sound s) : Sound (moveAtOnce s pl out) := by
  unfold moveAtOnce; (repeat' (with_reducible (first
    | assumption | apply wadiMove_sound | split | (apply foldl_sound; intros))))

theorem schedule_sound (s : State) (pl : Nat) (out : Nat) (s_ok : Sound s) : Sound (schedule s pl out) := by
  unfold schedule; dsimp only; (repeat' (with_reducible (first
    | assumption | apply moveAtOnce_sound | apply dispatchOut_sound | apply modPlane_sound | split)))

theorem atOutput_sound (plane : Nat) (out : Nat) (s : State) (s_ok : Sound s) : ∀ t, (atOutput plane out s) = .next t
    → Sound t := by
  intro t ht; unfold atOutput at ht; split at ht <;> cases ht; (repeat' (with_reducible (first
    | assumption)))

theorem execSchedule_sound (plane : Nat) (output : Nat) (s : State) (s_ok : Sound s) : ∀ t, (execSchedule plane output
    s) = .next t → Sound t := by
  intro t ht; unfold execSchedule at ht; split at ht <;> (first | (cases ht; done) | ((try cases ht); (repeat' (with_reducible (first
    | assumption | (refine atOutput_sound _ _ _ ?_ _ (by assumption)) | apply schedule_sound)))))

theorem outputStall_sound (s : State) (pl : Nat) (out : Nat) (s_ok : Sound s) : Sound (outputStall s pl out) := by
  unfold outputStall; dsimp only; (repeat' (with_reducible (first
    | assumption | apply raiseFault_sound | apply setPlane_sound | split)))

theorem execOutputStall_sound (plane : Nat) (output : Nat) (s : State) (s_ok : Sound s) : ∀ t, (execOutputStall plane
    output s) = .next t → Sound t := by
  intro t ht; unfold execOutputStall at ht; split at ht <;> (first | (cases ht; done) | ((try cases ht); (repeat' (with_reducible (first
    | assumption | (refine atOutput_sound _ _ _ ?_ _ (by assumption)) | apply outputStall_sound)))))

end Sys2Proof.Machine
end

