-- ==== Sys2Proof/Laws/SoundModule.lean ====
section
/-! SUPPORT. What keeps a state sound: register views, the security root, stepped operations, power, reset and
  bring-up. -/

namespace Sys2Proof.Machine

theorem setBoot_sound (s : State) (die : Nat) (b : Boot) (s_ok : Sound s) : Sound (setBoot s die b) := by
  unfold setBoot; (repeat' (with_reducible (first
    | assumption | apply modSec_sound)))

theorem withFree_sound (s : State) (base : Nat) (shift : Nat) (n : Nat) (s_ok : Sound s) : Sound (withFree s base
    shift n).2 := by
  unfold withFree; (repeat' (with_reducible (first
    | assumption | apply freeBelow_sound)))

theorem readReg_sound (s : State) (r : Reg) (die : Nat) (inst : Nat) (k : Nat) (s_ok : Sound s) : Sound (readReg s r
    die inst k).2 := by
  unfold readReg; dsimp only; (repeat' (with_reducible (first
    | assumption | apply getSp_sound | apply withFree_sound | apply freeCycle_sound | split)))

theorem readRegs_sound (a : State) (a1 : List (Reg × Nat)) (a2 : Nat) (a3 : Nat) (a_ok : Sound a) : Sound (readRegs a
    a1 a2 a3).2 := by
  fun_induction readRegs a a1 a2 a3 <;> (repeat' (with_reducible (first
    | assumption | apply readReg_sound | split | (dsimp only) | (intro _)
    | (fail_if_no_progress (refine sound_upd ?_ rfl rfl rfl rfl rfl)) | (refine snd_sound (by assumption) ?_)
    | (refine fst_sound (by assumption) ?_) | (refine trd_sound (by assumption) ?_)
    | (apply_assumption -exfalso -symm))))

theorem raiseBoot_sound (die : Nat) (a : Nat) (a2 : State) (a2_ok : Sound a2) : Sound (raiseBoot die a a2) := by
  fun_induction raiseBoot die a a2 <;> (repeat' (with_reducible (first
    | assumption | apply raiseDetail_sound | split | (dsimp only) | (intro _) | (apply_assumption -exfalso -symm))))

theorem bootDie_sound (s : State) (die : Nat) (s_ok : Sound s) : Sound (bootDie s die).2 := by
  unfold bootDie; (repeat' (with_reducible (first
    | assumption | apply setBoot_sound | apply raiseBoot_sound | split)))

theorem stopCode_sound (s : State) (die : Nat) (s_ok : Sound s) : Sound (stopCode s die) := by
  unfold stopCode; (repeat' (with_reducible (first
    | assumption | apply setBoot_sound)))

theorem newAttestKey_sound (s : State) (s_ok : Sound s) : Sound (newAttestKey s) := by
  unfold newAttestKey; (repeat' (with_reducible (first
    | assumption | apply takeNoise_sound | apply modSec_sound)))

theorem securityReset_sound (s : State) (s_ok : Sound s) : Sound (securityReset s) := by
  unfold securityReset; (repeat' (with_reducible (first
    | assumption | apply modSec_sound | apply newNonce_sound)))

theorem setKey_sound (s : State) (k : Nat) (v : KeyState × List Byte) (s_ok : Sound s) : Sound (setKey s k v) := by
  unfold setKey; (repeat' (with_reducible (first
    | assumption | apply modSec_sound)))

theorem addKey_sound (s : State) (o : List Byte) (s_ok : Sound s) : Sound (addKey s o) := by
  unfold addKey; dsimp only; (repeat' (with_reducible (first
    | assumption | apply modSec_sound | apply setKey_sound | split)))

theorem revokeKey_sound (s : State) (o : List Byte) (s_ok : Sound s) : Sound (revokeKey s o) := by
  unfold revokeKey; (repeat' (with_reducible (first
    | assumption | apply setKey_sound)))

theorem deploy_sound (s : State) (s_ok : Sound s) : Sound (deploy s) := by
  unfold deploy; (repeat' (with_reducible (first
    | assumption | apply modSec_sound)))

theorem raiseSvn_sound (s : State) (o : List Byte) (s_ok : Sound s) : Sound (raiseSvn s o) := by
  unfold raiseSvn; (repeat' (with_reducible (first
    | assumption | apply modSec_sound)))

theorem returnModule_sound (s : State) (s_ok : Sound s) : Sound (returnModule s) := by
  unfold returnModule
  dsimp only
  refine modCp_sound (sound_upd (modSec_sound _ _ s_ok) rfl rfl rfl rfl rfl) (by simp)

theorem requestEffect_sound (s : State) (o : List Byte) (s_ok : Sound s) : Sound (requestEffect s o) := by
  unfold requestEffect; (repeat' (with_reducible (first
    | assumption | apply returnModule_sound | apply raiseSvn_sound | apply deploy_sound | apply revokeKey_sound
    | apply addKey_sound | apply newNonce_sound | split)))

theorem openSession_sound (s : State) (level : Nat) (dies : Nat) (life : Option Nat) (s_ok : Sound s) : Sound
    (openSession s level dies life) := by
  unfold openSession; dsimp only; (repeat' (with_reducible (first
    | assumption | apply modSec_sound | apply newNonce_sound | split)))

theorem execLifetime_sound (s : State) (s_ok : Sound s) : ∀ t, (execLifetime s) = .next t → Sound t := by
  intro t ht; unfold execLifetime at ht; split at ht <;> cases ht; (repeat' (with_reducible (first
    | assumption | apply raiseFault_sound | apply endSession_sound)))

theorem putOp_sound (s : State) (slot : Nat) (o : Op) (s_ok : Sound s) : Sound (putOp s slot o) := by
  unfold putOp; (repeat' (with_reducible (first
    | assumption | (fail_if_no_progress (refine sound_upd ?_ rfl rfl rfl rfl rfl)))))

theorem endOp_sound (s : State) (slot : Nat) (o : Op) (state : Nat) (status : Nat) (check : Nat) (s_ok : Sound s) :
    Sound (endOp s slot o state status check) := by
  unfold endOp; (repeat' (with_reducible (first
    | assumption | apply sendEventW_sound | apply putOp_sound
    | (fail_if_no_progress (refine sound_upd ?_ rfl rfl rfl rfl rfl)))))

theorem startOp_sound (s : State) (tag : Nat) (code : Nat) (total : Nat) (ps : List Nat) (targets : List OpTarget)
    (atOnce : Option (Nat × Nat)) (start : State → State) (s_ok : Sound s) (start_ok : ∀ s1, Sound s1 → Sound (start
    s1)) : Sound (startOp s tag code total ps targets atOnce start) := by
  unfold startOp; (repeat' (with_reducible (first
    | assumption | apply answerOk_sound | apply endOp_sound | apply fail8_sound | apply putOp_sound | split
    | (fail_if_no_progress (refine sound_upd ?_ rfl rfl rfl rfl rfl)) | apply start_ok)))

theorem pollOp_sound (s : State) (tag : Nat) (handle : Nat) (s_ok : Sound s) : Sound (pollOp s tag handle) := by
  unfold pollOp; (repeat' (with_reducible (first
    | assumption | apply answerOk_sound | apply fail8_sound | split
    | (fail_if_no_progress (refine sound_upd ?_ rfl rfl rfl rfl rfl)))))

theorem cancelOp_sound (s : State) (tag : Nat) (handle : Nat) (s_ok : Sound s) : Sound (cancelOp s tag handle) := by
  unfold cancelOp; (repeat' (with_reducible (first
    | assumption | apply answerOk_sound | apply fail8_sound | apply putOp_sound | split)))

theorem parkPort_sound (s : State) (p : Nat) (s_ok : Sound s) : Sound (parkPort s p) := by
  unfold parkPort; (repeat' (with_reducible (first
    | assumption | exact raiseWith_sound | apply raiseWith_sound | apply setUnit_sound | apply linkEnds_sound
    | apply oneCycle_sound | (dsimp only) | (intro _))))

theorem freshPort_sound (s : State) (p : Nat) (s_ok : Sound s) : Sound (freshPort s p) := by
  unfold freshPort; (repeat' (with_reducible (first
    | assumption | apply modPort_sound | (fail_if_no_progress (refine sound_upd ?_ rfl rfl rfl rfl rfl)))))

theorem livePort_sound (s : State) (p : Nat) (s_ok : Sound s) : Sound (livePort s p) := by
  unfold livePort; (repeat' (with_reducible (first
    | assumption | apply freshPort_sound | apply setUnit_sound | apply startTraining_sound)))

theorem parkPlane_sound (s : State) (pl : Nat) (s_ok : Sound s) : Sound (parkPlane s pl) := by
  unfold parkPlane; (repeat' (with_reducible (first
    | assumption | apply setUnit_sound | apply discardPlane_sound)))

theorem livePlane_sound (s : State) (pl : Nat) (s_ok : Sound s) : Sound (livePlane s pl) := by
  unfold livePlane; (repeat' (with_reducible (first
    | assumption | apply setUnit_sound | apply modPlane_sound)))

theorem moveUnits_sound (s : State) (die : Nat) (cls : Nat) (old : UnitState) (new : UnitState) (a : List Nat) (s_ok :
    Sound s) : Sound (moveUnits s die cls old new a) := by
  induction a generalizing s with
  | nil => exact s_ok
  | cons k r ih =>
    unfold moveUnits
    refine ih _ ?_
    split
    · exact setUnit_sound _ _ _ _ _ s_ok
    · exact s_ok

theorem parkDevice_sound (s : State) (die : Nat) (cls : Nat) (k : Nat) (s_ok : Sound s) : Sound (parkDevice s die cls
    k) := by
  unfold parkDevice; (repeat' (with_reducible (first
    | assumption | apply setUnit_sound | apply moveUnits_sound)))

theorem liveDevice_sound (s : State) (die : Nat) (cls : Nat) (k : Nat) (s_ok : Sound s) : Sound (liveDevice s die cls
    k) := by
  unfold liveDevice; (repeat' (with_reducible (first
    | assumption | apply setUnit_sound | apply moveUnits_sound)))

theorem parkErg_sound (s : State) (die : Nat) (s_ok : Sound s) : Sound (parkErg s die) := by
  unfold parkErg; (repeat' (with_reducible (first
    | assumption | apply raiseFault_sound | apply narrowSession_sound | apply setUnit_sound | apply parkDevice_sound
    | split | (apply foldl_sound; intros))))

theorem liveErg_sound (s : State) (die : Nat) (s_ok : Sound s) : Sound (liveErg s die) := by
  unfold liveErg; (repeat' (with_reducible (first
    | assumption | apply setUnit_sound | apply liveDevice_sound | split | (apply foldl_sound; intros))))

theorem parkUnit_sound (s : State) (die : Nat) (cls : Nat) (inst : Nat) (s_ok : Sound s) : Sound (parkUnit s die cls
    inst) := by
  unfold parkUnit; (repeat' (with_reducible (first
    | assumption | apply setUnit_sound | apply parkPort_sound | apply parkPlane_sound | apply parkErg_sound
    | apply parkDevice_sound | split)))

theorem parkNamed_sound (s : State) (die : Nat) (cls : Nat) (inst : Nat) (s_ok : Sound s) : Sound (parkNamed s die cls
    inst) := by
  unfold parkNamed; (repeat' (with_reducible (first
    | assumption | apply parkUnit_sound | apply raiseFault_sound | apply narrowSession_sound | split)))

theorem liveUnit_sound (s : State) (die : Nat) (cls : Nat) (inst : Nat) (s_ok : Sound s) : Sound (liveUnit s die cls
    inst) := by
  unfold liveUnit; (repeat' (with_reducible (first
    | assumption | apply livePlane_sound | apply livePort_sound | apply liveErg_sound | apply setUnit_sound
    | apply liveDevice_sound | split)))

theorem parkKeys_sound (s : State) (l : List Nat) (s_ok : Sound s) : Sound (parkKeys s l) := by
  unfold parkKeys; (repeat' (with_reducible (first
    | assumption | apply parkUnit_sound | split | (apply foldl_sound; intros))))

theorem restoreKeys_sound (s : State) (l : List Nat) (s_ok : Sound s) : Sound (restoreKeys s l) := by
  unfold restoreKeys; dsimp only; (repeat' (with_reducible (first
    | assumption | apply liveUnit_sound | apply setUnit_sound | split | (apply foldl_sound; intros))))

theorem liveSpindles_sound (s : State) (s_ok : Sound s) : Sound (liveSpindles s) := by
  unfold liveSpindles; (repeat' (with_reducible (first
    | assumption | apply setUnit_sound | split | (apply foldl_sound; intros))))

theorem parkSpindles_sound (s : State) (s_ok : Sound s) : Sound (parkSpindles s) := by
  unfold parkSpindles; (repeat' (with_reducible (first
    | assumption | (fail_if_no_progress (refine sound_upd ?_ rfl rfl rfl rfl rfl)))))

theorem unpowered_sound (s : State) (s_ok : Sound s) : Sound (unpowered s) := by
  exact ⟨⟨Or.inl rfl, Nat.zero_le _, Nat.zero_le _, Nat.zero_le _⟩, rfl, rfl, ⟨rfl, fun e he => (List.not_mem_nil he).elim⟩,
    Nat.zero_le _, Nat.zero_le _⟩

theorem powerOff_sound (s : State) (s_ok : Sound s) : Sound (powerOff s) := by
  unfold powerOff; (repeat' (with_reducible (first
    | assumption | apply setErr_sound | apply unpowered_sound)))

theorem holdReset_sound (s : State) (cause : Nat) (s_ok : Sound s) : Sound (holdReset s cause) := by
  unfold holdReset; (repeat' (with_reducible (first
    | assumption | apply modModule_sound | apply setErr_sound | apply unpowered_sound | (refine Sound.module ?_)
    | (refine legal_upd ?_))))

theorem coldReset_sound (s : State) (cause : Nat) (s_ok : Sound s) : Sound (coldReset s cause) := by
  unfold coldReset
  dsimp only
  refine sendBringup_sound _ _ _ _ (securityReset_sound _ (setErr_sound _ _ ?_))
  have h := unpowered_sound s s_ok
  exact ⟨⟨Or.inl rfl, by show 1 ≤ 4; decide, Nat.zero_le _, Nat.zero_le _⟩, h.erg, h.staging, h.stores, h.records, h.remembered⟩

theorem warmReset_sound (s : State) (s_ok : Sound s) : Sound (warmReset s) := by
  unfold warmReset
  dsimp only
  refine newAttestKey_sound _ (sendBringup_sound _ _ _ _ (securityReset_sound _ ?_))
  have h : Sound (loseErg (loseWork (List.foldl (fun s d => modDie s d fun x => { x with powered := true, contained := false })
      (List.foldl resetDie s dataDies) dataDies))) := by
    refine loseErg_sound _ (loseWork_sound _ (foldl_sound ?_ _ (foldl_sound ?_ _ s_ok)))
    · exact fun s d h => modDie_sound s d _ h
    · exact fun s d h => resetDie_sound s d h
  refine modModule_sound h ?_
  exact ⟨h.module.1, by show 1 ≤ 4; decide, by show 2 ≤ 6; decide, h.module.2.2.2⟩

theorem enterStandby_sound (s : State) (s_ok : Sound s) : Sound (enterStandby s) := by
  have h := unpowerData_sound _ (endSession_sound raiseFault s raiseFault_sound s_ok)
  exact modModule_sound h ⟨h.module.1, by show 1 ≤ 4; decide, h.module.2.2⟩

theorem execPwrEnLow_sound (s : State) (s_ok : Sound s) : ∀ t, (execPwrEnLow s) = .next t → Sound t := by
  intro t ht; unfold execPwrEnLow at ht; dsimp only at ht; (repeat' (split at ht)) <;> (first | (cases ht; done) | ((try cases ht); (repeat' (with_reducible (first
    | assumption | apply modModule_sound | apply powerOff_sound | (refine Sound.module ?_) | (refine legal_upd ?_))))))

theorem execPwrEnRising_sound (s : State) (s_ok : Sound s) : ∀ t, (execPwrEnRising s) = .next t → Sound t := by
  intro t ht; unfold execPwrEnRising at ht; dsimp only at ht; (repeat' (split at ht)) <;> (first | (cases ht; done) | ((try cases ht); (repeat' (with_reducible (first
    | assumption | apply modModule_sound | apply holdReset_sound | apply coldReset_sound | (refine Sound.module ?_)
    | (refine legal_upd ?_))))))

theorem execRstNLow_sound (s : State) (s_ok : Sound s) : ∀ t, (execRstNLow s) = .next t → Sound t := by
  intro t ht; unfold execRstNLow at ht; dsimp only at ht; (repeat' (split at ht)) <;> (first | (cases ht; done) | ((try cases ht); (repeat' (with_reducible (first
    | assumption | apply modModule_sound | apply holdReset_sound | (refine Sound.module ?_) | (refine legal_upd ?_))))))

theorem execRstNRising_sound (s : State) (s_ok : Sound s) : ∀ t, (execRstNRising s) = .next t → Sound t := by
  intro t ht; unfold execRstNRising at ht; dsimp only at ht; (repeat' (split at ht)) <;> (first | (cases ht; done) | ((try cases ht); (repeat' (with_reducible (first
    | assumption | apply modModule_sound | apply coldReset_sound | (refine Sound.module ?_) | (refine legal_upd ?_))))))

theorem execInputLoss_sound (s : State) (s_ok : Sound s) : ∀ t, (execInputLoss s) = .next t → Sound t := by
  intro t ht; unfold execInputLoss at ht; split at ht <;> cases ht; (repeat' (with_reducible (first
    | assumption | apply modModule_sound | apply powerOff_sound | (refine Sound.module ?_) | (refine legal_upd ?_))))

theorem execInputRestore_sound (s : State) (s_ok : Sound s) : ∀ t, (execInputRestore s) = .next t → Sound t := by
  intro t ht; unfold execInputRestore at ht; dsimp only at ht; (repeat' (split at ht)) <;> (first | (cases ht; done) | ((try cases ht); (repeat' (with_reducible (first
    | assumption | apply modModule_sound | apply coldReset_sound | (refine Sound.module ?_) | (refine legal_upd ?_))))))

theorem execPowerRemoval_sound (s : State) (s_ok : Sound s) : ∀ t, (execPowerRemoval s) = .next t → Sound t := by
  intro t ht; unfold execPowerRemoval at ht; split at ht <;> cases ht; (repeat' (with_reducible (first
    | assumption | apply powerOff_sound)))

theorem moduleMove_sound (s : State) (new : Nat) (s_ok : Sound s) : Sound (moduleMove s new) := by
  unfold moduleMove
  split
  · have h := endSession_sound raiseFault s raiseFault_sound s_ok
    exact modModule_sound h h.module
  · exact enterStandby_sound _ s_ok
  · exact warmReset_sound _ s_ok
  · have h := parkKeys_sound s (liveKeys s) s_ok
    exact modModule_sound h ⟨h.module.1, by show 2 ≤ 4; decide, h.module.2.2⟩
  · have h := restoreKeys_sound s s.module.before s_ok
    exact modModule_sound h ⟨h.module.1, by show 3 ≤ 4; decide, h.module.2.2⟩
  · exact setState_sound (liveSpindles_sound _ s_ok) (by decide)
  · exact setState_sound (parkSpindles_sound _ s_ok) (by decide)

theorem powerModule_sound (s : State) (tag : Nat) (st : Nat) (s_ok : Sound s) : Sound (powerModule s tag st) := by
  unfold powerModule; (repeat' (with_reducible (first
    | assumption | apply answerOk_sound | apply fail8_sound | apply moduleMove_sound | split)))

theorem startRelock_sound (s : State) (tag : Nat) (die : Nat) (freq : Nat) (s_ok : Sound s) : Sound (startRelock s tag
    die freq) := by
  unfold startRelock; (repeat' (with_reducible (first
    | assumption | apply modDie_sound | apply modCp_sound | (refine Sound.remembered ?_))))

theorem powerSet_sound (s : State) (tag : Nat) (target : Nat) (st : Nat) (freq : Nat) (s_ok : Sound s) : Sound
    (powerSet s tag target st freq) := by
  unfold powerSet; dsimp only; (repeat' (with_reducible (first
    | assumption | apply answerOk_sound | apply liveUnit_sound | apply powerModule_sound | apply parkNamed_sound
    | apply fail8_sound | apply startRelock_sound | split)))

theorem execRelock_sound (die : Nat) (s : State) (s_ok : Sound s) : ∀ t, (execRelock die s) = .next t → Sound t := by
  intro t ht; unfold execRelock at ht; split at ht <;> (first | (cases ht; done) | ((try cases ht); (iterate 40 (all_goals (try (with_reducible (first
    | assumption | apply answerOk_sound | apply modDie_sound | apply fset_sound
    | (refine atSpindleDie_sound _ _ ?_ _ (by assumption)) | apply modCp_sound | split | (dsimp only) | (intro _)
    | (fail_if_no_progress (refine sound_upd ?_ rfl rfl rfl rfl rfl)) | (refine snd_sound (by assumption) ?_)
    | (refine fst_sound (by assumption) ?_) | (refine trd_sound (by assumption) ?_) | (apply foldl_sound; intros)
    | (refine Sound.remembered ?_))))))))

theorem failRecord_sound (s : State) (id : Nat) (action : Nat) (detail : List Word) (s_ok : Sound s) : Sound
    (failRecord s id action detail) := by
  unfold failRecord; (repeat' (with_reducible (first
    | assumption | apply countSource_sound | apply record_sound)))

theorem noteFailed_sound (s : State) (key : Nat) (s_ok : Sound s) : Sound (noteFailed s key) := by
  unfold noteFailed; (repeat' (with_reducible (first
    | assumption | apply modModule_sound | (refine Sound.module ?_) | (refine legal_upd ?_))))

theorem failBoot_sound (s : State) (die : Nat) (s_ok : Sound s) : Sound (failBoot s die) := by
  unfold failBoot; (repeat' (with_reducible (first
    | assumption | exact raiseWith_sound | apply raiseWith_sound | apply failRecord_sound | apply containDie_sound
    | apply oneCycle_sound | apply sendBringup_sound | (dsimp only) | (intro _))))

theorem failChannel_sound (s : State) (die : Nat) (ch : Nat) (s_ok : Sound s) : Sound (failChannel s die ch) := by
  unfold failChannel; dsimp only; (repeat' (with_reducible (first
    | assumption | apply failRecord_sound | apply sendBringup_sound | apply noteFailed_sound | split)))

theorem failScrub_sound (s : State) (die : Nat) (cls : Nat) (inst : Nat) (s_ok : Sound s) : Sound (failScrub s die cls
    inst) := by
  unfold failScrub; dsimp only; (repeat' (with_reducible (first
    | assumption | exact raiseWith_sound | apply raiseWith_sound | apply failRecord_sound | apply freeBelow_sound
    | apply fset_sound | apply containDie_sound | apply oneCycle_sound | apply sendBringup_sound
    | apply noteFailed_sound | split | (dsimp only) | (intro _))))

theorem failLane_sound (s : State) (die : Nat) (lane : Nat) (s_ok : Sound s) : Sound (failLane s die lane) := by
  unfold failLane; (repeat' (with_reducible (first
    | assumption | exact raiseWith_sound | apply raiseWith_sound | apply failRecord_sound | apply linkEnds_sound
    | apply fset_sound | apply oneCycle_sound | apply sendBringup_sound | split | (dsimp only) | (intro _))))

theorem failUnit_sound (s : State) (p : Nat) (a : Nat) (s_ok : Sound s) : Sound (failUnit s p a) := by
  unfold failUnit; dsimp only; (repeat' (with_reducible (first
    | assumption | apply failLane_sound | apply failScrub_sound | apply failChannel_sound | split)))

theorem bootAll_sound (s : State) (failed : List Nat) (s_ok : Sound s) : Sound (bootAll s failed) := by
  unfold bootAll; dsimp only; (repeat' (with_reducible (first
    | assumption | apply bootDie_sound | apply failBoot_sound | apply stopCode_sound | split
    | (apply foldl_sound; intros))))

theorem takeOver_sound {s : State} (h : Sound s) :
    Sound (modModule s (fun m => { m with activeKd := 31, standby := 0 })) :=
  modModule_sound h ⟨Or.inr rfl, h.module.2.1, h.module.2.2.1, Nat.zero_le 2⟩

theorem bootControl_sound (s : State) (s_ok : Sound s) : Sound (bootControl s).2 := by
  unfold bootControl
  dsimp only
  have h2 := bootDie_sound s 30 s_ok
  split
  · dsimp only
    refine modModule_sound h2 ?_
    exact ⟨Or.inl rfl, h2.module.2.1, h2.module.2.2.1, by show 2 ≤ 2; decide⟩
  · have h4 := bootDie_sound _ 31 h2
    split
    · dsimp only
      exact takeOver_sound (modDie_sound _ _ _ (failRecord_sound _ _ _ _ h4))
    · dsimp only
      exact failRecord_sound _ _ _ _ (failRecord_sound _ _ _ _ h4)

theorem portsTrain_sound (s : State) (s_ok : Sound s) : Sound (portsTrain s) := by
  unfold portsTrain; (repeat' (with_reducible (first
    | assumption | apply modPort_sound | apply setLink_sound | split | (apply foldl_sound; intros))))

theorem liveIfPassed_sound (s : State) (die : Nat) (cls : Nat) (inst : Nat) (s_ok : Sound s) : Sound (liveIfPassed s
    die cls inst) := by
  unfold liveIfPassed; (repeat' (with_reducible (first
    | assumption | apply setUnit_sound | split)))

theorem ergLives_sound (s : State) (s_ok : Sound s) : Sound (ergLives s) := by
  unfold ergLives; (repeat' (with_reducible (first
    | assumption | apply liveIfPassed_sound | split | (apply foldl_sound; intros))))

theorem portsLive_sound (s : State) (s_ok : Sound s) : Sound (portsLive s) := by
  unfold portsLive; (repeat' (with_reducible (first
    | assumption | exact raiseWith_sound | apply raiseWith_sound | apply freshPort_sound | apply liveIfPassed_sound
    | apply advanceTraining_sound | apply linkEnds_sound | apply startTraining_sound | apply oneCycle_sound | split
    | (dsimp only) | (intro _) | (apply foldl_sound; intros))))

theorem enterReady_sound (s : State) (s_ok : Sound s) : Sound (enterReady s) := by
  unfold enterReady
  exact sendBringup_sound _ _ _ _ (portsLive_sound _ (ergLives_sound _ (liveIfPassed_sound _ _ _ _
    (liveIfPassed_sound _ _ _ _ (setState_sound (sendBringup_sound _ _ _ _ s_ok) (by decide))))))

theorem startPhase_sound (s : State) (p : Nat) (hp : p ≤ 6) (s_ok : Sound s) : Sound (startPhase s p) := by
  unfold startPhase
  dsimp only
  have h := setPhase_sound s_ok hp
  split
  · exact enterReady_sound _ h
  · split
    · exact newAttestKey_sound _ (sendBringup_sound _ _ _ _ h)
    · split
      · exact portsTrain_sound _ (sendBringup_sound _ _ _ _ h)
      · exact sendBringup_sound _ _ _ _ h

theorem bringupStops_sound (s : State) (p : Nat) (s_ok : Sound s) : Sound (bringupStops s p) := by
  unfold bringupStops; (repeat' (with_reducible (first
    | assumption | apply modModule_sound | apply sendBringup_sound | (refine Sound.module ?_) | (refine legal_upd ?_))))

theorem endPhase_sound (s : State) (failed : List Nat) (late : Bool) (s_ok : Sound s) : Sound (endPhase s failed late)
    := by
  unfold endPhase
  split
  · exact s_ok
  next hc =>
    have hp : s.module.phase < 6 := by
      simp only [Bool.or_eq_true, decide_eq_true_eq] at hc
      omega
    dsimp only
    split
    · split
      · exact bringupStops_sound _ _ s_ok
      · exact startPhase_sound _ 1 (by decide) (settleErr_sound _ (setPhase_sound (sendBringup_sound _ _ _ _ s_ok) (by decide)))
    · split
      · split
        · exact bringupStops_sound _ _ s_ok
        · have h1 := bootControl_sound s s_ok
          split
          next e => exact startPhase_sound _ 2 (by decide) (sendBringup_sound _ _ _ _ (snd_sound e h1))
          next e => exact bringupStops_sound _ _ (snd_sound e h1)
      · refine startPhase_sound _ _ (by omega) (sendBringup_sound _ _ _ _ ?_)
        split
        · exact bootAll_sound _ _ s_ok
        · exact foldl_sound (fun s a h => failUnit_sound _ _ _ h) _ s_ok

theorem execBringupPhase_sound (failed : List Nat) (s : State) (s_ok : Sound s) : ∀ t, (execBringupPhase failed s) =
    .next t → Sound t := by
  intro t ht; unfold execBringupPhase at ht; cases ht; (repeat' (with_reducible (first
    | assumption | apply endPhase_sound)))

theorem execBringupLimit_sound (failed : List Nat) (s : State) (s_ok : Sound s) : ∀ t, (execBringupLimit failed s) =
    .next t → Sound t := by
  intro t ht; unfold execBringupLimit at ht; cases ht; (repeat' (with_reducible (first
    | assumption | apply endPhase_sound)))

theorem rebootReset_sound (s : State) (die : Nat) (s_ok : Sound s) : Sound (rebootReset s die) := by
  unfold rebootReset; (repeat' (with_reducible (first
    | assumption | apply modDie_sound | apply resetDie_sound | split
    | (fail_if_no_progress (refine sound_upd ?_ rfl rfl rfl rfl rfl)))))

theorem setReboot_sound (s : State) (die : Nat) (phase : Nat) (st : Nat) (s_ok : Sound s) : Sound (setReboot s die
    phase st) := by
  unfold setReboot; (repeat' (with_reducible (first
    | assumption | apply rset_sound)))

theorem rebootStart_sound (s : State) (die : Nat) (p : Nat) (s_ok : Sound s) : Sound (rebootStart s die p) := by
  unfold rebootStart; (repeat' (with_reducible (first
    | assumption | apply modModule_sound | apply setReboot_sound | apply sendBringup_sound | (refine Sound.module ?_)
    | (refine legal_upd ?_))))

theorem startReboot_sound (s : State) (die : Nat) (s_ok : Sound s) : Sound (startReboot s die) := by
  unfold startReboot; (repeat' (with_reducible (first
    | assumption | apply rebootReset_sound | apply rebootStart_sound)))

theorem rebootFails_sound (s : State) (die : Nat) (p : Nat) (s_ok : Sound s) : Sound (rebootFails s die p) := by
  unfold rebootFails
  dsimp only
  have h : Sound (if die = 61 - activeDie s then modModule s (fun m => { m with standby := 0 }) else s) := by
    split
    · exact setStandby_sound s_ok (by decide)
    · exact s_ok
  have h2 := setReboot_sound _ die p 3 (oneCycle_sound _ _ (fun s h => containDie_sound _ s die raiseWith_sound h) h)
  exact sendBringup_sound _ _ _ _ (modModule_sound h2 h2.module)

theorem rebootDone_sound (s : State) (die : Nat) (p : Nat) (s_ok : Sound s) : Sound (rebootDone s die p) := by
  unfold rebootDone
  dsimp only
  have h0 := modDie_sound s die (fun d => { d with contained := false }) s_ok
  have h : Sound (if dieKind die = 4 then modModule (modDie s die (fun d => { d with contained := false })) (fun m => { m with standby := 1 }) else modDie s die (fun d => { d with contained := false })) := by
    split
    · exact setStandby_sound h0 (by decide)
    · exact h0
  have h2 := setReboot_sound _ die p 2 h
  exact modModule_sound h2 h2.module

theorem rebootPhase_sound (s : State) (ok : Bool) (s_ok : Sound s) : Sound (rebootPhase s ok) := by
  unfold rebootPhase; dsimp only; (repeat' (with_reducible (first
    | assumption | apply rebootStart_sound | apply rebootDone_sound | apply rebootFails_sound | apply bootDie_sound
    | apply raiseDetail_sound | apply sendBringup_sound | apply stopCode_sound | split)))

theorem execRebootPhase_sound (ok : Bool) (s : State) (s_ok : Sound s) : ∀ t, (execRebootPhase ok s) = .next t → Sound
    t := by
  intro t ht; unfold execRebootPhase at ht; split at ht <;> cases ht; (repeat' (with_reducible (first
    | assumption | apply rebootPhase_sound)))

theorem resync_sound (s : State) (s_ok : Sound s) : Sound (resync s) := by
  unfold resync
  dsimp only
  split
  · exact s_ok
  · split
    · exact setStandby_sound s_ok (by decide)
    · have h1 := bootDie_sound _ (61 - activeDie s) (rebootReset_sound s (61 - activeDie s) s_ok)
      split
      next e => exact setStandby_sound (modDie_sound _ _ _ (snd_sound e h1)) (by decide)
      next e => exact setStandby_sound (raiseDetail_sound _ _ _ (snd_sound e h1)) (by decide)

theorem execResynchronise_sound (s : State) (s_ok : Sound s) : ∀ t, (execResynchronise s) = .next t → Sound t := by
  intro t ht; unfold execResynchronise at ht; split at ht <;> cases ht; (repeat' (with_reducible (first
    | assumption | apply resync_sound)))

theorem sendThermal_sound (s : State) (die : Nat) (kind : Nat) (temp : BitVec 16) (limit : Nat) (s_ok : Sound s) :
    Sound (sendThermal s die kind temp limit) := by
  unfold sendThermal; (repeat' (with_reducible (first
    | assumption | apply sendEventW_sound)))

theorem trip_sound (s : State) (die : Nat) (temp : BitVec 16) (limit : Nat) (s_ok : Sound s) : Sound (trip s die temp
    limit) := by
  unfold trip
  dsimp only
  have h := pulseErr_sound _ (oneCycle_sound (fun s => noteRecord (stopModule raiseWith s (srcSteward die 2)).1
    (srcSteward die 2) 5 5 false (unitAddr die 0 0) []) _
    (fun s h => noteRecord_sound _ _ _ _ _ _ _ (stopModule_sound _ s (srcSteward die 2) raiseWith_sound h))
    (countSource_sound _ (srcSteward die 2) (sendThermal_sound s die 2 temp limit s_ok)))
  split
  · have h2 := endSession_sound raiseFault _ raiseFault_sound h
    exact powerOff_sound _ (modModule_sound h2 h2.module)
  · have h2 := enterStandby_sound _ h
    exact modModule_sound h2 ⟨h2.module.1, h2.module.2.1, by show 6 ≤ 6; decide, h2.module.2.2.2⟩

theorem warnAt_sound (s : State) (die : Nat) (temp : BitVec 16) (s_ok : Sound s) : Sound (warnAt s die temp) := by
  unfold warnAt; dsimp only; (repeat' (with_reducible (first
    | assumption | apply sendThermal_sound | apply fset_sound | split)))

theorem reading_sound (s : State) (die : Nat) (temp : BitVec 16) (s_ok : Sound s) : Sound (reading s die temp) := by
  unfold reading; dsimp only; (repeat' (with_reducible (first
    | assumption | apply fset_sound | apply warnAt_sound | apply trip_sound | split)))

theorem execThermal_sound (die : Nat) (temp : BitVec 16) (s : State) (s_ok : Sound s) : ∀ t, (execThermal die temp s)
    = .next t → Sound t := by
  intro t ht; unfold execThermal at ht; (repeat' (split at ht)) <;> (first | (cases ht; done) | ((try cases ht); (repeat' (with_reducible (first
    | assumption | (refine atUnit_sound _ _ _ _ _ ?_ _ (by assumption)) | apply reading_sound)))))

theorem execClockLock_sound (die : Nat) (s : State) (s_ok : Sound s) : ∀ t, (execClockLock die s) = .next t → Sound t
    := by
  intro t ht; unfold execClockLock at ht; (try dsimp only at ht); (repeat' (split at ht)) <;> (first | (cases ht; done) | ((try cases ht); (repeat' (with_reducible (first
    | assumption | apply modDie_sound | apply raiseFault_sound
    | (refine atUnit_sound _ _ _ _ _ ?_ _ (by assumption)))))))

end Sys2Proof.Machine
end

