-- ==== Sys2Proof/Laws/SoundEngine.lean ====
section
/-! SUPPORT. What keeps a state sound: the engines and every spindle command. -/

namespace Sys2Proof.Machine

theorem setQueue_sound (sp : Spindle) (q : Nat) (l : List (BitVec 2048)) (sp_ok : sp.canonical) : (setQueue sp q l).canonical := by
  exact canonical_upd sp_ok

theorem landTarget_sound (sp : Spindle) (i : Nat) (t : Target) (sp_ok : sp.canonical) : (landTarget sp i
    t).canonical := by
  unfold landTarget; (repeat' (with_reducible (first
    | assumption | apply setQueue_sound | apply spWrite_sound | apply spSetEngine_sound | split)))

theorem countHazard_sound (s : State) (key : Nat) (e : Nat) (hh : Hazard) (s_ok : Sound s) : Sound (countHazard s key
    e hh) := by
  unfold countHazard; (repeat' (with_reducible (first
    | assumption | apply eset_sound | apply raiseDetail_sound | apply eadd_sound | split)))

theorem countHazards_sound (s : State) (key : Nat) (e : Nat) (l : List Hazard) (s_ok : Sound s) : Sound (countHazards
    s key e l) := by
  unfold countHazards; (repeat' (with_reducible (first
    | assumption | apply countHazard_sound | (apply foldl_sound; intros))))

theorem landDue_sound (c : Nat) (i : Nat) (a : Nat) (a3 : Spindle) (a4 : List Hazard) (a3_ok : a3.canonical) :
    (landDue c i a a3 a4).1.canonical := by
  fun_induction landDue c i a a3 a4 <;> (repeat' (with_reducible (first
    | assumption | apply landTarget_sound | apply spSetEngine_sound | split | (dsimp only) | (intro _)
    | (apply_assumption -exfalso -symm))))

theorem landed_sound (s : State) (key : Nat) (i : Nat) (c : Nat) (s_ok : Sound s) : (landed s key i c).1.canonical := by
  unfold landed; (repeat' (with_reducible (first
    | assumption | apply getSp_sound | apply landDue_sound)))

theorem landBy_sound (s : State) (key : Nat) (i : Nat) (c : Nat) (s_ok : Sound s) : Sound (landBy s key i c) := by
  unfold landBy; (repeat' (with_reducible (first
    | assumption | apply setSp_sound | apply landed_sound | apply countHazards_sound)))

theorem drainAll_sound (s : State) (key : Nat) (i : Nat) (s_ok : Sound s) : Sound (drainAll s key i) := by
  unfold drainAll; (repeat' (with_reducible (first
    | assumption | apply landBy_sound | apply modEng_sound | apply eadd_sound)))

theorem takeFault_sound (s : State) (key : Nat) (i : Nat) (s_ok : Sound s) : Sound (takeFault s key i) := by
  unfold takeFault; dsimp only; (repeat' (with_reducible (first
    | assumption | apply eset_sound | apply modEng_sound | apply raiseDetail_sound | apply freeBelow_sound | split)))

theorem fault_sound (s : State) (key : Nat) (i : Nat) (code : Nat) (rep : Nat) (addr : Word) (s_ok : Sound s) : Sound
    (fault s key i code rep addr) := by
  unfold fault; (repeat' (with_reducible (first
    | assumption | apply takeFault_sound | apply drainAll_sound | apply getSp_sound | apply modEng_sound)))

theorem Plan.act_sound (self : Plan) (a : State) (self_ok : ∀ x, Sound x → Sound (self.act x)) (a_ok : Sound a) :
    Sound (Plan.act self a) := by
  unfold Plan.act; (repeat' (with_reducible (first
    | assumption | apply self_ok)))

theorem holdFor_sound (s : State) (key : Nat) (i : Nat) (cause : Nat) (s_ok : Sound s) : Sound (holdFor s key i cause)
    := by
  unfold holdFor; (repeat' (with_reducible (first
    | assumption | apply modEng_sound | apply eadd_sound)))

theorem waitFor_sound (s : State) (key : Nat) (i : Nat) (s_ok : Sound s) : Sound (waitFor s key i) := by
  unfold waitFor; (repeat' (with_reducible (first
    | assumption | apply modEng_sound | apply eadd_sound)))

theorem spend_sound (s : State) (key : Nat) (i : Nat) (n : Nat) (s_ok : Sound s) : Sound (spend s key i n) := by
  unfold spend; (repeat' (with_reducible (first
    | assumption | apply modEng_sound | apply eadd_sound)))

theorem traceCmd_sound (s : State) (key : Nat) (i : Nat) (s_ok : Sound s) : Sound (traceCmd s key i) := by
  unfold traceCmd; (repeat' (with_reducible (first
    | assumption | apply modEng_sound)))

theorem perform_sound (s : State) (key : Nat) (i : Nat) (n : Nat) (p : Plan) (s_ok : Sound s) (p_ok : ∀ x, Sound x →
    Sound (p.act x)) : Sound (perform s key i n p) := by
  unfold perform; (repeat' (with_reducible (first
    | assumption | apply spend_sound | apply modEng_sound | apply traceCmd_sound | apply Plan.act_sound | split
    | apply p_ok)))

theorem skip_sound (s : State) (key : Nat) (i : Nat) (s_ok : Sound s) : Sound (skip s key i) := by
  unfold skip; (repeat' (with_reducible (first
    | assumption | apply spend_sound | apply modEng_sound | apply traceCmd_sound)))

theorem passOver_sound (s : State) (key : Nat) (i : Nat) (s_ok : Sound s) : Sound (passOver s key i) := by
  unfold passOver; (repeat' (with_reducible (first
    | assumption | apply spend_sound | apply modEng_sound | apply traceCmd_sound | split)))

theorem issueRepeat_sound (s : State) (key : Nat) (i : Nat) (n : Nat) (first : List (Nat × Nat)) (hs : List Hazard) (p
    : Plan) (s_ok : Sound s) (p_ok : ∀ x, Sound x → Sound (p.act x)) : Sound (issueRepeat s key i n first hs p) := by
  unfold issueRepeat; dsimp only; (repeat' (with_reducible (first
    | assumption | apply perform_sound | apply fault_sound | apply countHazards_sound | split)))

theorem issueCmd_sound (s : State) (key : Nat) (i : Nat) (cmd : Nat) (plan : State → Nat → Plan) (s_ok : Sound s)
    (plan_ok : ∀ s1 n1 x1, Sound x1 → Sound ((plan s1 n1).act x1)) : Sound (issueCmd s key i cmd plan) := by
  unfold issueCmd; dsimp only; (repeat' (with_reducible (first
    | assumption | apply setSp_sound | apply landed_sound | apply issueRepeat_sound | apply skip_sound
    | apply holdFor_sound | apply fault_sound | apply countHazards_sound | apply passOver_sound | split
    | apply plan_ok)))

theorem atCommand_sound (s : State) (key : Nat) (i : Nat) (op : Nat) (k : State → Nat → State) (s_ok : Sound s) (k_ok
    : ∀ s1 n1, Sound s1 → Sound (k s1 n1)) : Sound (atCommand s key i op k) := by
  unfold atCommand; dsimp only; (repeat' (with_reducible (first
    | assumption | apply landBy_sound | apply beginCycle_sound | apply getSp_sound | apply holdFor_sound
    | apply fault_sound | split | apply k_ok)))

theorem execCmd_sound (die : Nat) (slot : Nat) (i : Nat) (op : Nat) (plan : Nat → Nat → Nat → State → Nat → Plan) (s :
    State) (plan_ok : ∀ a1 b1 c1 s1 n1 x1, Sound x1 → Sound ((plan a1 b1 c1 s1 n1).act x1)) (s_ok : Sound s) : ∀ t,
    (execCmd die slot i op plan s) = .next t → Sound t := by
  intro t ht; unfold execCmd at ht; split at ht <;> (first | (cases ht; done) | ((try cases ht); (repeat' (with_reducible (first
    | assumption | apply atCommand_sound | apply issueCmd_sound | (refine atEngine_sound _ _ _ _ ?_ _ (by assumption))
    | (dsimp only) | (intro _) | apply plan_ok)))))

theorem execLanding_sound (die : Nat) (slot : Nat) (engine : Nat) (s : State) (s_ok : Sound s) : ∀ t, (execLanding die
    slot engine s) = .next t → Sound t := by
  intro t ht; unfold execLanding at ht; dsimp only at ht; (repeat' (split at ht)) <;> (first | (cases ht; done) | ((try cases ht); (repeat' (with_reducible (first
    | assumption | apply landTarget_sound | apply modSp_sound | apply modEng_sound | apply countHazards_sound
    | (refine atEngine_sound _ _ _ _ ?_ _ (by assumption)) | (dsimp only) | (intro _))))))

theorem sparsePoison_sound (s : State) (key : Nat) (s_ok : Sound s) : Sound (sparsePoison s key) := by
  unfold sparsePoison; dsimp only; (repeat' (with_reducible (first
    | assumption | apply poisonRound_sound | split)))

theorem drainFault_sound (s : State) (key : Nat) (i : Nat) (code : Nat) (a : Word) (s_ok : Sound s) : Sound
    (drainFault s key i code a) := by
  unfold drainFault; (repeat' (with_reducible (first
    | assumption | apply modEng_sound | apply fault_sound | apply sparsePoison_sound | split)))

theorem finishDrain_sound (s : State) (key : Nat) (i : Nat) (s_ok : Sound s) : Sound (finishDrain s key i) := by
  unfold finishDrain; (repeat' (with_reducible (first
    | assumption | apply spend_sound | apply modEng_sound)))

theorem afterWait_sound (s : State) (key : Nat) (i : Nat) (a : Nat) (s_ok : Sound s) : Sound (afterWait s key i a) :=
    by
  unfold afterWait; (repeat' (with_reducible (first
    | assumption | apply fault_sound | apply finishDrain_sound | split)))

theorem endWait_sound (s : State) (key : Nat) (i : Nat) (a : Nat) (s_ok : Sound s) : Sound (endWait s key i a) := by
  unfold endWait; (repeat' (with_reducible (first
    | assumption | apply modEng_sound | apply afterWait_sound | split)))

theorem beginWait_sound (s : State) (key : Nat) (i : Nat) (s_ok : Sound s) : Sound (beginWait s key i) := by
  unfold beginWait; (repeat' (with_reducible (first
    | assumption | apply modEng_sound)))

theorem resumeDrain_sound (s : State) (key : Nat) (i : Nat) (k : State → State) (s_ok : Sound s) (k_ok : ∀ s1, Sound
    s1 → Sound (k s1)) : Sound (resumeDrain s key i k) := by
  unfold resumeDrain; (repeat' (with_reducible (first
    | assumption | apply afterWait_sound | split | apply k_ok)))

theorem drainCmd_sound (s : State) (key : Nat) (i : Nat) (cmd : Nat) (k : State → State) (s_ok : Sound s) (k_ok : ∀
    s1, Sound s1 → Sound (k s1)) : Sound (drainCmd s key i cmd k) := by
  unfold drainCmd; dsimp only; (repeat' (with_reducible (first
    | assumption | apply drainAll_sound | apply setSp_sound | apply landed_sound | apply resumeDrain_sound
    | apply skip_sound | apply modEng_sound | apply fault_sound | apply countHazards_sound | apply traceCmd_sound
    | split | apply k_ok)))

theorem execDrain_sound (die : Nat) (slot : Nat) (i : Nat) (op : Nat) (k : Nat → Nat → Nat → State → State) (s :
    State) (k_ok : ∀ a1 b1 c1 s1, Sound s1 → Sound (k a1 b1 c1 s1)) (s_ok : Sound s) : ∀ t, (execDrain die slot i op k
    s) = .next t → Sound t := by
  intro t ht; unfold execDrain at ht; split at ht <;> (first | (cases ht; done) | ((try cases ht); (repeat' (with_reducible (first
    | assumption | apply drainCmd_sound | apply atCommand_sound | (refine atEngine_sound _ _ _ _ ?_ _ (by assumption))
    | (dsimp only) | (intro _) | apply k_ok)))))

theorem unlessErr_sound (s : State) (key : Nat) (i : Nat) (outlet : Bool) (k : State → State) (s_ok : Sound s) (k_ok :
    ∀ s1, Sound s1 → Sound (k s1)) : Sound (unlessErr s key i outlet k) := by
  unfold unlessErr; (repeat' (with_reducible (first
    | assumption | apply drainFault_sound | split | apply k_ok)))

theorem putFlag_sound (s : State) (key : Nat) (n : Nat) (v : Bool) (s_ok : Sound s) : Sound (putFlag s key n v) := by
  unfold putFlag; (repeat' (with_reducible (first
    | assumption | apply modSp_sound | apply canonical_upd | (dsimp only) | (intro _))))

theorem settleFlag_sound (s : State) (key : Nat) (n : Nat) (s_ok : Sound s) : Sound (settleFlag s key n) := by
  unfold settleFlag; (repeat' (with_reducible (first
    | assumption | apply endWait_sound | apply modSp_sound | apply modSp_sound | apply canonical_upd | split
    | (dsimp only) | (intro _) | (apply foldl_sound; intros))))

theorem raiseFlag_sound (s : State) (key : Nat) (n : Nat) (s_ok : Sound s) : Sound (raiseFlag s key n) := by
  unfold raiseFlag; dsimp only; (repeat' (with_reducible (first
    | assumption | apply putFlag_sound | apply settleFlag_sound | apply freeBelow_sound | apply newCycle_sound
    | split)))

theorem execSyncRaise_sound (die : Nat) (slot : Nat) (engine : Nat) (s : State) (s_ok : Sound s) : ∀ t, (execSyncRaise
    die slot engine s) = .next t → Sound t := by
  exact execDrain_sound _ _ _ _ _ _ (fun a b c s h => unlessErr_sound s a b false _ h
    (fun s h => finishDrain_sound _ a b (sendRaise_sound s _ _ _ h))) s_ok

theorem syncWait_sound (s : State) (key : Nat) (i : Nat) (c : Nat) (s_ok : Sound s) : Sound (syncWait s key i c) := by
  unfold syncWait; (repeat' (with_reducible (first
    | assumption | apply settleFlag_sound | apply beginWait_sound | apply waitFor_sound | apply newCycle_sound
    | apply unlessErr_sound | split | (dsimp only) | (intro _))))

theorem execSyncWait_sound (die : Nat) (slot : Nat) (engine : Nat) (s : State) (s_ok : Sound s) : ∀ t, (execSyncWait
    die slot engine s) = .next t → Sound t := by
  exact execDrain_sound _ _ _ _ _ _ (fun a b c s h => syncWait_sound s a b c h) s_ok

theorem arriveRaise_sound (s : State) (l : Nat) (s_ok : Sound s) : Sound (arriveRaise s l) := by
  unfold arriveRaise; dsimp only; (repeat' (with_reducible (first
    | assumption | apply fadd_sound | apply raiseFlag_sound | split
    | (fail_if_no_progress (refine sound_upd ?_ rfl rfl rfl rfl rfl)))))

theorem execRaise_sound (spindle : Nat) (s : State) (s_ok : Sound s) : ∀ t, (execRaise spindle s) = .next t → Sound t
    := by
  intro t ht; unfold execRaise at ht; split at ht <;> (first | (cases ht; done) | ((try cases ht); (repeat' (with_reducible (first
    | assumption | (refine atUnit_sound _ _ _ _ _ ?_ _ (by assumption)) | apply arriveRaise_sound)))))

theorem setBarchan_sound (s : State) (key : Nat) (b : Nat) (v : Barchan) (s_ok : Sound s) : Sound (setBarchan s key b
    v) := by
  unfold setBarchan; (repeat' (with_reducible (first
    | assumption | apply modSp_sound | apply canonical_upd | (dsimp only) | (intro _))))

theorem applyArrival_sound (s : State) (die : Nat) (home : Nat) (b : Nat) (p : Nat) (s_ok : Sound s) : Sound
    (applyArrival s die home b p).2 := by
  unfold applyArrival; dsimp only; (repeat' (with_reducible (first
    | assumption | apply getSp_sound | apply setBarchan_sound | split)))

theorem settleBarWaits_sound (s : State) (die : Nat) (home : Nat) (b : Nat) (s_ok : Sound s) : Sound (settleBarWaits s
    die home b) := by
  unfold settleBarWaits; dsimp only; (repeat' (with_reducible (first
    | assumption | apply endWait_sound | apply getSp_sound | split | (apply foldl_sound; intros))))

theorem release_sound (s : State) (key : Nat) (b : Nat) (s_ok : Sound s) : Sound (release s key b) := by
  unfold release; dsimp only; (repeat' (with_reducible (first
    | assumption | apply getSp_sound | apply setBarchan_sound | apply settleBarWaits_sound | split)))

theorem releaseDue_sound (s : State) (key : Nat) (b : Nat) (s_ok : Sound s) : Sound (releaseDue s key b) := by
  unfold releaseDue; dsimp only; (repeat' (with_reducible (first
    | assumption | apply getSp_sound | apply release_sound | split)))

theorem arrivalAnswer_sound (s : State) (die : Nat) (home : Nat) (b : Nat) (p : Nat) (cause : Nat) (s_ok : Sound s) :
    Sound (arrivalAnswer s die home b p cause) := by
  unfold arrivalAnswer; dsimp only; (repeat' (with_reducible (first
    | assumption | apply endWait_sound | apply getSp_sound | split)))

theorem barArrive_sound (s : State) (key : Nat) (i : Nat) (c : Nat) (s_ok : Sound s) : Sound (barArrive s key i c) :=
    by
  unfold barArrive; (repeat' (with_reducible (first
    | assumption | apply beginWait_sound | apply waitFor_sound | apply unlessErr_sound | split | (dsimp only)
    | (intro _) | (fail_if_no_progress (refine sound_upd ?_ rfl rfl rfl rfl rfl)))))

theorem execBarArrive_sound (die : Nat) (slot : Nat) (engine : Nat) (s : State) (s_ok : Sound s) : ∀ t, (execBarArrive
    die slot engine s) = .next t → Sound t := by
  exact execDrain_sound _ _ _ _ _ _ (fun a b c s h => barArrive_sound s a b c h) s_ok

theorem barWait_sound (s : State) (key : Nat) (i : Nat) (c : Nat) (s_ok : Sound s) : Sound (barWait s key i c) := by
  unfold barWait; (repeat' (with_reducible (first
    | assumption | apply getSp_sound | apply beginWait_sound | apply fault_sound | apply finishDrain_sound
    | apply waitFor_sound | apply unlessErr_sound | split | (dsimp only) | (intro _))))

theorem execBarWait_sound (die : Nat) (slot : Nat) (engine : Nat) (s : State) (s_ok : Sound s) : ∀ t, (execBarWait die
    slot engine s) = .next t → Sound t := by
  exact execDrain_sound _ _ _ _ _ _ (fun a b c s h => barWait_sound s a b c h) s_ok

theorem homeArrival_sound (s : State) (die : Nat) (s_ok : Sound s) : Sound (homeArrival s die) := by
  unfold homeArrival; dsimp only; (repeat' (with_reducible (first
    | assumption | apply arrivalAnswer_sound | apply releaseDue_sound | apply applyArrival_sound | split
    | (fail_if_no_progress (refine sound_upd ?_ rfl rfl rfl rfl rfl)))))

theorem execBarchanArrival_sound (die : Nat) (s : State) (s_ok : Sound s) : ∀ t, (execBarchanArrival die s) = .next t
    → Sound t := by
  intro t ht; unfold execBarchanArrival at ht; split at ht <;> (first | (cases ht; done) | ((try cases ht); (repeat' (with_reducible (first
    | assumption | apply homeArrival_sound | (refine atSpindleDie_sound _ _ ?_ _ (by assumption)))))))

theorem execFurtherRelease_sound (die : Nat) (slot : Nat) (b : Nat) (s : State) (s_ok : Sound s) : ∀ t,
    (execFurtherRelease die slot b s) = .next t → Sound t := by
  intro t ht; unfold execFurtherRelease at ht; (repeat' (split at ht)) <;> (first | (cases ht; done) | ((try cases ht); (repeat' (with_reducible (first
    | assumption | apply releaseDue_sound)))))

theorem networkWait_sound (s : State) (key : Nat) (i : Nat) (waits : Bool) (k : State → State) (s_ok : Sound s) (k_ok
    : ∀ s1, Sound s1 → Sound (k s1)) : Sound (networkWait s key i waits k) := by
  unfold networkWait; (repeat' (with_reducible (first
    | assumption | apply modEng_sound | apply beginWait_sound | apply waitFor_sound | apply unlessErr_sound | split)))

theorem haltEngine_sound (s : State) (key : Nat) (i : Nat) (s_ok : Sound s) : Sound (haltEngine s key i) := by
  unfold haltEngine; (repeat' (with_reducible (first
    | assumption | apply spend_sound | apply modEng_sound | apply networkWait_sound | (dsimp only) | (intro _))))

theorem execHalt_sound (die : Nat) (slot : Nat) (engine : Nat) (s : State) (s_ok : Sound s) : ∀ t, (execHalt die slot
    engine s) = .next t → Sound t := by
  exact execDrain_sound _ _ _ _ _ _ (fun a b c s h => haltEngine_sound s a b h) s_ok

theorem planNop_sound (key : Nat) (i : Nat) (c : Nat) (s : State) (rep : Nat) : ∀ x, Sound x → Sound ((planNop key i c
    s rep).act x) := by
  exact fun x hx => hx

theorem execNop_sound (die : Nat) (slot : Nat) (engine : Nat) (s : State) (s_ok : Sound s) : ∀ t, (execNop die slot
    engine s) = .next t → Sound t := by
  exact execCmd_sound _ _ _ _ _ _ (fun a b c s n => planNop_sound a b c s n) s_ok

theorem planJ_sound (key : Nat) (i : Nat) (c : Nat) (s : State) (rep : Nat) : ∀ x, Sound x → Sound ((planJ key i c s
    rep).act x) := by
  exact fun x hx => hx

theorem execJ_sound (die : Nat) (slot : Nat) (engine : Nat) (s : State) (s_ok : Sound s) : ∀ t, (execJ die slot engine
    s) = .next t → Sound t := by
  exact execCmd_sound _ _ _ _ _ _ (fun a b c s n => planJ_sound a b c s n) s_ok

theorem planWhorl_sound (key : Nat) (i : Nat) (c : Nat) (s : State) (rep : Nat) : ∀ x, Sound x → Sound ((planWhorl key
    i c s rep).act x) := by
  exact fun x hx => hx

theorem execWhorl_sound (die : Nat) (slot : Nat) (engine : Nat) (s : State) (s_ok : Sound s) : ∀ t, (execWhorl die
    slot engine s) = .next t → Sound t := by
  exact execCmd_sound _ _ _ _ _ _ (fun a b c s n => planWhorl_sound a b c s n) s_ok

theorem planSLi_sound (key : Nat) (i : Nat) (c : Nat) (s : State) (rep : Nat) : ∀ x, Sound x → Sound ((planSLi key i c
    s rep).act x) := by
  exact fun x hx => hx

theorem execSLi_sound (die : Nat) (slot : Nat) (engine : Nat) (s : State) (s_ok : Sound s) : ∀ t, (execSLi die slot
    engine s) = .next t → Sound t := by
  exact execCmd_sound _ _ _ _ _ _ (fun a b c s n => planSLi_sound a b c s n) s_ok

theorem planSOp_sound (key : Nat) (i : Nat) (c : Nat) (s : State) (rep : Nat) : ∀ x, Sound x → Sound ((planSOp key i c
    s rep).act x) := by
  exact fun x hx => hx

theorem execSOp_sound (die : Nat) (slot : Nat) (engine : Nat) (s : State) (s_ok : Sound s) : ∀ t, (execSOp die slot
    engine s) = .next t → Sound t := by
  exact execCmd_sound _ _ _ _ _ _ (fun a b c s n => planSOp_sound a b c s n) s_ok

theorem planASet_sound (key : Nat) (i : Nat) (c : Nat) (s : State) (rep : Nat) : ∀ x, Sound x → Sound ((planASet key i
    c s rep).act x) := by
  exact fun x hx => hx

theorem execASet_sound (die : Nat) (slot : Nat) (engine : Nat) (s : State) (s_ok : Sound s) : ∀ t, (execASet die slot
    engine s) = .next t → Sound t := by
  exact execCmd_sound _ _ _ _ _ _ (fun a b c s n => planASet_sound a b c s n) s_ok

theorem sendGet_sound (s : State) (key : Nat) (c : Nat) (rep : Nat) (handle : Nat) (addr : Nat) (n : Nat) (s_ok :
    Sound s) : Sound (sendGet s key c rep handle addr n) := by
  unfold sendGet; (repeat' (with_reducible (first
    | assumption | apply modEng_sound | apply sendFrom_sound)))

theorem planInGet_sound (key : Nat) (i : Nat) (c : Nat) (s : State) (rep : Nat) : ∀ x, Sound x → Sound ((planInGet key
    i c s rep).act x) := by
  intro x hx; unfold planInGet; dsimp only; (repeat' (with_reducible (first
    | assumption | apply sendGet_sound)))

theorem execInGet_sound (die : Nat) (slot : Nat) (engine : Nat) (s : State) (s_ok : Sound s) : ∀ t, (execInGet die
    slot engine s) = .next t → Sound t := by
  exact execCmd_sound _ _ _ _ _ _ (fun a b c s n => planInGet_sound a b c s n) s_ok

theorem planInCopy_sound (key : Nat) (i : Nat) (c : Nat) (s : State) (rep : Nat) : ∀ x, Sound x → Sound ((planInCopy
    key i c s rep).act x) := by
  exact fun x hx => hx

theorem execInCopy_sound (die : Nat) (slot : Nat) (engine : Nat) (s : State) (s_ok : Sound s) : ∀ t, (execInCopy die
    slot engine s) = .next t → Sound t := by
  exact execCmd_sound _ _ _ _ _ _ (fun a b c s n => planInCopy_sound a b c s n) s_ok

theorem planInFill_sound (key : Nat) (i : Nat) (c : Nat) (s : State) (rep : Nat) : ∀ x, Sound x → Sound ((planInFill
    key i c s rep).act x) := by
  exact fun x hx => hx

theorem execInFill_sound (die : Nat) (slot : Nat) (engine : Nat) (s : State) (s_ok : Sound s) : ∀ t, (execInFill die
    slot engine s) = .next t → Sound t := by
  exact execCmd_sound _ _ _ _ _ _ (fun a b c s n => planInFill_sound a b c s n) s_ok

theorem planInPush_sound (key : Nat) (i : Nat) (c : Nat) (s : State) (rep : Nat) : ∀ x, Sound x → Sound ((planInPush
    key i c s rep).act x) := by
  exact fun x hx => hx

theorem execInPush_sound (die : Nat) (slot : Nat) (engine : Nat) (s : State) (s_ok : Sound s) : ∀ t, (execInPush die
    slot engine s) = .next t → Sound t := by
  exact execCmd_sound _ _ _ _ _ _ (fun a b c s n => planInPush_sound a b c s n) s_ok

theorem planV2_sound (f : Nat → Nat → Nat → Nat) (key : Nat) (i : Nat) (c : Nat) (s : State) (rep : Nat) : ∀ x, Sound
    x → Sound ((planV2 f key i c s rep).act x) := by
  exact fun x hx => hx

theorem planVLd_sound (key : Nat) (i : Nat) (c : Nat) (s : State) (rep : Nat) : ∀ x, Sound x → Sound ((planVLd key i c
    s rep).act x) := by
  exact fun x hx => hx

theorem execVLd_sound (die : Nat) (slot : Nat) (engine : Nat) (s : State) (s_ok : Sound s) : ∀ t, (execVLd die slot
    engine s) = .next t → Sound t := by
  exact execCmd_sound _ _ _ _ _ _ (fun a b c s n => planVLd_sound a b c s n) s_ok

theorem planVSt_sound (key : Nat) (i : Nat) (c : Nat) (s : State) (rep : Nat) : ∀ x, Sound x → Sound ((planVSt key i c
    s rep).act x) := by
  exact fun x hx => hx

theorem execVSt_sound (die : Nat) (slot : Nat) (engine : Nat) (s : State) (s_ok : Sound s) : ∀ t, (execVSt die slot
    engine s) = .next t → Sound t := by
  exact execCmd_sound _ _ _ _ _ _ (fun a b c s n => planVSt_sound a b c s n) s_ok

theorem planVPush_sound (key : Nat) (i : Nat) (c : Nat) (s : State) (rep : Nat) : ∀ x, Sound x → Sound ((planVPush key
    i c s rep).act x) := by
  exact fun x hx => hx

theorem execVPush_sound (die : Nat) (slot : Nat) (engine : Nat) (s : State) (s_ok : Sound s) : ∀ t, (execVPush die
    slot engine s) = .next t → Sound t := by
  exact execCmd_sound _ _ _ _ _ _ (fun a b c s n => planVPush_sound a b c s n) s_ok

theorem popEntry_sound (key : Nat) (q : Nat) (s : State) (s_ok : Sound s) : Sound (popEntry key q s) := by
  unfold popEntry; (repeat' (with_reducible (first
    | assumption | apply setQueue_sound | apply modSp_sound | (dsimp only) | (intro _))))

theorem planVPop_sound (key : Nat) (i : Nat) (c : Nat) (s : State) (rep : Nat) : ∀ x, Sound x → Sound ((planVPop key i
    c s rep).act x) := by
  intro x hx; unfold planVPop; dsimp only; (repeat' (with_reducible (first
    | assumption | apply getSp_sound | apply popEntry_sound)))

theorem execVPop_sound (die : Nat) (slot : Nat) (engine : Nat) (s : State) (s_ok : Sound s) : ∀ t, (execVPop die slot
    engine s) = .next t → Sound t := by
  exact execCmd_sound _ _ _ _ _ _ (fun a b c s n => planVPop_sound a b c s n) s_ok

theorem execVAdd_sound (die : Nat) (slot : Nat) (engine : Nat) (s : State) (s_ok : Sound s) : ∀ t, (execVAdd die slot
    engine s) = .next t → Sound t := by
  exact execCmd_sound _ _ _ _ _ _ (fun a b c s n => planV2_sound elAdd a b c s n) s_ok

theorem execVMul_sound (die : Nat) (slot : Nat) (engine : Nat) (s : State) (s_ok : Sound s) : ∀ t, (execVMul die slot
    engine s) = .next t → Sound t := by
  exact execCmd_sound _ _ _ _ _ _ (fun a b c s n => planV2_sound elMul a b c s n) s_ok

theorem execVMax_sound (die : Nat) (slot : Nat) (engine : Nat) (s : State) (s_ok : Sound s) : ∀ t, (execVMax die slot
    engine s) = .next t → Sound t := by
  exact execCmd_sound _ _ _ _ _ _ (fun a b c s n => planV2_sound (elPick true) a b c s n) s_ok

theorem execVMin_sound (die : Nat) (slot : Nat) (engine : Nat) (s : State) (s_ok : Sound s) : ∀ t, (execVMin die slot
    engine s) = .next t → Sound t := by
  exact execCmd_sound _ _ _ _ _ _ (fun a b c s n => planV2_sound (elPick false) a b c s n) s_ok

theorem planVCvt_sound (key : Nat) (i : Nat) (c : Nat) (s : State) (rep : Nat) : ∀ x, Sound x → Sound ((planVCvt key i
    c s rep).act x) := by
  exact fun x hx => hx

theorem execVCvt_sound (die : Nat) (slot : Nat) (engine : Nat) (s : State) (s_ok : Sound s) : ∀ t, (execVCvt die slot
    engine s) = .next t → Sound t := by
  exact execCmd_sound _ _ _ _ _ _ (fun a b c s n => planVCvt_sound a b c s n) s_ok

theorem planVFma_sound (key : Nat) (i : Nat) (c : Nat) (s : State) (rep : Nat) : ∀ x, Sound x → Sound ((planVFma key i
    c s rep).act x) := by
  exact fun x hx => hx

theorem execVFma_sound (die : Nat) (slot : Nat) (engine : Nat) (s : State) (s_ok : Sound s) : ∀ t, (execVFma die slot
    engine s) = .next t → Sound t := by
  exact execCmd_sound _ _ _ _ _ _ (fun a b c s n => planVFma_sound a b c s n) s_ok

theorem planVFun_sound (g : FVal → FVal) (key : Nat) (i : Nat) (c : Nat) (s : State) (rep : Nat) : ∀ x, Sound x →
    Sound ((planVFun g key i c s rep).act x) := by
  exact fun x hx => hx

theorem execVExp_sound (die : Nat) (slot : Nat) (engine : Nat) (s : State) (s_ok : Sound s) : ∀ t, (execVExp die slot
    engine s) = .next t → Sound t := by
  exact execCmd_sound _ _ _ _ _ _ (fun a b c s n => planVFun_sound fExp a b c s n) s_ok

theorem execVRcp_sound (die : Nat) (slot : Nat) (engine : Nat) (s : State) (s_ok : Sound s) : ∀ t, (execVRcp die slot
    engine s) = .next t → Sound t := by
  exact execCmd_sound _ _ _ _ _ _ (fun a b c s n => planVFun_sound fRcp a b c s n) s_ok

theorem execVSqrt_sound (die : Nat) (slot : Nat) (engine : Nat) (s : State) (s_ok : Sound s) : ∀ t, (execVSqrt die
    slot engine s) = .next t → Sound t := by
  exact execCmd_sound _ _ _ _ _ _ (fun a b c s n => planVFun_sound fSqrt a b c s n) s_ok

theorem planVCard_sound (key : Nat) (i : Nat) (c : Nat) (s : State) (rep : Nat) : ∀ x, Sound x → Sound ((planVCard key
    i c s rep).act x) := by
  exact fun x hx => hx

theorem execVCard_sound (die : Nat) (slot : Nat) (engine : Nat) (s : State) (s_ok : Sound s) : ∀ t, (execVCard die
    slot engine s) = .next t → Sound t := by
  exact execCmd_sound _ _ _ _ _ _ (fun a b c s n => planVCard_sound a b c s n) s_ok

theorem planMmClr_sound (key : Nat) (i : Nat) (c : Nat) (s : State) (rep : Nat) : ∀ x, Sound x → Sound ((planMmClr key
    i c s rep).act x) := by
  exact fun x hx => hx

theorem execMmClr_sound (die : Nat) (slot : Nat) (engine : Nat) (s : State) (s_ok : Sound s) : ∀ t, (execMmClr die
    slot engine s) = .next t → Sound t := by
  exact execCmd_sound _ _ _ _ _ _ (fun a b c s n => planMmClr_sound a b c s n) s_ok

theorem planMmT_sound (key : Nat) (i : Nat) (c : Nat) (s : State) (rep : Nat) : ∀ x, Sound x → Sound ((planMmT key i c
    s rep).act x) := by
  intro x hx; unfold planMmT; (try dsimp only); (repeat' (with_reducible split)) <;> (first | exact hx | (repeat' (with_reducible (first
    | assumption | apply modEng_sound))))

theorem execMmT_sound (die : Nat) (slot : Nat) (engine : Nat) (s : State) (s_ok : Sound s) : ∀ t, (execMmT die slot
    engine s) = .next t → Sound t := by
  exact execCmd_sound _ _ _ _ _ _ (fun a b c s n => planMmT_sound a b c s n) s_ok

theorem planMmSt_sound (key : Nat) (i : Nat) (c : Nat) (s : State) (rep : Nat) : ∀ x, Sound x → Sound ((planMmSt key i
    c s rep).act x) := by
  exact fun x hx => hx

theorem execMmSt_sound (die : Nat) (slot : Nat) (engine : Nat) (s : State) (s_ok : Sound s) : ∀ t, (execMmSt die slot
    engine s) = .next t → Sound t := by
  exact execCmd_sound _ _ _ _ _ _ (fun a b c s n => planMmSt_sound a b c s n) s_ok

theorem exactRange_sound (key : Nat) (i : Nat) (mode : Nat) (a : Nat) (left : List Nat) (s : State) (s_ok : Sound s) :
    Sound (exactRange key i mode a left s) := by
  unfold exactRange; dsimp only; (repeat' (with_reducible (first
    | assumption | apply modEng_sound | apply eadd_sound | split)))

theorem planAccX_sound (key : Nat) (i : Nat) (c : Nat) (s : State) (rep : Nat) : ∀ x, Sound x → Sound ((planAccX key i
    c s rep).act x) := by
  intro x hx; unfold planAccX; (try dsimp only); (repeat' (with_reducible split)) <;> (first | exact hx | (repeat' (with_reducible (first
    | assumption | apply exactRange_sound))))

theorem execAccX_sound (die : Nat) (slot : Nat) (engine : Nat) (s : State) (s_ok : Sound s) : ∀ t, (execAccX die slot
    engine s) = .next t → Sound t := by
  exact execCmd_sound _ _ _ _ _ _ (fun a b c s n => planAccX_sound a b c s n) s_ok

theorem planAccC_sound (key : Nat) (i : Nat) (c : Nat) (s : State) (rep : Nat) : ∀ x, Sound x → Sound ((planAccC key i
    c s rep).act x) := by
  intro x hx; unfold planAccC; dsimp only; (repeat' (with_reducible (first
    | assumption | apply exactRange_sound)))

theorem execAccC_sound (die : Nat) (slot : Nat) (engine : Nat) (s : State) (s_ok : Sound s) : ∀ t, (execAccC die slot
    engine s) = .next t → Sound t := by
  exact execCmd_sound _ _ _ _ _ _ (fun a b c s n => planAccC_sound a b c s n) s_ok

theorem planAccR_sound (key : Nat) (i : Nat) (c : Nat) (s : State) (rep : Nat) : ∀ x, Sound x → Sound ((planAccR key i
    c s rep).act x) := by
  exact fun x hx => hx

theorem execAccR_sound (die : Nat) (slot : Nat) (engine : Nat) (s : State) (s_ok : Sound s) : ∀ t, (execAccR die slot
    engine s) = .next t → Sound t := by
  exact execCmd_sound _ _ _ _ _ _ (fun a b c s n => planAccR_sound a b c s n) s_ok

theorem planPairs_sound (key : Nat) (i : Nat) (c : Nat) (s : State) (n : Nat) (k : Nat) (cyc : Nat) (errs : List (Nat
    × Word)) : ∀ x, Sound x → Sound ((planPairs key i c s n k cyc errs).act x) := by
  exact fun x hx => hx

theorem planSortK_sound (key : Nat) (i : Nat) (c : Nat) (s : State) (rep : Nat) : ∀ x, Sound x → Sound ((planSortK key
    i c s rep).act x) := by
  exact fun x hx => hx

theorem execSortK_sound (die : Nat) (slot : Nat) (engine : Nat) (s : State) (s_ok : Sound s) : ∀ t, (execSortK die
    slot engine s) = .next t → Sound t := by
  exact execCmd_sound _ _ _ _ _ _ (fun a b c s n => planSortK_sound a b c s n) s_ok

theorem planTopkK_sound (key : Nat) (i : Nat) (c : Nat) (s : State) (rep : Nat) : ∀ x, Sound x → Sound ((planTopkK key
    i c s rep).act x) := by
  exact fun x hx => hx

theorem execTopkK_sound (die : Nat) (slot : Nat) (engine : Nat) (s : State) (s_ok : Sound s) : ∀ t, (execTopkK die
    slot engine s) = .next t → Sound t := by
  exact execCmd_sound _ _ _ _ _ _ (fun a b c s n => planTopkK_sound a b c s n) s_ok

theorem planSelect_sound (key : Nat) (i : Nat) (c : Nat) (s : State) (n : Nat) (errs : List (Nat × Word)) (more : List
    (Nat × Nat)) (steps : List Nat) (reads : List (Nat × Nat)) (keep : Nat → Nat → Bool) : ∀ x, Sound x → Sound
    ((planSelect key i c s n errs more steps reads keep).act x) := by
  exact fun x hx => hx

theorem planFilt_sound (key : Nat) (i : Nat) (c : Nat) (s : State) (rep : Nat) : ∀ x, Sound x → Sound ((planFilt key i
    c s rep).act x) := by
  exact fun x hx => hx

theorem execFilt_sound (die : Nat) (slot : Nat) (engine : Nat) (s : State) (s_ok : Sound s) : ∀ t, (execFilt die slot
    engine s) = .next t → Sound t := by
  exact execCmd_sound _ _ _ _ _ _ (fun a b c s n => planFilt_sound a b c s n) s_ok

theorem planCompact_sound (key : Nat) (i : Nat) (c : Nat) (s : State) (rep : Nat) : ∀ x, Sound x → Sound ((planCompact
    key i c s rep).act x) := by
  exact fun x hx => hx

theorem execCompact_sound (die : Nat) (slot : Nat) (engine : Nat) (s : State) (s_ok : Sound s) : ∀ t, (execCompact die
    slot engine s) = .next t → Sound t := by
  exact execCmd_sound _ _ _ _ _ _ (fun a b c s n => planCompact_sound a b c s n) s_ok

theorem planPadC_sound (key : Nat) (i : Nat) (c : Nat) (s : State) (rep : Nat) : ∀ x, Sound x → Sound ((planPadC key i
    c s rep).act x) := by
  exact fun x hx => hx

theorem execPadC_sound (die : Nat) (slot : Nat) (engine : Nat) (s : State) (s_ok : Sound s) : ∀ t, (execPadC die slot
    engine s) = .next t → Sound t := by
  exact execCmd_sound _ _ _ _ _ _ (fun a b c s n => planPadC_sound a b c s n) s_ok

theorem badTile_sound (key : Nat) (i : Nat) (a : Nat) (s : State) (s_ok : Sound s) : Sound (badTile key i a s) := by
  unfold badTile; (repeat' (with_reducible (first
    | assumption | apply modEng_sound)))

theorem planTile_sound (key : Nat) (i : Nat) (c : Nat) (s : State) : ∀ x, Sound x → Sound ((planTile key i c s).act x)
    := by
  intro x hx; unfold planTile; (try dsimp only); (repeat' (with_reducible split)) <;> (first | exact hx | (repeat' (with_reducible (first
    | assumption | apply badTile_sound))))

theorem planRecord_sound (key : Nat) (i : Nat) (c : Nat) (s : State) : ∀ x, Sound x → Sound ((planRecord key i c
    s).act x) := by
  intro x hx; unfold planRecord; (try dsimp only); (repeat' (with_reducible split)) <;> (first | exact hx | (repeat' (with_reducible (first
    | assumption | apply badTile_sound))))

theorem planTileExp_sound (key : Nat) (i : Nat) (c : Nat) (s : State) (rep : Nat) : ∀ x, Sound x → Sound ((planTileExp
    key i c s rep).act x) := by
  intro x hx
  unfold planTileExp
  split
  · exact planRecord_sound _ _ _ _ x hx
  · exact planTile_sound _ _ _ _ x hx

theorem execTileExp_sound (die : Nat) (slot : Nat) (engine : Nat) (s : State) (s_ok : Sound s) : ∀ t, (execTileExp die
    slot engine s) = .next t → Sound t := by
  exact execCmd_sound _ _ _ _ _ _ (fun a b c s n => planTileExp_sound a b c s n) s_ok

theorem planTileCmp_sound (key : Nat) (i : Nat) (c : Nat) (s : State) (rep : Nat) : ∀ x, Sound x → Sound ((planTileCmp
    key i c s rep).act x) := by
  intro x hx; unfold planTileCmp; (try dsimp only); (repeat' (with_reducible split)) <;> (first | exact hx | (repeat' (with_reducible (first
    | assumption | apply fadd_sound))))

theorem execTileCmp_sound (die : Nat) (slot : Nat) (engine : Nat) (s : State) (s_ok : Sound s) : ∀ t, (execTileCmp die
    slot engine s) = .next t → Sound t := by
  exact execCmd_sound _ _ _ _ _ _ (fun a b c s n => planTileCmp_sound a b c s n) s_ok

theorem sendOut_sound (key : Nat) (f : Fields) (res : Option Nat) (s : State) (s_ok : Sound s) : Sound (sendOut key f
    res s) := by
  unfold sendOut; (repeat' (with_reducible (first
    | assumption | apply modEng_sound | apply sendFrom_sound)))

theorem planOutPut_sound (key : Nat) (i : Nat) (c : Nat) (s : State) (rep : Nat) : ∀ x, Sound x → Sound ((planOutPut
    key i c s rep).act x) := by
  intro x hx; unfold planOutPut; dsimp only; (repeat' (with_reducible (first
    | assumption | apply sendOut_sound)))

theorem execOutPut_sound (die : Nat) (slot : Nat) (engine : Nat) (s : State) (s_ok : Sound s) : ∀ t, (execOutPut die
    slot engine s) = .next t → Sound t := by
  exact execCmd_sound _ _ _ _ _ _ (fun a b c s n => planOutPut_sound a b c s n) s_ok

theorem planOutDrain_sound (key : Nat) (i : Nat) (c : Nat) (s : State) (rep : Nat) : ∀ x, Sound x → Sound
    ((planOutDrain key i c s rep).act x) := by
  intro x hx; unfold planOutDrain; dsimp only; (repeat' (with_reducible (first
    | assumption | apply getSp_sound | apply sendOut_sound | apply popEntry_sound)))

theorem execOutDrain_sound (die : Nat) (slot : Nat) (engine : Nat) (s : State) (s_ok : Sound s) : ∀ t, (execOutDrain
    die slot engine s) = .next t → Sound t := by
  exact execCmd_sound _ _ _ _ _ _ (fun a b c s n => planOutDrain_sound a b c s n) s_ok

theorem planOutAtom_sound (key : Nat) (i : Nat) (c : Nat) (s : State) (rep : Nat) : ∀ x, Sound x → Sound ((planOutAtom
    key i c s rep).act x) := by
  intro x hx; unfold planOutAtom; dsimp only; (repeat' (with_reducible (first
    | assumption | apply sendOut_sound)))

theorem execOutAtom_sound (die : Nat) (slot : Nat) (engine : Nat) (s : State) (s_ok : Sound s) : ∀ t, (execOutAtom die
    slot engine s) = .next t → Sound t := by
  exact execCmd_sound _ _ _ _ _ _ (fun a b c s n => planOutAtom_sound a b c s n) s_ok

theorem planOutSig_sound (key : Nat) (i : Nat) (c : Nat) (s : State) (rep : Nat) : ∀ x, Sound x → Sound ((planOutSig
    key i c s rep).act x) := by
  intro x hx; unfold planOutSig; (try dsimp only); (repeat' (with_reducible split)) <;> (first | exact hx | (repeat' (with_reducible (first
    | assumption | apply sendOut_sound))))

theorem execOutSig_sound (die : Nat) (slot : Nat) (engine : Nat) (s : State) (s_ok : Sound s) : ∀ t, (execOutSig die
    slot engine s) = .next t → Sound t := by
  exact execCmd_sound _ _ _ _ _ _ (fun a b c s n => planOutSig_sound a b c s n) s_ok

theorem writeResults_sound (key : Nat) (s : State) (s_ok : Sound s) : Sound (writeResults key s) := by
  unfold writeResults; (repeat' (with_reducible (first
    | assumption | apply modSp_sound | apply spWrite_sound | apply modEng_sound | split | (dsimp only) | (intro _)
    | (apply foldl_sound; intros))))

theorem raiseOwn_sound (s : State) (key : Nat) (n : Nat) (s_ok : Sound s) : Sound (raiseOwn s key n) := by
  unfold raiseOwn; (repeat' (with_reducible (first
    | assumption | apply sendRaise_sound | split)))

theorem outFence_sound (s : State) (key : Nat) (i : Nat) (c : Nat) (s_ok : Sound s) : Sound (outFence s key i c) := by
  unfold outFence; (repeat' (with_reducible (first
    | assumption | apply networkWait_sound | apply finishDrain_sound | apply raiseOwn_sound | apply writeResults_sound
    | split | (dsimp only) | (intro _))))

theorem execOutFence_sound (die : Nat) (slot : Nat) (engine : Nat) (s : State) (s_ok : Sound s) : ∀ t, (execOutFence
    die slot engine s) = .next t → Sound t := by
  exact execDrain_sound _ _ _ _ _ _ (fun a b c s h => outFence_sound s a b c h) s_ok

theorem getDone_sound (s : State) (key : Nat) (g : GetOut) (bad : Bool) (s_ok : Sound s) : Sound (getDone s key g bad)
    := by
  unfold getDone; dsimp only; (repeat' (with_reducible (first
    | assumption | apply takeFault_sound | apply getSp_sound | apply modEng_sound | apply raiseOwn_sound | split)))

theorem outDone_sound (s : State) (key : Nat) (r : OutReq) (status : Nat) (result : Word) (s_ok : Sound s) : Sound
    (outDone s key r status result) := by
  unfold outDone; (repeat' (with_reducible (first
    | assumption | apply modEng_sound)))

theorem takeGetData_sound (p : Pkt) (s : State) (s_ok : Sound s) : Sound (takeGetData p s) := by
  unfold takeGetData; (repeat' (with_reducible (first
    | assumption | apply getDone_sound | apply modSp_sound | apply spWrite_sound | split | (dsimp only) | (intro _))))

theorem takeAck_sound (p : Pkt) (s : State) (s_ok : Sound s) : Sound (takeAck p s) := by
  unfold takeAck; dsimp only; (repeat' (with_reducible (first
    | assumption | apply getDone_sound | apply replAck_sound | apply outDone_sound | split)))

theorem takeAtomicRsp_sound (p : Pkt) (s : State) (s_ok : Sound s) : Sound (takeAtomicRsp p s) := by
  unfold takeAtomicRsp; (repeat' (with_reducible (first
    | assumption | apply outDone_sound | split)))

theorem takeAnswer_sound (die : Nat) (kind : Nat) (s : State) (f : Pkt → State → State) (s_ok : Sound s) (f_ok : ∀ x1
    s1, Sound s1 → Sound (f x1 s1)) : Sound (takeAnswer die kind s f) := by
  unfold takeAnswer; (repeat' (with_reducible (first
    | assumption | apply takeHead_sound | split)))

theorem atConsumer_sound (die : Nat) (s : State) (s_ok : Sound s) : ∀ t, (atConsumer die s) = .next t → Sound t := by
  intro t ht; unfold atConsumer at ht; split at ht <;> cases ht; (repeat' (with_reducible (first
    | assumption)))

theorem execGetData_sound (die : Nat) (s : State) (s_ok : Sound s) : ∀ t, (execGetData die s) = .next t → Sound t :=
    by
  intro t ht; unfold execGetData at ht; (repeat' (with_reducible (first
    | assumption | apply takeAnswer_sound | apply takeGetData_sound
    | (refine atConsumer_sound _ _ ?_ _ (by assumption)))))

theorem execAck_sound (die : Nat) (s : State) (s_ok : Sound s) : ∀ t, (execAck die s) = .next t → Sound t := by
  intro t ht; unfold execAck at ht; (repeat' (with_reducible (first
    | assumption | apply takeAnswer_sound | apply takeAck_sound | (refine atConsumer_sound _ _ ?_ _ (by assumption)))))

theorem execAtomicRsp_sound (die : Nat) (s : State) (s_ok : Sound s) : ∀ t, (execAtomicRsp die s) = .next t → Sound t
    := by
  intro t ht; unfold execAtomicRsp at ht; (repeat' (with_reducible (first
    | assumption | apply takeAtomicRsp_sound | apply takeAnswer_sound
    | (refine atConsumer_sound _ _ ?_ _ (by assumption)))))

end Sys2Proof.Machine
end

