-- ==== Sys2Proof/Laws/SoundCommands.lean ====
section
/-! SUPPORT. What keeps a state sound: the commands of the control port and its frames, and the watchdogs. -/

namespace Sys2Proof.Machine

/-- A command whose effect keeps soundness. -/
def SoundCmd (c : Cmd) : Prop := ∀ s, Sound s → Sound (c.run s) ∧ Sound (c.unanswered s)

theorem plainCmd_sound (tag : Nat) (opcode : Nat) (dies : List Nat) (run : State → State) (run_ok : ∀ s1, Sound s1 →
    Sound (run s1)) : SoundCmd (plainCmd tag opcode dies run) := by
  intro x hx; unfold plainCmd; (try unfold plainCmd); dsimp only; refine ⟨?_, ?_⟩ <;> (try dsimp only) <;> (repeat' (with_reducible (first
    | assumption | apply run_ok)))

theorem carryOut_sound (s : State) (c : Cmd) (s_ok : Sound s) (c_ok : SoundCmd c) : Sound (carryOut s c) := by
  unfold carryOut
  split
  · exact modCp_sound (c_ok s s_ok).2 (c_ok s s_ok).2.remembered
  · exact (c_ok s s_ok).1

theorem rememberNew_length (tag opcode : Nat) (l : List Remembered) : (rememberNew tag opcode l).length ≤ 1024 := by
  simp only [rememberNew, List.length_drop]; omega

theorem takeNew_sound (s : State) (resend : Bool) (c : Cmd) (s_ok : Sound s) (c_ok : SoundCmd c) : Sound (takeNew s
    resend c) := by
  unfold takeNew
  dsimp only
  have h : Sound (modCp s (fun p => { p with remembered := rememberNew c.tag c.opcode p.remembered })) :=
    by refine modCp_sound s_ok ?_; dsimp only; exact rememberNew_length c.tag c.opcode s.cp.remembered
  split
  · exact respond_sound _ _ _ _ _ s_ok
  · split
    · exact respond_sound _ _ _ _ _ s_ok
    · split
      · exact answer_sound _ _ _ _ _ h
      · split
        · exact answer_sound _ _ _ _ _ h
        · split
          · exact fail8_sound _ _ _ _ _ h
          · exact carryOut_sound _ _ h c_ok

theorem takeUnknown_sound (s : State) (tag : Nat) (opcode : Nat) (s_ok : Sound s) : Sound (takeUnknown s tag opcode)
    := by
  refine answer_sound _ _ _ _ _ (modCp_sound s_ok ?_)
  dsimp only
  exact rememberNew_length tag opcode s.cp.remembered

theorem takeKnown_sound (s : State) (tag : Nat) (opcode : Nat) (resend : Bool) (k : State → State) (s_ok : Sound s)
    (k_ok : ∀ s1, Sound s1 → Sound (k s1)) : Sound (takeKnown s tag opcode resend k) := by
  unfold takeKnown; (repeat' (with_reducible (first
    | assumption | apply respond_sound | split | apply k_ok)))

theorem takeCommand_sound (s : State) (c : Cmd) (s_ok : Sound s) (c_ok : SoundCmd c) : Sound (takeCommand s c) := by
  unfold takeCommand; (repeat' (with_reducible (first
    | assumption | apply takeKnown_sound | apply takeNew_sound | split | (dsimp only) | (intro _))))

theorem settle_sound (tag : Nat) (opcode : Nat) (x : Nat × Nat × State) (x_ok : Sound x.2.2) : Sound (settle tag
    opcode x) := by
  unfold settle; (repeat' (with_reducible (first
    | assumption | apply answerOk_sound | apply fail8_sound | split)))

theorem cmdHankOpen_sound (tag : Nat) (desc : List Byte) : SoundCmd (cmdHankOpen tag desc) := by
  intro x hx; unfold cmdHankOpen; (try unfold plainCmd); dsimp only; refine ⟨?_, ?_⟩ <;> (try dsimp only) <;> (repeat' (with_reducible (first
    | assumption | apply settle_sound | apply hankOpen_sound)))

theorem execHankOpen_sound (tag : Nat) (desc : List Byte) (s : State) (s_ok : Sound s) : ∀ t, (execHankOpen tag desc
    s) = .next t → Sound t := by
  intro t ht; unfold execHankOpen at ht; cases ht; (repeat' (with_reducible (first
    | assumption | apply cmdHankOpen_sound | apply takeCommand_sound)))

theorem cmdHankClose_sound (s : State) (tag : Nat) (hank : Nat) : SoundCmd (cmdHankClose s tag hank) := by
  intro x hx; unfold cmdHankClose; (try unfold plainCmd); dsimp only; refine ⟨?_, ?_⟩ <;> (try dsimp only) <;> (repeat' (with_reducible (first
    | assumption | apply settle_sound | apply plainCmd_sound | apply hankClose_sound)))

theorem execHankClose_sound (tag : Nat) (hank : Nat) (s : State) (s_ok : Sound s) : ∀ t, (execHankClose tag hank s) =
    .next t → Sound t := by
  intro t ht; unfold execHankClose at ht; cases ht; (repeat' (with_reducible (first
    | assumption | apply cmdHankClose_sound | apply takeCommand_sound)))

theorem cmdHankQuery_sound (tag : Nat) (hank : Nat) : SoundCmd (cmdHankQuery tag hank) := by
  intro x hx; unfold cmdHankQuery; (try unfold plainCmd); dsimp only; refine ⟨?_, ?_⟩ <;> (try dsimp only) <;> (repeat' (with_reducible (first
    | assumption | apply answerOk_sound | apply plainCmd_sound | apply fail8_sound | split)))

theorem execHankQuery_sound (tag : Nat) (hank : Nat) (s : State) (s_ok : Sound s) : ∀ t, (execHankQuery tag hank s) =
    .next t → Sound t := by
  intro t ht; unfold execHankQuery at ht; cases ht; (repeat' (with_reducible (first
    | assumption | apply cmdHankQuery_sound | apply takeCommand_sound)))

theorem caravanOpen_sound (s : State) (n : Nat) (c : Caravan) (s_ok : Sound s) : Sound (caravanOpen s n c).2.2 := by
  unfold caravanOpen; (repeat' (with_reducible (first
    | assumption | split | (fail_if_no_progress (refine sound_upd ?_ rfl rfl rfl rfl rfl)))))

theorem cmdCaravanOpen_sound (tag : Nat) (n : Nat) (ingress : Nat) (egress : Nat) (feidLo : Nat) (feidHi : Nat) (rate
    : Nat) : SoundCmd (cmdCaravanOpen tag n ingress egress feidLo feidHi rate) := by
  intro x hx; unfold cmdCaravanOpen; (try unfold plainCmd); dsimp only; refine ⟨?_, ?_⟩ <;> (try dsimp only) <;> (repeat' (with_reducible (first
    | assumption | apply settle_sound | apply plainCmd_sound | apply caravanOpen_sound)))

theorem execCaravanOpen_sound (tag : Nat) (caravan : Nat) (ingress : Nat) (egress : Nat) (feidLo : Nat) (feidHi : Nat)
    (rate : Nat) (s : State) (s_ok : Sound s) : ∀ t, (execCaravanOpen tag caravan ingress egress feidLo feidHi rate s) =
    .next t → Sound t := by
  intro t ht; unfold execCaravanOpen at ht; cases ht; (repeat' (with_reducible (first
    | assumption | apply takeCommand_sound | apply cmdCaravanOpen_sound)))

theorem cmdCaravanClose_sound (tag : Nat) (n : Nat) : SoundCmd (cmdCaravanClose tag n) := by
  intro x hx; unfold cmdCaravanClose; (try unfold plainCmd); dsimp only; refine ⟨?_, ?_⟩ <;> (try dsimp only) <;> (repeat' (with_reducible (first
    | assumption | apply closeThose_sound | apply settle_sound | apply plainCmd_sound | split
    | (refine (plainCmd_sound _ _ _ _ ?_ _ ?_).1) | (refine (plainCmd_sound _ _ _ _ ?_ _ ?_).2))))

theorem execCaravanClose_sound (tag : Nat) (caravan : Nat) (s : State) (s_ok : Sound s) : ∀ t, (execCaravanClose tag
    caravan s) = .next t → Sound t := by
  intro t ht; unfold execCaravanClose at ht; cases ht; (repeat' (with_reducible (first
    | assumption | apply takeCommand_sound | apply cmdCaravanClose_sound)))

theorem cmdStepCommit_sound (tag : Nat) (job : Nat) (step : Nat) (attempt : Nat) : SoundCmd (cmdStepCommit tag job
    step attempt) := by
  intro x hx; unfold cmdStepCommit; (try unfold plainCmd); dsimp only; refine ⟨?_, ?_⟩ <;> (try dsimp only) <;> (repeat' (with_reducible (first
    | assumption | apply settle_sound | apply plainCmd_sound | apply stepCommit_sound | split)))

theorem execStepCommit_sound (tag : Nat) (job : Nat) (step : Nat) (attempt : Nat) (s : State) (s_ok : Sound s) : ∀ t,
    (execStepCommit tag job step attempt s) = .next t → Sound t := by
  intro t ht; unfold execStepCommit at ht; cases ht; (repeat' (with_reducible (first
    | assumption | apply cmdStepCommit_sound | apply takeCommand_sound)))

theorem cmdStepAbort_sound (tag : Nat) (job : Nat) (step : Nat) (attempt : Nat) : SoundCmd (cmdStepAbort tag job step
    attempt) := by
  intro x hx; unfold cmdStepAbort; (try unfold plainCmd); dsimp only; refine ⟨?_, ?_⟩ <;> (try dsimp only) <;> (repeat' (with_reducible (first
    | assumption | apply settle_sound | apply stepAbort_sound | apply plainCmd_sound | split)))

theorem execStepAbort_sound (tag : Nat) (job : Nat) (step : Nat) (attempt : Nat) (s : State) (s_ok : Sound s) : ∀ t,
    (execStepAbort tag job step attempt s) = .next t → Sound t := by
  intro t ht; unfold execStepAbort at ht; cases ht; (repeat' (with_reducible (first
    | assumption | apply cmdStepAbort_sound | apply takeCommand_sound)))

theorem cmdPowerSet_sound (tag : Nat) (target : Nat) (st : Nat) (freq : Nat) : SoundCmd (cmdPowerSet tag target st
    freq) := by
  intro x hx; unfold cmdPowerSet; (try unfold plainCmd); dsimp only; refine ⟨?_, ?_⟩ <;> (try dsimp only) <;> (repeat' (with_reducible (first
    | assumption | apply powerSet_sound)))

theorem execPowerSet_sound (tag : Nat) (target : Nat) (state : Nat) (freq : Nat) (s : State) (s_ok : Sound s) : ∀ t,
    (execPowerSet tag target state freq s) = .next t → Sound t := by
  intro t ht; unfold execPowerSet at ht; cases ht; (repeat' (with_reducible (first
    | assumption | apply cmdPowerSet_sound | apply takeCommand_sound)))

theorem cmdOpPoll_sound (tag : Nat) (handle : Nat) : SoundCmd (cmdOpPoll tag handle) := by
  intro x hx; unfold cmdOpPoll; (try unfold plainCmd); dsimp only; refine ⟨?_, ?_⟩ <;> (try dsimp only) <;> (repeat' (with_reducible (first
    | assumption | apply plainCmd_sound | apply Cmd.unanswered_sound | apply Cmd.run_sound | apply pollOp_sound)))

theorem execOpPoll_sound (tag : Nat) (handle : Nat) (s : State) (s_ok : Sound s) : ∀ t, (execOpPoll tag handle s) =
    .next t → Sound t := by
  intro t ht; unfold execOpPoll at ht; cases ht; (repeat' (with_reducible (first
    | assumption | apply cmdOpPoll_sound | apply takeCommand_sound)))

theorem cmdOpCancel_sound (tag : Nat) (handle : Nat) : SoundCmd (cmdOpCancel tag handle) := by
  intro x hx; unfold cmdOpCancel; (try unfold plainCmd); dsimp only; refine ⟨?_, ?_⟩ <;> (try dsimp only) <;> (repeat' (with_reducible (first
    | assumption | apply cancelOp_sound)))

theorem execOpCancel_sound (tag : Nat) (handle : Nat) (s : State) (s_ok : Sound s) : ∀ t, (execOpCancel tag handle s)
    = .next t → Sound t := by
  intro t ht; unfold execOpCancel at ht; cases ht; (repeat' (with_reducible (first
    | assumption | apply takeCommand_sound | apply cmdOpCancel_sound)))

theorem faultRead_sound (s : State) (tag : Nat) (first : Nat) (count : Nat) (s_ok : Sound s) : Sound (faultRead s tag
    first count) := by
  unfold faultRead; (repeat' (with_reducible (first
    | assumption | apply answerOk_sound | apply fail8_sound | split
    | (fail_if_no_progress (refine sound_upd ?_ rfl rfl rfl rfl rfl)))))

theorem cmdFaultRead_sound (tag : Nat) (first : Nat) (count : Nat) : SoundCmd (cmdFaultRead tag first count) := by
  intro x hx; unfold cmdFaultRead; (try unfold plainCmd); dsimp only; refine ⟨?_, ?_⟩ <;> (try dsimp only) <;> (repeat' (with_reducible (first
    | assumption | apply plainCmd_sound | apply Cmd.unanswered_sound | apply Cmd.run_sound | apply faultRead_sound)))

theorem execFaultRead_sound (tag : Nat) (first : Nat) (count : Nat) (s : State) (s_ok : Sound s) : ∀ t, (execFaultRead
    tag first count s) = .next t → Sound t := by
  intro t ht; unfold execFaultRead at ht; cases ht; (repeat' (with_reducible (first
    | assumption | apply takeCommand_sound | apply cmdFaultRead_sound)))

theorem attest_sound (s : State) (tag : Nat) (nonce : List Byte) (s_ok : Sound s) : Sound (attest s tag nonce) := by
  unfold attest; (repeat' (with_reducible (first
    | assumption | apply answer_sound | apply fail8_sound | split)))

theorem cmdAttestReport_sound (tag : Nat) (nonce : List Byte) : SoundCmd (cmdAttestReport tag nonce) := by
  intro x hx; unfold cmdAttestReport; (try unfold plainCmd); dsimp only; refine ⟨?_, ?_⟩ <;> (try dsimp only) <;> (repeat' (with_reducible (first
    | assumption | apply attest_sound)))

theorem execAttestReport_sound (tag : Nat) (nonce : List Byte) (s : State) (s_ok : Sound s) : ∀ t, (execAttestReport
    tag nonce s) = .next t → Sound t := by
  intro t ht; unfold execAttestReport at ht; cases ht; (repeat' (with_reducible (first
    | assumption | apply takeCommand_sound | apply cmdAttestReport_sound)))

theorem cmdInfoRead_sound (tag : Nat) : SoundCmd (cmdInfoRead tag) := by
  intro x hx; unfold cmdInfoRead; (try unfold plainCmd); dsimp only; refine ⟨?_, ?_⟩ <;> (try dsimp only) <;> (repeat' (with_reducible (first
    | assumption | apply answerOk_sound)))

theorem execInfoRead_sound (tag : Nat) (s : State) (s_ok : Sound s) : ∀ t, (execInfoRead tag s) = .next t → Sound t :=
    by
  intro t ht; unfold execInfoRead at ht; cases ht; (repeat' (with_reducible (first
    | assumption | apply cmdInfoRead_sound | apply takeCommand_sound)))

theorem regRead_sound (s : State) (tag : Nat) (a : Nat) (count : Nat) (s_ok : Sound s) : Sound (regRead s tag a count)
    := by
  unfold regRead; (repeat' (with_reducible (first
    | assumption | apply answerOk_sound | apply fail8_sound | apply readRegs_sound | split)))

theorem cmdRegRead_sound (s : State) (tag : Nat) (addr : Nat) (count : Nat) : SoundCmd (cmdRegRead s tag addr count)
    := by
  intro x hx; unfold cmdRegRead; (try unfold plainCmd); dsimp only; refine ⟨?_, ?_⟩ <;> (try dsimp only) <;> (repeat' (with_reducible (first
    | assumption | apply plainCmd_sound | apply Cmd.unanswered_sound | apply Cmd.run_sound | apply regRead_sound)))

theorem execRegRead_sound (tag : Nat) (addr : Nat) (count : Nat) (s : State) (s_ok : Sound s) : ∀ t, (execRegRead tag
    addr count s) = .next t → Sound t := by
  intro t ht; unfold execRegRead at ht; cases ht; (repeat' (with_reducible (first
    | assumption | apply cmdRegRead_sound | apply takeCommand_sound)))

theorem written_sound (s : State) (s_ok : Sound s) : Sound (written s).2.2 := by
  unfold written; (repeat' (with_reducible (first
    | assumption)))

theorem badWrite_sound (s : State) (s_ok : Sound s) : Sound (badWrite s).2.2 := by
  unfold badWrite; (repeat' (with_reducible (first
    | assumption)))

theorem busyWrite_sound (s : State) (s_ok : Sound s) : Sound (busyWrite s).2.2 := by
  unfold busyWrite; (repeat' (with_reducible (first
    | assumption)))

theorem writeEdgeRole_sound (s : State) (die : Nat) (old : Nat) (new : Nat) (s_ok : Sound s) : Sound (writeEdgeRole s
    die old new) := by
  unfold writeEdgeRole; (repeat' (with_reducible (first
    | assumption | exact raiseWith_sound | apply raiseWith_sound | apply oneCycle_sound | apply rset_sound
    | apply retrain_sound | split | (dsimp only) | (intro _) | (apply foldl_sound; intros))))

theorem laneEnabled_sound (s : State) (p : Nat) (l : Nat) (was : Bool) (now : Bool) (s_ok : Sound s) : Sound
    (laneEnabled s p l was now) := by
  unfold laneEnabled; (repeat' (with_reducible (first
    | assumption | exact raiseWith_sound | apply raiseWith_sound | apply dropLane_sound | apply recalFails_sound
    | apply oneCycle_sound | apply recalBegin_sound | split | (dsimp only) | (intro _))))

theorem writePortCtrl_sound (s : State) (p : Nat) (old : Nat) (new : Nat) (s_ok : Sound s) : Sound (writePortCtrl s p
    old new) := by
  unfold writePortCtrl; (repeat' (with_reducible (first
    | assumption | exact raiseWith_sound | apply raiseWith_sound | apply laneEnabled_sound | apply pset_sound
    | apply linkEnds_sound | apply startTraining_sound | apply oneCycle_sound | apply rset_sound | split
    | (dsimp only) | (intro _) | (apply foldl_sound; intros))))

theorem writeErgConfig_sound (s : State) (die : Nat) (old : Nat) (new : Nat) (s_ok : Sound s) : Sound (writeErgConfig
    s die old new).2.2 := by
  unfold writeErgConfig; dsimp only; (repeat' (with_reducible (first
    | assumption | apply badWrite_sound | apply busyWrite_sound | apply written_sound | apply rset_sound | split)))

theorem writeRange_sound (s : State) (r : Reg) (die : Nat) (n : Nat) (new : Nat) (mask : Nat) (enable : Bool) (s_ok :
    Sound s) : Sound (writeRange s r die n new mask enable).2.2 := by
  unfold writeRange; dsimp only; (repeat' (with_reducible (first
    | assumption | apply badWrite_sound | apply busyWrite_sound | apply written_sound | apply setRepl_sound
    | apply fset_sound | apply rset_sound | split)))

theorem writePool_sound (s : State) (r : Reg) (die : Nat) (p : Nat) (new : Nat) (s_ok : Sound s) : Sound (writePool s
    r die p new).2.2 := by
  unfold writePool; dsimp only; (repeat' (with_reducible (first
    | assumption | apply badWrite_sound | apply busyWrite_sound | apply noteLow_sound | apply written_sound
    | apply setPool_sound | apply rset_sound | split)))

theorem writeSource_sound (s : State) (die : Nat) (i : Nat) (old : Nat) (new : Nat) (mask : Nat) (s_ok : Sound s) :
    Sound (writeSource s die i old new mask).2.2 := by
  unfold writeSource; dsimp only; (repeat' (with_reducible (first
    | assumption | apply badWrite_sound | apply written_sound | apply rset_sound | split)))

theorem releaseUnit_sound (s : State) (die : Nat) (cls : Nat) (inst : Nat) (s_ok : Sound s) : Sound (releaseUnit s die
    cls inst).2.2 := by
  unfold releaseUnit; (repeat' (with_reducible (first
    | assumption | apply badWrite_sound | apply noteLow_sound | apply written_sound | apply setUnit_sound
    | apply fset_sound | apply setPool_sound | split)))

theorem writeSlotLimit_sound (s : State) (die : Nat) (slot : Nat) (new : Nat) (s_ok : Sound s) : Sound (writeSlotLimit
    s die slot new).2.2 := by
  unfold writeSlotLimit; (repeat' (with_reducible (first
    | assumption | apply badWrite_sound | apply busyWrite_sound | apply getSp_sound | apply written_sound
    | apply rset_sound | split)))

theorem writeMembers_sound (s : State) (key : Nat) (b : Nat) (new : Nat) (s_ok : Sound s) : Sound (writeMembers s key
    b new).2.2 := by
  unfold writeMembers; dsimp only; (repeat' (with_reducible (first
    | assumption | apply busyWrite_sound | apply getSp_sound | apply written_sound | apply setBarchan_sound | split)))

theorem writeReboot_sound (s : State) (die : Nat) (s_ok : Sound s) : Sound (writeReboot s die).2.2 := by
  unfold writeReboot; (repeat' (with_reducible (first
    | assumption | apply startReboot_sound | apply written_sound | split)))

theorem writeRequest_sound (s : State) (s_ok : Sound s) : Sound (writeRequest s).2.2 := by
  unfold writeRequest; dsimp only; (repeat' (with_reducible (first
    | assumption | apply written_sound | apply requestEffect_sound | split)))

theorem writeReg_sound (s : State) (r : Reg) (die : Nat) (inst : Nat) (k : Nat) (value : Nat) (mask : Nat) (s_ok :
    Sound s) : Sound (writeReg s r die inst k value mask).2.2 := by
  unfold writeReg; (repeat' (with_reducible (first
    | assumption | apply modModule_sound | apply modPort_sound | apply badWrite_sound | apply writeErgConfig_sound
    | apply busyWrite_sound | apply writePortCtrl_sound | apply getSp_sound | apply written_sound
    | apply settleErr_sound | apply writeReboot_sound | apply writeSlotLimit_sound | apply writeEdgeRole_sound
    | apply writePool_sound | apply writeMembers_sound | apply writeRequest_sound | apply rset_sound
    | apply releaseUnit_sound | apply writeRange_sound | apply writeSource_sound | split | (dsimp only) | (intro _)
    | (fail_if_no_progress (refine sound_upd ?_ rfl rfl rfl rfl rfl)) | (refine snd_sound (by assumption) ?_)
    | (refine fst_sound (by assumption) ?_) | (refine trd_sound (by assumption) ?_) | (refine Sound.module ?_)
    | (refine legal_upd ?_))))

theorem regWriteAt_sound (s : State) (tag : Nat) (a : Nat) (r : Reg) (k : Nat) (value : Nat) (mask : Nat) (s_ok :
    Sound s) : Sound (regWriteAt s tag a r k value mask) := by
  unfold regWriteAt; (repeat' (with_reducible (first
    | assumption | exact raiseWith_sound | apply raiseWith_sound | apply writeReg_sound | apply settle_sound
    | apply failover_sound | apply oneCycle_sound | split | (dsimp only) | (intro _))))

theorem regWrite_sound (s : State) (tag : Nat) (a : Nat) (value : Nat) (mask : Nat) (s_ok : Sound s) : Sound (regWrite
    s tag a value mask) := by
  unfold regWrite; (repeat' (with_reducible (first
    | assumption | apply fail8_sound | apply regWriteAt_sound | split)))

theorem unansweredWrite_sound (s : State) (a : Nat) (value : Nat) (mask : Nat) (s_ok : Sound s) : Sound
    (unansweredWrite s a value mask) := by
  unfold unansweredWrite; dsimp only; (repeat' (with_reducible (first
    | assumption | apply writeReg_sound | apply freeBelow_sound | split)))

theorem cmdRegWrite_sound (s : State) (tag : Nat) (addr : Nat) (value : Word) (mask : Word) : SoundCmd (cmdRegWrite s
    tag addr value mask) := by
  intro x hx; unfold cmdRegWrite; (try unfold plainCmd); dsimp only; refine ⟨?_, ?_⟩ <;> (try dsimp only) <;> (repeat' (with_reducible (first
    | assumption | apply regWrite_sound | apply plainCmd_sound | apply Cmd.run_sound | apply unansweredWrite_sound)))

theorem execRegWrite_sound (tag : Nat) (addr : Nat) (value : Word) (mask : Word) (s : State) (s_ok : Sound s) : ∀ t,
    (execRegWrite tag addr value mask s) = .next t → Sound t := by
  intro t ht; unfold execRegWrite at ht; cases ht; (repeat' (with_reducible (first
    | assumption | apply cmdRegWrite_sound | apply takeCommand_sound)))

theorem writeAt_sound (tag : Nat) (r : Reg) (die : Nat) (inst : Nat) (k : Nat) (value : Word) (mask : Word) (s :
    State) (s_ok : Sound s) : ∀ t, (writeAt tag r die inst k value mask s) = .next t → Sound t := by
  intro t ht; unfold writeAt at ht; dsimp only at ht; (repeat' (split at ht)) <;> (first | (cases ht; done) | ((try cases ht); (repeat' (with_reducible (first
    | assumption | apply cmdRegWrite_sound | apply takeCommand_sound)))))

theorem execForce_sound (tag : Nat) (die : Nat) (value : Word) (mask : Word) (s : State) (s_ok : Sound s) : ∀ t,
    (execForce tag die value mask s) = .next t → Sound t := by
  intro t ht; unfold execForce at ht; (repeat' (with_reducible (first
    | assumption | (refine writeAt_sound _ _ _ _ _ _ _ _ ?_ _ (by assumption)))))

theorem execDieReboot_sound (tag : Nat) (die : Nat) (value : Word) (mask : Word) (s : State) (s_ok : Sound s) : ∀ t,
    (execDieReboot tag die value mask s) = .next t → Sound t := by
  intro t ht; unfold execDieReboot at ht; (repeat' (with_reducible (first
    | assumption | (refine writeAt_sound _ _ _ _ _ _ _ _ ?_ _ (by assumption)))))

theorem execUnitRelease_sound (tag : Nat) (die : Nat) (value : Word) (mask : Word) (s : State) (s_ok : Sound s) : ∀ t,
    (execUnitRelease tag die value mask s) = .next t → Sound t := by
  intro t ht; unfold execUnitRelease at ht; (repeat' (with_reducible (first
    | assumption | (refine writeAt_sound _ _ _ _ _ _ _ _ ?_ _ (by assumption)))))

theorem execHold_sound (tag : Nat) (die : Nat) (value : Word) (mask : Word) (s : State) (s_ok : Sound s) : ∀ t,
    (execHold tag die value mask s) = .next t → Sound t := by
  intro t ht; unfold execHold at ht; (repeat' (with_reducible (first
    | assumption | (refine writeAt_sound _ _ _ _ _ _ _ _ ?_ _ (by assumption)))))

theorem execPoolConfig_sound (tag : Nat) (die : Nat) (pool : Nat) (reg : Nat) (value : Word) (mask : Word) (s : State)
    (s_ok : Sound s) : ∀ t, (execPoolConfig tag die pool reg value mask s) = .next t → Sound t := by
  intro t ht; unfold execPoolConfig at ht; (repeat' (with_reducible (first
    | assumption | (refine writeAt_sound _ _ _ _ _ _ _ _ ?_ _ (by assumption)))))

theorem execBarchanMembers_sound (tag : Nat) (die : Nat) (slot : Nat) (b : Nat) (value : Word) (mask : Word) (s :
    State) (s_ok : Sound s) : ∀ t, (execBarchanMembers tag die slot b value mask s) = .next t → Sound t := by
  intro t ht; unfold execBarchanMembers at ht; (repeat' (with_reducible (first
    | assumption | (refine writeAt_sound _ _ _ _ _ _ _ _ ?_ _ (by assumption)))))

theorem execPageQuery_sound (tag : Nat) (die : Nat) (value : Word) (mask : Word) (s : State) (s_ok : Sound s) : ∀ t,
    (execPageQuery tag die value mask s) = .next t → Sound t := by
  intro t ht; unfold execPageQuery at ht; (repeat' (with_reducible (first
    | assumption | (refine writeAt_sound _ _ _ _ _ _ _ _ ?_ _ (by assumption)))))

theorem execReplRangeCtrl_sound (tag : Nat) (die : Nat) (n : Nat) (reg : Nat) (value : Word) (mask : Word) (s : State)
    (s_ok : Sound s) : ∀ t, (execReplRangeCtrl tag die n reg value mask s) = .next t → Sound t := by
  intro t ht; unfold execReplRangeCtrl at ht; (repeat' (with_reducible (first
    | assumption | (refine writeAt_sound _ _ _ _ _ _ _ _ ?_ _ (by assumption)))))

theorem execEdgeRole_sound (tag : Nat) (die : Nat) (value : Word) (mask : Word) (s : State) (s_ok : Sound s) : ∀ t,
    (execEdgeRole tag die value mask s) = .next t → Sound t := by
  intro t ht; unfold execEdgeRole at ht; (repeat' (with_reducible (first
    | assumption | (refine writeAt_sound _ _ _ _ _ _ _ _ ?_ _ (by assumption)))))

theorem execPortCtrl_sound (tag : Nat) (die : Nat) (port : Nat) (value : Word) (mask : Word) (s : State) (s_ok : Sound
    s) : ∀ t, (execPortCtrl tag die port value mask s) = .next t → Sound t := by
  intro t ht; unfold execPortCtrl at ht; (repeat' (with_reducible (first
    | assumption | (refine writeAt_sound _ _ _ _ _ _ _ _ ?_ _ (by assumption)))))

theorem secRequest_sound (s : State) (tag : Nat) (kind : Nat) (s_ok : Sound s) : Sound (secRequest s tag kind) := by
  unfold secRequest; (repeat' (with_reducible (first
    | assumption | apply cmdRegWrite_sound | apply takeCommand_sound | split)))

theorem execAddKey_sound (tag : Nat) (s : State) (s_ok : Sound s) : ∀ t, (execAddKey tag s) = .next t → Sound t := by
  intro t ht; unfold execAddKey at ht; cases ht; (repeat' (with_reducible (first
    | assumption | apply secRequest_sound)))

theorem execRevokeKey_sound (tag : Nat) (s : State) (s_ok : Sound s) : ∀ t, (execRevokeKey tag s) = .next t → Sound t
    := by
  intro t ht; unfold execRevokeKey at ht; cases ht; (repeat' (with_reducible (first
    | assumption | apply secRequest_sound)))

theorem execDeploy_sound (tag : Nat) (s : State) (s_ok : Sound s) : ∀ t, (execDeploy tag s) = .next t → Sound t := by
  intro t ht; unfold execDeploy at ht; cases ht; (repeat' (with_reducible (first
    | assumption | apply secRequest_sound)))

theorem execSecReturn_sound (tag : Nat) (s : State) (s_ok : Sound s) : ∀ t, (execSecReturn tag s) = .next t → Sound t
    := by
  intro t ht; unfold execSecReturn at ht; cases ht; (repeat' (with_reducible (first
    | assumption | apply secRequest_sound)))

theorem execRaiseSvn_sound (tag : Nat) (s : State) (s_ok : Sound s) : ∀ t, (execRaiseSvn tag s) = .next t → Sound t :=
    by
  intro t ht; unfold execRaiseSvn at ht; cases ht; (repeat' (with_reducible (first
    | assumption | apply secRequest_sound)))

theorem ergSplice_sound (s : State) (a n : Nat) (w : List Host.Cell) (hw : Run a (a + n) w) (s_ok : Sound s) :
    Sound (ergSplice s a n w) := modErg_sound s_ok (splice_wf s_ok.erg hw)

theorem writePieces_sound (region o : Nat) (src : List Host.Cell) (src_ok : memWf src = true) (a : List (Nat × Nat)) (n : Nat)
    (s : State) (s_ok : Sound s) : Sound (writePieces region o src a n s).2.2 := by
  induction a generalizing n s with
  | nil => exact s_ok
  | cons p r ih =>
    unfold writePieces
    dsimp only
    split
    · exact s_ok
    · exact ih _ _ (ergSplice_sound _ _ _ _ (window_run src_ok _ _ _) s_ok)

theorem copyRun_sound (s : State) (src : Nat) (dst : Nat) (n : Nat) (s_ok : Sound s) : Sound (copyRun s src dst n) :=
    by
  exact modErg_sound s_ok (splice_wf s_ok.erg (window_run s_ok.erg _ _ _))

theorem swapRun_sound (s : State) (a : Nat) (b : Nat) (n : Nat) (s_ok : Sound s) : Sound (swapRun s a b n) := by
  exact modErg_sound s_ok (splice_wf (splice_wf s_ok.erg (window_run s_ok.erg _ _ _)) (window_run s_ok.erg _ _ _))

theorem spoilRun_sound (s : State) (a : Nat) (n : Nat) (s_ok : Sound s) : Sound (spoilRun s a n) := by
  unfold spoilRun; (repeat' (with_reducible (first
    | assumption | apply modErg_sound | (refine Sound.erg ?_))))

theorem clearChecks_sound (s : State) (key : Nat) (s_ok : Sound s) : Sound (clearChecks s key) := by
  unfold clearChecks; (repeat' (with_reducible (first
    | assumption | apply rset_sound | (apply foldl_sound; intros))))

theorem progLoad_sound (s : State) (first : Nat) (count : Nat) (buffer : Nat) (len : Nat) (s_ok : Sound s) : Sound
    (progLoad s first count buffer len).2.2 := by
  unfold progLoad
  dsimp only
  split
  · exact s_ok
  · split
    · exact s_ok
    · split
      · exact s_ok
      · split
        · exact s_ok
        · split
          · exact s_ok
          · exact foldl_sound (fun t l h => clearChecks_sound _ _ (modSp_sound h _ (fun sp hs =>
              ⟨loadedSpindle_wf (window_run s_ok.staging _ _ _).wf hs.1 _, foldPut_wf _ _ rfl⟩))) _ s_ok

theorem cmdProgLoad_sound (tag : Nat) (first : Nat) (count : Nat) (buffer : Nat) (len : Nat) : SoundCmd (cmdProgLoad
    tag first count buffer len) := by
  intro x hx; unfold cmdProgLoad; (try unfold plainCmd); dsimp only; refine ⟨?_, ?_⟩ <;> (try dsimp only) <;> (repeat' (with_reducible (first
    | assumption | apply settle_sound | apply plainCmd_sound | apply Cmd.unanswered_sound | apply Cmd.run_sound
    | apply progLoad_sound)))

theorem execProgLoad_sound (tag : Nat) (first : Nat) (count : Nat) (buffer : Nat) (length : Nat) (s : State) (s_ok :
    Sound s) : ∀ t, (execProgLoad tag first count buffer length s) = .next t → Sound t := by
  intro t ht; unfold execProgLoad at ht; cases ht; (repeat' (with_reducible (first
    | assumption | apply cmdProgLoad_sound | apply takeCommand_sound)))

theorem startSpindle_sound (sp : Spindle) (sp_ok : sp.canonical) : (startSpindle sp).canonical := by
  exact canonical_all sp_ok

theorem progStart_sound (s : State) (first : Nat) (count : Nat) (s_ok : Sound s) : Sound (progStart s first count).2.2
    := by
  unfold progStart; (repeat' (with_reducible (first
    | assumption | apply modSp_sound | apply startSpindle_sound | split | (apply foldl_sound; intros))))

theorem cmdProgStart_sound (tag : Nat) (first : Nat) (count : Nat) : SoundCmd (cmdProgStart tag first count) := by
  intro x hx; unfold cmdProgStart; (try unfold plainCmd); dsimp only; refine ⟨?_, ?_⟩ <;> (try dsimp only) <;> (repeat' (with_reducible (first
    | assumption | apply settle_sound | apply plainCmd_sound | apply Cmd.unanswered_sound | apply Cmd.run_sound
    | apply progStart_sound)))

theorem execProgStart_sound (tag : Nat) (first : Nat) (count : Nat) (s : State) (s_ok : Sound s) : ∀ t, (execProgStart
    tag first count s) = .next t → Sound t := by
  intro t ht; unfold execProgStart at ht; cases ht; (repeat' (with_reducible (first
    | assumption | apply cmdProgStart_sound | apply takeCommand_sound)))

theorem restoreContext_sound (s : State) (l : Nat) (m : List Host.Cell) (m_ok : memWf m = true) (s_ok : Sound s) :
    Sound (restoreContext s l m) := by
  unfold restoreContext
  exact foldl_sound (fun s k h => foldl_sound (fun s r h => rset_sound _ _ _ _ _ _ h) _ h) _
    (modSp_sound s_ok _ (fun sp h =>
      ⟨splice_wf h.1 ((window_run m_ok _ _ _).mono (Nat.le_refl _) (by omega)), foldPut_wf _ _ rfl⟩))

theorem restoredReleases_sound (s : State) (l : Nat) (s_ok : Sound s) : Sound (restoredReleases s l) := by
  unfold restoredReleases; (repeat' (with_reducible (first
    | assumption | apply releaseDue_sound | (apply foldl_sound; intros))))

theorem workDone_sound (s : State) (o : Op) (s_ok : Sound s) : Sound (workDone s o).1 := by
  unfold workDone; (repeat' (with_reducible (first
    | assumption)))

theorem opCommand_sound (tag : Nat) (run : State → State) (run_ok : ∀ s1, Sound s1 → Sound (run s1)) : SoundCmd
    (opCommand tag run) := by
  intro x hx; unfold opCommand; (try unfold plainCmd); dsimp only; refine ⟨?_, ?_⟩ <;> (try dsimp only) <;> (repeat' (with_reducible (first
    | assumption | apply plainCmd_sound | apply run_ok)))

theorem refuseOp_sound (s : State) (tag : Nat) (status : Nat) (s_ok : Sound s) : Sound (refuseOp s tag status) := by
  unfold refuseOp; (repeat' (with_reducible (first
    | assumption | apply fail8_sound)))

theorem bothPlanes_sound (s : State) (f : Plane → Plane) (s_ok : Sound s) : Sound (bothPlanes s f) := by
  unfold bothPlanes; (repeat' (with_reducible (first
    | assumption | (fail_if_no_progress (refine sound_upd ?_ rfl rfl rfl rfl rfl)))))

theorem emptyShadows_sound (s : State) (s_ok : Sound s) : Sound (emptyShadows s) := by
  unfold emptyShadows; (repeat' (with_reducible (first
    | assumption | apply bothPlanes_sound)))

theorem beginRoute_sound (arg : Nat) (s : State) (s_ok : Sound s) : Sound (beginRoute arg s) := by
  unfold beginRoute; (repeat' (with_reducible (first
    | assumption | apply bothPlanes_sound)))

theorem installRoute_sound (s : State) (buffer : Nat) (arg : Nat) (s_ok : Sound s) : Sound (installRoute s buffer arg)
    := by
  unfold installRoute; (repeat' (with_reducible (first
    | assumption | apply bothPlanes_sound)))

theorem placeTable_sound (s : State) (n : Nat) (s_ok : Sound s) : ∀ t, (placeTable s n) = some t → Sound t.2 := by
  intro t ht; unfold placeTable at ht; dsimp only at ht; (repeat' (split at ht)) <;> (first | (cases ht; done) | ((try cases ht); (repeat' (with_reducible (first
    | assumption | (fail_if_no_progress (refine sound_upd ?_ rfl rfl rfl rfl rfl)))))))

theorem writeTable_sound (s : State) (unit : Nat) (n : Nat) (table : List Host.Cell) (table_ok : memWf table = true)
    (s_ok : Sound s) : Sound (writeTable s unit n table) := by
  unfold writeTable
  exact foldl_sound (fun s k h => ergSplice_sound _ _ _ _ (window_run table_ok _ _ _) h) _ s_ok

theorem installRanks_sound (s : State) (buffer : Nat) (len : Nat) (job : Nat) (unit : Nat) (s_ok : Sound s) : Sound
    (installRanks s buffer len job unit) := by
  unfold installRanks
  exact foldl_sound (fun s d h => modPortDie_sound _ _ _ h) _ (ergWrite_sound _ _ _
    (writeTable_sound _ _ _ _ (window_run s_ok.staging _ _ _).wf s_ok))

theorem loadCounter_sound (s : State) (n : Nat) (c : Counter) (s_ok : Sound s) : Sound (loadCounter s n c) := by
  unfold loadCounter; (repeat' (with_reducible (first
    | assumption | apply fireCounter_sound | apply setCounter_sound | split)))

theorem loadCounters_sound (s : State) (buffer : Nat) (len : Nat) (first : Nat) (a : Nat) (b : Nat) (s_ok : Sound s) :
    Sound (loadCounters s buffer len first a b) := by
  unfold loadCounters; (repeat' (with_reducible (first
    | assumption | apply loadCounter_sound | (apply foldl_sound; intros))))

theorem startLoad_sound (s : State) (tag : Nat) (kind : Nat) (buffer : Nat) (len : Nat) (arg : Nat) (s_ok : Sound s) :
    Sound (startLoad s tag kind buffer len arg) := by
  unfold startLoad; (iterate 40 (all_goals (try (with_reducible (first
    | assumption | apply startOp_sound | apply emptyShadows_sound | apply refuseOp_sound
    | (refine placeTable_sound _ _ ?_ (_, _) (by assumption)) | apply beginRoute_sound | split | (dsimp only)
    | (intro _) | (fail_if_no_progress (refine sound_upd ?_ rfl rfl rfl rfl rfl))
    | (refine snd_sound (by assumption) ?_) | (refine fst_sound (by assumption) ?_)
    | (refine trd_sound (by assumption) ?_) | (refine Sound.remembered ?_) | (refine Sound.erg ?_)
    | (refine getSp_sound ?_ _) | (refine Sound.module ?_) | (refine legal_upd ?_) | (refine Sound.stores ?_)
    | (refine storesCanonical_all ?_ ?_) | (refine storesCanonical_filter ?_ _) | (refine id_sound ?_))))))

theorem stepErgLoad_sound (s : State) (o : Op) (units : Nat) (s_ok : Sound s) : Sound (stepErgLoad s o units).1 := by
  unfold stepErgLoad
  dsimp only
  have h := writePieces_sound (hndRegion (word (param o.params 3))) (hndOffset (word (param o.params 3)))
    (staged s (param o.params 1) 0 (param o.params 2)) (window_run s_ok.staging _ _ _).wf
    (((pieces (hndOffset (word (param o.params 3))) (param o.params 2)).drop o.done).take units) 0 s s_ok
  split
  · exact workDone_sound _ _ h
  · exact h

theorem stepLoad_sound (s : State) (o : Op) (units : Nat) (s_ok : Sound s) : Sound (stepLoad s o units).1 := by
  unfold stepLoad; dsimp only; (repeat' (with_reducible (first
    | assumption | apply stepErgLoad_sound | apply loadCounters_sound | apply installRanks_sound
    | apply installRoute_sound | apply workDone_sound | split)))

theorem cmdTableLoad_sound (tag : Nat) (kind : Nat) (buffer : Nat) (len : Nat) (arg : Nat) : SoundCmd (cmdTableLoad
    tag kind buffer len arg) := by
  exact opCommand_sound _ _ (fun s h => startLoad_sound _ _ _ _ _ _ h)

theorem execTableLoad_sound (tag : Nat) (kind : Nat) (buffer : Nat) (length : Nat) (arg : Nat) (s : State) (s_ok :
    Sound s) : ∀ t, (execTableLoad tag kind buffer length arg s) = .next t → Sound t := by
  intro t ht; unfold execTableLoad at ht; cases ht; (repeat' (with_reducible (first
    | assumption | apply cmdTableLoad_sound | apply takeCommand_sound)))

theorem startSwap_sound (s : State) (tag : Nat) (s_ok : Sound s) : Sound (startSwap s tag) := by
  unfold startSwap; (iterate 40 (all_goals (try (with_reducible (first
    | assumption | apply startOp_sound | apply refuseOp_sound | split | (dsimp only) | (intro _)
    | (fail_if_no_progress (refine sound_upd ?_ rfl rfl rfl rfl rfl)) | (refine snd_sound (by assumption) ?_)
    | (refine fst_sound (by assumption) ?_) | (refine trd_sound (by assumption) ?_) | (refine Sound.remembered ?_)
    | (refine Sound.erg ?_) | (refine getSp_sound ?_ _) | (refine Sound.module ?_) | (refine legal_upd ?_)
    | (refine Sound.stores ?_) | (refine storesCanonical_all ?_ ?_) | (refine storesCanonical_filter ?_ _)
    | (refine id_sound ?_))))))

theorem swapRoutes_sound (s : State) (s_ok : Sound s) : Sound (swapRoutes s) := by
  unfold swapRoutes; dsimp only; (repeat' (with_reducible (first
    | assumption | apply closeThose_sound | apply modPortDie_sound | apply bothPlanes_sound | split
    | (apply foldl_sound; intros))))

theorem stepSwap_sound (s : State) (o : Op) (units : Nat) (s_ok : Sound s) : Sound (stepSwap s o units).1 := by
  unfold stepSwap; (repeat' (with_reducible (first
    | assumption | apply swapRoutes_sound | apply workDone_sound | split)))

theorem cmdRouteSwap_sound (tag : Nat) : SoundCmd (cmdRouteSwap tag) := by
  exact opCommand_sound _ _ (fun s h => startSwap_sound _ _ h)

theorem execRouteSwap_sound (tag : Nat) (s : State) (s_ok : Sound s) : ∀ t, (execRouteSwap tag s) = .next t → Sound t
    := by
  intro t ht; unfold execRouteSwap at ht; cases ht; (repeat' (with_reducible (first
    | assumption | apply takeCommand_sound | apply cmdRouteSwap_sound)))

theorem startStage_sound (s : State) (tag : Nat) (die : Nat) (buffer : Nat) (len : Nat) (s_ok : Sound s) : Sound
    (startStage s tag die buffer len) := by
  unfold startStage; (iterate 40 (all_goals (try (with_reducible (first
    | assumption | apply startOp_sound | apply refuseOp_sound | split | (dsimp only) | (intro _)
    | (fail_if_no_progress (refine sound_upd ?_ rfl rfl rfl rfl rfl)) | (refine snd_sound (by assumption) ?_)
    | (refine fst_sound (by assumption) ?_) | (refine trd_sound (by assumption) ?_) | (refine Sound.remembered ?_)
    | (refine Sound.erg ?_) | (refine getSp_sound ?_ _) | (refine Sound.module ?_) | (refine legal_upd ?_)
    | (refine Sound.stores ?_) | (refine storesCanonical_all ?_ ?_) | (refine storesCanonical_filter ?_ _)
    | (refine id_sound ?_))))))

theorem finishStage_sound (s : State) (o : Op) (s_ok : Sound s) : Sound (finishStage s o).1 := by
  unfold finishStage; dsimp only; (repeat' (with_reducible (first
    | assumption | apply setBoot_sound | split)))

theorem stepStage_sound (s : State) (o : Op) (units : Nat) (s_ok : Sound s) : Sound (stepStage s o units).1 := by
  unfold stepStage; dsimp only; (repeat' (with_reducible (first
    | assumption | apply finishStage_sound | split)))

theorem cmdFwStage_sound (tag : Nat) (die : Nat) (buffer : Nat) (len : Nat) : SoundCmd (cmdFwStage tag die buffer len)
    := by
  exact opCommand_sound _ _ (fun s h => startStage_sound _ _ _ _ _ h)

theorem execFwStage_sound (tag : Nat) (die : Nat) (buffer : Nat) (length : Nat) (s : State) (s_ok : Sound s) : ∀ t,
    (execFwStage tag die buffer length s) = .next t → Sound t := by
  intro t ht; unfold execFwStage at ht; cases ht; (repeat' (with_reducible (first
    | assumption | apply takeCommand_sound | apply cmdFwStage_sound)))

theorem startScrub_sound (s : State) (tag : Nat) (die : Nat) (ch : Nat) (first : Nat) (count : Nat) (s_ok : Sound s) :
    Sound (startScrub s tag die ch first count) := by
  unfold startScrub; (iterate 40 (all_goals (try (with_reducible (first
    | assumption | apply startOp_sound | apply refuseOp_sound | split | (dsimp only) | (intro _)
    | (fail_if_no_progress (refine sound_upd ?_ rfl rfl rfl rfl rfl)) | (refine snd_sound (by assumption) ?_)
    | (refine fst_sound (by assumption) ?_) | (refine trd_sound (by assumption) ?_) | (refine Sound.remembered ?_)
    | (refine Sound.erg ?_) | (refine getSp_sound ?_ _) | (refine Sound.module ?_) | (refine legal_upd ?_)
    | (refine Sound.stores ?_) | (refine storesCanonical_all ?_ ?_) | (refine storesCanonical_filter ?_ _)
    | (refine id_sound ?_))))))

theorem checkBlocks_sound (a : Nat) (a1 : Nat) (a2 : State) (a2_ok : Sound a2) : Sound (checkBlocks a a1 a2) := by
  fun_induction checkBlocks a a1 a2 <;> (repeat' (with_reducible (first
    | assumption | apply eccCheck_sound | split | (dsimp only) | (intro _) | (apply_assumption -exfalso -symm))))

theorem readPage_sound (s : State) (die : Nat) (ch : Nat) (phys : Nat) (s_ok : Sound s) : Sound (readPage s die ch
    phys) := by
  unfold readPage; (repeat' (with_reducible (first
    | assumption | apply checkBlocks_sound)))

theorem scrubPage_sound (s : State) (die : Nat) (ch : Nat) (phys : Nat) (s_ok : Sound s) : Sound (scrubPage s die ch
    phys).2.2 := by
  unfold scrubPage; (repeat' (with_reducible (first
    | assumption | apply readPage_sound | split)))

theorem scrubAll_sound (die : Nat) (a : List (Nat × Nat)) (a2 : Nat × Nat × State) (a2_ok : Sound a2.2.2) : Sound
    (scrubAll die a a2).2.2 := by
  fun_induction scrubAll die a a2 <;> (repeat' (with_reducible (first
    | assumption | apply scrubPage_sound | split | (dsimp only) | (intro _)
    | (fail_if_no_progress (refine sound_upd ?_ rfl rfl rfl rfl rfl)) | (refine snd_sound (by assumption) ?_)
    | (refine fst_sound (by assumption) ?_) | (refine trd_sound (by assumption) ?_)
    | (apply_assumption -exfalso -symm))))

theorem stepScrub_sound (s : State) (o : Op) (units : Nat) (s_ok : Sound s) : Sound (stepScrub s o units).1 := by
  unfold stepScrub; (repeat' (with_reducible (first
    | assumption | apply scrubAll_sound | apply workDone_sound)))

theorem cmdScrub_sound (tag : Nat) (die : Nat) (ch : Nat) (first : Nat) (count : Nat) : SoundCmd (cmdScrub tag die ch
    first count) := by
  exact opCommand_sound _ _ (fun s h => startScrub_sound _ _ _ _ _ _ h)

theorem execScrub_sound (tag : Nat) (die : Nat) (channel : Nat) (firstPage : Nat) (pageCount : Nat) (s : State) (s_ok
    : Sound s) : ∀ t, (execScrub tag die channel firstPage pageCount s) = .next t → Sound t := by
  intro t ht; unfold execScrub at ht; cases ht; (repeat' (with_reducible (first
    | assumption | apply cmdScrub_sound | apply takeCommand_sound)))

theorem startRetire_sound (s : State) (tag : Nat) (die : Nat) (kind : Nat) (number : Nat) (page : Nat) (s_ok : Sound
    s) : Sound (startRetire s tag die kind number page) := by
  unfold startRetire; (iterate 40 (all_goals (try (with_reducible (first
    | assumption | apply startOp_sound | apply refuseOp_sound | split | (dsimp only) | (intro _)
    | (fail_if_no_progress (refine sound_upd ?_ rfl rfl rfl rfl rfl)) | (refine snd_sound (by assumption) ?_)
    | (refine fst_sound (by assumption) ?_) | (refine trd_sound (by assumption) ?_) | (refine Sound.remembered ?_)
    | (refine Sound.erg ?_) | (refine getSp_sound ?_ _) | (refine Sound.module ?_) | (refine legal_upd ?_)
    | (refine Sound.stores ?_) | (refine storesCanonical_all ?_ ?_) | (refine storesCanonical_filter ?_ _)
    | (refine id_sound ?_))))))

theorem movePage_sound (s : State) (die : Nat) (tier : Nat) (p : Nat) (ch : Nat) (phys : Nat) (s_ok : Sound s) : Sound
    (movePage s die tier p ch phys) := by
  unfold movePage; (repeat' (with_reducible (first
    | assumption | apply readPage_sound | apply copyRun_sound | apply spoilRun_sound | apply modErg_sound | split
    | (dsimp only) | (intro _) | (refine Sound.erg ?_))))

theorem movePages_sound (die : Nat) (kind : Nat) (number : Nat) (page : Nat) (a : Nat) (a5 : Nat) (a6 : State) (a6_ok
    : Sound a6) : Sound (movePages die kind number page a a5 a6).2.2 := by
  fun_induction movePages die kind number page a a5 a6 <;> (repeat' (with_reducible (first
    | assumption | apply movePage_sound | split | (dsimp only) | (intro _) | (apply_assumption -exfalso -symm))))

theorem retireTarget_sound (s : State) (die : Nat) (kind : Nat) (number : Nat) (page : Nat) (s_ok : Sound s) : Sound
    (retireTarget s die kind number page) := by
  unfold retireTarget; (repeat' (with_reducible (first
    | assumption | apply setUnit_sound | apply modErg_sound | split | (dsimp only) | (intro _)
    | (fail_if_no_progress (refine sound_upd ?_ rfl rfl rfl rfl rfl)) | (apply foldl_sound; intros)
    | (refine Sound.erg ?_))))

theorem stepRetire_sound (s : State) (o : Op) (units : Nat) (s_ok : Sound s) : Sound (stepRetire s o units).1 := by
  unfold stepRetire; dsimp only; (repeat' (with_reducible (first
    | assumption | apply movePages_sound | apply retireTarget_sound | split)))

theorem cmdRetire_sound (tag : Nat) (die : Nat) (kind : Nat) (number : Nat) (page : Nat) : SoundCmd (cmdRetire tag die
    kind number page) := by
  exact opCommand_sound _ _ (fun s h => startRetire_sound _ _ _ _ _ _ h)

theorem execRetire_sound (tag : Nat) (die : Nat) (kind : Nat) (number : Nat) (page : Nat) (s : State) (s_ok : Sound s)
    : ∀ t, (execRetire tag die kind number page s) = .next t → Sound t := by
  intro t ht; unfold execRetire at ht; cases ht; (repeat' (with_reducible (first
    | assumption | apply takeCommand_sound | apply cmdRetire_sound)))

theorem startMigrate_sound (s : State) (tag : Nat) (src : Nat) (dst : Nat) (len : Nat) (mode : Nat) (s_ok : Sound s) :
    Sound (startMigrate s tag src dst len mode) := by
  unfold startMigrate; (iterate 40 (all_goals (try (with_reducible (first
    | assumption | apply startOp_sound | apply refuseOp_sound | split | (dsimp only) | (intro _)
    | (fail_if_no_progress (refine sound_upd ?_ rfl rfl rfl rfl rfl)) | (refine snd_sound (by assumption) ?_)
    | (refine fst_sound (by assumption) ?_) | (refine trd_sound (by assumption) ?_) | (refine Sound.remembered ?_)
    | (refine Sound.erg ?_) | (refine getSp_sound ?_ _) | (refine Sound.module ?_) | (refine legal_upd ?_)
    | (refine Sound.stores ?_) | (refine storesCanonical_all ?_ ?_) | (refine storesCanonical_filter ?_ _)
    | (refine id_sound ?_))))))

theorem forwardGranule_sound (s : State) (w : Word) (s_ok : Sound s) : Sound (forwardGranule s w) := by
  unfold forwardGranule; (repeat' (with_reducible (first
    | assumption | apply applied_sound | split | (apply foldl_sound; intros))))

theorem moveGranule_sound (s : State) (src : Word) (dst : Word) (mode : Nat) (s_ok : Sound s) : Sound (moveGranule s
    src dst mode).2.2 := by
  unfold moveGranule; dsimp only; (repeat' (with_reducible (first
    | assumption | apply swapRun_sound | apply copyRun_sound | apply forwardGranule_sound | apply eccChecks_sound
    | split)))

theorem moveGranules_sound (src : Nat) (dst : Nat) (mode : Nat) (a : Nat) (a4 : Nat) (a5 : Nat) (a6 : State) (a6_ok :
    Sound a6) : Sound (moveGranules src dst mode a a4 a5 a6).2.2.2 := by
  fun_induction moveGranules src dst mode a a4 a5 a6 <;> (repeat' (with_reducible (first
    | assumption | apply moveGranule_sound | split | (dsimp only) | (intro _)
    | (fail_if_no_progress (refine sound_upd ?_ rfl rfl rfl rfl rfl)) | (refine snd_sound (by assumption) ?_)
    | (refine fst_sound (by assumption) ?_) | (refine trd_sound (by assumption) ?_)
    | (apply_assumption -exfalso -symm))))

theorem stepMigrate_sound (s : State) (o : Op) (units : Nat) (s_ok : Sound s) : Sound (stepMigrate s o units).1 := by
  unfold stepMigrate; dsimp only; (repeat' (with_reducible (first
    | assumption | apply moveGranules_sound | apply workDone_sound | split)))

theorem cmdTierMigrate_sound (tag : Nat) (src : Nat) (dst : Nat) (len : Nat) (mode : Nat) : SoundCmd (cmdTierMigrate
    tag src dst len mode) := by
  exact opCommand_sound _ _ (fun s h => startMigrate_sound _ _ _ _ _ _ h)

theorem execTierMigrate_sound (tag : Nat) (src : Nat) (dst : Nat) (length : Nat) (mode : Nat) (s : State) (s_ok :
    Sound s) : ∀ t, (execTierMigrate tag src dst length mode s) = .next t → Sound t := by
  intro t ht; unfold execTierMigrate at ht; cases ht; (repeat' (with_reducible (first
    | assumption | apply cmdTierMigrate_sound | apply takeCommand_sound)))

theorem startSave_sound (s : State) (tag : Nat) (first : Nat) (count : Nat) (handle : Nat) (step : Nat) (s_ok : Sound
    s) : Sound (startSave s tag first count handle step) := by
  unfold startSave; (iterate 40 (all_goals (try (with_reducible (first
    | assumption | apply startOp_sound | apply refuseOp_sound | split | (dsimp only) | (intro _)
    | (fail_if_no_progress (refine sound_upd ?_ rfl rfl rfl rfl rfl)) | (refine snd_sound (by assumption) ?_)
    | (refine fst_sound (by assumption) ?_) | (refine trd_sound (by assumption) ?_) | (refine Sound.remembered ?_)
    | (refine Sound.erg ?_) | (refine getSp_sound ?_ _) | (refine Sound.module ?_) | (refine legal_upd ?_)
    | (refine Sound.stores ?_) | (refine storesCanonical_all ?_ ?_) | (refine storesCanonical_filter ?_ _)
    | (refine id_sound ?_))))))

theorem saveContexts_sound (first : Nat) (handle : Nat) (step : Nat) (a : Nat) (a4 : Nat) (a5 : State) (a5_ok : Sound
    a5) : Sound (saveContexts first handle step a a4 a5).2.2 := by
  induction a generalizing a4 a5 with
  | zero => exact a5_ok
  | succ n ih =>
    unfold saveContexts
    dsimp only
    split
    · exact a5_ok
    · split
      · exact a5_ok
      · obtain ⟨hi, hr⟩ := contextCells_run (fun k => (getSp_sound a5_ok k).1) (first + a4) step
        have h := writePieces_sound (hndRegion (word handle)) (contextOffset a5 first handle a4) _ hr.wf
          (pieces (contextOffset a5 first handle a4) (contextSize a5 (first + a4))) 0 a5 a5_ok
        split
        next e => exact ih _ _ (trd_sound e h)
        next e => exact trd_sound e h

theorem spindlesDone_sound (o : Op) (x : Nat × Nat × State) (x_ok : Sound x.2.2) : Sound (spindlesDone o x).1 := by
  unfold spindlesDone; (repeat' (with_reducible (first
    | assumption | apply workDone_sound | split)))

theorem stepSave_sound (s : State) (o : Op) (units : Nat) (s_ok : Sound s) : Sound (stepSave s o units).1 := by
  unfold stepSave; (repeat' (with_reducible (first
    | assumption | apply saveContexts_sound | apply spindlesDone_sound)))

theorem cmdContextSave_sound (tag : Nat) (first : Nat) (count : Nat) (handle : Nat) (step : Nat) : SoundCmd
    (cmdContextSave tag first count handle step) := by
  exact opCommand_sound _ _ (fun s h => startSave_sound _ _ _ _ _ _ h)

theorem execContextSave_sound (tag : Nat) (first : Nat) (count : Nat) (handle : Nat) (step : Nat) (s : State) (s_ok :
    Sound s) : ∀ t, (execContextSave tag first count handle step s) = .next t → Sound t := by
  intro t ht; unfold execContextSave at ht; cases ht; (repeat' (with_reducible (first
    | assumption | apply takeCommand_sound | apply cmdContextSave_sound)))

theorem startRestore_sound (s : State) (tag : Nat) (first : Nat) (count : Nat) (handle : Nat) (s_ok : Sound s) : Sound
    (startRestore s tag first count handle) := by
  unfold startRestore; (iterate 40 (all_goals (try (with_reducible (first
    | assumption | apply startOp_sound | apply refuseOp_sound | split | (dsimp only) | (intro _)
    | (fail_if_no_progress (refine sound_upd ?_ rfl rfl rfl rfl rfl)) | (refine snd_sound (by assumption) ?_)
    | (refine fst_sound (by assumption) ?_) | (refine trd_sound (by assumption) ?_) | (refine Sound.remembered ?_)
    | (refine Sound.erg ?_) | (refine getSp_sound ?_ _) | (refine Sound.module ?_) | (refine legal_upd ?_)
    | (refine Sound.stores ?_) | (refine storesCanonical_all ?_ ?_) | (refine storesCanonical_filter ?_ _)
    | (refine id_sound ?_))))))

theorem restoreContexts_sound (first : Nat) (handle : Nat) (a : Nat) (a3 : Nat) (a4 : State) (a4_ok : Sound a4) :
    Sound (restoreContexts first handle a a3 a4).2.2 := by
  induction a generalizing a3 a4 with
  | zero => exact a4_ok
  | succ n ih =>
    unfold restoreContexts
    dsimp only
    generalize (if anyPlane a4 = true then _ else _) = st
    split
    · exact a4_ok
    · split
      · exact a4_ok
      · refine ih _ _ (restoredReleases_sound _ _ (restoreContext_sound _ _ _ ?_ a4_ok))
        exact (gather_run a4_ok.erg _ _ _ _ _ (Nat.le_refl _)).wf

theorem stepRestore_sound (s : State) (o : Op) (units : Nat) (s_ok : Sound s) : Sound (stepRestore s o units).1 := by
  unfold stepRestore; (repeat' (with_reducible (first
    | assumption | apply restoreContexts_sound | apply spindlesDone_sound)))

theorem cmdContextRestore_sound (tag : Nat) (first : Nat) (count : Nat) (handle : Nat) : SoundCmd (cmdContextRestore
    tag first count handle) := by
  have h := opCommand_sound tag (fun s => startRestore s tag first count handle)
    (fun s h => startRestore_sound s tag first count handle h)
  exact fun s hs => h s hs

theorem execContextRestore_sound (tag : Nat) (first : Nat) (count : Nat) (handle : Nat) (s : State) (s_ok : Sound s) :
    ∀ t, (execContextRestore tag first count handle s) = .next t → Sound t := by
  intro t ht; unfold execContextRestore at ht; cases ht; (repeat' (with_reducible (first
    | assumption | apply takeCommand_sound | apply cmdContextRestore_sound)))

theorem startSpare_sound (s : State) (tag : Nat) (die : Nat) (i : Nat) (s_ok : Sound s) : Sound (startSpare s tag die
    i) := by
  unfold startSpare; (iterate 40 (all_goals (try (with_reducible (first
    | assumption | apply fail8_sound | apply startOp_sound | split | (dsimp only) | (intro _)
    | (fail_if_no_progress (refine sound_upd ?_ rfl rfl rfl rfl rfl)) | (refine snd_sound (by assumption) ?_)
    | (refine fst_sound (by assumption) ?_) | (refine trd_sound (by assumption) ?_) | (refine Sound.remembered ?_)
    | (refine Sound.erg ?_) | (refine getSp_sound ?_ _) | (refine Sound.module ?_) | (refine legal_upd ?_)
    | (refine Sound.stores ?_) | (refine storesCanonical_all ?_ ?_) | (refine storesCanonical_filter ?_ _)
    | (refine id_sound ?_))))))

theorem emptySlots_sound (s : State) (l : Nat) (s_ok : Sound s) : Sound (emptySlots s l) := by
  unfold emptySlots; (repeat' (with_reducible (first
    | assumption | (fail_if_no_progress (refine sound_upd ?_ rfl rfl rfl rfl rfl)))))

/-- A spindle update that leaves no engine entry. -/
theorem cleared_canonical {sp : Spindle} {im q f cl b il me c w} (h : sp.canonical) :
    (Spindle.mk [] im sp.ls q f cl b il me c w).canonical := ⟨h.1, rfl⟩

theorem spareSwap_sound (s : State) (die : Nat) (i : Nat) (s_ok : Sound s) : Sound (spareSwap s die i).2 := by
  unfold spareSwap; (repeat' (with_reducible (first
    | assumption | apply modSp_sound | apply getSp_sound | apply setUnit_sound
    | (exact canonical_upd (stopEngines_sound _ (by assumption))) | (exact cleared_canonical (by assumption))
    | apply fset_sound | apply emptySlots_sound | (dsimp only) | (intro _))))

theorem stepSpare_sound (s : State) (o : Op) (units : Nat) (s_ok : Sound s) : Sound (stepSpare s o units).1 := by
  unfold stepSpare; dsimp only; (repeat' (with_reducible (first
    | assumption | apply spareSwap_sound | apply workDone_sound | split)))

theorem cmdSpareSwap_sound (tag : Nat) (die : Nat) (i : Nat) : SoundCmd (cmdSpareSwap tag die i) := by
  exact opCommand_sound _ _ (fun s h => startSpare_sound _ _ _ _ h)

theorem execSpareSwap_sound (tag : Nat) (die : Nat) (localIndex : Nat) (s : State) (s_ok : Sound s) : ∀ t,
    (execSpareSwap tag die localIndex s) = .next t → Sound t := by
  intro t ht; unfold execSpareSwap at ht; cases ht; (repeat' (with_reducible (first
    | assumption | apply takeCommand_sound | apply cmdSpareSwap_sound)))

theorem startDrain_sound (s : State) (tag : Nat) (die : Nat) (port : Nat) (us : Nat) (s_ok : Sound s) : Sound
    (startDrain s tag die port us) := by
  unfold startDrain; (repeat' (with_reducible (first
    | assumption | apply modPort_sound | apply fail8_sound | apply startOp_sound | split | (dsimp only) | (intro _))))

theorem stepDrain_sound (s : State) (o : Op) (late : Bool) (s_ok : Sound s) : Sound (stepDrain s o late).1 := by
  unfold stepDrain; dsimp only; (repeat' (with_reducible (first
    | assumption | apply parkPort_sound | apply workDone_sound | split)))

theorem endDrain_sound (s : State) (p : Nat) (s_ok : Sound s) : Sound (endDrain s p) := by
  unfold endDrain; (repeat' (with_reducible (first
    | assumption | apply returnCredits_sound | apply modPort_sound | (apply foldl_sound; intros))))

theorem cmdPortDrain_sound (tag : Nat) (die : Nat) (port : Nat) (us : Nat) : SoundCmd (cmdPortDrain tag die port us)
    := by
  exact opCommand_sound _ _ (fun s h => startDrain_sound _ _ _ _ _ h)

theorem execPortDrain_sound (tag : Nat) (die : Nat) (port : Nat) (timeoutUs : Nat) (s : State) (s_ok : Sound s) : ∀ t,
    (execPortDrain tag die port timeoutUs s) = .next t → Sound t := by
  intro t ht; unfold execPortDrain at ht; cases ht; (repeat' (with_reducible (first
    | assumption | apply cmdPortDrain_sound | apply takeCommand_sound)))

theorem startRecal_sound (s : State) (tag : Nat) (die : Nat) (lane : Nat) (s_ok : Sound s) : Sound (startRecal s tag
    die lane) := by
  unfold startRecal; (iterate 40 (all_goals (try (with_reducible (first
    | assumption | apply startOp_sound | apply refuseOp_sound | split | (dsimp only) | (intro _)
    | (fail_if_no_progress (refine sound_upd ?_ rfl rfl rfl rfl rfl)) | (refine snd_sound (by assumption) ?_)
    | (refine fst_sound (by assumption) ?_) | (refine trd_sound (by assumption) ?_) | (refine Sound.remembered ?_)
    | (refine Sound.erg ?_) | (refine getSp_sound ?_ _) | (refine Sound.module ?_) | (refine legal_upd ?_)
    | (refine Sound.stores ?_) | (refine storesCanonical_all ?_ ?_) | (refine storesCanonical_filter ?_ _)
    | (refine id_sound ?_))))))

theorem stepRecal_sound (s : State) (o : Op) (ok : Bool) (s_ok : Sound s) : Sound (stepRecal s o ok).1 := by
  unfold stepRecal; (repeat' (with_reducible (first
    | assumption | exact raiseWith_sound | apply raiseWith_sound | apply dropLane_sound | apply workDone_sound
    | apply recalFails_sound | apply oneCycle_sound | apply recalBegin_sound | split | (dsimp only) | (intro _))))

theorem cmdLaneRecal_sound (tag : Nat) (die : Nat) (lane : Nat) : SoundCmd (cmdLaneRecal tag die lane) := by
  exact opCommand_sound _ _ (fun s h => startRecal_sound _ _ _ _ h)

theorem execLaneRecal_sound (tag : Nat) (die : Nat) (lane : Nat) (s : State) (s_ok : Sound s) : ∀ t, (execLaneRecal
    tag die lane s) = .next t → Sound t := by
  intro t ht; unfold execLaneRecal at ht; cases ht; (repeat' (with_reducible (first
    | assumption | apply takeCommand_sound | apply cmdLaneRecal_sound)))

theorem abandonOp_sound (s : State) (o : Op) (s_ok : Sound s) : Sound (abandonOp s o) := by
  unfold abandonOp; (repeat' (with_reducible (first
    | assumption | apply endDrain_sound | apply emptyShadows_sound | split)))

theorem opWork_sound (s : State) (o : Op) (units : Nat) (ok : Bool) (s_ok : Sound s) : Sound (opWork s o units ok).1
    := by
  unfold opWork; (repeat' (with_reducible (first
    | assumption | apply stepDrain_sound | apply stepSave_sound | apply stepMigrate_sound | apply stepStage_sound
    | apply stepRetire_sound | apply stepRecal_sound | apply stepSpare_sound | apply abandonOp_sound
    | apply stepSwap_sound | apply stepLoad_sound | apply stepScrub_sound | apply stepRestore_sound | split)))

theorem opStep_sound (s : State) (units : Nat) (ok : Bool) (s_ok : Sound s) : Sound (opStep s units ok) := by
  unfold opStep; dsimp only; (repeat' (with_reducible (first
    | assumption | apply opWork_sound | apply endOp_sound | apply abandonOp_sound | apply putOp_sound | split
    | (fail_if_no_progress (refine sound_upd ?_ rfl rfl rfl rfl rfl)) | (refine snd_sound (by assumption) ?_)
    | (refine fst_sound (by assumption) ?_))))

theorem execOpStep_sound (units : Nat) (ok : Bool) (s : State) (s_ok : Sound s) : ∀ t, (execOpStep units ok s) = .next
    t → Sound t := by
  intro t ht; unfold execOpStep at ht; split at ht <;> cases ht; (repeat' (with_reducible (first
    | assumption | apply opStep_sound)))

theorem stepExpires_sound (s : State) (k : Nat) (o : Op) (s_ok : Sound s) : Sound (stepExpires s k o) := by
  unfold stepExpires; (repeat' (with_reducible (first
    | assumption | apply opWork_sound | apply endOp_sound | apply abandonOp_sound | apply raiseDetail_sound
    | apply freeBelow_sound | split)))

theorem execStepWatchdog_sound (opSlot : Nat) (s : State) (s_ok : Sound s) : ∀ t, (execStepWatchdog opSlot s) = .next
    t → Sound t := by
  intro t ht; unfold execStepWatchdog at ht; (repeat' (split at ht)) <;> (first | (cases ht; done) | ((try cases ht); (repeat' (with_reducible (first
    | assumption | (refine atUnit_sound _ _ _ _ _ ?_ _ (by assumption)) | apply stepExpires_sound)))))

theorem debugOpen_sound (s : State) (tag : Nat) (level : Nat) (dies : Nat) (token : List Byte) (s_ok : Sound s) :
    Sound (debugOpen s tag level dies token) := by
  unfold debugOpen; (repeat' (with_reducible (first
    | assumption | apply answerOk_sound | apply modSec_sound | apply openSession_sound | apply fail8_sound
    | apply modCp_sound | split | (dsimp only) | (intro _) | (refine Sound.remembered ?_))))

theorem cmdDebugOpen_sound (tag : Nat) (level : Nat) (dies : Nat) (token : List Byte) : SoundCmd (cmdDebugOpen tag
    level dies token) := by
  intro x hx; unfold cmdDebugOpen; (try unfold plainCmd); dsimp only; refine ⟨?_, ?_⟩ <;> (try dsimp only) <;> (repeat' (with_reducible (first
    | assumption | apply plainCmd_sound | apply Cmd.unanswered_sound | apply Cmd.run_sound | apply debugOpen_sound)))

theorem execDebugOpen_sound (tag : Nat) (level : Nat) (dies : Nat) (token : List Byte) (s : State) (s_ok : Sound s) :
    ∀ t, (execDebugOpen tag level dies token s) = .next t → Sound t := by
  intro t ht; unfold execDebugOpen at ht; cases ht; (repeat' (with_reducible (first
    | assumption | apply takeCommand_sound | apply cmdDebugOpen_sound)))

theorem zeroErg_sound (s : State) (s_ok : Sound s) : Sound (zeroErg s) := by
  unfold zeroErg
  dsimp only
  have h := modErg_sound s_ok (f := fun e => { e with
    mem := e.mem.filter (fun c => !(backed s c.1 || deviceDark s c.1)),
    bad := e.bad.filter (fun b => !(backed s (64 * b.1) || deviceDark s (64 * b.1))), counters := [] })
    (memWf_filter s_ok.erg _)
  exact ⟨h.module, h.erg, rfl, h.stores, h.records, h.remembered⟩

/-- A spindle update that empties the local store. -/
theorem emptied_canonical {sp : Spindle} {im q f cl b il me c w} (h : sp.canonical) :
    (Spindle.mk sp.engines im [] q f cl b il me c w).canonical := ⟨rfl, h.2⟩

theorem zeroBuffers_sound (s : State) (die : Nat) (s_ok : Sound s) : Sound (zeroBuffers s die) := by
  unfold zeroBuffers; (repeat' (with_reducible (first
    | assumption | apply setReady_sound | (fail_if_no_progress (refine sound_upd ?_ rfl rfl rfl rfl rfl)))))

theorem zeroDie_sound (s : State) (die : Nat) (s_ok : Sound s) : Sound (zeroDie s die) := by
  unfold zeroDie
  split
  · exact foldl_sound (fun s p h => modPort_sound _ _ _ h) _ (setPortDie_sound _ _ _ (zeroBuffers_sound _ _ s_ok))
  · exact setPlane_sound _ _ _ s_ok
  · exact foldl_sound (fun s k h => modSp_sound h _ (fun sp h => emptied_canonical h)) _ (zeroBuffers_sound _ _ s_ok)
  · exact modErg_sound (zeroBuffers_sound _ _ s_ok) (zeroBuffers_sound _ _ s_ok).erg
  · exact s_ok

theorem zeroised_sound (s : State) (tag : Nat) (dies : Nat) (life : Option Nat) (s_ok : Sound s) : Sound (zeroised s
    tag dies life) := by
  unfold zeroised; (iterate 40 (all_goals (try (with_reducible (first
    | assumption | apply answerOk_sound | apply modSec_sound | apply openSession_sound | apply zeroDie_sound
    | apply parkPort_sound | apply zeroErg_sound | apply modCp_sound | split | (dsimp only) | (intro _)
    | (fail_if_no_progress (refine sound_upd ?_ rfl rfl rfl rfl rfl)) | (refine snd_sound (by assumption) ?_)
    | (refine fst_sound (by assumption) ?_) | (refine trd_sound (by assumption) ?_) | (apply foldl_sound; intros)
    | (refine Sound.remembered ?_) | (refine Sound.erg ?_) | (refine getSp_sound ?_ _) | (refine Sound.module ?_)
    | (refine legal_upd ?_) | (refine Sound.stores ?_)
    | ((fail_if_success (refine sound_upd ?_ rfl rfl rfl rfl rfl)); (refine sound_updSp ?_ ?_ rfl rfl rfl rfl))
    | (refine storesCanonical_all ?_ ?_) | (refine storesCanonical_filter ?_ _) | (refine id_sound ?_)
    | (refine Sound.staging ?_) | (refine Sound.records ?_))))))

theorem execZeroisation_sound (s : State) (s_ok : Sound s) : ∀ t, (execZeroisation s) = .next t → Sound t := by
  intro t ht; unfold execZeroisation at ht; (repeat' (split at ht)) <;> (first | (cases ht; done) | ((try cases ht); (repeat' (with_reducible (first
    | assumption | apply zeroised_sound)))))

theorem debugClose_sound (s : State) (tag : Nat) (s_ok : Sound s) : Sound (debugClose s tag) := by
  unfold debugClose; (repeat' (with_reducible (first
    | assumption | apply answerOk_sound | apply raiseFault_sound | apply fail8_sound | apply endSession_sound | split)))

theorem cmdDebugClose_sound (tag : Nat) : SoundCmd (cmdDebugClose tag) := by
  intro x hx; unfold cmdDebugClose; (try unfold plainCmd); dsimp only; refine ⟨?_, ?_⟩ <;> (try dsimp only) <;> (repeat' (with_reducible (first
    | assumption | apply debugClose_sound)))

theorem execDebugClose_sound (tag : Nat) (s : State) (s_ok : Sound s) : ∀ t, (execDebugClose tag s) = .next t → Sound
    t := by
  intro t ht; unfold execDebugClose at ht; cases ht; (repeat' (with_reducible (first
    | assumption | apply takeCommand_sound | apply cmdDebugClose_sound)))

theorem debugEngine_sound (s : State) (tag : Nat) (die : Nat) (slot : Nat) (engine : Nat) (action : Nat) (s_ok : Sound
    s) : Sound (debugEngine s tag die slot engine action) := by
  unfold debugEngine; dsimp only; (repeat' (with_reducible (first
    | assumption | apply answerOk_sound | apply modEng_sound | apply fail8_sound | split)))

theorem d2Command_sound (s : State) (tag : Nat) (opcode : Nat) (die : Nat) (run : State → State) (run_ok : ∀ s1, Sound
    s1 → Sound (run s1)) : SoundCmd (d2Command s tag opcode die run) := by
  intro x hx; unfold d2Command; (try unfold plainCmd); dsimp only; refine ⟨?_, ?_⟩ <;> (try dsimp only) <;> (repeat' (with_reducible (first
    | assumption | apply plainCmd_sound | apply Cmd.unanswered_sound | apply Cmd.run_sound | apply run_ok)))

theorem cmdDebugEngine_sound (s : State) (tag : Nat) (die : Nat) (slot : Nat) (engine : Nat) (action : Nat) : SoundCmd
    (cmdDebugEngine s tag die slot engine action) := by
  exact d2Command_sound _ _ _ _ _ (fun s h => debugEngine_sound _ _ _ _ _ _ h)

theorem execDebugEngineHalt_sound (tag : Nat) (die : Nat) (slot : Nat) (engine : Nat) (s : State) (s_ok : Sound s) : ∀
    t, (execDebugEngineHalt tag die slot engine s) = .next t → Sound t := by
  intro t ht; unfold execDebugEngineHalt at ht; cases ht; (repeat' (with_reducible (first
    | assumption | apply cmdDebugEngine_sound | apply takeCommand_sound)))

theorem execDebugEngineRelease_sound (tag : Nat) (die : Nat) (slot : Nat) (engine : Nat) (s : State) (s_ok : Sound s)
    : ∀ t, (execDebugEngineRelease tag die slot engine s) = .next t → Sound t := by
  intro t ht; unfold execDebugEngineRelease at ht; cases ht; (repeat' (with_reducible (first
    | assumption | apply cmdDebugEngine_sound | apply takeCommand_sound)))

theorem debugRead_sound (s : State) (tag : Nat) (space : Nat) (die : Nat) (slot : Nat) (addr : Nat) (len : Nat) (s_ok
    : Sound s) : Sound (debugRead s tag space die slot addr len) := by
  unfold debugRead; dsimp only; (repeat' (with_reducible (first
    | assumption | apply getSp_sound | apply answer_sound | apply fail8_sound | split)))

theorem cmdDebugRead_sound (s : State) (tag : Nat) (space : Nat) (die : Nat) (slot : Nat) (addr : Nat) (len : Nat) :
    SoundCmd (cmdDebugRead s tag space die slot addr len) := by
  intro x hx; unfold cmdDebugRead; (try unfold plainCmd); dsimp only; refine ⟨?_, ?_⟩ <;> (try dsimp only) <;> (repeat' (with_reducible (first
    | assumption | apply plainCmd_sound | apply Cmd.unanswered_sound | apply Cmd.run_sound | apply debugRead_sound)))

theorem execDebugRead_sound (tag : Nat) (space : Nat) (die : Nat) (slot : Nat) (address : Nat) (length : Nat) (s :
    State) (s_ok : Sound s) : ∀ t, (execDebugRead tag space die slot address length s) = .next t → Sound t := by
  intro t ht; unfold execDebugRead at ht; cases ht; (repeat' (with_reducible (first
    | assumption | apply cmdDebugRead_sound | apply takeCommand_sound)))

theorem debugWrite_sound (s : State) (tag : Nat) (space : Nat) (die : Nat) (slot : Nat) (addr : Nat) (len : Nat) (data
    : List Byte) (s_ok : Sound s) : Sound (debugWrite s tag space die slot addr len data) := by
  unfold debugWrite
  dsimp only
  have h := writePieces_sound (hndRegion (word addr)) (hndOffset (word addr)) (memWrite [] 0 data)
    (memWrite_wf rfl _ _) (ergPieces addr len) 0 s s_ok
  split
  · exact fail8_sound _ _ _ _ _ s_ok
  · split
    · split
      · exact fail8_sound _ _ _ _ _ s_ok
      · exact answerOk_sound _ _ _ _ (modSp_sound s_ok _ (fun sp hs => ⟨memWrite_wf hs.1 _ _, hs.2⟩))
    · split
      · exact fail8_sound _ _ _ _ _ h
      · exact answerOk_sound _ _ _ _ h

theorem cmdDebugWrite_sound (s : State) (tag : Nat) (space : Nat) (die : Nat) (slot : Nat) (addr : Nat) (len : Nat)
    (data : List Byte) : SoundCmd (cmdDebugWrite s tag space die slot addr len data) := by
  intro x hx; unfold cmdDebugWrite; (try unfold plainCmd); dsimp only; refine ⟨?_, ?_⟩ <;> (try dsimp only) <;> (repeat' (with_reducible (first
    | assumption | apply plainCmd_sound | apply Cmd.unanswered_sound | apply Cmd.run_sound | apply debugWrite_sound)))

theorem execDebugWrite_sound (tag : Nat) (space : Nat) (die : Nat) (slot : Nat) (address : Nat) (length : Nat) (data :
    List Byte) (s : State) (s_ok : Sound s) : ∀ t, (execDebugWrite tag space die slot address length data s) = .next t →
    Sound t := by
  intro t ht; unfold execDebugWrite at ht; cases ht; (repeat' (with_reducible (first
    | assumption | apply cmdDebugWrite_sound | apply takeCommand_sound)))

theorem syncOperation_sound (s : State) (key : Nat) (op : Nat) (n : Nat) (p : Nat) (s_ok : Sound s) : Sound
    (syncOperation s key op n p).2 := by
  unfold syncOperation; dsimp only; (repeat' (with_reducible (first
    | assumption | apply putFlag_sound | apply getSp_sound | apply setBarchan_sound | apply settleBarWaits_sound
    | apply releaseDue_sound | apply applyArrival_sound | apply raiseFlag_sound | apply release_sound | split)))

theorem debugSync_sound (s : State) (tag : Nat) (die : Nat) (slot : Nat) (op : Nat) (n : Nat) (p : Nat) (s_ok : Sound
    s) : Sound (debugSync s tag die slot op n p) := by
  unfold debugSync; dsimp only; (repeat' (with_reducible (first
    | assumption | apply answerOk_sound | apply syncOperation_sound | apply fail8_sound | split)))

theorem cmdDebugSync_sound (s : State) (tag : Nat) (die : Nat) (slot : Nat) (op : Nat) (n : Nat) (p : Nat) : SoundCmd
    (cmdDebugSync s tag die slot op n p) := by
  exact d2Command_sound _ _ _ _ _ (fun s h => debugSync_sound _ _ _ _ _ _ _ h)

theorem execFlagSet_sound (tag : Nat) (die : Nat) (slot : Nat) (number : Nat) (s : State) (s_ok : Sound s) : ∀ t,
    (execFlagSet tag die slot number s) = .next t → Sound t := by
  intro t ht; unfold execFlagSet at ht; cases ht; (repeat' (with_reducible (first
    | assumption | apply takeCommand_sound | apply cmdDebugSync_sound)))

theorem execFlagClear_sound (tag : Nat) (die : Nat) (slot : Nat) (number : Nat) (s : State) (s_ok : Sound s) : ∀ t,
    (execFlagClear tag die slot number s) = .next t → Sound t := by
  intro t ht; unfold execFlagClear at ht; cases ht; (repeat' (with_reducible (first
    | assumption | apply takeCommand_sound | apply cmdDebugSync_sound)))

theorem execBarchanArrive_sound (tag : Nat) (die : Nat) (slot : Nat) (number : Nat) (participant : Nat) (s : State)
    (s_ok : Sound s) : ∀ t, (execBarchanArrive tag die slot number participant s) = .next t → Sound t := by
  intro t ht; unfold execBarchanArrive at ht; cases ht; (repeat' (with_reducible (first
    | assumption | apply takeCommand_sound | apply cmdDebugSync_sound)))

theorem execBarchanRelease_sound (tag : Nat) (die : Nat) (slot : Nat) (number : Nat) (s : State) (s_ok : Sound s) : ∀
    t, (execBarchanRelease tag die slot number s) = .next t → Sound t := by
  intro t ht; unfold execBarchanRelease at ht; cases ht; (repeat' (with_reducible (first
    | assumption | apply takeCommand_sound | apply cmdDebugSync_sound)))

theorem execBarchanClear_sound (tag : Nat) (die : Nat) (slot : Nat) (number : Nat) (s : State) (s_ok : Sound s) : ∀ t,
    (execBarchanClear tag die slot number s) = .next t → Sound t := by
  intro t ht; unfold execBarchanClear at ht; cases ht; (repeat' (with_reducible (first
    | assumption | apply takeCommand_sound | apply cmdDebugSync_sound)))

theorem cpCountUp_sound (s : State) (k : Nat) (s_ok : Sound s) : Sound (cpCountUp s k) := by
  unfold cpCountUp; (repeat' (with_reducible (first
    | assumption | apply fadd_sound)))

theorem frameFails_sound (s : State) (ok : Bool) (s_ok : Sound s) : Sound (frameFails s ok).2 := by
  unfold frameFails; dsimp only; (repeat' (with_reducible (first
    | assumption | apply raiseFault_sound | apply cpCountUp_sound | apply injected_sound | split
    | (refine snd_sound (by assumption) ?_))))

theorem cpLinkDown_sound (s : State) (s_ok : Sound s) : Sound (cpLinkDown s) := by
  unfold cpLinkDown; (repeat' (with_reducible (first
    | assumption | apply raiseFault_sound | apply cpRestart_sound | split)))

theorem cpAcked_sound (s : State) (seq : BitVec 32) (s_ok : Sound s) : Sound (cpAcked s seq) := by
  unfold cpAcked; (repeat' (with_reducible (first
    | assumption | apply pump_sound | apply reportLost_sound | apply modCp_sound | split | (dsimp only) | (intro _)
    | (refine Sound.remembered ?_))))

theorem resendList_sound (s : State) (a : List (BitVec 32 × CpMsg × Nat)) (s_ok : Sound s) :
    Sound (resendList s a).2.2 := by
  induction a generalizing s with
  | nil => exact s_ok
  | cons x r ih =>
    obtain ⟨q, m, n⟩ := x
    unfold resendList
    dsimp only
    have h := cpCountUp_sound _ 2 (emit_sound s (numberedOut s q m) s_ok)
    split
    · exact h
    · exact ih _ h

theorem cpResend_sound (s : State) (s_ok : Sound s) : Sound (cpResend s) := by
  unfold cpResend; (repeat' (with_reducible (first
    | assumption | apply cpLinkDown_sound | apply resendList_sound | apply modCp_sound | split | (dsimp only)
    | (intro _) | (refine Sound.remembered ?_))))

theorem sendCpLink_sound (s : State) (kind : Nat) (s_ok : Sound s) : Sound (sendCpLink s kind) := by
  unfold sendCpLink; (repeat' (with_reducible (first
    | assumption | apply emit_sound)))

theorem sendNak_sound (s : State) (s_ok : Sound s) : Sound (sendNak s) := by
  unfold sendNak; (repeat' (with_reducible (first
    | assumption | apply sendCpLink_sound | apply cpCountUp_sound | split)))

theorem numbered_sound (s : State) (w0 : Word) (w1 : Word) (w2 : Word) (w3 : Word) (payload : List Byte) (legal :
    Bool) (place : State → State) (s_ok : Sound s) (place_ok : ∀ s1, Sound s1 → Sound (place s1)) : Sound (numbered s w0
    w1 w2 w3 payload legal place) := by
  unfold numbered; (repeat' (with_reducible (first
    | assumption | apply sendCpLink_sound | apply sendNak_sound | apply cpCountUp_sound | apply frameFails_sound
    | apply cpAcked_sound | apply modCp_sound | split | (dsimp only) | (intro _)
    | (fail_if_no_progress (refine sound_upd ?_ rfl rfl rfl rfl rfl)) | (refine snd_sound (by assumption) ?_)
    | (refine fst_sound (by assumption) ?_) | (refine trd_sound (by assumption) ?_) | (refine Sound.remembered ?_)
    | apply place_ok)))

theorem unnumbered_sound (s : State) (w0 : Word) (w1 : Word) (w2 : Word) (w3 : Word) (payload : List Byte) (s_ok :
    Sound s) : Sound (unnumbered s w0 w1 w2 w3 payload) := by
  unfold unnumbered; (repeat' (with_reducible (first
    | assumption | apply sendNak_sound | apply cpCountUp_sound | apply frameFails_sound | apply cpAcked_sound | split
    | (refine snd_sound (by assumption) ?_) | (refine fst_sound (by assumption) ?_)
    | (refine trd_sound (by assumption) ?_))))

theorem numberedRow_sound (s : State) (type : Nat) (w0 : Word) (w1 : Word) (w2 : Word) (w3 : Word) (payload : List
    Byte) (legal : Bool) (place : State → State) (s_ok : Sound s) (place_ok : ∀ s1, Sound s1 → Sound (place s1)) : Sound
    (numberedRow s type w0 w1 w2 w3 payload legal place) := by
  unfold numberedRow; (repeat' (with_reducible (first
    | assumption | apply unnumbered_sound | apply numbered_sound | split | apply place_ok)))

theorem sized_sound (pl : List Byte) (n : Nat) (c : Cmd) (c_ok : SoundCmd c) : SoundCmd (sized pl n c) := by
  exact c_ok

theorem startCommand_sound (tag : Nat) (pl : List Byte) : SoundCmd (startCommand tag pl) := by
  unfold startCommand
  dsimp only
  split
  · exact sized_sound _ _ _ (cmdTableLoad_sound _ _ _ _ _)
  · exact sized_sound _ _ _ (cmdRouteSwap_sound _)
  · exact sized_sound _ _ _ (cmdScrub_sound _ _ _ _ _)
  · exact sized_sound _ _ _ (cmdRetire_sound _ _ _ _ _)
  · exact sized_sound _ _ _ (cmdTierMigrate_sound _ _ _ _ _)
  · exact sized_sound _ _ _ (cmdContextSave_sound _ _ _ _ _)
  · exact sized_sound _ _ _ (cmdContextRestore_sound _ _ _ _)
  · exact sized_sound _ _ _ (cmdSpareSwap_sound _ _ _)
  · exact sized_sound _ _ _ (cmdPortDrain_sound _ _ _ _)
  · exact sized_sound _ _ _ (cmdLaneRecal_sound _ _ _)
  · exact sized_sound _ _ _ (cmdFwStage_sound _ _ _ _)
  · have h := opCommand_sound tag (fun s => refuseOp s tag stBadParam) (fun s h => refuseOp_sound s tag stBadParam h)
    exact fun s hs => h s hs

theorem commandOf_sound (s : State) (tag : Nat) (opcode : Nat) (pl : List Byte) : ∀ c, (commandOf s tag opcode pl) =
    some c → SoundCmd c := by
  intro c h
  unfold commandOf at h
  dsimp only at h
  split at h <;> cases h
  · exact sized_sound _ _ _ (cmdRegRead_sound _ _ _ _)
  · exact sized_sound _ _ _ (cmdRegWrite_sound _ _ _ _ _)
  · exact cmdHankOpen_sound _ _
  · exact sized_sound _ _ _ (cmdHankClose_sound _ _ _)
  · exact sized_sound _ _ _ (cmdHankQuery_sound _ _)
  · exact sized_sound _ _ _ (cmdCaravanOpen_sound _ _ _ _ _ _ _)
  · exact sized_sound _ _ _ (cmdCaravanClose_sound _ _)
  · exact sized_sound _ _ _ (cmdProgLoad_sound _ _ _ _ _)
  · exact sized_sound _ _ _ (cmdProgStart_sound _ _ _)
  · exact sized_sound _ _ _ (cmdStepCommit_sound _ _ _ _)
  · exact sized_sound _ _ _ (cmdStepAbort_sound _ _ _ _)
  · exact sized_sound _ _ _ (cmdPowerSet_sound _ _ _ _)
  · exact startCommand_sound _ _
  · exact sized_sound _ _ _ (cmdOpPoll_sound _ _)
  · exact sized_sound _ _ _ (cmdOpCancel_sound _ _)
  · exact fun x hx => cmdDebugOpen_sound tag (cpParam pl 0) (cpParam pl 1) (pl.drop 16) x hx
  · exact sized_sound _ _ _ (cmdDebugClose_sound _)
  · exact sized_sound _ _ _ (cmdDebugEngine_sound _ _ _ _ _ _)
  · exact sized_sound _ _ _ (cmdDebugRead_sound _ _ _ _ _ _ _)
  · exact fun x hx => cmdDebugWrite_sound s tag (cpParam pl 0) (cpParam pl 1) (cpParam pl 2) (cpParam pl 3) (cpParam pl 4)
      (pl.drop 40) x hx
  · exact sized_sound _ _ _ (cmdDebugSync_sound _ _ _ _ _ _ _)
  · exact sized_sound _ _ _ (cmdFaultRead_sound _ _ _)
  · exact sized_sound _ _ _ (cmdAttestReport_sound _ _)
  · exact sized_sound _ _ _ (cmdInfoRead_sound _)

theorem placeCommand_sound (w0 : Word) (w2 : Word) (pl : List Byte) (s : State) (s_ok : Sound s) : Sound (placeCommand
    w0 w2 pl s) := by
  unfold placeCommand
  dsimp only
  split
  · exact respond_sound _ _ _ _ _ s_ok
  · refine takeKnown_sound _ _ _ _ _ s_ok (fun s h => ?_)
    split
    · exact takeUnknown_sound _ _ _ h
    next e => exact takeNew_sound _ _ _ h (commandOf_sound _ _ _ _ _ e)

theorem execCommand_sound (w0 : Word) (w1 : Word) (w2 : Word) (w3 : Word) (payload : List Byte) (s : State) (s_ok :
    Sound s) : ∀ t, (execCommand w0 w1 w2 w3 payload s) = .next t → Sound t := by
  intro t ht; unfold execCommand at ht; cases ht; (repeat' (with_reducible (first
    | assumption | apply numberedRow_sound | apply placeCommand_sound)))

theorem placeBulk_sound (w0 : Word) (w2 : Word) (pl : List Byte) (s : State) (s_ok : Sound s) : Sound (placeBulk w0 w2
    pl s) := by
  unfold placeBulk
  dsimp only
  split
  · exact s_ok
  · split
    · exact cpCountUp_sound _ _ s_ok
    · exact ⟨s_ok.module, s_ok.erg, memWrite_wf s_ok.staging _ _, s_ok.stores, s_ok.records, s_ok.remembered⟩

theorem execBulk_sound (w0 : Word) (w1 : Word) (w2 : Word) (w3 : Word) (payload : List Byte) (s : State) (s_ok : Sound
    s) : ∀ t, (execBulk w0 w1 w2 w3 payload s) = .next t → Sound t := by
  intro t ht; unfold execBulk at ht; cases ht; (repeat' (with_reducible (first
    | assumption | apply placeBulk_sound | apply numberedRow_sound)))

theorem linkFrame_sound (s : State) (kind : Nat) (len : Nat) (w0 : Word) (w1 : Word) (w2 : Word) (w3 : Word) (payload
    : List Byte) (act : State → State) (s_ok : Sound s) (act_ok : ∀ s1, Sound s1 → Sound (act s1)) : Sound (linkFrame s
    kind len w0 w1 w2 w3 payload act) := by
  unfold linkFrame; (repeat' (with_reducible (first
    | assumption | apply cpCountUp_sound | apply frameFails_sound | apply cpAcked_sound | split
    | (refine snd_sound (by assumption) ?_) | (refine fst_sound (by assumption) ?_)
    | (refine trd_sound (by assumption) ?_) | apply act_ok)))

theorem sendHello_sound (s : State) (reject : Bool) (s_ok : Sound s) : Sound (sendHello s reject) := by
  unfold sendHello; (repeat' (with_reducible (first
    | assumption | apply emit_sound)))

theorem takeHello_sound (hh : List Byte) (s : State) (s_ok : Sound s) : Sound (takeHello hh s) := by
  unfold takeHello; (repeat' (with_reducible (first
    | assumption | apply pump_sound | apply sendHello_sound | apply cpRestart_sound | apply modCp_sound | split
    | (dsimp only) | (intro _) | (refine Sound.remembered ?_))))

theorem execLinkFrameHello_sound (w0 : Word) (w1 : Word) (w2 : Word) (w3 : Word) (payload : List Byte) (s : State)
    (s_ok : Sound s) : ∀ t, (execLinkFrameHello w0 w1 w2 w3 payload s) = .next t → Sound t := by
  intro t ht; unfold execLinkFrameHello at ht; cases ht; (repeat' (with_reducible (first
    | assumption | apply takeHello_sound | apply linkFrame_sound)))

theorem execLinkFrameAck_sound (w0 : Word) (w1 : Word) (w2 : Word) (w3 : Word) (s : State) (s_ok : Sound s) : ∀ t,
    (execLinkFrameAck w0 w1 w2 w3 s) = .next t → Sound t := by
  intro t ht; unfold execLinkFrameAck at ht; cases ht; (iterate 40 (all_goals (try (with_reducible (first
    | assumption | apply linkFrame_sound | split | (dsimp only) | (intro _)
    | (fail_if_no_progress (refine sound_upd ?_ rfl rfl rfl rfl rfl)) | (refine snd_sound (by assumption) ?_)
    | (refine fst_sound (by assumption) ?_) | (refine trd_sound (by assumption) ?_) | (refine Sound.remembered ?_)
    | (refine Sound.erg ?_) | (refine getSp_sound ?_ _) | (refine Sound.module ?_) | (refine legal_upd ?_)
    | (refine Sound.stores ?_) | (refine storesCanonical_all ?_ ?_) | (refine storesCanonical_filter ?_ _)
    | (refine id_sound ?_))))))

theorem execLinkFrameNak_sound (w0 : Word) (w1 : Word) (w2 : Word) (w3 : Word) (s : State) (s_ok : Sound s) : ∀ t,
    (execLinkFrameNak w0 w1 w2 w3 s) = .next t → Sound t := by
  intro t ht; unfold execLinkFrameNak at ht; cases ht; (repeat' (with_reducible (first
    | assumption | apply cpResend_sound | apply linkFrame_sound | split | (dsimp only) | (intro _))))

theorem sendAligns_sound (s : State) (s_ok : Sound s) : Sound (sendAligns s) := by
  unfold sendAligns; (repeat' (with_reducible (first
    | assumption | apply freeWord_sound | apply emit_sound | (apply foldl_sound; intros))))

theorem takeAlign_sound (lane : Nat) (s : State) (s_ok : Sound s) : Sound (takeAlign lane s) := by
  unfold takeAlign; (repeat' (with_reducible (first
    | assumption | apply sendHello_sound | apply modCp_sound | split | (dsimp only) | (intro _)
    | (refine Sound.remembered ?_))))

theorem execLinkFrameAlign_sound (w0 : Word) (w1 : Word) (w2 : Word) (w3 : Word) (s : State) (s_ok : Sound s) : ∀ t,
    (execLinkFrameAlign w0 w1 w2 w3 s) = .next t → Sound t := by
  intro t ht; unfold execLinkFrameAlign at ht; cases ht; (repeat' (with_reducible (first
    | assumption | apply takeAlign_sound | apply linkFrame_sound)))

theorem execFecLock_sound (s : State) (s_ok : Sound s) : ∀ t, (execFecLock s) = .next t → Sound t := by
  intro t ht; unfold execFecLock at ht; split at ht <;> cases ht; (repeat' (with_reducible (first
    | assumption | apply sendAligns_sound | apply modCp_sound | (refine Sound.remembered ?_))))

theorem loseCpLane_sound (s : State) (s_ok : Sound s) : Sound (loseCpLane s) := by
  unfold loseCpLane; (repeat' (with_reducible (first
    | assumption | apply cpLinkDown_sound | apply raiseFault_sound | split)))

theorem execControlLaneLockLoss_sound (lane : Nat) (s : State) (s_ok : Sound s) : ∀ t, (execControlLaneLockLoss lane
    s) = .next t → Sound t := by
  intro t ht; unfold execControlLaneLockLoss at ht; (repeat' (split at ht)) <;> (first | (cases ht; done) | ((try cases ht); (repeat' (with_reducible (first
    | assumption | apply loseCpLane_sound | (refine atUnit_sound _ _ _ _ _ ?_ _ (by assumption)))))))

theorem execLinkUpLimit_sound (s : State) (s_ok : Sound s) : ∀ t, (execLinkUpLimit s) = .next t → Sound t := by
  intro t ht; unfold execLinkUpLimit at ht; (repeat' (split at ht)) <;> (first | (cases ht; done) | ((try cases ht); (repeat' (with_reducible (first
    | assumption | apply cpRestart_sound | apply modCp_sound | (refine Sound.remembered ?_))))))

theorem execResendTimeout_sound (long : Bool) (s : State) (s_ok : Sound s) : ∀ t, (execResendTimeout long s) = .next t
    → Sound t := by
  intro t ht; unfold execResendTimeout at ht; (repeat' (split at ht)) <;> (first | (cases ht; done) | ((try cases ht); (repeat' (with_reducible (first
    | assumption | apply cpLinkDown_sound | apply cpResend_sound)))))

theorem timeOut_sound (s : State) (tag : Nat) (opcode : Nat) (s_ok : Sound s) : Sound (timeOut s tag opcode) := by
  unfold timeOut; (repeat' (with_reducible (first
    | assumption | apply raiseFault_sound | apply answer_sound | apply modCp_sound | (refine Sound.remembered ?_))))

theorem execCommandTimeout_sound (tag : Nat) (s : State) (s_ok : Sound s) : ∀ t, (execCommandTimeout tag s) = .next t
    → Sound t := by
  intro t ht; unfold execCommandTimeout at ht; (repeat' (split at ht)) <;> (first | (cases ht; done) | ((try cases ht); (repeat' (with_reducible (first
    | assumption | apply timeOut_sound)))))

theorem engineExpires_sound (s : State) (key : Nat) (i : Nat) (s_ok : Sound s) : Sound (engineExpires s key i) := by
  unfold engineExpires; dsimp only; (repeat' (with_reducible (first
    | assumption | apply modEng_sound | apply raiseDetail_sound | apply eadd_sound | split)))

theorem execEngineQueueWatchdog_sound (die : Nat) (slot : Nat) (engine : Nat) (s : State) (s_ok : Sound s) : ∀ t,
    (execEngineQueueWatchdog die slot engine s) = .next t → Sound t := by
  intro t ht; unfold execEngineQueueWatchdog at ht; (repeat' (split at ht)) <;> (first | (cases ht; done) | ((try cases ht); (repeat' (with_reducible (first
    | assumption | apply engineExpires_sound | (refine atEngine_sound _ _ _ _ ?_ _ (by assumption)))))))

theorem stewardExpires_sound (s : State) (die : Nat) (s_ok : Sound s) : Sound (stewardExpires s die) := by
  unfold stewardExpires; (repeat' (with_reducible (first
    | assumption | apply modDie_sound | apply raiseFault_sound | split)))

theorem execStewardWatchdog_sound (die : Nat) (s : State) (s_ok : Sound s) : ∀ t, (execStewardWatchdog die s) = .next
    t → Sound t := by
  intro t ht; unfold execStewardWatchdog at ht; (repeat' (split at ht)) <;> (first | (cases ht; done) | ((try cases ht); (repeat' (with_reducible (first
    | assumption | (refine atUnit_sound _ _ _ _ _ ?_ _ (by assumption)) | apply stewardExpires_sound)))))

theorem activeLost_sound (s : State) (s_ok : Sound s) : Sound (activeLost s) := by
  unfold activeLost; (repeat' (with_reducible (first
    | assumption | exact raiseWith_sound | apply raiseWith_sound | apply modModule_sound | apply failover_sound
    | apply settleErr_sound | apply oneCycle_sound | split | (dsimp only) | (intro _)
    | (fail_if_no_progress (refine sound_upd ?_ rfl rfl rfl rfl rfl)) | (refine snd_sound (by assumption) ?_)
    | (refine fst_sound (by assumption) ?_) | (refine trd_sound (by assumption) ?_) | (refine Sound.module ?_)
    | (refine legal_upd ?_))))

theorem distaffExpires_sound (s : State) (die : Nat) (s_ok : Sound s) : Sound (distaffExpires s die) := by
  unfold distaffExpires; dsimp only; (repeat' (with_reducible (first
    | assumption | apply raiseFault_sound | apply activeLost_sound | split
    | (fail_if_no_progress (refine sound_upd ?_ rfl rfl rfl rfl rfl)))))

theorem execDistaffWatchdog_sound (die : Nat) (mirror : Bool) (s : State) (s_ok : Sound s) : ∀ t, (execDistaffWatchdog
    die mirror s) = .next t → Sound t := by
  intro t ht; unfold execDistaffWatchdog at ht; (repeat' (split at ht)) <;> (first | (cases ht; done) | ((try cases ht); (repeat' (with_reducible (first
    | assumption | apply distaffExpires_sound | (refine atUnit_sound _ _ _ _ _ ?_ _ (by assumption))
    | apply activeLost_sound)))))

theorem windowEnds_sound (s : State) (source : Nat) (s_ok : Sound s) : Sound (windowEnds s source) := by
  unfold windowEnds; (repeat' (with_reducible (first
    | assumption | apply keepRecord_sound | split | (fail_if_no_progress (refine sound_upd ?_ rfl rfl rfl rfl rfl)))))

theorem execSuppressedRecord_sound (source : Nat) (s : State) (s_ok : Sound s) : ∀ t, (execSuppressedRecord source s)
    = .next t → Sound t := by
  intro t ht; unfold execSuppressedRecord at ht; split at ht <;> cases ht; (repeat' (with_reducible (first
    | assumption | apply windowEnds_sound)))

theorem execPulseEnd_sound (s : State) (s_ok : Sound s) : ∀ t, (execPulseEnd s) = .next t → Sound t := by
  intro t ht; unfold execPulseEnd at ht; split at ht <;> cases ht; (repeat' (with_reducible (first
    | assumption | apply modModule_sound | apply settleErr_sound | (refine Sound.module ?_) | (refine legal_upd ?_))))

end Sys2Proof.Machine
end

