-- ==== Sys2Proof/Laws/State.lean ====
section
/-! SUPPORT. What each setter of the state leaves in every field of State: one lemma per field per setter, so that no later
proof unfolds a record update. -/

namespace Sys2Proof.Machine

variable (s : State)


/-! ### rset -/

@[simp] theorem rset_pending (r : Reg) (d k j v : Nat) : (rset s r d k j v).pending = s.pending := rfl
@[simp] theorem rset_freeCtr (r : Reg) (d k j v : Nat) : (rset s r d k j v).freeCtr = s.freeCtr := rfl
@[simp] theorem rset_nextUid (r : Reg) (d k j v : Nat) : (rset s r d k j v).nextUid = s.nextUid := rfl
@[simp] theorem rset_module (r : Reg) (d k j v : Nat) : (rset s r d k j v).module = s.module := rfl
@[simp] theorem rset_regs (r : Reg) (d k j v : Nat) :
    (rset s r d k j v).regs = mapPut s.regs (word (regReset r d j)) (regAddr r d k j) (word v) := rfl
@[simp] theorem rset_units (r : Reg) (d k j v : Nat) : (rset s r d k j v).units = s.units := rfl
@[simp] theorem rset_dies (r : Reg) (d k j v : Nat) : (rset s r d k j v).dies = s.dies := rfl
@[simp] theorem rset_portDies (r : Reg) (d k j v : Nat) : (rset s r d k j v).portDies = s.portDies := rfl
@[simp] theorem rset_ports (r : Reg) (d k j v : Nat) : (rset s r d k j v).ports = s.ports := rfl
@[simp] theorem rset_ready (r : Reg) (d k j v : Nat) : (rset s r d k j v).ready = s.ready := rfl
@[simp] theorem rset_inbox (r : Reg) (d k j v : Nat) : (rset s r d k j v).inbox = s.inbox := rfl
@[simp] theorem rset_planeA (r : Reg) (d k j v : Nat) : (rset s r d k j v).planeA = s.planeA := rfl
@[simp] theorem rset_planeB (r : Reg) (d k j v : Nat) : (rset s r d k j v).planeB = s.planeB := rfl
@[simp] theorem rset_caravans (r : Reg) (d k j v : Nat) : (rset s r d k j v).caravans = s.caravans := rfl
@[simp] theorem rset_jobs (r : Reg) (d k j v : Nat) : (rset s r d k j v).jobs = s.jobs := rfl
@[simp] theorem rset_hanks (r : Reg) (d k j v : Nat) : (rset s r d k j v).hanks = s.hanks := rfl
@[simp] theorem rset_spindles (r : Reg) (d k j v : Nat) : (rset s r d k j v).spindles = s.spindles := rfl
@[simp] theorem rset_sync (r : Reg) (d k j v : Nat) : (rset s r d k j v).sync = s.sync := rfl
@[simp] theorem rset_erg (r : Reg) (d k j v : Nat) : (rset s r d k j v).erg = s.erg := rfl
@[simp] theorem rset_staging (r : Reg) (d k j v : Nat) : (rset s r d k j v).staging = s.staging := rfl
@[simp] theorem rset_ops (r : Reg) (d k j v : Nat) : (rset s r d k j v).ops = s.ops := rfl
@[simp] theorem rset_opUses (r : Reg) (d k j v : Nat) : (rset s r d k j v).opUses = s.opUses := rfl
@[simp] theorem rset_opTurn (r : Reg) (d k j v : Nat) : (rset s r d k j v).opTurn = s.opTurn := rfl
@[simp] theorem rset_cp (r : Reg) (d k j v : Nat) : (rset s r d k j v).cp = s.cp := rfl
@[simp] theorem rset_sec (r : Reg) (d k j v : Nat) : (rset s r d k j v).sec = s.sec := rfl
@[simp] theorem rset_records (r : Reg) (d k j v : Nat) : (rset s r d k j v).records = s.records := rfl
@[simp] theorem rset_nextRecord (r : Reg) (d k j v : Nat) : (rset s r d k j v).nextRecord = s.nextRecord := rfl
@[simp] theorem rset_readUpTo (r : Reg) (d k j v : Nat) : (rset s r d k j v).readUpTo = s.readUpTo := rfl
@[simp] theorem rset_windows (r : Reg) (d k j v : Nat) : (rset s r d k j v).windows = s.windows := rfl
@[simp] theorem rset_raised (r : Reg) (d k j v : Nat) : (rset s r d k j v).raised = s.raised := rfl
@[simp] theorem rset_episodes (r : Reg) (d k j v : Nat) : (rset s r d k j v).episodes = s.episodes := rfl
@[simp] theorem rset_out (r : Reg) (d k j v : Nat) : (rset s r d k j v).out = s.out := rfl

/-! ### setUnit -/

@[simp] theorem setUnit_pending (d c k : Nat) (v : UnitState) : (setUnit s d c k v).pending = s.pending := rfl
@[simp] theorem setUnit_freeCtr (d c k : Nat) (v : UnitState) : (setUnit s d c k v).freeCtr = s.freeCtr := rfl
@[simp] theorem setUnit_nextUid (d c k : Nat) (v : UnitState) : (setUnit s d c k v).nextUid = s.nextUid := rfl
@[simp] theorem setUnit_module (d c k : Nat) (v : UnitState) : (setUnit s d c k v).module = s.module := rfl
@[simp] theorem setUnit_regs (d c k : Nat) (v : UnitState) : (setUnit s d c k v).regs = s.regs := rfl
@[simp] theorem setUnit_units (d c k : Nat) (v : UnitState) :
    (setUnit s d c k v).units = mapPut s.units .parked (unitKey d c k) v := rfl
@[simp] theorem setUnit_dies (d c k : Nat) (v : UnitState) : (setUnit s d c k v).dies = s.dies := rfl
@[simp] theorem setUnit_portDies (d c k : Nat) (v : UnitState) : (setUnit s d c k v).portDies = s.portDies := rfl
@[simp] theorem setUnit_ports (d c k : Nat) (v : UnitState) : (setUnit s d c k v).ports = s.ports := rfl
@[simp] theorem setUnit_ready (d c k : Nat) (v : UnitState) : (setUnit s d c k v).ready = s.ready := rfl
@[simp] theorem setUnit_inbox (d c k : Nat) (v : UnitState) : (setUnit s d c k v).inbox = s.inbox := rfl
@[simp] theorem setUnit_planeA (d c k : Nat) (v : UnitState) : (setUnit s d c k v).planeA = s.planeA := rfl
@[simp] theorem setUnit_planeB (d c k : Nat) (v : UnitState) : (setUnit s d c k v).planeB = s.planeB := rfl
@[simp] theorem setUnit_caravans (d c k : Nat) (v : UnitState) : (setUnit s d c k v).caravans = s.caravans := rfl
@[simp] theorem setUnit_jobs (d c k : Nat) (v : UnitState) : (setUnit s d c k v).jobs = s.jobs := rfl
@[simp] theorem setUnit_hanks (d c k : Nat) (v : UnitState) : (setUnit s d c k v).hanks = s.hanks := rfl
@[simp] theorem setUnit_spindles (d c k : Nat) (v : UnitState) : (setUnit s d c k v).spindles = s.spindles := rfl
@[simp] theorem setUnit_sync (d c k : Nat) (v : UnitState) : (setUnit s d c k v).sync = s.sync := rfl
@[simp] theorem setUnit_erg (d c k : Nat) (v : UnitState) : (setUnit s d c k v).erg = s.erg := rfl
@[simp] theorem setUnit_staging (d c k : Nat) (v : UnitState) : (setUnit s d c k v).staging = s.staging := rfl
@[simp] theorem setUnit_ops (d c k : Nat) (v : UnitState) : (setUnit s d c k v).ops = s.ops := rfl
@[simp] theorem setUnit_opUses (d c k : Nat) (v : UnitState) : (setUnit s d c k v).opUses = s.opUses := rfl
@[simp] theorem setUnit_opTurn (d c k : Nat) (v : UnitState) : (setUnit s d c k v).opTurn = s.opTurn := rfl
@[simp] theorem setUnit_cp (d c k : Nat) (v : UnitState) : (setUnit s d c k v).cp = s.cp := rfl
@[simp] theorem setUnit_sec (d c k : Nat) (v : UnitState) : (setUnit s d c k v).sec = s.sec := rfl
@[simp] theorem setUnit_records (d c k : Nat) (v : UnitState) : (setUnit s d c k v).records = s.records := rfl
@[simp] theorem setUnit_nextRecord (d c k : Nat) (v : UnitState) :
    (setUnit s d c k v).nextRecord = s.nextRecord := rfl
@[simp] theorem setUnit_readUpTo (d c k : Nat) (v : UnitState) : (setUnit s d c k v).readUpTo = s.readUpTo := rfl
@[simp] theorem setUnit_windows (d c k : Nat) (v : UnitState) : (setUnit s d c k v).windows = s.windows := rfl
@[simp] theorem setUnit_raised (d c k : Nat) (v : UnitState) : (setUnit s d c k v).raised = s.raised := rfl
@[simp] theorem setUnit_episodes (d c k : Nat) (v : UnitState) : (setUnit s d c k v).episodes = s.episodes := rfl
@[simp] theorem setUnit_out (d c k : Nat) (v : UnitState) : (setUnit s d c k v).out = s.out := rfl

/-! ### setPort -/

@[simp] theorem setPort_pending (k : Nat) (v : Port) : (setPort s k v).pending = s.pending := rfl
@[simp] theorem setPort_freeCtr (k : Nat) (v : Port) : (setPort s k v).freeCtr = s.freeCtr := rfl
@[simp] theorem setPort_nextUid (k : Nat) (v : Port) : (setPort s k v).nextUid = s.nextUid := rfl
@[simp] theorem setPort_module (k : Nat) (v : Port) : (setPort s k v).module = s.module := rfl
@[simp] theorem setPort_regs (k : Nat) (v : Port) : (setPort s k v).regs = s.regs := rfl
@[simp] theorem setPort_units (k : Nat) (v : Port) : (setPort s k v).units = s.units := rfl
@[simp] theorem setPort_dies (k : Nat) (v : Port) : (setPort s k v).dies = s.dies := rfl
@[simp] theorem setPort_portDies (k : Nat) (v : Port) : (setPort s k v).portDies = s.portDies := rfl
@[simp] theorem setPort_ports (k : Nat) (v : Port) : (setPort s k v).ports = mapPut s.ports Port.init k v := rfl
@[simp] theorem setPort_ready (k : Nat) (v : Port) : (setPort s k v).ready = s.ready := rfl
@[simp] theorem setPort_inbox (k : Nat) (v : Port) : (setPort s k v).inbox = s.inbox := rfl
@[simp] theorem setPort_planeA (k : Nat) (v : Port) : (setPort s k v).planeA = s.planeA := rfl
@[simp] theorem setPort_planeB (k : Nat) (v : Port) : (setPort s k v).planeB = s.planeB := rfl
@[simp] theorem setPort_caravans (k : Nat) (v : Port) : (setPort s k v).caravans = s.caravans := rfl
@[simp] theorem setPort_jobs (k : Nat) (v : Port) : (setPort s k v).jobs = s.jobs := rfl
@[simp] theorem setPort_hanks (k : Nat) (v : Port) : (setPort s k v).hanks = s.hanks := rfl
@[simp] theorem setPort_spindles (k : Nat) (v : Port) : (setPort s k v).spindles = s.spindles := rfl
@[simp] theorem setPort_sync (k : Nat) (v : Port) : (setPort s k v).sync = s.sync := rfl
@[simp] theorem setPort_erg (k : Nat) (v : Port) : (setPort s k v).erg = s.erg := rfl
@[simp] theorem setPort_staging (k : Nat) (v : Port) : (setPort s k v).staging = s.staging := rfl
@[simp] theorem setPort_ops (k : Nat) (v : Port) : (setPort s k v).ops = s.ops := rfl
@[simp] theorem setPort_opUses (k : Nat) (v : Port) : (setPort s k v).opUses = s.opUses := rfl
@[simp] theorem setPort_opTurn (k : Nat) (v : Port) : (setPort s k v).opTurn = s.opTurn := rfl
@[simp] theorem setPort_cp (k : Nat) (v : Port) : (setPort s k v).cp = s.cp := rfl
@[simp] theorem setPort_sec (k : Nat) (v : Port) : (setPort s k v).sec = s.sec := rfl
@[simp] theorem setPort_records (k : Nat) (v : Port) : (setPort s k v).records = s.records := rfl
@[simp] theorem setPort_nextRecord (k : Nat) (v : Port) : (setPort s k v).nextRecord = s.nextRecord := rfl
@[simp] theorem setPort_readUpTo (k : Nat) (v : Port) : (setPort s k v).readUpTo = s.readUpTo := rfl
@[simp] theorem setPort_windows (k : Nat) (v : Port) : (setPort s k v).windows = s.windows := rfl
@[simp] theorem setPort_raised (k : Nat) (v : Port) : (setPort s k v).raised = s.raised := rfl
@[simp] theorem setPort_episodes (k : Nat) (v : Port) : (setPort s k v).episodes = s.episodes := rfl
@[simp] theorem setPort_out (k : Nat) (v : Port) : (setPort s k v).out = s.out := rfl

/-! ### setPortDie -/

@[simp] theorem setPortDie_pending (k : Nat) (v : PortDie) : (setPortDie s k v).pending = s.pending := rfl
@[simp] theorem setPortDie_freeCtr (k : Nat) (v : PortDie) : (setPortDie s k v).freeCtr = s.freeCtr := rfl
@[simp] theorem setPortDie_nextUid (k : Nat) (v : PortDie) : (setPortDie s k v).nextUid = s.nextUid := rfl
@[simp] theorem setPortDie_module (k : Nat) (v : PortDie) : (setPortDie s k v).module = s.module := rfl
@[simp] theorem setPortDie_regs (k : Nat) (v : PortDie) : (setPortDie s k v).regs = s.regs := rfl
@[simp] theorem setPortDie_units (k : Nat) (v : PortDie) : (setPortDie s k v).units = s.units := rfl
@[simp] theorem setPortDie_dies (k : Nat) (v : PortDie) : (setPortDie s k v).dies = s.dies := rfl
@[simp] theorem setPortDie_portDies (k : Nat) (v : PortDie) :
    (setPortDie s k v).portDies = mapPut s.portDies PortDie.init k v := rfl
@[simp] theorem setPortDie_ports (k : Nat) (v : PortDie) : (setPortDie s k v).ports = s.ports := rfl
@[simp] theorem setPortDie_ready (k : Nat) (v : PortDie) : (setPortDie s k v).ready = s.ready := rfl
@[simp] theorem setPortDie_inbox (k : Nat) (v : PortDie) : (setPortDie s k v).inbox = s.inbox := rfl
@[simp] theorem setPortDie_planeA (k : Nat) (v : PortDie) : (setPortDie s k v).planeA = s.planeA := rfl
@[simp] theorem setPortDie_planeB (k : Nat) (v : PortDie) : (setPortDie s k v).planeB = s.planeB := rfl
@[simp] theorem setPortDie_caravans (k : Nat) (v : PortDie) : (setPortDie s k v).caravans = s.caravans := rfl
@[simp] theorem setPortDie_jobs (k : Nat) (v : PortDie) : (setPortDie s k v).jobs = s.jobs := rfl
@[simp] theorem setPortDie_hanks (k : Nat) (v : PortDie) : (setPortDie s k v).hanks = s.hanks := rfl
@[simp] theorem setPortDie_spindles (k : Nat) (v : PortDie) : (setPortDie s k v).spindles = s.spindles := rfl
@[simp] theorem setPortDie_sync (k : Nat) (v : PortDie) : (setPortDie s k v).sync = s.sync := rfl
@[simp] theorem setPortDie_erg (k : Nat) (v : PortDie) : (setPortDie s k v).erg = s.erg := rfl
@[simp] theorem setPortDie_staging (k : Nat) (v : PortDie) : (setPortDie s k v).staging = s.staging := rfl
@[simp] theorem setPortDie_ops (k : Nat) (v : PortDie) : (setPortDie s k v).ops = s.ops := rfl
@[simp] theorem setPortDie_opUses (k : Nat) (v : PortDie) : (setPortDie s k v).opUses = s.opUses := rfl
@[simp] theorem setPortDie_opTurn (k : Nat) (v : PortDie) : (setPortDie s k v).opTurn = s.opTurn := rfl
@[simp] theorem setPortDie_cp (k : Nat) (v : PortDie) : (setPortDie s k v).cp = s.cp := rfl
@[simp] theorem setPortDie_sec (k : Nat) (v : PortDie) : (setPortDie s k v).sec = s.sec := rfl
@[simp] theorem setPortDie_records (k : Nat) (v : PortDie) : (setPortDie s k v).records = s.records := rfl
@[simp] theorem setPortDie_nextRecord (k : Nat) (v : PortDie) : (setPortDie s k v).nextRecord = s.nextRecord := rfl
@[simp] theorem setPortDie_readUpTo (k : Nat) (v : PortDie) : (setPortDie s k v).readUpTo = s.readUpTo := rfl
@[simp] theorem setPortDie_windows (k : Nat) (v : PortDie) : (setPortDie s k v).windows = s.windows := rfl
@[simp] theorem setPortDie_raised (k : Nat) (v : PortDie) : (setPortDie s k v).raised = s.raised := rfl
@[simp] theorem setPortDie_episodes (k : Nat) (v : PortDie) : (setPortDie s k v).episodes = s.episodes := rfl
@[simp] theorem setPortDie_out (k : Nat) (v : PortDie) : (setPortDie s k v).out = s.out := rfl

/-! ### setDie -/

@[simp] theorem setDie_pending (k : Nat) (v : Die) : (setDie s k v).pending = s.pending := rfl
@[simp] theorem setDie_freeCtr (k : Nat) (v : Die) : (setDie s k v).freeCtr = s.freeCtr := rfl
@[simp] theorem setDie_nextUid (k : Nat) (v : Die) : (setDie s k v).nextUid = s.nextUid := rfl
@[simp] theorem setDie_module (k : Nat) (v : Die) : (setDie s k v).module = s.module := rfl
@[simp] theorem setDie_regs (k : Nat) (v : Die) : (setDie s k v).regs = s.regs := rfl
@[simp] theorem setDie_units (k : Nat) (v : Die) : (setDie s k v).units = s.units := rfl
@[simp] theorem setDie_dies (k : Nat) (v : Die) : (setDie s k v).dies = mapPut s.dies Die.init k v := rfl
@[simp] theorem setDie_portDies (k : Nat) (v : Die) : (setDie s k v).portDies = s.portDies := rfl
@[simp] theorem setDie_ports (k : Nat) (v : Die) : (setDie s k v).ports = s.ports := rfl
@[simp] theorem setDie_ready (k : Nat) (v : Die) : (setDie s k v).ready = s.ready := rfl
@[simp] theorem setDie_inbox (k : Nat) (v : Die) : (setDie s k v).inbox = s.inbox := rfl
@[simp] theorem setDie_planeA (k : Nat) (v : Die) : (setDie s k v).planeA = s.planeA := rfl
@[simp] theorem setDie_planeB (k : Nat) (v : Die) : (setDie s k v).planeB = s.planeB := rfl
@[simp] theorem setDie_caravans (k : Nat) (v : Die) : (setDie s k v).caravans = s.caravans := rfl
@[simp] theorem setDie_jobs (k : Nat) (v : Die) : (setDie s k v).jobs = s.jobs := rfl
@[simp] theorem setDie_hanks (k : Nat) (v : Die) : (setDie s k v).hanks = s.hanks := rfl
@[simp] theorem setDie_spindles (k : Nat) (v : Die) : (setDie s k v).spindles = s.spindles := rfl
@[simp] theorem setDie_sync (k : Nat) (v : Die) : (setDie s k v).sync = s.sync := rfl
@[simp] theorem setDie_erg (k : Nat) (v : Die) : (setDie s k v).erg = s.erg := rfl
@[simp] theorem setDie_staging (k : Nat) (v : Die) : (setDie s k v).staging = s.staging := rfl
@[simp] theorem setDie_ops (k : Nat) (v : Die) : (setDie s k v).ops = s.ops := rfl
@[simp] theorem setDie_opUses (k : Nat) (v : Die) : (setDie s k v).opUses = s.opUses := rfl
@[simp] theorem setDie_opTurn (k : Nat) (v : Die) : (setDie s k v).opTurn = s.opTurn := rfl
@[simp] theorem setDie_cp (k : Nat) (v : Die) : (setDie s k v).cp = s.cp := rfl
@[simp] theorem setDie_sec (k : Nat) (v : Die) : (setDie s k v).sec = s.sec := rfl
@[simp] theorem setDie_records (k : Nat) (v : Die) : (setDie s k v).records = s.records := rfl
@[simp] theorem setDie_nextRecord (k : Nat) (v : Die) : (setDie s k v).nextRecord = s.nextRecord := rfl
@[simp] theorem setDie_readUpTo (k : Nat) (v : Die) : (setDie s k v).readUpTo = s.readUpTo := rfl
@[simp] theorem setDie_windows (k : Nat) (v : Die) : (setDie s k v).windows = s.windows := rfl
@[simp] theorem setDie_raised (k : Nat) (v : Die) : (setDie s k v).raised = s.raised := rfl
@[simp] theorem setDie_episodes (k : Nat) (v : Die) : (setDie s k v).episodes = s.episodes := rfl
@[simp] theorem setDie_out (k : Nat) (v : Die) : (setDie s k v).out = s.out := rfl

/-! ### setJob -/

@[simp] theorem setJob_pending (k : Nat) (v : Job) : (setJob s k v).pending = s.pending := rfl
@[simp] theorem setJob_freeCtr (k : Nat) (v : Job) : (setJob s k v).freeCtr = s.freeCtr := rfl
@[simp] theorem setJob_nextUid (k : Nat) (v : Job) : (setJob s k v).nextUid = s.nextUid := rfl
@[simp] theorem setJob_module (k : Nat) (v : Job) : (setJob s k v).module = s.module := rfl
@[simp] theorem setJob_regs (k : Nat) (v : Job) : (setJob s k v).regs = s.regs := rfl
@[simp] theorem setJob_units (k : Nat) (v : Job) : (setJob s k v).units = s.units := rfl
@[simp] theorem setJob_dies (k : Nat) (v : Job) : (setJob s k v).dies = s.dies := rfl
@[simp] theorem setJob_portDies (k : Nat) (v : Job) : (setJob s k v).portDies = s.portDies := rfl
@[simp] theorem setJob_ports (k : Nat) (v : Job) : (setJob s k v).ports = s.ports := rfl
@[simp] theorem setJob_ready (k : Nat) (v : Job) : (setJob s k v).ready = s.ready := rfl
@[simp] theorem setJob_inbox (k : Nat) (v : Job) : (setJob s k v).inbox = s.inbox := rfl
@[simp] theorem setJob_planeA (k : Nat) (v : Job) : (setJob s k v).planeA = s.planeA := rfl
@[simp] theorem setJob_planeB (k : Nat) (v : Job) : (setJob s k v).planeB = s.planeB := rfl
@[simp] theorem setJob_caravans (k : Nat) (v : Job) : (setJob s k v).caravans = s.caravans := rfl
@[simp] theorem setJob_jobs (k : Nat) (v : Job) : (setJob s k v).jobs = mapPut s.jobs Job.init k v := rfl
@[simp] theorem setJob_hanks (k : Nat) (v : Job) : (setJob s k v).hanks = s.hanks := rfl
@[simp] theorem setJob_spindles (k : Nat) (v : Job) : (setJob s k v).spindles = s.spindles := rfl
@[simp] theorem setJob_sync (k : Nat) (v : Job) : (setJob s k v).sync = s.sync := rfl
@[simp] theorem setJob_erg (k : Nat) (v : Job) : (setJob s k v).erg = s.erg := rfl
@[simp] theorem setJob_staging (k : Nat) (v : Job) : (setJob s k v).staging = s.staging := rfl
@[simp] theorem setJob_ops (k : Nat) (v : Job) : (setJob s k v).ops = s.ops := rfl
@[simp] theorem setJob_opUses (k : Nat) (v : Job) : (setJob s k v).opUses = s.opUses := rfl
@[simp] theorem setJob_opTurn (k : Nat) (v : Job) : (setJob s k v).opTurn = s.opTurn := rfl
@[simp] theorem setJob_cp (k : Nat) (v : Job) : (setJob s k v).cp = s.cp := rfl
@[simp] theorem setJob_sec (k : Nat) (v : Job) : (setJob s k v).sec = s.sec := rfl
@[simp] theorem setJob_records (k : Nat) (v : Job) : (setJob s k v).records = s.records := rfl
@[simp] theorem setJob_nextRecord (k : Nat) (v : Job) : (setJob s k v).nextRecord = s.nextRecord := rfl
@[simp] theorem setJob_readUpTo (k : Nat) (v : Job) : (setJob s k v).readUpTo = s.readUpTo := rfl
@[simp] theorem setJob_windows (k : Nat) (v : Job) : (setJob s k v).windows = s.windows := rfl
@[simp] theorem setJob_raised (k : Nat) (v : Job) : (setJob s k v).raised = s.raised := rfl
@[simp] theorem setJob_episodes (k : Nat) (v : Job) : (setJob s k v).episodes = s.episodes := rfl
@[simp] theorem setJob_out (k : Nat) (v : Job) : (setJob s k v).out = s.out := rfl

/-! ### setHank -/

@[simp] theorem setHank_pending (k : Nat) (v : Hank) : (setHank s k v).pending = s.pending := rfl
@[simp] theorem setHank_freeCtr (k : Nat) (v : Hank) : (setHank s k v).freeCtr = s.freeCtr := rfl
@[simp] theorem setHank_nextUid (k : Nat) (v : Hank) : (setHank s k v).nextUid = s.nextUid := rfl
@[simp] theorem setHank_module (k : Nat) (v : Hank) : (setHank s k v).module = s.module := rfl
@[simp] theorem setHank_regs (k : Nat) (v : Hank) : (setHank s k v).regs = s.regs := rfl
@[simp] theorem setHank_units (k : Nat) (v : Hank) : (setHank s k v).units = s.units := rfl
@[simp] theorem setHank_dies (k : Nat) (v : Hank) : (setHank s k v).dies = s.dies := rfl
@[simp] theorem setHank_portDies (k : Nat) (v : Hank) : (setHank s k v).portDies = s.portDies := rfl
@[simp] theorem setHank_ports (k : Nat) (v : Hank) : (setHank s k v).ports = s.ports := rfl
@[simp] theorem setHank_ready (k : Nat) (v : Hank) : (setHank s k v).ready = s.ready := rfl
@[simp] theorem setHank_inbox (k : Nat) (v : Hank) : (setHank s k v).inbox = s.inbox := rfl
@[simp] theorem setHank_planeA (k : Nat) (v : Hank) : (setHank s k v).planeA = s.planeA := rfl
@[simp] theorem setHank_planeB (k : Nat) (v : Hank) : (setHank s k v).planeB = s.planeB := rfl
@[simp] theorem setHank_caravans (k : Nat) (v : Hank) : (setHank s k v).caravans = s.caravans := rfl
@[simp] theorem setHank_jobs (k : Nat) (v : Hank) : (setHank s k v).jobs = s.jobs := rfl
@[simp] theorem setHank_hanks (k : Nat) (v : Hank) : (setHank s k v).hanks = mapIns s.hanks k v := rfl
@[simp] theorem setHank_spindles (k : Nat) (v : Hank) : (setHank s k v).spindles = s.spindles := rfl
@[simp] theorem setHank_sync (k : Nat) (v : Hank) : (setHank s k v).sync = s.sync := rfl
@[simp] theorem setHank_erg (k : Nat) (v : Hank) : (setHank s k v).erg = s.erg := rfl
@[simp] theorem setHank_staging (k : Nat) (v : Hank) : (setHank s k v).staging = s.staging := rfl
@[simp] theorem setHank_ops (k : Nat) (v : Hank) : (setHank s k v).ops = s.ops := rfl
@[simp] theorem setHank_opUses (k : Nat) (v : Hank) : (setHank s k v).opUses = s.opUses := rfl
@[simp] theorem setHank_opTurn (k : Nat) (v : Hank) : (setHank s k v).opTurn = s.opTurn := rfl
@[simp] theorem setHank_cp (k : Nat) (v : Hank) : (setHank s k v).cp = s.cp := rfl
@[simp] theorem setHank_sec (k : Nat) (v : Hank) : (setHank s k v).sec = s.sec := rfl
@[simp] theorem setHank_records (k : Nat) (v : Hank) : (setHank s k v).records = s.records := rfl
@[simp] theorem setHank_nextRecord (k : Nat) (v : Hank) : (setHank s k v).nextRecord = s.nextRecord := rfl
@[simp] theorem setHank_readUpTo (k : Nat) (v : Hank) : (setHank s k v).readUpTo = s.readUpTo := rfl
@[simp] theorem setHank_windows (k : Nat) (v : Hank) : (setHank s k v).windows = s.windows := rfl
@[simp] theorem setHank_raised (k : Nat) (v : Hank) : (setHank s k v).raised = s.raised := rfl
@[simp] theorem setHank_episodes (k : Nat) (v : Hank) : (setHank s k v).episodes = s.episodes := rfl
@[simp] theorem setHank_out (k : Nat) (v : Hank) : (setHank s k v).out = s.out := rfl

/-! ### delHank -/

@[simp] theorem delHank_pending (k : Nat) : (delHank s k).pending = s.pending := rfl
@[simp] theorem delHank_freeCtr (k : Nat) : (delHank s k).freeCtr = s.freeCtr := rfl
@[simp] theorem delHank_nextUid (k : Nat) : (delHank s k).nextUid = s.nextUid := rfl
@[simp] theorem delHank_module (k : Nat) : (delHank s k).module = s.module := rfl
@[simp] theorem delHank_regs (k : Nat) : (delHank s k).regs = s.regs := rfl
@[simp] theorem delHank_units (k : Nat) : (delHank s k).units = s.units := rfl
@[simp] theorem delHank_dies (k : Nat) : (delHank s k).dies = s.dies := rfl
@[simp] theorem delHank_portDies (k : Nat) : (delHank s k).portDies = s.portDies := rfl
@[simp] theorem delHank_ports (k : Nat) : (delHank s k).ports = s.ports := rfl
@[simp] theorem delHank_ready (k : Nat) : (delHank s k).ready = s.ready := rfl
@[simp] theorem delHank_inbox (k : Nat) : (delHank s k).inbox = s.inbox := rfl
@[simp] theorem delHank_planeA (k : Nat) : (delHank s k).planeA = s.planeA := rfl
@[simp] theorem delHank_planeB (k : Nat) : (delHank s k).planeB = s.planeB := rfl
@[simp] theorem delHank_caravans (k : Nat) : (delHank s k).caravans = s.caravans := rfl
@[simp] theorem delHank_jobs (k : Nat) : (delHank s k).jobs = s.jobs := rfl
@[simp] theorem delHank_hanks (k : Nat) : (delHank s k).hanks = mapDel s.hanks k := rfl
@[simp] theorem delHank_spindles (k : Nat) : (delHank s k).spindles = s.spindles := rfl
@[simp] theorem delHank_sync (k : Nat) : (delHank s k).sync = s.sync := rfl
@[simp] theorem delHank_erg (k : Nat) : (delHank s k).erg = s.erg := rfl
@[simp] theorem delHank_staging (k : Nat) : (delHank s k).staging = s.staging := rfl
@[simp] theorem delHank_ops (k : Nat) : (delHank s k).ops = s.ops := rfl
@[simp] theorem delHank_opUses (k : Nat) : (delHank s k).opUses = s.opUses := rfl
@[simp] theorem delHank_opTurn (k : Nat) : (delHank s k).opTurn = s.opTurn := rfl
@[simp] theorem delHank_cp (k : Nat) : (delHank s k).cp = s.cp := rfl
@[simp] theorem delHank_sec (k : Nat) : (delHank s k).sec = s.sec := rfl
@[simp] theorem delHank_records (k : Nat) : (delHank s k).records = s.records := rfl
@[simp] theorem delHank_nextRecord (k : Nat) : (delHank s k).nextRecord = s.nextRecord := rfl
@[simp] theorem delHank_readUpTo (k : Nat) : (delHank s k).readUpTo = s.readUpTo := rfl
@[simp] theorem delHank_windows (k : Nat) : (delHank s k).windows = s.windows := rfl
@[simp] theorem delHank_raised (k : Nat) : (delHank s k).raised = s.raised := rfl
@[simp] theorem delHank_episodes (k : Nat) : (delHank s k).episodes = s.episodes := rfl
@[simp] theorem delHank_out (k : Nat) : (delHank s k).out = s.out := rfl

/-! ### setSp -/

@[simp] theorem setSp_pending (k : Nat) (v : Spindle) : (setSp s k v).pending = s.pending := rfl
@[simp] theorem setSp_freeCtr (k : Nat) (v : Spindle) : (setSp s k v).freeCtr = s.freeCtr := rfl
@[simp] theorem setSp_nextUid (k : Nat) (v : Spindle) : (setSp s k v).nextUid = s.nextUid := rfl
@[simp] theorem setSp_module (k : Nat) (v : Spindle) : (setSp s k v).module = s.module := rfl
@[simp] theorem setSp_regs (k : Nat) (v : Spindle) : (setSp s k v).regs = s.regs := rfl
@[simp] theorem setSp_units (k : Nat) (v : Spindle) : (setSp s k v).units = s.units := rfl
@[simp] theorem setSp_dies (k : Nat) (v : Spindle) : (setSp s k v).dies = s.dies := rfl
@[simp] theorem setSp_portDies (k : Nat) (v : Spindle) : (setSp s k v).portDies = s.portDies := rfl
@[simp] theorem setSp_ports (k : Nat) (v : Spindle) : (setSp s k v).ports = s.ports := rfl
@[simp] theorem setSp_ready (k : Nat) (v : Spindle) : (setSp s k v).ready = s.ready := rfl
@[simp] theorem setSp_inbox (k : Nat) (v : Spindle) : (setSp s k v).inbox = s.inbox := rfl
@[simp] theorem setSp_planeA (k : Nat) (v : Spindle) : (setSp s k v).planeA = s.planeA := rfl
@[simp] theorem setSp_planeB (k : Nat) (v : Spindle) : (setSp s k v).planeB = s.planeB := rfl
@[simp] theorem setSp_caravans (k : Nat) (v : Spindle) : (setSp s k v).caravans = s.caravans := rfl
@[simp] theorem setSp_jobs (k : Nat) (v : Spindle) : (setSp s k v).jobs = s.jobs := rfl
@[simp] theorem setSp_hanks (k : Nat) (v : Spindle) : (setSp s k v).hanks = s.hanks := rfl
@[simp] theorem setSp_spindles (k : Nat) (v : Spindle) :
    (setSp s k v).spindles = mapPut s.spindles Spindle.init k v := rfl
@[simp] theorem setSp_sync (k : Nat) (v : Spindle) : (setSp s k v).sync = s.sync := rfl
@[simp] theorem setSp_erg (k : Nat) (v : Spindle) : (setSp s k v).erg = s.erg := rfl
@[simp] theorem setSp_staging (k : Nat) (v : Spindle) : (setSp s k v).staging = s.staging := rfl
@[simp] theorem setSp_ops (k : Nat) (v : Spindle) : (setSp s k v).ops = s.ops := rfl
@[simp] theorem setSp_opUses (k : Nat) (v : Spindle) : (setSp s k v).opUses = s.opUses := rfl
@[simp] theorem setSp_opTurn (k : Nat) (v : Spindle) : (setSp s k v).opTurn = s.opTurn := rfl
@[simp] theorem setSp_cp (k : Nat) (v : Spindle) : (setSp s k v).cp = s.cp := rfl
@[simp] theorem setSp_sec (k : Nat) (v : Spindle) : (setSp s k v).sec = s.sec := rfl
@[simp] theorem setSp_records (k : Nat) (v : Spindle) : (setSp s k v).records = s.records := rfl
@[simp] theorem setSp_nextRecord (k : Nat) (v : Spindle) : (setSp s k v).nextRecord = s.nextRecord := rfl
@[simp] theorem setSp_readUpTo (k : Nat) (v : Spindle) : (setSp s k v).readUpTo = s.readUpTo := rfl
@[simp] theorem setSp_windows (k : Nat) (v : Spindle) : (setSp s k v).windows = s.windows := rfl
@[simp] theorem setSp_raised (k : Nat) (v : Spindle) : (setSp s k v).raised = s.raised := rfl
@[simp] theorem setSp_episodes (k : Nat) (v : Spindle) : (setSp s k v).episodes = s.episodes := rfl
@[simp] theorem setSp_out (k : Nat) (v : Spindle) : (setSp s k v).out = s.out := rfl

/-! ### modEng -/

@[simp] theorem modEng_pending (k e : Nat) (f : Engine → Engine) : (modEng s k e f).pending = s.pending := rfl
@[simp] theorem modEng_freeCtr (k e : Nat) (f : Engine → Engine) : (modEng s k e f).freeCtr = s.freeCtr := rfl
@[simp] theorem modEng_nextUid (k e : Nat) (f : Engine → Engine) : (modEng s k e f).nextUid = s.nextUid := rfl
@[simp] theorem modEng_module (k e : Nat) (f : Engine → Engine) : (modEng s k e f).module = s.module := rfl
@[simp] theorem modEng_regs (k e : Nat) (f : Engine → Engine) : (modEng s k e f).regs = s.regs := rfl
@[simp] theorem modEng_units (k e : Nat) (f : Engine → Engine) : (modEng s k e f).units = s.units := rfl
@[simp] theorem modEng_dies (k e : Nat) (f : Engine → Engine) : (modEng s k e f).dies = s.dies := rfl
@[simp] theorem modEng_portDies (k e : Nat) (f : Engine → Engine) : (modEng s k e f).portDies = s.portDies := rfl
@[simp] theorem modEng_ports (k e : Nat) (f : Engine → Engine) : (modEng s k e f).ports = s.ports := rfl
@[simp] theorem modEng_ready (k e : Nat) (f : Engine → Engine) : (modEng s k e f).ready = s.ready := rfl
@[simp] theorem modEng_inbox (k e : Nat) (f : Engine → Engine) : (modEng s k e f).inbox = s.inbox := rfl
@[simp] theorem modEng_planeA (k e : Nat) (f : Engine → Engine) : (modEng s k e f).planeA = s.planeA := rfl
@[simp] theorem modEng_planeB (k e : Nat) (f : Engine → Engine) : (modEng s k e f).planeB = s.planeB := rfl
@[simp] theorem modEng_caravans (k e : Nat) (f : Engine → Engine) : (modEng s k e f).caravans = s.caravans := rfl
@[simp] theorem modEng_jobs (k e : Nat) (f : Engine → Engine) : (modEng s k e f).jobs = s.jobs := rfl
@[simp] theorem modEng_hanks (k e : Nat) (f : Engine → Engine) : (modEng s k e f).hanks = s.hanks := rfl
@[simp] theorem modEng_spindles (k e : Nat) (f : Engine → Engine) :
    (modEng s k e f).spindles = mapPut s.spindles Spindle.init k (spSetEngine (getSp s k) e (f (getEng s k e))) := rfl
@[simp] theorem modEng_sync (k e : Nat) (f : Engine → Engine) : (modEng s k e f).sync = s.sync := rfl
@[simp] theorem modEng_erg (k e : Nat) (f : Engine → Engine) : (modEng s k e f).erg = s.erg := rfl
@[simp] theorem modEng_staging (k e : Nat) (f : Engine → Engine) : (modEng s k e f).staging = s.staging := rfl
@[simp] theorem modEng_ops (k e : Nat) (f : Engine → Engine) : (modEng s k e f).ops = s.ops := rfl
@[simp] theorem modEng_opUses (k e : Nat) (f : Engine → Engine) : (modEng s k e f).opUses = s.opUses := rfl
@[simp] theorem modEng_opTurn (k e : Nat) (f : Engine → Engine) : (modEng s k e f).opTurn = s.opTurn := rfl
@[simp] theorem modEng_cp (k e : Nat) (f : Engine → Engine) : (modEng s k e f).cp = s.cp := rfl
@[simp] theorem modEng_sec (k e : Nat) (f : Engine → Engine) : (modEng s k e f).sec = s.sec := rfl
@[simp] theorem modEng_records (k e : Nat) (f : Engine → Engine) : (modEng s k e f).records = s.records := rfl
@[simp] theorem modEng_nextRecord (k e : Nat) (f : Engine → Engine) :
    (modEng s k e f).nextRecord = s.nextRecord := rfl
@[simp] theorem modEng_readUpTo (k e : Nat) (f : Engine → Engine) : (modEng s k e f).readUpTo = s.readUpTo := rfl
@[simp] theorem modEng_windows (k e : Nat) (f : Engine → Engine) : (modEng s k e f).windows = s.windows := rfl
@[simp] theorem modEng_raised (k e : Nat) (f : Engine → Engine) : (modEng s k e f).raised = s.raised := rfl
@[simp] theorem modEng_episodes (k e : Nat) (f : Engine → Engine) : (modEng s k e f).episodes = s.episodes := rfl
@[simp] theorem modEng_out (k e : Nat) (f : Engine → Engine) : (modEng s k e f).out = s.out := rfl

/-! ### setReady -/

@[simp] theorem setReady_pending (k : Nat) (l : List Pkt) : (setReady s k l).pending = s.pending := rfl
@[simp] theorem setReady_freeCtr (k : Nat) (l : List Pkt) : (setReady s k l).freeCtr = s.freeCtr := rfl
@[simp] theorem setReady_nextUid (k : Nat) (l : List Pkt) : (setReady s k l).nextUid = s.nextUid := rfl
@[simp] theorem setReady_module (k : Nat) (l : List Pkt) : (setReady s k l).module = s.module := rfl
@[simp] theorem setReady_regs (k : Nat) (l : List Pkt) : (setReady s k l).regs = s.regs := rfl
@[simp] theorem setReady_units (k : Nat) (l : List Pkt) : (setReady s k l).units = s.units := rfl
@[simp] theorem setReady_dies (k : Nat) (l : List Pkt) : (setReady s k l).dies = s.dies := rfl
@[simp] theorem setReady_portDies (k : Nat) (l : List Pkt) : (setReady s k l).portDies = s.portDies := rfl
@[simp] theorem setReady_ports (k : Nat) (l : List Pkt) : (setReady s k l).ports = s.ports := rfl
@[simp] theorem setReady_ready (k : Nat) (l : List Pkt) : (setReady s k l).ready = mapPut s.ready [] k l := rfl
@[simp] theorem setReady_inbox (k : Nat) (l : List Pkt) : (setReady s k l).inbox = s.inbox := rfl
@[simp] theorem setReady_planeA (k : Nat) (l : List Pkt) : (setReady s k l).planeA = s.planeA := rfl
@[simp] theorem setReady_planeB (k : Nat) (l : List Pkt) : (setReady s k l).planeB = s.planeB := rfl
@[simp] theorem setReady_caravans (k : Nat) (l : List Pkt) : (setReady s k l).caravans = s.caravans := rfl
@[simp] theorem setReady_jobs (k : Nat) (l : List Pkt) : (setReady s k l).jobs = s.jobs := rfl
@[simp] theorem setReady_hanks (k : Nat) (l : List Pkt) : (setReady s k l).hanks = s.hanks := rfl
@[simp] theorem setReady_spindles (k : Nat) (l : List Pkt) : (setReady s k l).spindles = s.spindles := rfl
@[simp] theorem setReady_sync (k : Nat) (l : List Pkt) : (setReady s k l).sync = s.sync := rfl
@[simp] theorem setReady_erg (k : Nat) (l : List Pkt) : (setReady s k l).erg = s.erg := rfl
@[simp] theorem setReady_staging (k : Nat) (l : List Pkt) : (setReady s k l).staging = s.staging := rfl
@[simp] theorem setReady_ops (k : Nat) (l : List Pkt) : (setReady s k l).ops = s.ops := rfl
@[simp] theorem setReady_opUses (k : Nat) (l : List Pkt) : (setReady s k l).opUses = s.opUses := rfl
@[simp] theorem setReady_opTurn (k : Nat) (l : List Pkt) : (setReady s k l).opTurn = s.opTurn := rfl
@[simp] theorem setReady_cp (k : Nat) (l : List Pkt) : (setReady s k l).cp = s.cp := rfl
@[simp] theorem setReady_sec (k : Nat) (l : List Pkt) : (setReady s k l).sec = s.sec := rfl
@[simp] theorem setReady_records (k : Nat) (l : List Pkt) : (setReady s k l).records = s.records := rfl
@[simp] theorem setReady_nextRecord (k : Nat) (l : List Pkt) : (setReady s k l).nextRecord = s.nextRecord := rfl
@[simp] theorem setReady_readUpTo (k : Nat) (l : List Pkt) : (setReady s k l).readUpTo = s.readUpTo := rfl
@[simp] theorem setReady_windows (k : Nat) (l : List Pkt) : (setReady s k l).windows = s.windows := rfl
@[simp] theorem setReady_raised (k : Nat) (l : List Pkt) : (setReady s k l).raised = s.raised := rfl
@[simp] theorem setReady_episodes (k : Nat) (l : List Pkt) : (setReady s k l).episodes = s.episodes := rfl
@[simp] theorem setReady_out (k : Nat) (l : List Pkt) : (setReady s k l).out = s.out := rfl

/-! ### setInbox -/

@[simp] theorem setInbox_pending (k : Nat) (l : List Pkt) : (setInbox s k l).pending = s.pending := rfl
@[simp] theorem setInbox_freeCtr (k : Nat) (l : List Pkt) : (setInbox s k l).freeCtr = s.freeCtr := rfl
@[simp] theorem setInbox_nextUid (k : Nat) (l : List Pkt) : (setInbox s k l).nextUid = s.nextUid := rfl
@[simp] theorem setInbox_module (k : Nat) (l : List Pkt) : (setInbox s k l).module = s.module := rfl
@[simp] theorem setInbox_regs (k : Nat) (l : List Pkt) : (setInbox s k l).regs = s.regs := rfl
@[simp] theorem setInbox_units (k : Nat) (l : List Pkt) : (setInbox s k l).units = s.units := rfl
@[simp] theorem setInbox_dies (k : Nat) (l : List Pkt) : (setInbox s k l).dies = s.dies := rfl
@[simp] theorem setInbox_portDies (k : Nat) (l : List Pkt) : (setInbox s k l).portDies = s.portDies := rfl
@[simp] theorem setInbox_ports (k : Nat) (l : List Pkt) : (setInbox s k l).ports = s.ports := rfl
@[simp] theorem setInbox_ready (k : Nat) (l : List Pkt) : (setInbox s k l).ready = s.ready := rfl
@[simp] theorem setInbox_inbox (k : Nat) (l : List Pkt) : (setInbox s k l).inbox = mapPut s.inbox [] k l := rfl
@[simp] theorem setInbox_planeA (k : Nat) (l : List Pkt) : (setInbox s k l).planeA = s.planeA := rfl
@[simp] theorem setInbox_planeB (k : Nat) (l : List Pkt) : (setInbox s k l).planeB = s.planeB := rfl
@[simp] theorem setInbox_caravans (k : Nat) (l : List Pkt) : (setInbox s k l).caravans = s.caravans := rfl
@[simp] theorem setInbox_jobs (k : Nat) (l : List Pkt) : (setInbox s k l).jobs = s.jobs := rfl
@[simp] theorem setInbox_hanks (k : Nat) (l : List Pkt) : (setInbox s k l).hanks = s.hanks := rfl
@[simp] theorem setInbox_spindles (k : Nat) (l : List Pkt) : (setInbox s k l).spindles = s.spindles := rfl
@[simp] theorem setInbox_sync (k : Nat) (l : List Pkt) : (setInbox s k l).sync = s.sync := rfl
@[simp] theorem setInbox_erg (k : Nat) (l : List Pkt) : (setInbox s k l).erg = s.erg := rfl
@[simp] theorem setInbox_staging (k : Nat) (l : List Pkt) : (setInbox s k l).staging = s.staging := rfl
@[simp] theorem setInbox_ops (k : Nat) (l : List Pkt) : (setInbox s k l).ops = s.ops := rfl
@[simp] theorem setInbox_opUses (k : Nat) (l : List Pkt) : (setInbox s k l).opUses = s.opUses := rfl
@[simp] theorem setInbox_opTurn (k : Nat) (l : List Pkt) : (setInbox s k l).opTurn = s.opTurn := rfl
@[simp] theorem setInbox_cp (k : Nat) (l : List Pkt) : (setInbox s k l).cp = s.cp := rfl
@[simp] theorem setInbox_sec (k : Nat) (l : List Pkt) : (setInbox s k l).sec = s.sec := rfl
@[simp] theorem setInbox_records (k : Nat) (l : List Pkt) : (setInbox s k l).records = s.records := rfl
@[simp] theorem setInbox_nextRecord (k : Nat) (l : List Pkt) : (setInbox s k l).nextRecord = s.nextRecord := rfl
@[simp] theorem setInbox_readUpTo (k : Nat) (l : List Pkt) : (setInbox s k l).readUpTo = s.readUpTo := rfl
@[simp] theorem setInbox_windows (k : Nat) (l : List Pkt) : (setInbox s k l).windows = s.windows := rfl
@[simp] theorem setInbox_raised (k : Nat) (l : List Pkt) : (setInbox s k l).raised = s.raised := rfl
@[simp] theorem setInbox_episodes (k : Nat) (l : List Pkt) : (setInbox s k l).episodes = s.episodes := rfl
@[simp] theorem setInbox_out (k : Nat) (l : List Pkt) : (setInbox s k l).out = s.out := rfl

/-! ### setPlane -/

@[simp] theorem setPlane_pending (k : Nat) (v : Plane) :
    (setPlane s k v).pending = s.pending := by unfold setPlane; split <;> rfl
@[simp] theorem setPlane_freeCtr (k : Nat) (v : Plane) :
    (setPlane s k v).freeCtr = s.freeCtr := by unfold setPlane; split <;> rfl
@[simp] theorem setPlane_nextUid (k : Nat) (v : Plane) :
    (setPlane s k v).nextUid = s.nextUid := by unfold setPlane; split <;> rfl
@[simp] theorem setPlane_module (k : Nat) (v : Plane) :
    (setPlane s k v).module = s.module := by unfold setPlane; split <;> rfl
@[simp] theorem setPlane_regs (k : Nat) (v : Plane) :
    (setPlane s k v).regs = s.regs := by unfold setPlane; split <;> rfl
@[simp] theorem setPlane_units (k : Nat) (v : Plane) :
    (setPlane s k v).units = s.units := by unfold setPlane; split <;> rfl
@[simp] theorem setPlane_dies (k : Nat) (v : Plane) :
    (setPlane s k v).dies = s.dies := by unfold setPlane; split <;> rfl
@[simp] theorem setPlane_portDies (k : Nat) (v : Plane) :
    (setPlane s k v).portDies = s.portDies := by unfold setPlane; split <;> rfl
@[simp] theorem setPlane_ports (k : Nat) (v : Plane) :
    (setPlane s k v).ports = s.ports := by unfold setPlane; split <;> rfl
@[simp] theorem setPlane_ready (k : Nat) (v : Plane) :
    (setPlane s k v).ready = s.ready := by unfold setPlane; split <;> rfl
@[simp] theorem setPlane_inbox (k : Nat) (v : Plane) :
    (setPlane s k v).inbox = s.inbox := by unfold setPlane; split <;> rfl
@[simp] theorem setPlane_planeA (k : Nat) (v : Plane) :
    (setPlane s k v).planeA = if k = 0 then v else s.planeA := by unfold setPlane; split <;> rfl
@[simp] theorem setPlane_planeB (k : Nat) (v : Plane) :
    (setPlane s k v).planeB = if k = 0 then s.planeB else v := by unfold setPlane; split <;> rfl
@[simp] theorem setPlane_caravans (k : Nat) (v : Plane) :
    (setPlane s k v).caravans = s.caravans := by unfold setPlane; split <;> rfl
@[simp] theorem setPlane_jobs (k : Nat) (v : Plane) :
    (setPlane s k v).jobs = s.jobs := by unfold setPlane; split <;> rfl
@[simp] theorem setPlane_hanks (k : Nat) (v : Plane) :
    (setPlane s k v).hanks = s.hanks := by unfold setPlane; split <;> rfl
@[simp] theorem setPlane_spindles (k : Nat) (v : Plane) :
    (setPlane s k v).spindles = s.spindles := by unfold setPlane; split <;> rfl
@[simp] theorem setPlane_sync (k : Nat) (v : Plane) :
    (setPlane s k v).sync = s.sync := by unfold setPlane; split <;> rfl
@[simp] theorem setPlane_erg (k : Nat) (v : Plane) : (setPlane s k v).erg = s.erg := by unfold setPlane; split <;> rfl
@[simp] theorem setPlane_staging (k : Nat) (v : Plane) :
    (setPlane s k v).staging = s.staging := by unfold setPlane; split <;> rfl
@[simp] theorem setPlane_ops (k : Nat) (v : Plane) : (setPlane s k v).ops = s.ops := by unfold setPlane; split <;> rfl
@[simp] theorem setPlane_opUses (k : Nat) (v : Plane) :
    (setPlane s k v).opUses = s.opUses := by unfold setPlane; split <;> rfl
@[simp] theorem setPlane_opTurn (k : Nat) (v : Plane) :
    (setPlane s k v).opTurn = s.opTurn := by unfold setPlane; split <;> rfl
@[simp] theorem setPlane_cp (k : Nat) (v : Plane) : (setPlane s k v).cp = s.cp := by unfold setPlane; split <;> rfl
@[simp] theorem setPlane_sec (k : Nat) (v : Plane) : (setPlane s k v).sec = s.sec := by unfold setPlane; split <;> rfl
@[simp] theorem setPlane_records (k : Nat) (v : Plane) :
    (setPlane s k v).records = s.records := by unfold setPlane; split <;> rfl
@[simp] theorem setPlane_nextRecord (k : Nat) (v : Plane) :
    (setPlane s k v).nextRecord = s.nextRecord := by unfold setPlane; split <;> rfl
@[simp] theorem setPlane_readUpTo (k : Nat) (v : Plane) :
    (setPlane s k v).readUpTo = s.readUpTo := by unfold setPlane; split <;> rfl
@[simp] theorem setPlane_windows (k : Nat) (v : Plane) :
    (setPlane s k v).windows = s.windows := by unfold setPlane; split <;> rfl
@[simp] theorem setPlane_raised (k : Nat) (v : Plane) :
    (setPlane s k v).raised = s.raised := by unfold setPlane; split <;> rfl
@[simp] theorem setPlane_episodes (k : Nat) (v : Plane) :
    (setPlane s k v).episodes = s.episodes := by unfold setPlane; split <;> rfl
@[simp] theorem setPlane_out (k : Nat) (v : Plane) : (setPlane s k v).out = s.out := by unfold setPlane; split <;> rfl

/-! ### modErg -/

@[simp] theorem modErg_pending (f : Erg → Erg) : (modErg s f).pending = s.pending := rfl
@[simp] theorem modErg_freeCtr (f : Erg → Erg) : (modErg s f).freeCtr = s.freeCtr := rfl
@[simp] theorem modErg_nextUid (f : Erg → Erg) : (modErg s f).nextUid = s.nextUid := rfl
@[simp] theorem modErg_module (f : Erg → Erg) : (modErg s f).module = s.module := rfl
@[simp] theorem modErg_regs (f : Erg → Erg) : (modErg s f).regs = s.regs := rfl
@[simp] theorem modErg_units (f : Erg → Erg) : (modErg s f).units = s.units := rfl
@[simp] theorem modErg_dies (f : Erg → Erg) : (modErg s f).dies = s.dies := rfl
@[simp] theorem modErg_portDies (f : Erg → Erg) : (modErg s f).portDies = s.portDies := rfl
@[simp] theorem modErg_ports (f : Erg → Erg) : (modErg s f).ports = s.ports := rfl
@[simp] theorem modErg_ready (f : Erg → Erg) : (modErg s f).ready = s.ready := rfl
@[simp] theorem modErg_inbox (f : Erg → Erg) : (modErg s f).inbox = s.inbox := rfl
@[simp] theorem modErg_planeA (f : Erg → Erg) : (modErg s f).planeA = s.planeA := rfl
@[simp] theorem modErg_planeB (f : Erg → Erg) : (modErg s f).planeB = s.planeB := rfl
@[simp] theorem modErg_caravans (f : Erg → Erg) : (modErg s f).caravans = s.caravans := rfl
@[simp] theorem modErg_jobs (f : Erg → Erg) : (modErg s f).jobs = s.jobs := rfl
@[simp] theorem modErg_hanks (f : Erg → Erg) : (modErg s f).hanks = s.hanks := rfl
@[simp] theorem modErg_spindles (f : Erg → Erg) : (modErg s f).spindles = s.spindles := rfl
@[simp] theorem modErg_sync (f : Erg → Erg) : (modErg s f).sync = s.sync := rfl
@[simp] theorem modErg_erg (f : Erg → Erg) : (modErg s f).erg = f s.erg := rfl
@[simp] theorem modErg_staging (f : Erg → Erg) : (modErg s f).staging = s.staging := rfl
@[simp] theorem modErg_ops (f : Erg → Erg) : (modErg s f).ops = s.ops := rfl
@[simp] theorem modErg_opUses (f : Erg → Erg) : (modErg s f).opUses = s.opUses := rfl
@[simp] theorem modErg_opTurn (f : Erg → Erg) : (modErg s f).opTurn = s.opTurn := rfl
@[simp] theorem modErg_cp (f : Erg → Erg) : (modErg s f).cp = s.cp := rfl
@[simp] theorem modErg_sec (f : Erg → Erg) : (modErg s f).sec = s.sec := rfl
@[simp] theorem modErg_records (f : Erg → Erg) : (modErg s f).records = s.records := rfl
@[simp] theorem modErg_nextRecord (f : Erg → Erg) : (modErg s f).nextRecord = s.nextRecord := rfl
@[simp] theorem modErg_readUpTo (f : Erg → Erg) : (modErg s f).readUpTo = s.readUpTo := rfl
@[simp] theorem modErg_windows (f : Erg → Erg) : (modErg s f).windows = s.windows := rfl
@[simp] theorem modErg_raised (f : Erg → Erg) : (modErg s f).raised = s.raised := rfl
@[simp] theorem modErg_episodes (f : Erg → Erg) : (modErg s f).episodes = s.episodes := rfl
@[simp] theorem modErg_out (f : Erg → Erg) : (modErg s f).out = s.out := rfl

/-! ### modCp -/

@[simp] theorem modCp_pending (f : ControlPort → ControlPort) : (modCp s f).pending = s.pending := rfl
@[simp] theorem modCp_freeCtr (f : ControlPort → ControlPort) : (modCp s f).freeCtr = s.freeCtr := rfl
@[simp] theorem modCp_nextUid (f : ControlPort → ControlPort) : (modCp s f).nextUid = s.nextUid := rfl
@[simp] theorem modCp_module (f : ControlPort → ControlPort) : (modCp s f).module = s.module := rfl
@[simp] theorem modCp_regs (f : ControlPort → ControlPort) : (modCp s f).regs = s.regs := rfl
@[simp] theorem modCp_units (f : ControlPort → ControlPort) : (modCp s f).units = s.units := rfl
@[simp] theorem modCp_dies (f : ControlPort → ControlPort) : (modCp s f).dies = s.dies := rfl
@[simp] theorem modCp_portDies (f : ControlPort → ControlPort) : (modCp s f).portDies = s.portDies := rfl
@[simp] theorem modCp_ports (f : ControlPort → ControlPort) : (modCp s f).ports = s.ports := rfl
@[simp] theorem modCp_ready (f : ControlPort → ControlPort) : (modCp s f).ready = s.ready := rfl
@[simp] theorem modCp_inbox (f : ControlPort → ControlPort) : (modCp s f).inbox = s.inbox := rfl
@[simp] theorem modCp_planeA (f : ControlPort → ControlPort) : (modCp s f).planeA = s.planeA := rfl
@[simp] theorem modCp_planeB (f : ControlPort → ControlPort) : (modCp s f).planeB = s.planeB := rfl
@[simp] theorem modCp_caravans (f : ControlPort → ControlPort) : (modCp s f).caravans = s.caravans := rfl
@[simp] theorem modCp_jobs (f : ControlPort → ControlPort) : (modCp s f).jobs = s.jobs := rfl
@[simp] theorem modCp_hanks (f : ControlPort → ControlPort) : (modCp s f).hanks = s.hanks := rfl
@[simp] theorem modCp_spindles (f : ControlPort → ControlPort) : (modCp s f).spindles = s.spindles := rfl
@[simp] theorem modCp_sync (f : ControlPort → ControlPort) : (modCp s f).sync = s.sync := rfl
@[simp] theorem modCp_erg (f : ControlPort → ControlPort) : (modCp s f).erg = s.erg := rfl
@[simp] theorem modCp_staging (f : ControlPort → ControlPort) : (modCp s f).staging = s.staging := rfl
@[simp] theorem modCp_ops (f : ControlPort → ControlPort) : (modCp s f).ops = s.ops := rfl
@[simp] theorem modCp_opUses (f : ControlPort → ControlPort) : (modCp s f).opUses = s.opUses := rfl
@[simp] theorem modCp_opTurn (f : ControlPort → ControlPort) : (modCp s f).opTurn = s.opTurn := rfl
@[simp] theorem modCp_cp (f : ControlPort → ControlPort) : (modCp s f).cp = f s.cp := rfl
@[simp] theorem modCp_sec (f : ControlPort → ControlPort) : (modCp s f).sec = s.sec := rfl
@[simp] theorem modCp_records (f : ControlPort → ControlPort) : (modCp s f).records = s.records := rfl
@[simp] theorem modCp_nextRecord (f : ControlPort → ControlPort) : (modCp s f).nextRecord = s.nextRecord := rfl
@[simp] theorem modCp_readUpTo (f : ControlPort → ControlPort) : (modCp s f).readUpTo = s.readUpTo := rfl
@[simp] theorem modCp_windows (f : ControlPort → ControlPort) : (modCp s f).windows = s.windows := rfl
@[simp] theorem modCp_raised (f : ControlPort → ControlPort) : (modCp s f).raised = s.raised := rfl
@[simp] theorem modCp_episodes (f : ControlPort → ControlPort) : (modCp s f).episodes = s.episodes := rfl
@[simp] theorem modCp_out (f : ControlPort → ControlPort) : (modCp s f).out = s.out := rfl

/-! ### modSec -/

@[simp] theorem modSec_pending (f : Security → Security) : (modSec s f).pending = s.pending := rfl
@[simp] theorem modSec_freeCtr (f : Security → Security) : (modSec s f).freeCtr = s.freeCtr := rfl
@[simp] theorem modSec_nextUid (f : Security → Security) : (modSec s f).nextUid = s.nextUid := rfl
@[simp] theorem modSec_module (f : Security → Security) : (modSec s f).module = s.module := rfl
@[simp] theorem modSec_regs (f : Security → Security) : (modSec s f).regs = s.regs := rfl
@[simp] theorem modSec_units (f : Security → Security) : (modSec s f).units = s.units := rfl
@[simp] theorem modSec_dies (f : Security → Security) : (modSec s f).dies = s.dies := rfl
@[simp] theorem modSec_portDies (f : Security → Security) : (modSec s f).portDies = s.portDies := rfl
@[simp] theorem modSec_ports (f : Security → Security) : (modSec s f).ports = s.ports := rfl
@[simp] theorem modSec_ready (f : Security → Security) : (modSec s f).ready = s.ready := rfl
@[simp] theorem modSec_inbox (f : Security → Security) : (modSec s f).inbox = s.inbox := rfl
@[simp] theorem modSec_planeA (f : Security → Security) : (modSec s f).planeA = s.planeA := rfl
@[simp] theorem modSec_planeB (f : Security → Security) : (modSec s f).planeB = s.planeB := rfl
@[simp] theorem modSec_caravans (f : Security → Security) : (modSec s f).caravans = s.caravans := rfl
@[simp] theorem modSec_jobs (f : Security → Security) : (modSec s f).jobs = s.jobs := rfl
@[simp] theorem modSec_hanks (f : Security → Security) : (modSec s f).hanks = s.hanks := rfl
@[simp] theorem modSec_spindles (f : Security → Security) : (modSec s f).spindles = s.spindles := rfl
@[simp] theorem modSec_sync (f : Security → Security) : (modSec s f).sync = s.sync := rfl
@[simp] theorem modSec_erg (f : Security → Security) : (modSec s f).erg = s.erg := rfl
@[simp] theorem modSec_staging (f : Security → Security) : (modSec s f).staging = s.staging := rfl
@[simp] theorem modSec_ops (f : Security → Security) : (modSec s f).ops = s.ops := rfl
@[simp] theorem modSec_opUses (f : Security → Security) : (modSec s f).opUses = s.opUses := rfl
@[simp] theorem modSec_opTurn (f : Security → Security) : (modSec s f).opTurn = s.opTurn := rfl
@[simp] theorem modSec_cp (f : Security → Security) : (modSec s f).cp = s.cp := rfl
@[simp] theorem modSec_sec (f : Security → Security) : (modSec s f).sec = f s.sec := rfl
@[simp] theorem modSec_records (f : Security → Security) : (modSec s f).records = s.records := rfl
@[simp] theorem modSec_nextRecord (f : Security → Security) : (modSec s f).nextRecord = s.nextRecord := rfl
@[simp] theorem modSec_readUpTo (f : Security → Security) : (modSec s f).readUpTo = s.readUpTo := rfl
@[simp] theorem modSec_windows (f : Security → Security) : (modSec s f).windows = s.windows := rfl
@[simp] theorem modSec_raised (f : Security → Security) : (modSec s f).raised = s.raised := rfl
@[simp] theorem modSec_episodes (f : Security → Security) : (modSec s f).episodes = s.episodes := rfl
@[simp] theorem modSec_out (f : Security → Security) : (modSec s f).out = s.out := rfl

/-! ### modModule -/

@[simp] theorem modModule_pending (f : Module → Module) : (modModule s f).pending = s.pending := rfl
@[simp] theorem modModule_freeCtr (f : Module → Module) : (modModule s f).freeCtr = s.freeCtr := rfl
@[simp] theorem modModule_nextUid (f : Module → Module) : (modModule s f).nextUid = s.nextUid := rfl
@[simp] theorem modModule_module (f : Module → Module) : (modModule s f).module = f s.module := rfl
@[simp] theorem modModule_regs (f : Module → Module) : (modModule s f).regs = s.regs := rfl
@[simp] theorem modModule_units (f : Module → Module) : (modModule s f).units = s.units := rfl
@[simp] theorem modModule_dies (f : Module → Module) : (modModule s f).dies = s.dies := rfl
@[simp] theorem modModule_portDies (f : Module → Module) : (modModule s f).portDies = s.portDies := rfl
@[simp] theorem modModule_ports (f : Module → Module) : (modModule s f).ports = s.ports := rfl
@[simp] theorem modModule_ready (f : Module → Module) : (modModule s f).ready = s.ready := rfl
@[simp] theorem modModule_inbox (f : Module → Module) : (modModule s f).inbox = s.inbox := rfl
@[simp] theorem modModule_planeA (f : Module → Module) : (modModule s f).planeA = s.planeA := rfl
@[simp] theorem modModule_planeB (f : Module → Module) : (modModule s f).planeB = s.planeB := rfl
@[simp] theorem modModule_caravans (f : Module → Module) : (modModule s f).caravans = s.caravans := rfl
@[simp] theorem modModule_jobs (f : Module → Module) : (modModule s f).jobs = s.jobs := rfl
@[simp] theorem modModule_hanks (f : Module → Module) : (modModule s f).hanks = s.hanks := rfl
@[simp] theorem modModule_spindles (f : Module → Module) : (modModule s f).spindles = s.spindles := rfl
@[simp] theorem modModule_sync (f : Module → Module) : (modModule s f).sync = s.sync := rfl
@[simp] theorem modModule_erg (f : Module → Module) : (modModule s f).erg = s.erg := rfl
@[simp] theorem modModule_staging (f : Module → Module) : (modModule s f).staging = s.staging := rfl
@[simp] theorem modModule_ops (f : Module → Module) : (modModule s f).ops = s.ops := rfl
@[simp] theorem modModule_opUses (f : Module → Module) : (modModule s f).opUses = s.opUses := rfl
@[simp] theorem modModule_opTurn (f : Module → Module) : (modModule s f).opTurn = s.opTurn := rfl
@[simp] theorem modModule_cp (f : Module → Module) : (modModule s f).cp = s.cp := rfl
@[simp] theorem modModule_sec (f : Module → Module) : (modModule s f).sec = s.sec := rfl
@[simp] theorem modModule_records (f : Module → Module) : (modModule s f).records = s.records := rfl
@[simp] theorem modModule_nextRecord (f : Module → Module) : (modModule s f).nextRecord = s.nextRecord := rfl
@[simp] theorem modModule_readUpTo (f : Module → Module) : (modModule s f).readUpTo = s.readUpTo := rfl
@[simp] theorem modModule_windows (f : Module → Module) : (modModule s f).windows = s.windows := rfl
@[simp] theorem modModule_raised (f : Module → Module) : (modModule s f).raised = s.raised := rfl
@[simp] theorem modModule_episodes (f : Module → Module) : (modModule s f).episodes = s.episodes := rfl
@[simp] theorem modModule_out (f : Module → Module) : (modModule s f).out = s.out := rfl

/-! ### ergWrite -/

@[simp] theorem ergWrite_pending (a : Nat) (d : List Byte) : (ergWrite s a d).pending = s.pending := rfl
@[simp] theorem ergWrite_freeCtr (a : Nat) (d : List Byte) : (ergWrite s a d).freeCtr = s.freeCtr := rfl
@[simp] theorem ergWrite_nextUid (a : Nat) (d : List Byte) : (ergWrite s a d).nextUid = s.nextUid := rfl
@[simp] theorem ergWrite_module (a : Nat) (d : List Byte) : (ergWrite s a d).module = s.module := rfl
@[simp] theorem ergWrite_regs (a : Nat) (d : List Byte) : (ergWrite s a d).regs = s.regs := rfl
@[simp] theorem ergWrite_units (a : Nat) (d : List Byte) : (ergWrite s a d).units = s.units := rfl
@[simp] theorem ergWrite_dies (a : Nat) (d : List Byte) : (ergWrite s a d).dies = s.dies := rfl
@[simp] theorem ergWrite_portDies (a : Nat) (d : List Byte) : (ergWrite s a d).portDies = s.portDies := rfl
@[simp] theorem ergWrite_ports (a : Nat) (d : List Byte) : (ergWrite s a d).ports = s.ports := rfl
@[simp] theorem ergWrite_ready (a : Nat) (d : List Byte) : (ergWrite s a d).ready = s.ready := rfl
@[simp] theorem ergWrite_inbox (a : Nat) (d : List Byte) : (ergWrite s a d).inbox = s.inbox := rfl
@[simp] theorem ergWrite_planeA (a : Nat) (d : List Byte) : (ergWrite s a d).planeA = s.planeA := rfl
@[simp] theorem ergWrite_planeB (a : Nat) (d : List Byte) : (ergWrite s a d).planeB = s.planeB := rfl
@[simp] theorem ergWrite_caravans (a : Nat) (d : List Byte) : (ergWrite s a d).caravans = s.caravans := rfl
@[simp] theorem ergWrite_jobs (a : Nat) (d : List Byte) : (ergWrite s a d).jobs = s.jobs := rfl
@[simp] theorem ergWrite_hanks (a : Nat) (d : List Byte) : (ergWrite s a d).hanks = s.hanks := rfl
@[simp] theorem ergWrite_spindles (a : Nat) (d : List Byte) : (ergWrite s a d).spindles = s.spindles := rfl
@[simp] theorem ergWrite_sync (a : Nat) (d : List Byte) : (ergWrite s a d).sync = s.sync := rfl
@[simp] theorem ergWrite_erg (a : Nat) (d : List Byte) :
    (ergWrite s a d).erg = { s.erg with mem := memWrite s.erg.mem a d } := rfl
@[simp] theorem ergWrite_staging (a : Nat) (d : List Byte) : (ergWrite s a d).staging = s.staging := rfl
@[simp] theorem ergWrite_ops (a : Nat) (d : List Byte) : (ergWrite s a d).ops = s.ops := rfl
@[simp] theorem ergWrite_opUses (a : Nat) (d : List Byte) : (ergWrite s a d).opUses = s.opUses := rfl
@[simp] theorem ergWrite_opTurn (a : Nat) (d : List Byte) : (ergWrite s a d).opTurn = s.opTurn := rfl
@[simp] theorem ergWrite_cp (a : Nat) (d : List Byte) : (ergWrite s a d).cp = s.cp := rfl
@[simp] theorem ergWrite_sec (a : Nat) (d : List Byte) : (ergWrite s a d).sec = s.sec := rfl
@[simp] theorem ergWrite_records (a : Nat) (d : List Byte) : (ergWrite s a d).records = s.records := rfl
@[simp] theorem ergWrite_nextRecord (a : Nat) (d : List Byte) : (ergWrite s a d).nextRecord = s.nextRecord := rfl
@[simp] theorem ergWrite_readUpTo (a : Nat) (d : List Byte) : (ergWrite s a d).readUpTo = s.readUpTo := rfl
@[simp] theorem ergWrite_windows (a : Nat) (d : List Byte) : (ergWrite s a d).windows = s.windows := rfl
@[simp] theorem ergWrite_raised (a : Nat) (d : List Byte) : (ergWrite s a d).raised = s.raised := rfl
@[simp] theorem ergWrite_episodes (a : Nat) (d : List Byte) : (ergWrite s a d).episodes = s.episodes := rfl
@[simp] theorem ergWrite_out (a : Nat) (d : List Byte) : (ergWrite s a d).out = s.out := rfl

/-! ### emit -/

@[simp] theorem emit_pending (o : Out) : (emit s o).pending = s.pending := rfl
@[simp] theorem emit_freeCtr (o : Out) : (emit s o).freeCtr = s.freeCtr := rfl
@[simp] theorem emit_nextUid (o : Out) : (emit s o).nextUid = s.nextUid := rfl
@[simp] theorem emit_module (o : Out) : (emit s o).module = s.module := rfl
@[simp] theorem emit_regs (o : Out) : (emit s o).regs = s.regs := rfl
@[simp] theorem emit_units (o : Out) : (emit s o).units = s.units := rfl
@[simp] theorem emit_dies (o : Out) : (emit s o).dies = s.dies := rfl
@[simp] theorem emit_portDies (o : Out) : (emit s o).portDies = s.portDies := rfl
@[simp] theorem emit_ports (o : Out) : (emit s o).ports = s.ports := rfl
@[simp] theorem emit_ready (o : Out) : (emit s o).ready = s.ready := rfl
@[simp] theorem emit_inbox (o : Out) : (emit s o).inbox = s.inbox := rfl
@[simp] theorem emit_planeA (o : Out) : (emit s o).planeA = s.planeA := rfl
@[simp] theorem emit_planeB (o : Out) : (emit s o).planeB = s.planeB := rfl
@[simp] theorem emit_caravans (o : Out) : (emit s o).caravans = s.caravans := rfl
@[simp] theorem emit_jobs (o : Out) : (emit s o).jobs = s.jobs := rfl
@[simp] theorem emit_hanks (o : Out) : (emit s o).hanks = s.hanks := rfl
@[simp] theorem emit_spindles (o : Out) : (emit s o).spindles = s.spindles := rfl
@[simp] theorem emit_sync (o : Out) : (emit s o).sync = s.sync := rfl
@[simp] theorem emit_erg (o : Out) : (emit s o).erg = s.erg := rfl
@[simp] theorem emit_staging (o : Out) : (emit s o).staging = s.staging := rfl
@[simp] theorem emit_ops (o : Out) : (emit s o).ops = s.ops := rfl
@[simp] theorem emit_opUses (o : Out) : (emit s o).opUses = s.opUses := rfl
@[simp] theorem emit_opTurn (o : Out) : (emit s o).opTurn = s.opTurn := rfl
@[simp] theorem emit_cp (o : Out) : (emit s o).cp = s.cp := rfl
@[simp] theorem emit_sec (o : Out) : (emit s o).sec = s.sec := rfl
@[simp] theorem emit_records (o : Out) : (emit s o).records = s.records := rfl
@[simp] theorem emit_nextRecord (o : Out) : (emit s o).nextRecord = s.nextRecord := rfl
@[simp] theorem emit_readUpTo (o : Out) : (emit s o).readUpTo = s.readUpTo := rfl
@[simp] theorem emit_windows (o : Out) : (emit s o).windows = s.windows := rfl
@[simp] theorem emit_raised (o : Out) : (emit s o).raised = s.raised := rfl
@[simp] theorem emit_episodes (o : Out) : (emit s o).episodes = s.episodes := rfl
@[simp] theorem emit_out (o : Out) : (emit s o).out = s.out ++ [o] := rfl

/-! ### fset: every field but the registers -/

@[simp] theorem fset_pending (r : Reg) (d k j hi lo v : Nat) : (fset s r d k j hi lo v).pending = s.pending := rfl
@[simp] theorem fset_freeCtr (r : Reg) (d k j hi lo v : Nat) : (fset s r d k j hi lo v).freeCtr = s.freeCtr := rfl
@[simp] theorem fset_nextUid (r : Reg) (d k j hi lo v : Nat) : (fset s r d k j hi lo v).nextUid = s.nextUid := rfl
@[simp] theorem fset_module (r : Reg) (d k j hi lo v : Nat) : (fset s r d k j hi lo v).module = s.module := rfl
@[simp] theorem fset_units (r : Reg) (d k j hi lo v : Nat) : (fset s r d k j hi lo v).units = s.units := rfl
@[simp] theorem fset_dies (r : Reg) (d k j hi lo v : Nat) : (fset s r d k j hi lo v).dies = s.dies := rfl
@[simp] theorem fset_portDies (r : Reg) (d k j hi lo v : Nat) : (fset s r d k j hi lo v).portDies = s.portDies := rfl
@[simp] theorem fset_ports (r : Reg) (d k j hi lo v : Nat) : (fset s r d k j hi lo v).ports = s.ports := rfl
@[simp] theorem fset_ready (r : Reg) (d k j hi lo v : Nat) : (fset s r d k j hi lo v).ready = s.ready := rfl
@[simp] theorem fset_inbox (r : Reg) (d k j hi lo v : Nat) : (fset s r d k j hi lo v).inbox = s.inbox := rfl
@[simp] theorem fset_planeA (r : Reg) (d k j hi lo v : Nat) : (fset s r d k j hi lo v).planeA = s.planeA := rfl
@[simp] theorem fset_planeB (r : Reg) (d k j hi lo v : Nat) : (fset s r d k j hi lo v).planeB = s.planeB := rfl
@[simp] theorem fset_caravans (r : Reg) (d k j hi lo v : Nat) : (fset s r d k j hi lo v).caravans = s.caravans := rfl
@[simp] theorem fset_jobs (r : Reg) (d k j hi lo v : Nat) : (fset s r d k j hi lo v).jobs = s.jobs := rfl
@[simp] theorem fset_hanks (r : Reg) (d k j hi lo v : Nat) : (fset s r d k j hi lo v).hanks = s.hanks := rfl
@[simp] theorem fset_spindles (r : Reg) (d k j hi lo v : Nat) : (fset s r d k j hi lo v).spindles = s.spindles := rfl
@[simp] theorem fset_sync (r : Reg) (d k j hi lo v : Nat) : (fset s r d k j hi lo v).sync = s.sync := rfl
@[simp] theorem fset_erg (r : Reg) (d k j hi lo v : Nat) : (fset s r d k j hi lo v).erg = s.erg := rfl
@[simp] theorem fset_staging (r : Reg) (d k j hi lo v : Nat) : (fset s r d k j hi lo v).staging = s.staging := rfl
@[simp] theorem fset_ops (r : Reg) (d k j hi lo v : Nat) : (fset s r d k j hi lo v).ops = s.ops := rfl
@[simp] theorem fset_opUses (r : Reg) (d k j hi lo v : Nat) : (fset s r d k j hi lo v).opUses = s.opUses := rfl
@[simp] theorem fset_opTurn (r : Reg) (d k j hi lo v : Nat) : (fset s r d k j hi lo v).opTurn = s.opTurn := rfl
@[simp] theorem fset_cp (r : Reg) (d k j hi lo v : Nat) : (fset s r d k j hi lo v).cp = s.cp := rfl
@[simp] theorem fset_sec (r : Reg) (d k j hi lo v : Nat) : (fset s r d k j hi lo v).sec = s.sec := rfl
@[simp] theorem fset_records (r : Reg) (d k j hi lo v : Nat) : (fset s r d k j hi lo v).records = s.records := rfl
@[simp] theorem fset_nextRecord (r : Reg) (d k j hi lo v : Nat) : (fset s r d k j hi lo v).nextRecord = s.nextRecord := rfl
@[simp] theorem fset_readUpTo (r : Reg) (d k j hi lo v : Nat) : (fset s r d k j hi lo v).readUpTo = s.readUpTo := rfl
@[simp] theorem fset_windows (r : Reg) (d k j hi lo v : Nat) : (fset s r d k j hi lo v).windows = s.windows := rfl
@[simp] theorem fset_raised (r : Reg) (d k j hi lo v : Nat) : (fset s r d k j hi lo v).raised = s.raised := rfl
@[simp] theorem fset_episodes (r : Reg) (d k j hi lo v : Nat) : (fset s r d k j hi lo v).episodes = s.episodes := rfl
@[simp] theorem fset_out (r : Reg) (d k j hi lo v : Nat) : (fset s r d k j hi lo v).out = s.out := rfl

/-! ### fadd: every field but the registers -/

@[simp] theorem fadd_pending (r : Reg) (d k j hi lo v : Nat) : (fadd s r d k j hi lo v).pending = s.pending := rfl
@[simp] theorem fadd_freeCtr (r : Reg) (d k j hi lo v : Nat) : (fadd s r d k j hi lo v).freeCtr = s.freeCtr := rfl
@[simp] theorem fadd_nextUid (r : Reg) (d k j hi lo v : Nat) : (fadd s r d k j hi lo v).nextUid = s.nextUid := rfl
@[simp] theorem fadd_module (r : Reg) (d k j hi lo v : Nat) : (fadd s r d k j hi lo v).module = s.module := rfl
@[simp] theorem fadd_units (r : Reg) (d k j hi lo v : Nat) : (fadd s r d k j hi lo v).units = s.units := rfl
@[simp] theorem fadd_dies (r : Reg) (d k j hi lo v : Nat) : (fadd s r d k j hi lo v).dies = s.dies := rfl
@[simp] theorem fadd_portDies (r : Reg) (d k j hi lo v : Nat) : (fadd s r d k j hi lo v).portDies = s.portDies := rfl
@[simp] theorem fadd_ports (r : Reg) (d k j hi lo v : Nat) : (fadd s r d k j hi lo v).ports = s.ports := rfl
@[simp] theorem fadd_ready (r : Reg) (d k j hi lo v : Nat) : (fadd s r d k j hi lo v).ready = s.ready := rfl
@[simp] theorem fadd_inbox (r : Reg) (d k j hi lo v : Nat) : (fadd s r d k j hi lo v).inbox = s.inbox := rfl
@[simp] theorem fadd_planeA (r : Reg) (d k j hi lo v : Nat) : (fadd s r d k j hi lo v).planeA = s.planeA := rfl
@[simp] theorem fadd_planeB (r : Reg) (d k j hi lo v : Nat) : (fadd s r d k j hi lo v).planeB = s.planeB := rfl
@[simp] theorem fadd_caravans (r : Reg) (d k j hi lo v : Nat) : (fadd s r d k j hi lo v).caravans = s.caravans := rfl
@[simp] theorem fadd_jobs (r : Reg) (d k j hi lo v : Nat) : (fadd s r d k j hi lo v).jobs = s.jobs := rfl
@[simp] theorem fadd_hanks (r : Reg) (d k j hi lo v : Nat) : (fadd s r d k j hi lo v).hanks = s.hanks := rfl
@[simp] theorem fadd_spindles (r : Reg) (d k j hi lo v : Nat) : (fadd s r d k j hi lo v).spindles = s.spindles := rfl
@[simp] theorem fadd_sync (r : Reg) (d k j hi lo v : Nat) : (fadd s r d k j hi lo v).sync = s.sync := rfl
@[simp] theorem fadd_erg (r : Reg) (d k j hi lo v : Nat) : (fadd s r d k j hi lo v).erg = s.erg := rfl
@[simp] theorem fadd_staging (r : Reg) (d k j hi lo v : Nat) : (fadd s r d k j hi lo v).staging = s.staging := rfl
@[simp] theorem fadd_ops (r : Reg) (d k j hi lo v : Nat) : (fadd s r d k j hi lo v).ops = s.ops := rfl
@[simp] theorem fadd_opUses (r : Reg) (d k j hi lo v : Nat) : (fadd s r d k j hi lo v).opUses = s.opUses := rfl
@[simp] theorem fadd_opTurn (r : Reg) (d k j hi lo v : Nat) : (fadd s r d k j hi lo v).opTurn = s.opTurn := rfl
@[simp] theorem fadd_cp (r : Reg) (d k j hi lo v : Nat) : (fadd s r d k j hi lo v).cp = s.cp := rfl
@[simp] theorem fadd_sec (r : Reg) (d k j hi lo v : Nat) : (fadd s r d k j hi lo v).sec = s.sec := rfl
@[simp] theorem fadd_records (r : Reg) (d k j hi lo v : Nat) : (fadd s r d k j hi lo v).records = s.records := rfl
@[simp] theorem fadd_nextRecord (r : Reg) (d k j hi lo v : Nat) : (fadd s r d k j hi lo v).nextRecord = s.nextRecord := rfl
@[simp] theorem fadd_readUpTo (r : Reg) (d k j hi lo v : Nat) : (fadd s r d k j hi lo v).readUpTo = s.readUpTo := rfl
@[simp] theorem fadd_windows (r : Reg) (d k j hi lo v : Nat) : (fadd s r d k j hi lo v).windows = s.windows := rfl
@[simp] theorem fadd_raised (r : Reg) (d k j hi lo v : Nat) : (fadd s r d k j hi lo v).raised = s.raised := rfl
@[simp] theorem fadd_episodes (r : Reg) (d k j hi lo v : Nat) : (fadd s r d k j hi lo v).episodes = s.episodes := rfl
@[simp] theorem fadd_out (r : Reg) (d k j hi lo v : Nat) : (fadd s r d k j hi lo v).out = s.out := rfl

/-! ### eadd: every field but the registers -/

@[simp] theorem eadd_pending (r : Reg) (d k j hi lo v : Nat) : (eadd s r d k j hi lo v).pending = s.pending := rfl
@[simp] theorem eadd_freeCtr (r : Reg) (d k j hi lo v : Nat) : (eadd s r d k j hi lo v).freeCtr = s.freeCtr := rfl
@[simp] theorem eadd_nextUid (r : Reg) (d k j hi lo v : Nat) : (eadd s r d k j hi lo v).nextUid = s.nextUid := rfl
@[simp] theorem eadd_module (r : Reg) (d k j hi lo v : Nat) : (eadd s r d k j hi lo v).module = s.module := rfl
@[simp] theorem eadd_units (r : Reg) (d k j hi lo v : Nat) : (eadd s r d k j hi lo v).units = s.units := rfl
@[simp] theorem eadd_dies (r : Reg) (d k j hi lo v : Nat) : (eadd s r d k j hi lo v).dies = s.dies := rfl
@[simp] theorem eadd_portDies (r : Reg) (d k j hi lo v : Nat) : (eadd s r d k j hi lo v).portDies = s.portDies := rfl
@[simp] theorem eadd_ports (r : Reg) (d k j hi lo v : Nat) : (eadd s r d k j hi lo v).ports = s.ports := rfl
@[simp] theorem eadd_ready (r : Reg) (d k j hi lo v : Nat) : (eadd s r d k j hi lo v).ready = s.ready := rfl
@[simp] theorem eadd_inbox (r : Reg) (d k j hi lo v : Nat) : (eadd s r d k j hi lo v).inbox = s.inbox := rfl
@[simp] theorem eadd_planeA (r : Reg) (d k j hi lo v : Nat) : (eadd s r d k j hi lo v).planeA = s.planeA := rfl
@[simp] theorem eadd_planeB (r : Reg) (d k j hi lo v : Nat) : (eadd s r d k j hi lo v).planeB = s.planeB := rfl
@[simp] theorem eadd_caravans (r : Reg) (d k j hi lo v : Nat) : (eadd s r d k j hi lo v).caravans = s.caravans := rfl
@[simp] theorem eadd_jobs (r : Reg) (d k j hi lo v : Nat) : (eadd s r d k j hi lo v).jobs = s.jobs := rfl
@[simp] theorem eadd_hanks (r : Reg) (d k j hi lo v : Nat) : (eadd s r d k j hi lo v).hanks = s.hanks := rfl
@[simp] theorem eadd_spindles (r : Reg) (d k j hi lo v : Nat) : (eadd s r d k j hi lo v).spindles = s.spindles := rfl
@[simp] theorem eadd_sync (r : Reg) (d k j hi lo v : Nat) : (eadd s r d k j hi lo v).sync = s.sync := rfl
@[simp] theorem eadd_erg (r : Reg) (d k j hi lo v : Nat) : (eadd s r d k j hi lo v).erg = s.erg := rfl
@[simp] theorem eadd_staging (r : Reg) (d k j hi lo v : Nat) : (eadd s r d k j hi lo v).staging = s.staging := rfl
@[simp] theorem eadd_ops (r : Reg) (d k j hi lo v : Nat) : (eadd s r d k j hi lo v).ops = s.ops := rfl
@[simp] theorem eadd_opUses (r : Reg) (d k j hi lo v : Nat) : (eadd s r d k j hi lo v).opUses = s.opUses := rfl
@[simp] theorem eadd_opTurn (r : Reg) (d k j hi lo v : Nat) : (eadd s r d k j hi lo v).opTurn = s.opTurn := rfl
@[simp] theorem eadd_cp (r : Reg) (d k j hi lo v : Nat) : (eadd s r d k j hi lo v).cp = s.cp := rfl
@[simp] theorem eadd_sec (r : Reg) (d k j hi lo v : Nat) : (eadd s r d k j hi lo v).sec = s.sec := rfl
@[simp] theorem eadd_records (r : Reg) (d k j hi lo v : Nat) : (eadd s r d k j hi lo v).records = s.records := rfl
@[simp] theorem eadd_nextRecord (r : Reg) (d k j hi lo v : Nat) : (eadd s r d k j hi lo v).nextRecord = s.nextRecord := rfl
@[simp] theorem eadd_readUpTo (r : Reg) (d k j hi lo v : Nat) : (eadd s r d k j hi lo v).readUpTo = s.readUpTo := rfl
@[simp] theorem eadd_windows (r : Reg) (d k j hi lo v : Nat) : (eadd s r d k j hi lo v).windows = s.windows := rfl
@[simp] theorem eadd_raised (r : Reg) (d k j hi lo v : Nat) : (eadd s r d k j hi lo v).raised = s.raised := rfl
@[simp] theorem eadd_episodes (r : Reg) (d k j hi lo v : Nat) : (eadd s r d k j hi lo v).episodes = s.episodes := rfl
@[simp] theorem eadd_out (r : Reg) (d k j hi lo v : Nat) : (eadd s r d k j hi lo v).out = s.out := rfl

/-! ### eset: every field but the registers -/

@[simp] theorem eset_pending (r : Reg) (d k j hi lo v : Nat) : (eset s r d k j hi lo v).pending = s.pending := rfl
@[simp] theorem eset_freeCtr (r : Reg) (d k j hi lo v : Nat) : (eset s r d k j hi lo v).freeCtr = s.freeCtr := rfl
@[simp] theorem eset_nextUid (r : Reg) (d k j hi lo v : Nat) : (eset s r d k j hi lo v).nextUid = s.nextUid := rfl
@[simp] theorem eset_module (r : Reg) (d k j hi lo v : Nat) : (eset s r d k j hi lo v).module = s.module := rfl
@[simp] theorem eset_units (r : Reg) (d k j hi lo v : Nat) : (eset s r d k j hi lo v).units = s.units := rfl
@[simp] theorem eset_dies (r : Reg) (d k j hi lo v : Nat) : (eset s r d k j hi lo v).dies = s.dies := rfl
@[simp] theorem eset_portDies (r : Reg) (d k j hi lo v : Nat) : (eset s r d k j hi lo v).portDies = s.portDies := rfl
@[simp] theorem eset_ports (r : Reg) (d k j hi lo v : Nat) : (eset s r d k j hi lo v).ports = s.ports := rfl
@[simp] theorem eset_ready (r : Reg) (d k j hi lo v : Nat) : (eset s r d k j hi lo v).ready = s.ready := rfl
@[simp] theorem eset_inbox (r : Reg) (d k j hi lo v : Nat) : (eset s r d k j hi lo v).inbox = s.inbox := rfl
@[simp] theorem eset_planeA (r : Reg) (d k j hi lo v : Nat) : (eset s r d k j hi lo v).planeA = s.planeA := rfl
@[simp] theorem eset_planeB (r : Reg) (d k j hi lo v : Nat) : (eset s r d k j hi lo v).planeB = s.planeB := rfl
@[simp] theorem eset_caravans (r : Reg) (d k j hi lo v : Nat) : (eset s r d k j hi lo v).caravans = s.caravans := rfl
@[simp] theorem eset_jobs (r : Reg) (d k j hi lo v : Nat) : (eset s r d k j hi lo v).jobs = s.jobs := rfl
@[simp] theorem eset_hanks (r : Reg) (d k j hi lo v : Nat) : (eset s r d k j hi lo v).hanks = s.hanks := rfl
@[simp] theorem eset_spindles (r : Reg) (d k j hi lo v : Nat) : (eset s r d k j hi lo v).spindles = s.spindles := rfl
@[simp] theorem eset_sync (r : Reg) (d k j hi lo v : Nat) : (eset s r d k j hi lo v).sync = s.sync := rfl
@[simp] theorem eset_erg (r : Reg) (d k j hi lo v : Nat) : (eset s r d k j hi lo v).erg = s.erg := rfl
@[simp] theorem eset_staging (r : Reg) (d k j hi lo v : Nat) : (eset s r d k j hi lo v).staging = s.staging := rfl
@[simp] theorem eset_ops (r : Reg) (d k j hi lo v : Nat) : (eset s r d k j hi lo v).ops = s.ops := rfl
@[simp] theorem eset_opUses (r : Reg) (d k j hi lo v : Nat) : (eset s r d k j hi lo v).opUses = s.opUses := rfl
@[simp] theorem eset_opTurn (r : Reg) (d k j hi lo v : Nat) : (eset s r d k j hi lo v).opTurn = s.opTurn := rfl
@[simp] theorem eset_cp (r : Reg) (d k j hi lo v : Nat) : (eset s r d k j hi lo v).cp = s.cp := rfl
@[simp] theorem eset_sec (r : Reg) (d k j hi lo v : Nat) : (eset s r d k j hi lo v).sec = s.sec := rfl
@[simp] theorem eset_records (r : Reg) (d k j hi lo v : Nat) : (eset s r d k j hi lo v).records = s.records := rfl
@[simp] theorem eset_nextRecord (r : Reg) (d k j hi lo v : Nat) : (eset s r d k j hi lo v).nextRecord = s.nextRecord := rfl
@[simp] theorem eset_readUpTo (r : Reg) (d k j hi lo v : Nat) : (eset s r d k j hi lo v).readUpTo = s.readUpTo := rfl
@[simp] theorem eset_windows (r : Reg) (d k j hi lo v : Nat) : (eset s r d k j hi lo v).windows = s.windows := rfl
@[simp] theorem eset_raised (r : Reg) (d k j hi lo v : Nat) : (eset s r d k j hi lo v).raised = s.raised := rfl
@[simp] theorem eset_episodes (r : Reg) (d k j hi lo v : Nat) : (eset s r d k j hi lo v).episodes = s.episodes := rfl
@[simp] theorem eset_out (r : Reg) (d k j hi lo v : Nat) : (eset s r d k j hi lo v).out = s.out := rfl

end Sys2Proof.Machine
end

