-- ==== Sys2Proof/WellFormed.lean ====
section
/-! DEFINITION. Which commands and events are well formed: parameters that fit their words, frames whose LENGTH is
that of their payload, link words of the type the row receives, and units the part has. -/

namespace Sys2Proof

/-- Each parameter occupies one 64-bit word (R423). -/
def words (l : List Nat) : Bool := l.all (fun n => decide (n < 2 ^ 64))

/-- n is one of `k` numbers from `lo` on. -/
def inRange (n lo k : Nat) : Bool := decide (lo ≤ n) && decide (n < lo + k)

/-- An engine of a physical spindle (R15, R25). -/
def engineOk (die slot engine : Nat) : Bool := inRange die 10 16 && decide (slot < 17) && decide (engine < 4)

/-- The type of a fabric link word (R382). -/
def linkType (w : Word) (t : Nat) : Bool := BitVec.extractLsb' 0 4 w == BitVec.ofNat 4 t

/-- A control-port frame of a TYPE whose LENGTH is that of its payload (R406). -/
def frameOk (w0 : Word) (payload : List Byte) (t : Nat) : Bool :=
  BitVec.extractLsb' 8 4 w0 == BitVec.ofNat 4 t && (BitVec.extractLsb' 16 17 w0).toNat == payload.length

/-- Well-formedness of a command. -/
def Instr.wf : Instr → Bool
  | .regRead tag addr count => decide (tag < 2 ^ 32) && words [addr, count]
  | .regWrite tag addr _ _ => decide (tag < 2 ^ 32) && words [addr]
  | .hankOpen tag _ => decide (tag < 2 ^ 32)
  | .hankClose tag hank => decide (tag < 2 ^ 32) && words [hank]
  | .hankQuery tag hank => decide (tag < 2 ^ 32) && words [hank]
  | .caravanOpen tag caravan ingress egress feidLo feidHi rate => decide (tag < 2 ^ 32) && words [caravan, ingress, egress, feidLo, feidHi, rate]
  | .caravanClose tag caravan => decide (tag < 2 ^ 32) && words [caravan]
  | .progLoad tag first count buffer length => decide (tag < 2 ^ 32) && words [first, count, buffer, length]
  | .progStart tag first count => decide (tag < 2 ^ 32) && words [first, count]
  | .stepCommit tag job step attempt => decide (tag < 2 ^ 32) && words [job, step, attempt]
  | .stepAbort tag job step attempt => decide (tag < 2 ^ 32) && words [job, step, attempt]
  | .powerSet tag target state freq => decide (tag < 2 ^ 32) && words [target, state, freq]
  | .opPoll tag handle => decide (tag < 2 ^ 32) && words [handle]
  | .opCancel tag handle => decide (tag < 2 ^ 32) && words [handle]
  | .tableLoad tag kind buffer length arg => decide (tag < 2 ^ 32) && words [kind, buffer, length, arg]
  | .routeSwap tag => decide (tag < 2 ^ 32)
  | .scrub tag die channel firstPage pageCount => decide (tag < 2 ^ 32) && words [die, channel, firstPage, pageCount]
  | .retire tag die kind number page => decide (tag < 2 ^ 32) && words [die, kind, number, page]
  | .tierMigrate tag src dst length mode => decide (tag < 2 ^ 32) && words [src, dst, length, mode]
  | .contextSave tag first count handle step => decide (tag < 2 ^ 32) && words [first, count, handle, step]
  | .contextRestore tag first count handle => decide (tag < 2 ^ 32) && words [first, count, handle]
  | .spareSwap tag die localIndex => decide (tag < 2 ^ 32) && words [die, localIndex]
  | .portDrain tag die port timeoutUs => decide (tag < 2 ^ 32) && words [die, port, timeoutUs]
  | .laneRecal tag die lane => decide (tag < 2 ^ 32) && words [die, lane]
  | .fwStage tag die buffer length => decide (tag < 2 ^ 32) && words [die, buffer, length]
  | .opStep _ _ => true
  | .debugOpen tag level dies token => decide (tag < 2 ^ 32) && words [level, dies] && token.length == 320
  | .zeroisation => true
  | .debugClose tag => decide (tag < 2 ^ 32)
  | .debugEngineHalt tag die slot engine => decide (tag < 2 ^ 32) && words [die, slot, engine]
  | .debugEngineRelease tag die slot engine => decide (tag < 2 ^ 32) && words [die, slot, engine]
  | .debugRead tag space die slot address length => decide (tag < 2 ^ 32) && words [space, die, slot, address, length]
  | .debugWrite tag space die slot address length data => decide (tag < 2 ^ 32) && words [space, die, slot, address, length] && data.length == length
  | .flagSet tag die slot number => decide (tag < 2 ^ 32) && words [die, slot, number]
  | .flagClear tag die slot number => decide (tag < 2 ^ 32) && words [die, slot, number]
  | .barchanArrive tag die slot number participant => decide (tag < 2 ^ 32) && words [die, slot, number, participant]
  | .barchanRelease tag die slot number => decide (tag < 2 ^ 32) && words [die, slot, number]
  | .barchanClear tag die slot number => decide (tag < 2 ^ 32) && words [die, slot, number]
  | .faultRead tag first count => decide (tag < 2 ^ 32) && words [first, count]
  | .attestReport tag nonce => decide (tag < 2 ^ 32) && nonce.length == 32
  | .infoRead tag => decide (tag < 2 ^ 32)
  | .addKey tag => decide (tag < 2 ^ 32)
  | .revokeKey tag => decide (tag < 2 ^ 32)
  | .deploy tag => decide (tag < 2 ^ 32)
  | .secReturn tag => decide (tag < 2 ^ 32)
  | .raiseSvn tag => decide (tag < 2 ^ 32)
  | .force tag die _ _ => decide (tag < 2 ^ 32) && words [die]
  | .dieReboot tag die _ _ => decide (tag < 2 ^ 32) && words [die]
  | .unitRelease tag die _ _ => decide (tag < 2 ^ 32) && words [die]
  | .hold tag die _ _ => decide (tag < 2 ^ 32) && words [die]
  | .poolConfig tag die pool reg _ _ => decide (tag < 2 ^ 32) && words [die, pool, reg] && decide (reg < 2)
  | .barchanMembers tag die slot b _ _ => decide (tag < 2 ^ 32) && words [die, slot, b]
  | .pageQuery tag die _ _ => decide (tag < 2 ^ 32) && words [die]
  | .replRangeCtrl tag die n reg _ _ => decide (tag < 2 ^ 32) && words [die, n, reg] && decide (reg < 3)
  | .edgeRole tag die _ _ => decide (tag < 2 ^ 32) && words [die]
  | .portCtrl tag die port _ _ => decide (tag < 2 ^ 32) && words [die, port]
  | .command w0 _ _ _ payload => frameOk w0 payload 1
  | .bulk w0 _ _ _ payload => frameOk w0 payload 4
  | .linkFrameHello w0 _ w2 _ payload => frameOk w0 payload 5 && BitVec.extractLsb' 0 4 w2 == 1
  | .linkFrameAck w0 _ w2 _ => frameOk w0 [] 5 && BitVec.extractLsb' 0 4 w2 == 2
  | .linkFrameNak w0 _ w2 _ => frameOk w0 [] 5 && BitVec.extractLsb' 0 4 w2 == 3
  | .linkFrameAlign w0 _ w2 _ => frameOk w0 [] 5 && BitVec.extractLsb' 0 4 w2 == 4
  | .resendTimeout _ => true
  | .linkUpLimit => true
  | .commandTimeout tag => decide (tag < 2 ^ 32)
  | .headerFlit port _ => decide (port < 128)
  | .frameStart port word => decide (port < 128) && linkType word 1
  | .frameEnd port word flits => decide (port < 128) && linkType word 2 && flits.length % 64 == 0
  | .credit port word => decide (port < 128) && linkType word 3
  | .linkWordAck port word => decide (port < 128) && linkType word 4
  | .linkWordNak port word => decide (port < 128) && linkType word 5
  | .replayTimeout port => decide (port < 128)
  | .align port lane word => decide (port < 128) && decide (lane < 2) && linkType word 6
  | .hello port word => decide (port < 128) && linkType word 7
  | .laneDrop port word => decide (port < 128) && linkType word 8
  | .laneAdd port word => decide (port < 128) && linkType word 9
  | .recalReq port word => decide (port < 128) && linkType word 10
  | .laneDropTimeout port => decide (port < 128)
  | .lockLoss die lane _ => decide (die < 8) && decide (lane < 32)
  | .trainingLimit port => decide (port < 128)
  | .creditStall port vc => decide (port < 128) && decide (vc < 14)
  | .routeFetch port vc => decide (port < 128) && decide (vc < 14)
  | .rankFetch port vc => decide (port < 128) && decide (vc < 14)
  | .rankWaitTimeout port vc => decide (port < 128) && decide (vc < 14)
  | .planeRoute link vc => decide (link < 28) && decide (vc < 14)
  | .planeCredit plane link vc => decide (plane < 2) && decide (link < 28) && decide (vc < 14)
  | .schedule plane output => decide (plane < 2) && decide (output < 148)
  | .wadiMove plane output vc => decide (plane < 2) && decide (output < 148) && decide (vc < 14)
  | .egressArbitration port => decide (port < 128)
  | .shaperRefill port => decide (port < 128)
  | .outputStall plane output => decide (plane < 2) && decide (output < 148)
  | .get die => inRange die 26 4
  | .put die => inRange die 26 4
  | .bulkPut die => inRange die 26 4
  | .addExact die => inRange die 26 4
  | .fetchAdd die => inRange die 26 4
  | .atomMax die => inRange die 26 4
  | .atomMin die => inRange die 26 4
  | .cas die => inRange die 26 4
  | .alloc die => inRange die 26 4
  | .free die => inRange die 26 4
  | .putFwd die => inRange die 26 4
  | .atomicFwd die => inRange die 26 4
  | .replTimeout die range => inRange die 26 4 && decide (range < 16)
  | .signal die => inRange die 26 4
  | .bulkSignal die => inRange die 26 4
  | .countedWrite counter => decide (counter < 65536)
  | .fire counter => decide (counter < 65536)
  | .signalTimeout counter => decide (counter < 65536)
  | .getData die => inRange die 10 16
  | .ack die => inRange die 10 20
  | .atomicRsp die => inRange die 10 16
  | .contrib die => inRange die 10 16
  | .tallyUp die => inRange die 10 16
  | .chunkNotice die => inRange die 10 16
  | .result die => inRange die 10 16
  | .arrive die => inRange die 10 16
  | .release die => inRange die 10 16
  | .hankBurst spindle => decide (spindle < 256)
  | .chunkTimeout hank slot => inRange hank 1 65535 && decide (slot < 8192)
  | .roundTimeout hank round => inRange hank 1 65535 && decide (round < 2 ^ 48)
  | .exchangeSend hank => inRange hank 1 65535
  | .nop die slot engine => engineOk die slot engine
  | .j die slot engine => engineOk die slot engine
  | .whorl die slot engine => engineOk die slot engine
  | .halt die slot engine => engineOk die slot engine
  | .sLi die slot engine => engineOk die slot engine
  | .sOp die slot engine => engineOk die slot engine
  | .aSet die slot engine => engineOk die slot engine
  | .syncRaise die slot engine => engineOk die slot engine
  | .syncWait die slot engine => engineOk die slot engine
  | .barArrive die slot engine => engineOk die slot engine
  | .barWait die slot engine => engineOk die slot engine
  | .raise spindle => decide (spindle < 256)
  | .barchanArrival die => inRange die 10 16
  | .furtherRelease die slot b => inRange die 10 16 && decide (slot < 17) && decide (b < 16)
  | .inGet die slot engine => engineOk die slot engine
  | .inCopy die slot engine => engineOk die slot engine
  | .inFill die slot engine => engineOk die slot engine
  | .inPush die slot engine => engineOk die slot engine
  | .vLd die slot engine => engineOk die slot engine
  | .vSt die slot engine => engineOk die slot engine
  | .vPush die slot engine => engineOk die slot engine
  | .vPop die slot engine => engineOk die slot engine
  | .vAdd die slot engine => engineOk die slot engine
  | .vMul die slot engine => engineOk die slot engine
  | .vMax die slot engine => engineOk die slot engine
  | .vMin die slot engine => engineOk die slot engine
  | .vCvt die slot engine => engineOk die slot engine
  | .vFma die slot engine => engineOk die slot engine
  | .vExp die slot engine => engineOk die slot engine
  | .vRcp die slot engine => engineOk die slot engine
  | .vSqrt die slot engine => engineOk die slot engine
  | .vCard die slot engine => engineOk die slot engine
  | .mmClr die slot engine => engineOk die slot engine
  | .mmT die slot engine => engineOk die slot engine
  | .mmSt die slot engine => engineOk die slot engine
  | .accX die slot engine => engineOk die slot engine
  | .accC die slot engine => engineOk die slot engine
  | .accR die slot engine => engineOk die slot engine
  | .sortK die slot engine => engineOk die slot engine
  | .topkK die slot engine => engineOk die slot engine
  | .filt die slot engine => engineOk die slot engine
  | .compact die slot engine => engineOk die slot engine
  | .tileExp die slot engine => engineOk die slot engine
  | .tileCmp die slot engine => engineOk die slot engine
  | .padC die slot engine => engineOk die slot engine
  | .outPut die slot engine => engineOk die slot engine
  | .outDrain die slot engine => engineOk die slot engine
  | .outAtom die slot engine => engineOk die slot engine
  | .outSig die slot engine => engineOk die slot engine
  | .outFence die slot engine => engineOk die slot engine
  | .landing die slot engine => engineOk die slot engine
  | .engineQueueWatchdog die slot engine => engineOk die slot engine
  | .stewardWatchdog die => decide (die < 32)
  | .stepWatchdog opSlot => decide (opSlot < 64)
  | .distaffWatchdog die _ => inRange die 30 2
  | .resynchronise => true
  | .suppressedRecord source => decide (source < 65536)
  | .pulseEnd => true
  | .lifetime => true
  | .thermal die _ => decide (die < 32)
  | .relock die => inRange die 10 16
  | .bringupPhase failed => failed.all (fun a => decide (a < 2 ^ 48))
  | .bringupLimit failed => failed.all (fun a => decide (a < 2 ^ 48))
  | .rebootPhase _ => true
  | .powerRemoval => true
  | .pwrEnLow => true
  | .pwrEnRising => true
  | .rstNLow => true
  | .rstNRising => true
  | .inputLoss => true
  | .inputRestore => true
  | .controlLaneLockLoss lane => decide (lane < 4)
  | .fecLock => true
  | .signalDetect port lane => decide (port < 128) && decide (lane < 2)
  | .equalisationComplete port lane => decide (port < 128) && decide (lane < 2)
  | .degradeThreshold die lane => decide (die < 8) && decide (lane < 32)
  | .clockLock die => decide (die < 32)

end Sys2Proof
end

