-- ==== Sys2Proof/Tests/Slice0.lean ====
section
/-! SUPPORT. Tests of the model on small states: the ill-formed terms that `Instr.wf` refuses, values the spec works
out, and for each statement with hypotheses a state and operands that meet them. -/

open Sys2Proof Sys2Proof.Machine

namespace Sys2Proof.Tests

set_option Elab.async false

/-! ### Well-formedness -/

theorem test_wf_command_parameters :
    Instr.wf (.regRead (2 ^ 32) 0 1) = false ∧ Instr.wf (.regRead 0 (2 ^ 64) 1) = false ∧
    Instr.wf (.regRead (2 ^ 32 - 1) (2 ^ 64 - 1) 1) = true ∧
    Instr.wf (.debugOpen 1 1 0 (List.replicate 319 0)) = false ∧ Instr.wf (.debugOpen 1 1 0 (List.replicate 320 0)) = true ∧
    Instr.wf (.attestReport 1 (List.replicate 31 0)) = false ∧ Instr.wf (.debugWrite 1 0 10 0 0 2 [0]) = false ∧
    Instr.wf (.poolConfig 1 26 0 2 0 0) = false ∧ Instr.wf (.replRangeCtrl 1 26 0 3 0 0) = false := by and_intros <;> decide +kernel

theorem test_wf_frames_and_link_words :
    Instr.wf (.command 0x100 0 0 0 [0]) = false ∧ Instr.wf (.command 0x400 0 0 0 []) = false ∧
    Instr.wf (.command 0x10100 0 0 0 [0]) = true ∧ Instr.wf (.linkFrameAck 0x500 0 1 0) = false ∧
    Instr.wf (.linkFrameAck 0x500 0 2 0) = true ∧ Instr.wf (.credit 0 4) = false ∧ Instr.wf (.credit 0 3) = true ∧
    Instr.wf (.frameEnd 0 2 [0]) = false ∧ Instr.wf (.frameEnd 0 2 (List.replicate 64 0)) = true := by and_intros <;> decide +kernel

theorem test_wf_units :
    Instr.wf (.headerFlit 128 ⟨0, 0, 0, 0, 0, 0, 0, 0⟩) = false ∧ Instr.wf (.align 0 2 6) = false ∧
    Instr.wf (.lockLoss 8 0 true) = false ∧ Instr.wf (.lockLoss 7 32 true) = false ∧ Instr.wf (.routeFetch 0 14) = false ∧
    Instr.wf (.planeRoute 28 0) = false ∧ Instr.wf (.planeCredit 2 0 0) = false ∧ Instr.wf (.schedule 0 148) = false ∧
    Instr.wf (.get 25) = false ∧ Instr.wf (.get 30) = false ∧ Instr.wf (.getData 9) = false ∧ Instr.wf (.ack 30) = false ∧
    Instr.wf (.replTimeout 26 16) = false ∧ Instr.wf (.fire 65536) = false ∧ Instr.wf (.hankBurst 256) = false ∧
    Instr.wf (.chunkTimeout 0 0) = false ∧ Instr.wf (.chunkTimeout 1 8192) = false ∧
    Instr.wf (.roundTimeout 1 (2 ^ 48)) = false ∧ Instr.wf (.exchangeSend 65536) = false ∧
    Instr.wf (.furtherRelease 10 0 16) = false := by and_intros <;> decide +kernel

theorem test_wf_engines_and_dies :
    Instr.wf (.nop 26 0 0) = false ∧ Instr.wf (.nop 25 17 0) = false ∧ Instr.wf (.nop 25 16 4) = false ∧
    Instr.wf (.nop 25 16 3) = true ∧ Instr.wf (.raise 256) = false ∧ Instr.wf (.stewardWatchdog 32) = false ∧
    Instr.wf (.stepWatchdog 64) = false ∧ Instr.wf (.distaffWatchdog 29 false) = false ∧
    Instr.wf (.suppressedRecord 65536) = false ∧ Instr.wf (.thermal 32 0) = false ∧ Instr.wf (.relock 26) = false ∧
    Instr.wf (.bringupPhase [2 ^ 48]) = false ∧ Instr.wf (.controlLaneLockLoss 4) = false ∧
    Instr.wf (.clockLock 32) = false := by and_intros <;> decide +kernel

/-! ### Small states -/

/-- A part that takes commands: the control link UP, bring-up done, the module in a state of R436. -/
def up (state : Nat) : State :=
  { State.reset with
    module := { Module.init with state := state, phase := 6, errLow := false }
    cp := { ControlPort.init with step := 4 } }

/-- The state with one register word set. -/
def withReg (s : State) (r : Reg) (die inst k v : Nat) : State := rset s r die inst k v

theorem w_accepts : accepts (up 4) 1 = true ∧ accepts (up 3) 1 = true ∧ acceptsStandby (up 1) 1 = true := by
  and_intros <;> decide +kernel

theorem w_StepRunsTheFrontCommand :
    ({ up 4 with pending := [Instr.infoRead 1] } : State).pending = Instr.infoRead 1 :: [] ∧ (up 4).pending = [] := by
  and_intros <;> decide +kernel

theorem w_CommandsAreTurnedAwayInOrder :
    commandRow (.infoRead 1) = some (1, 0x70) ∧ listens State.reset = false ∧
    (listens { up 1 with module := { (up 1).module with phase := 5 } } = true) ∧
    (let s := { up 4 with cp := { (up 4).cp with remembered := List.replicate 64 { tag := 9, opcode := 0x40, done := none } } }
     listens s = true ∧ 6 ≤ s.module.phase ∧ 64 ≤ awaitingCount s) ∧
    (let s := { up 4 with cp := { (up 4).cp with remembered := [{ tag := 1, opcode := 0x70, done := none }] } }
     listens s = true ∧ 6 ≤ s.module.phase ∧ awaitingCount s < 64 ∧ (findRemembered s 1).isSome = true) := by
  and_intros <;> decide +kernel

theorem w_InformationIsRead :
    accepts (up 4) 1 = true ∧ 1 ≤ 64 ∧ 64 ≤ 64 ∧ 2 ^ 32 - 1 < 2 ^ 32 ∧ (List.replicate 32 (0 : Byte)).length = 32 ∧
    ({ up 4 with sec := { (up 4).sec with attestKey := some [0] } } : State).sec.attestKey = some [0] ∧
    accepts { up 4 with sec := { (up 4).sec with attestKey := some [0] } } 1 = true := by and_intros <;> decide +kernel

/-- A session of debug level 2 that reaches every die. -/
def session2 (s : State) : State :=
  { s with sec := { s.sec with session := some { level := 2, dies := 0xFFFFFFFF, lifetime := none } } }

theorem w_RegisterReadAnswersTheValues :
    (let a := regAddr .bufferGeometry 8 0 0
     accepts (up 4) 1 = true ∧ 1 ≤ 1 ∧ 1 ≤ 64 ∧ (regsAt (a % 2 ^ 48) 1).isSome = true ∧
     viewBusy (up 4) (a % 2 ^ 48) ((regsAt (a % 2 ^ 48) 1).getD []) = false) := by
  decide +kernel

theorem w_RegisterWriteStoresTheMergedValue :
    accepts (up 4) 1 = true ∧ decodeAddr (regAddr .bufferAlpha 8 0 0 % 2 ^ 48) = some (.bufferAlpha, 0) ∧
    addrDie (regAddr .bufferAlpha 8 0 0) = 8 ∧
    writable .bufferAlpha &&& (0xF : Word).toNat ≠ 0 ∧
    storesOnly (up 4) .bufferAlpha 8 0 0 (mergeWrite .bufferAlpha 0 10 0xF) 0xF = true ∧
    storesOnly (up 4) .bufferAlpha 8 0 0 (mergeWrite .bufferAlpha 0 11 0xF) 0xF = false ∧
    writable .bufferAlpha &&& (0 : Word).toNat = 0 := by and_intros <;> decide +kernel

/-- A BARRIER over one trunk member, port 0, of job 0. -/
def barrierDesc : List Byte := wordsBytes [0x510, 7, 0, 0, 0, 0, 1, 0x100000000, 0, 0, 0x80]
/-- A reduction SUM in mode IX of 64-bit integers over the same member, one slot at spindle 0. -/
def sumDesc : List Byte :=
  wordsBytes [0x02831110 + 0x1212 * 2 ^ 32, 7 + 2 ^ 32, 1024, 0, 0, 5, 1 + 2 ^ 44, 0x100010001, 0, 0, 0x80]

/-- The hypotheses of the opening of a hank, for a descriptor. -/
def opens (s : State) (d : List Byte) : Bool :=
  accepts s 1 && s.module.state == 4 && d.length == 80 + 8 * (descOf d).memberCount && wbits (wordAt d 0) 7 0 == 0x10
    && descKind (descOf d) && descFields (descOf d) && descHandle (descOf d) && descMembers s (descOf d)
    && descPool s (descOf d) && (getHank s (descOf d).hank).isNone && decide (s.hanks.length < 4096)
    && (upTo 0 (descOf d).spindleSpan).all (fun i => logicalAvailable s (((descOf d).spindleBase + i) % 256))
    && decide (barrierCount s (hankDie (descOf d)) < 256)
    && (match claimSlots s (descOf d) (upTo 0 (descOf d).slotBudget) with
        | some u => (claimBobbins (exchPool (descOf d)) 0 u []).isSome
        | none => false)

theorem w_HankOpens : opens (up 4) barrierDesc = true ∧ opens (up 4) sumDesc = true ∧ (descOf sumDesc).type = 1 ∧
    (descOf barrierDesc).type = 5 := by and_intros <;> decide +kernel

/-- An open hank of a descriptor that has accepted nothing. -/
def openHank (d : List Byte) : Hank :=
  { d := descOf d, base := 0, current := 0, slots := [], rounds := [],
    exch := { accepted := [], expected := [], kept := [], staging := [] },
    barr := { cur := [], next := [], childFeid := [], sentUp := false },
    roundsDone := 0, dropped := 0, stale := 0, nonSource := 0, windowOverflow := 0, xdropped := 0, unrouted := 0,
    padded := 0, lastReason := 0, aborts := 0 }
/-- The part with that hank open as hank 7 of job 0. -/
def withHank (s : State) (h : Hank) : State := { s with hanks := [(7, h)] }

/-- A route image of one level, in which every endpoint is NONE. -/
def image (g : Nat) : RouteImage :=
  { treeLevels := 1, switchLevel := 1, ordPlanes := 1, hashSeed := 0, generation := BitVec.ofNat 32 g, upPorts := 0,
    upSets := [], entries := [] }
/-- The module ACTIVE with both planes LIVE and an image active, and ports 0 and 1 LIVE with UP links. -/
def fabric : State :=
  let s := up 4
  let s := { s with planeA := { s.planeA with active := some (image 1) }, planeB := { s.planeB with active := some (image 1) } }
  let s := setUnit (setUnit s 8 0x08 0 .live) 9 0x08 0 .live
  let s := setUnit (setUnit s 0 0x01 0 .live) 0 0x01 1 .live
  pset (pset s .portStatus 0 0 1 0 2) .portStatus 1 0 1 0 2

theorem w_HanksCloseAndCaravansOpen :
    (let s := withHank (up 4) (openHank sumDesc)
     accepts s 1 = true ∧ (getHank s 7).isSome = true ∧ (hankDies (openHank sumDesc).d).all (fun d => decide (d < 32)) = true ∧
     holdsPart (openHank sumDesc) = false ∧ (openHank sumDesc).exch.staging = []) ∧
    holdsPart { openHank barrierDesc with rounds := [(0, { chunksDone := 0, timer := true, outA := 0, outB := 0, inA := 0, inB := 0 })] } = true ∧
    getHank (up 4) 7 = none ∧
    (let s := fabric
     accepts s 1 = true ∧ caravansExist s = true ∧ (0 : Nat) ≤ 0xFFFFE ∧ reservedSlots s 1 + 48 ≤ 48 ∧ portUp s 0 = true ∧
     portUp s 1 = true ∧ mapFind s.caravans 255 = none) ∧
    (let s : State := { up 4 with
       caravans := [(255, { ingress := 0, egress := 1, rate := 1, feidLo := 0, feidHi := 0xFFFFE })] }
     accepts s 1 = true ∧ (mapFind s.caravans 255).isSome = true) := by and_intros <;> decide +kernel

/-- Job 0 with step 5 committed. -/
def committed5 (s : State) : State := setJob s 0 { Job.init with committed := some 5 }

theorem w_StepCommits :
    (accepts (committed5 (up 4)) 1 = true ∧ (getJob (committed5 (up 4)) 0).committed = some 5 ∧ 4 < 5) ∧
    (let h := { openHank sumDesc with rounds := [(0, { chunksDone := 0, timer := true, outA := 0, outB := 0, inA := 0, inB := 0 })] }
     let s := withHank (up 4) h
     accepts s 1 = true ∧ (getJob s 0).committed = none ∧ roundOpen s 0 0 = true) ∧
    (roundOpen (committed5 (up 4)) 0 5 = false ∧ 5 ≤ 5) ∧
    (getHank (withHank (committed5 (up 4)) (openHank sumDesc)) 7 = some (openHank sumDesc) ∧ (openHank sumDesc).d.job = 0) := by
  and_intros <;> decide +kernel

theorem w_StepAborts :
    (accepts fabric 1 = true ∧ anyPlane fabric = true ∧ 0 = (getJob fabric 0).attempt ∧ (getJob fabric 0).committed = none) ∧
    (255 ≠ (getJob fabric 0).attempt) ∧
    (accepts (committed5 (up 4)) 1 = true ∧ (getJob (committed5 (up 4)) 0).committed = some 5 ∧ 5 ≤ 5) := by
  and_intros <;> decide +kernel

/-- A program image without text or data: one empty section, engine 0 in its mask, and its measurement. -/
def emptyImage : List Byte :=
  wordsBytes ([0x00010110_4D445053, 0x90, 0, 0, 0xefebf759fbd1091d, 0xfc19efabe2497e48, 0x721e74503f9e042f,
    0xb8791baaaf81702f, 0x8e3324677474e371, 0xe6499edd8fb36dab, 0xac9451677858b5aa, 0xb50f6134117a0531] ++ [0, 0, 0, 0, 1, 0])
/-- The part with that image in staging buffer 0. -/
def stagedProgram : State := { up 4 with staging := memWrite [] 0 emptyImage }

theorem w_ProgramsLoadAndStart :
    accepts stagedProgram 1 = true ∧ stagedProgram.module.state = 4 ∧ 255 + 1 ≤ 256 ∧
    logicalAvailable stagedProgram 255 = true ∧ imgNum (staged stagedProgram 0 0 144) 4 1 = 0x10 ∧
    ((upTo 255 1).map (programBytes stagedProgram)).foldl min 0x300000 = 0x100000 ∧
    imageOk (staged stagedProgram 0 0 144) 144 0x100000 = true ∧ imgNum (staged stagedProgram 0 0 144) 8 4 = 144 ∧
    spindleActive stagedProgram (spindleOf stagedProgram 255) = false ∧
    memWf (staged stagedProgram 0 0 144) = true ∧ memWf Spindle.init.ls = true := by
  and_intros <;> decide +kernel

theorem w_PowerStatesChange :
    (accepts (up 4) 1 = true ∧ (up 4).module.state = 4 ∧ (up 4).module.stopHeld = false ∧ (up 4).hanks = [] ∧
      enginesRun (up 4) = false ∧ (up 4).sec.session = none) ∧
    (accepts (up 3) 1 = true ∧ (up 3).module.state = 3 ∧ (up 3).module.stopHeld = false) ∧
    (moduleRefused (withHank (up 4) (openHank barrierDesc)) 3 = true ∧
      accepts (withHank (up 4) (openHank barrierDesc)) 1 = true) ∧
    (let s := setUnit (up 4) 25 0x10 15 .live
     accepts s 1 = true ∧ unitState s 25 0x10 15 = .live ∧ (getDie s 25).contained = false ∧
     (logicalOf s (32 * 25 + 15)).isSome = true ∧ opOnUnit s 25 0x10 15 = false ∧ spindleRuns s (32 * 25 + 15) = false ∧
     (getSp s (32 * 25 + 15)).claims = []) ∧
    (unitState (up 4) 10 0x10 0 = .parked ∧ (logicalOf (up 4) 320).isSome = true ∧ opOnUnit (up 4) 10 0x10 0 = false) ∧
    (let s := setUnit (up 4) 29 0x1B 2 .live
     accepts s 1 = true ∧ unitState s 29 0x1B 2 = .live ∧ (getDie s 29).contained = false ∧
     deviceRetired s 29 0x1B 2 = false ∧ opOnUnit s 29 0x1B 2 = false) ∧
    (unitState (up 4) 25 0x00 0 ≠ .contained ∧ fget (up 4) .dieClock 25 0 0 15 0 ≠ 800 ∧ opOnUnit (up 4) 25 0x00 0 = false) := by
  and_intros <;> decide +kernel

/-! ### Handles, whose FEID is this Holmon's -/

/-- The handle of an offset of a region of this Holmon. -/
def hnd (r o : Nat) : Nat := ownFeid * 2 ^ 44 + r * 2 ^ 40 + o

theorem ownFeid_lt : ownFeid < 2 ^ 20 := Config.ownFeid.isLt

theorem hnd_parts {r o : Nat} (hr : r < 16) (ho : o < 2 ^ 40) :
    hndFeid (word (hnd r o)) = ownFeid ∧ hndRegion (word (hnd r o)) = r ∧ hndOffset (word (hnd r o)) = o ∧ hnd r o < 2 ^ 64 := by
  have h := ownFeid_lt
  simp only [hndFeid, hndRegion, hndOffset, wbits, bits, word, hnd, BitVec.toNat_ofNat, Nat.shiftRight_eq_div_pow]
  omega

theorem ergRange_hnd (s : State) {r o n : Nat} (hr : r = 1 ∨ r = 2) (ho : o < 2 ^ 40) (h : o + n ≤ tierLimit s (r - 1)) :
    ergRange s (hnd r o) n = true := by
  obtain ⟨a, b, c, d⟩ := hnd_parts (r := r) (o := o) (by omega) ho
  simp only [ergRange, dataHandle, a, b, c, d, h, decide_true, Bool.true_and, BEq.rfl, Bool.and_true]
  rcases hr with rfl | rfl <;> rfl

theorem hnd_page {r o : Nat} (h : o % 4096 = 0) : hnd r o % 4096 = 0 := by unfold hnd; omega

/-- A route image and a multicast image in staging buffers 0 and 1, each of them nothing but its first word. -/
def stagedImages : State := { up 4 with staging := [(0, 0x10), (1, 0x15), (4, 9), (2 ^ 27, 0x10)] }
/-- Die 26 of the Erg LIVE with its channel 0 and the first channel of its other tier. -/
def erg26 (s : State) : State :=
  setUnit (setUnit (setUnit s 26 0x00 0 .live) 26 0x19 0 .live) 26 0x19 32 .live

theorem w_OperationsStart_loads :
    (accepts stagedImages 1 = true ∧ (freeSlot stagedImages).isSome = true ∧ imageCheck stagedImages 0 1 = 0 ∧
      imageCheck stagedImages 0 15 = 0 ∧ targetsBusy stagedImages (opTargets stagedImages 1 [1, 0, 4194816, 15]) = false) ∧
    ((1048576 : Nat) % 4 = 0 ∧ (placeTable stagedImages ((1048576 / 4 + 1023) / 1024)).isSome = true ∧
      targetsBusy stagedImages (opTargets stagedImages 1 [2, 0, 1048576, 4095]) = false) ∧
    (65535 + 64 / 64 ≤ 65536 ∧ targetsBusy stagedImages (opTargets stagedImages 1 [3, 0, 64, 65535]) = false) ∧
    (let s := { stagedImages with planeA := { stagedImages.planeA with shadow := some (image 9) } }
     accepts s 1 = true ∧ shadowLoaded s = true ∧ targetsBusy s (opTargets s 2 []) = false) ∧
    (385 ≤ 384 + 2 ^ 26 ∧ targetsBusy stagedImages (opTargets stagedImages 11 [31, 0, 385]) = false) := by
  and_intros <;> decide +kernel

theorem w_OperationsStart_erg : ergRange (up 4) (hnd 1 0) (2 ^ 27) = true ∧
    targetsBusy (up 4) (opTargets (up 4) 1 [4, 0, 2 ^ 27, hnd 1 0]) = false :=
  ⟨ergRange_hnd _ (by decide) (by decide) (by decide +kernel), by decide +kernel⟩

theorem w_OperationsStart_pages :
    (let s := erg26 (up 4)
     accepts s 1 = true ∧ (freeSlot s).isSome = true ∧ scrubLegal 26 0 1535 1 = true ∧ channelLive s 26 0 = true ∧
     0 < (scrubPages 0 1535 1 (liveChannels s 26)).length ∧
     targetsBusy s (opTargets s 3 [26, 0, 1535, 1, liveChannels s 26]) = false ∧ scrubLegal 26 255 0 4096 = true) ∧
    (retireLegal 29 3 2 0 = true ∧ targetsBusy (up 4) (opTargets (up 4) 4 [29, 3, 2, 0]) = false) := by
  and_intros <;> decide +kernel

theorem w_OperationsStart_retire :
    (let s := fset (up 4) .ergConfig 29 0 0 31 16 49152
     accepts s 1 = true ∧ (freeSlot s).isSome = true) ∧
    (pagesToMove (fset (up 4) .ergConfig 29 0 0 31 16 49152) 29 3 2 0).length
      ≤ sparesOutside (fset (up 4) .ergConfig 29 0 0 31 16 49152) 29 3 2 0 := by
  refine ⟨by decide +kernel, ?_⟩
  have h : exposed (fset (up 4) .ergConfig 29 0 0 31 16 49152) 29 1 = 0 := by decide +kernel
  have : pagesToMove (fset (up 4) .ergConfig 29 0 0 31 16 49152) 29 3 2 0 = [] := by
    simp [pagesToMove, pageServes, h, show targetTier 3 2 = 1 by decide]
  simp [this]

theorem w_OperationsStart_migrate : migrateLegal (up 4) (hnd 1 0) (hnd 2 4096) 4096 1 = true ∧
    touchesReplica (up 4) (hndRegion (word (hnd 2 4096))) (hndOffset (word (hnd 2 4096))) 4096 = false ∧
    touchesReplica (up 4) (hndRegion (word (hnd 1 0))) (hndOffset (word (hnd 1 0))) 4096 = false ∧
    targetsBusy (up 4) (opTargets (up 4) 5 [hnd 1 0, hnd 2 4096, 4096, 1]) = false := by
  obtain ⟨-, a, b, -⟩ := hnd_parts (r := 1) (o := 0) (by decide) (by decide)
  obtain ⟨-, c, d, -⟩ := hnd_parts (r := 2) (o := 4096) (by decide) (by decide)
  have e := ergRange_hnd (up 4) (r := 1) (o := 0) (n := 4096) (by decide) (by decide) (by decide +kernel)
  have f := ergRange_hnd (up 4) (r := 2) (o := 4096) (n := 4096) (by decide) (by decide) (by decide +kernel)
  rw [a, b, c, d]
  refine ⟨?_, by decide +kernel, by decide +kernel, by decide +kernel⟩
  simp [migrateLegal, e, f, a, c, hnd_page]

theorem w_OperationsStart_contexts : contextLegal (up 4) 255 1 (hnd 1 0) = true ∧
    targetsBusy (up 4) (opTargets (up 4) 6 [255, 1, hnd 1 0, 2 ^ 48 - 1]) = false ∧
    targetsBusy (up 4) (opTargets (up 4) 7 [255, 1, hnd 1 0]) = false ∧
    (namedSpindles (up 4) 255 1).all (fun key => contextStill (up 4) key && !spindleActive (up 4) key) = true := by
  have e := ergRange_hnd (up 4) (r := 1) (o := 0) (n := 0x20000 + 0x100000) (by decide) (by decide) (by decide +kernel)
  have n : contextSize (up 4) 255 = 0x20000 + 0x100000 := by decide +kernel
  have l : logicalAvailable (up 4) 255 = true := by decide +kernel
  refine ⟨?_, by decide +kernel, by decide +kernel, by decide +kernel⟩
  simp only [contextLegal, upTo, List.all_cons, List.all_nil, Nat.zero_add, Nat.add_zero, Nat.one_mul, n, e, l, hnd_page, Bool.and_true]
  decide

theorem w_OperationsStart_units :
    (let s := fset (up 4) .spindleMapStatus 25 0 0 22 17 (32 + 16)
     accepts s 1 = true ∧ (freeSlot s).isSome = true ∧ swapCheck s 25 15 = (stOk, 0) ∧
     targetsBusy s (opTargets s 8 [25, 15]) = false) ∧
    (accepts fabric 1 = true ∧ (freeSlot fabric).isSome = true ∧ portUp fabric (16 * 0 + 1) = true ∧
      targetsBusy fabric (opTargets fabric 9 [0, 1, 1000000]) = false) ∧
    (let hello : PartnerHello :=
       { version := 1, levels := 0, role := 0, degrade := true, feid := 0, rxDedicated := 0, rxShared := 0, lanes := 3 }
     let s := setPort (pset fabric .portCtrl 1 0 7 7 1) 1 { Port.init with partner := some hello }
     accepts s 1 = true ∧ recalCheck s 0 3 = stOk ∧ targetsBusy s (opTargets s 10 [0, 3]) = false) := by
  and_intros <;> decide +kernel

/-- A running operation. -/
def op (code total : Nat) : Op :=
  { code := code, params := [], state := 0, cancelReq := false, status := 0, check := 0, done := 0, total := total, result := [] }

theorem w_OperationsStepAndEnd :
    (let s : State := { up 4 with ops := [(63, op 3 1)], opUses := [(63, 1)] }
     accepts s 1 = true ∧ opOf s 127 = some (63, op 3 1) ∧ opOf s 63 = none ∧ running s = true ∧ 2 ≤ s.module.state ∧
     nextOp s = some (63, op 3 1) ∧ mapFind s.ops 63 = some (op 3 1)) ∧
    (let s : State := { up 4 with ops := [(0, op 2 1)], opUses := [(0, 1)] }
     accepts s 1 = true ∧ running s = true ∧ nextOp s = some (0, op 2 1) ∧ (op 2 1).code = 2 ∧ (op 2 1).total ≤ 1 ∧
     opOf s 64 = some (0, op 2 1)) ∧
    (let s : State := { up 4 with ops := [(0, { op 3 1 with state := 1 })], opUses := [(0, 1)] }
     (opOf s 64).isSome = true ∧ mapFind s.ops 0 = some { op 3 1 with state := 1 }) := by and_intros <;> decide +kernel

/-- Every stack and device of the Erg LIVE. -/
def erg3 (s : State) : State :=
  (upTo 26 4).foldl (fun s d => (upTo 0 3).foldl (fun s k => setUnit (setUnit s d 0x1A k .live) d 0x1B k .live) s) s

theorem w_DebugSessionsOpenAndEnd :
    (debugOpenCheck (up 4) 2 0xFFFFFFFF (List.replicate 320 0) = (stOk, 0) ∧ accepts (up 4) 1 = true ∧
      (up 4).sec.lifecycle ≠ 2) ∧
    (debugOpenCheck (erg3 (up 3)) 3 1 (List.replicate 320 0) = (stOk, 0) ∧ accepts (erg3 (up 3)) 1 = true) ∧
    (debugOpenCheck (up 4) 0 1 (List.replicate 320 0) = (stBadParam, 1) ∧ stBadParam ≠ stOk) ∧
    (let s := session2 (up 4)
     accepts s 1 = true ∧ s.sec.session.isSome = true ∧ onlyReports s (srcSecurity s.module.activeKd 0) = true) ∧
    (let s := session2 (up 4)
     let t : State := { s with sec := { s.sec with session := some { level := 3, dies := 1, lifetime := some 1 } } }
     2 ≤ t.module.state ∧ t.module.activeKd = 30 ∧ mapRising 0 t.dies = true ∧ mapRising 0 t.regs = true ∧
     onlyReports t (srcSecurity t.module.activeKd 0) = true ∧ acceptsInD3 t 1 = true ∧
     onlyReports (unpowerData t) (srcSecurity t.module.activeKd 0) = true) ∧
    ((up 4).sec.session = none ∧ accepts (up 4) 1 = true) := by and_intros <;> decide +kernel

theorem w_ZeroisationOpensTheSession :
    let s := up 3
    let t : State := { s with sec := { s.sec with zeroising := true }, cp := { s.cp with awaiting := [.d3 1 1 none] } }
    d3Waiting t.cp.awaiting = some (1, 1, none) ∧ running t = true ∧ t.sec.zeroising = true ∧
    (upTo 0 128).all (fun p => !portLive t p) = true ∧ mapRising 0 t.spindles = true := by decide +kernel

/-- The part in a debug session of level 2, spindle slot 15 of die 25 LIVE. -/
def debugged : State := setUnit (session2 (up 4)) 25 0x10 15 .live

theorem w_DebugCommandsAct :
    (accepts debugged 1 = true ∧ debugReaches debugged 2 25 = true ∧ spindleNamed 25 15 = true ∧
      spindleLive debugged (32 * 25 + 15) = true) ∧
    (0x300000 - 8192 + 8192 ≤ 0x300000 ∧ spindleMoves debugged (32 * 25 + 15) = false ∧
      (getSp debugged (32 * 25 + 15)).claims = []) ∧
    (let s := setBarchan debugged (32 * 25 + 15) 15 { Barchan.init with members := 0x8000000000000000 }
     (applyArrival s 25 (localIndex s (32 * 25 + 15)) 15 63).1 = 0 ∧
     (applyArrival s 25 (localIndex s (32 * 25 + 15)) 15 0).1 = 1) := by and_intros <;> decide +kernel

theorem ownHandle_hnd (r o : Nat) : ownHandle r o = word (hnd r o) := rfl

/-- The first 64 bytes of region 1 are backed by a LIVE channel and hold no uncorrectable block. -/
theorem pieceStatus_granule (r : Bool) : pieceStatus (erg26 debugged) 1 0 64 r = stOk := by
  obtain ⟨-, a, b, -⟩ := hnd_parts (r := 1) (o := 0) (by decide) (by decide)
  rw [pieceStatus, ownHandle_hnd]
  unfold rangeStatus backStatus ownerOf
  rw [a, b]
  revert r
  decide +kernel

theorem w_DebugCommandsAct_erg : ergNamed (hnd 1 0) = true ∧ accessPermitted (erg26 debugged) 1 0 (hnd 1 0) 64 = true ∧
    readStatus (erg26 debugged) (hndRegion (word (hnd 1 0))) (ergPieces (hnd 1 0) 64) = stOk ∧
    (writePieces (hndRegion (word (hnd 1 0))) (hndOffset (word (hnd 1 0))) (memWrite [] 0 (List.replicate 64 0))
      (ergPieces (hnd 1 0) 64) 0 (erg26 debugged)).1 = stOk := by
  obtain ⟨e, a, b, -⟩ := hnd_parts (r := 1) (o := 0) (by decide) (by decide)
  have n : ergNamed (hnd 1 0) = true := by simp [ergNamed, dataHandle, e, a]
  have q : ergPieces (hnd 1 0) 64 = [(0, 64)] := by rw [ergPieces, b]; decide +kernel
  have o : ergOwners (hnd 1 0) 64 = [26] := by rw [ergOwners, q]; decide +kernel
  rw [q, a, b]
  refine ⟨n, ?_, ?_, ?_⟩
  · simp only [accessPermitted, accessDies, n, o]
    decide +kernel
  · simp only [readStatus, List.map_cons, List.map_nil, pieceStatus_granule]
    decide
  · simp only [writePieces, pieceStatus_granule, ne_eq, not_true_eq_false, if_false]

/-! ### Security requests: the neutral point signs anything -/

/-- A multiple of the neutral point. -/
def neutral (p : EdPoint) : Prop := p.x = 0 ∧ p.y = p.z

theorem edAdd_neutral {p q : EdPoint} (hp : neutral p) (hq : neutral q) : neutral (edAdd p q) := by
  obtain ⟨px, py⟩ := hp
  obtain ⟨qx, qy⟩ := hq
  have pos : 0 < edP := by decide
  unfold neutral edAdd
  simp only [px, qx, py, qy, Nat.zero_mul, Nat.mul_zero, Nat.zero_mod, edSub, Nat.zero_add, Nat.add_zero, Nat.sub_zero,
    Nat.add_mod_right, Nat.mod_mod]
  refine ⟨?_, ?_⟩
  · simp
  · generalize p.z * q.z % edP = a
    rw [Nat.mod_mul_mod, Nat.mul_mod_mod, Nat.mul_right_comm]
    simp [Nat.mul_mod, Nat.mul_comm]

theorem edMul_neutral (n k : Nat) {p : EdPoint} (hp : neutral p) : neutral (edMul n k p) := by
  induction n generalizing k p with
  | zero => exact ⟨rfl, rfl⟩
  | succ n ih =>
    unfold edMul
    split
    · exact edAdd_neutral (ih _ (edAdd_neutral hp hp)) hp
    · exact ih _ (edAdd_neutral hp hp)

theorem edEq_neutral {p q : EdPoint} (hp : neutral p) (hq : neutral q) : edEq p q = true := by
  simp [edEq, hp.1, hq.1, hp.2, hq.2, Nat.mul_comm]

/-- The 57-byte encoding of the neutral point. -/
def neutralKey : List Byte := 1 :: List.replicate 56 0

theorem edVerify_neutral (m : List Byte) : edVerify neutralKey m (neutralKey ++ List.replicate 57 0) = true := by
  have d : edDecode neutralKey = some { x := 0, y := 1, z := 1 } := by decide +kernel
  have n : neutral { x := 0, y := 1, z := 1 } := ⟨rfl, rfl⟩
  have z : bytesNat (List.replicate 57 (0 : Byte)) = 0 := by decide +kernel
  have b : edMul 448 0 edBase = { x := 0, y := 1, z := 1 } := by decide +kernel
  have t : (neutralKey ++ List.replicate 57 (0 : Byte)).take 57 = neutralKey := by decide +kernel
  have u : (neutralKey ++ List.replicate 57 (0 : Byte)).drop 57 = List.replicate 57 0 := by decide +kernel
  unfold edVerify
  rw [t, u, d]
  simp only [z, b, Nat.mul_zero, Nat.zero_mod]
  rw [if_neg (by decide)]
  exact edEq_neutral n (edMul_neutral _ _ (edAdd_neutral n (edMul_neutral _ _ n)))

theorem bytesNat_natBytes (k n : Nat) : bytesNat (natBytes k n) = n % 256 ^ k := by
  induction k generalizing n with
  | zero => simp [natBytes, bytesNat, Nat.mod_one]
  | succ k ih =>
    have h : n % 256 ^ (k + 1) = n % 256 + 256 * (n / 256 % 256 ^ k) := by rw [Nat.pow_succ', Nat.mod_mul]
    rw [natBytes, bytesNat, ih, BitVec.toNat_ofNat, h]

/-- SEC_OBJECT holding a signed object whose signer and subject are the neutral point: the first word, the serial number,
LIFETIME and DIES, and the nonce of the part, zero. -/
def secRegs (w0 life dies : Word) : SMap Word :=
  [(0, w0), (1, Config.serial), (6, life), (7, dies), (8, 1), (16, 1), (24, 1)].map (fun e => (regAddr .secObject 30 0 e.1, e.2))
/-- The part with such an object, in a lifecycle state and with owner keys. -/
def secured (state lifecycle : Nat) (keys : List (KeyState × List Byte)) (w0 life dies : Word) : State :=
  { up state with
    regs := secRegs w0 life dies
    sec := { (up state).sec with lifecycle := lifecycle, keys := keys, nonce := List.replicate 32 0 } }

theorem objHere_secured (state lifecycle : Nat) (keys : List (KeyState × List Byte)) (w0 life dies : Word)
    (n : objSlice (secObject (secured state lifecycle keys w0 life dies)) 16 32 = List.replicate 32 0) :
    objHere (secured state lifecycle keys w0 life dies) (secObject (secured state lifecycle keys w0 life dies)) = true := by
  have h : ((secObject (secured state lifecycle keys w0 life dies)).drop 8).take 8 = natBytes 8 Config.serial.toNat := rfl
  have m : padTo 32 (secured state lifecycle keys w0 life dies).sec.nonce = List.replicate 32 0 := rfl
  rw [objHere, wordAt, h, bytesNat_natBytes, n, m]
  have l := Config.serial.isLt
  rw [Nat.mod_eq_of_lt (by simpa using l)]
  simp [word]

/-- What remains to be checked of a signed object: the neutral point signs. -/
theorem objSigned_neutral {o : List Byte} (a : objSigner o = neutralKey)
    (b : objSlice o 192 114 = neutralKey ++ List.replicate 57 0) : objSigned o = true := by
  rw [objSigned, a, b, edVerify_neutral]

theorem objSignerOk_neutral {s : State} {o : List Byte} (h : objSlot o = 0)
    (k : keySlot s 0 = (.active, hash64 neutralKey)) (a : objSigner o = neutralKey) : objSignerOk s o = true := by
  simp [objSignerOk, h, k, a]

/-- Two owner keys, the first the neutral point's. -/
def twoKeys : List (KeyState × List Byte) :=
  [(.active, hash64 neutralKey), (.active, []), (.empty, []), (.empty, [])]

theorem w_SecurityRequestsTakeEffect_add :
    (let s := secured 4 0 (List.replicate 4 (.empty, [])) (0xFF0210 + 3 * 2 ^ 32) 0 0
     accepts s 1 = true ∧ requestCheck s (secObject s) = (stOk, 0) ∧ objKind (secObject s) = 2) := by
  intro s
  refine ⟨by decide +kernel, ?_, by decide +kernel⟩
  have h : objHere s (secObject s) = true := objHere_secured _ _ _ _ _ _ (by decide +kernel)
  have g : objSigned (secObject s) = true := objSigned_neutral (by decide +kernel) (by decide +kernel)
  unfold requestCheck
  rw [h, g]
  decide +kernel

/-- The module state and first word of a request of each kind that a key of the module signs. -/
def requests : List (Nat × Word) := [(4, 0x100000310), (4, 0x410), (4, 0xFFFF000400000610), (1, 0x510)]
/-- The part with that request in SEC_OBJECT. -/
def requesting (q : Nat × Word) : State := secured q.1 1 twoKeys q.2 0 0

theorem w_SecurityRequestsTakeEffect : ∀ q ∈ requests,
    requestCheck (requesting q) (secObject (requesting q)) = (stOk, 0) := by
  intro q hq
  have n : ∀ q ∈ requests, objSlice (secObject (requesting q)) 16 32 = List.replicate 32 0 ∧
      objSigner (secObject (requesting q)) = neutralKey ∧
      objSlice (secObject (requesting q)) 192 114 = neutralKey ++ List.replicate 57 0 ∧
      objSlot (secObject (requesting q)) = 0 := by decide +kernel
  obtain ⟨n, a, b, c⟩ := n q hq
  unfold requestCheck
  rw [show objHere (requesting q) (secObject (requesting q)) = true from objHere_secured _ _ _ _ _ _ n,
    objSigned_neutral a b, objSignerOk_neutral c rfl a]
  clear n a b c
  revert q
  decide +kernel

theorem w_SecurityRequestsTakeEffect_accepted :
    requests.map (fun q => objKind (secObject (requesting q))) = [3, 4, 6, 5] ∧
    (accepts (requesting (4, 0x100000310)) 1 = true ∧ acceptsStandby (requesting (1, 0x510)) 1 = true) ∧
    requestCheck (up 4) (secObject (up 4)) = (stNotSupported, 1) ∧ (up 4).module.activeKd = 30 := by
  and_intros <;> decide +kernel

theorem w_DebugSessionsOpenAndEnd_deployed :
    let s := secured 4 2 twoKeys 0x300000110 1 1
    debugOpenCheck s 1 1 (secObject s) = (stOk, 0) ∧ s.sec.lifecycle = 2 ∧ (secObject s).length = 320 := by
  intro s
  have h : objHere s (secObject s) = true := objHere_secured _ _ _ _ _ _ (by decide +kernel)
  have a : objSigner (secObject s) = neutralKey := by decide +kernel
  have g : objSigned (secObject s) = true := objSigned_neutral a (by decide +kernel)
  have k : objSignerOk s (secObject s) = true := objSignerOk_neutral (by decide +kernel) rfl a
  refine ⟨?_, rfl, by decide +kernel⟩
  unfold debugOpenCheck
  rw [h, g, k]
  decide +kernel

/-- A write value and mask of DIE_REBOOT: GO, and a die. -/
def go (die : Nat) : Word := BitVec.ofNat 64 (0x100 + die)

theorem w_ForceFailsOverAndDiesReboot :
    (let s : State := { up 4 with module := { (up 4).module with standby := 2 } }
     let new := mergeWrite .failoverCtrl (rget s .failoverCtrl 30 0 0) 0x8000000000000000 0x8000000000000000
     accepts s 1 = true ∧ s.module.activeKd = 30 ∧ bit (0x8000000000000000 &&& 0x8000000000000000) 63 = true ∧
     mapRising 0 s.regs = true ∧ limitOk (bits new 31 0) = true ∧ s.module.standby = 2 ∧ s.sec.session = none) ∧
    ((up 4).module.standby ≠ 2 ∧ limitOk (bits (mergeWrite .failoverCtrl (rget (up 4) .failoverCtrl 30 0 0) 99 0xFFFFFFFF) 31 0) = false) ∧
    (bits ((go 31).toNat &&& (go 31).toNat) 4 0 = 31 ∧ bit ((go 31).toNat &&& (go 31).toNat) 8 = true ∧
      31 ≠ (up 4).module.activeKd ∧ (up 4).module.reboot = none ∧ opOnDie (up 4) 31 = false ∧ rebootHeld (up 4) 31 = false) ∧
    (bits ((go 30).toNat &&& (go 30).toNat) 4 0 = (up 4).module.activeKd) ∧
    (opOnDie fabric 0 = false ∧ rebootHeld fabric 0 = true ∧ rebootHeld (up 4) 29 = false) := by
  and_intros <;> decide +kernel

theorem w_UnitsAreReleasedAndErrNFollowsHold :
    (let s := setUnit (setUnit (up 4) 25 0x10 15 .contained) 29 0x1C 255 .contained
     accepts s 1 = true ∧ unitExists 25 0x10 15 = true ∧ (getDie s 25).contained = false ∧
     unitState s 25 0x10 15 = .contained ∧ bit (fget s .spindleMapStatus 25 0 0 16 0) 15 = false ∧
     unitExists 29 0x1C 255 = true ∧ (getDie s 29).contained = false ∧ unitState s 29 0x1C 255 = .contained ∧
     bits 0x10_00F_000000 42 36 = 0x10 ∧ bits 0x1000F000000 35 24 = 15) ∧
    unitExists 25 0x10 17 = false ∧
    (accepts (up 4) 1 = true ∧ mapRising 0 (up 4).regs = true ∧
      bits (mergeWrite .errCtrl (rget (up 4) .errCtrl 30 0 0) 10 0xffffff) 23 0 = 10 ∧
      bits (mergeWrite .errCtrl (rget (up 4) .errCtrl 30 0 0) 10000 0xffffff) 23 0 = 10000 ∧
      bits (mergeWrite .errCtrl (rget (up 4) .errCtrl 30 0 0) 9 0xffffff) 23 0 < 10 ∧
      10000 < bits (mergeWrite .errCtrl (rget (up 4) .errCtrl 30 0 0) 10001 0xffffff) 23 0) := by
  and_intros <;> decide +kernel

/-- Pool 255 enabled, with 2 bobbins of 4 KiB. -/
def pooled : State := rset (rset (up 4) .poolCount 29 255 0 2) .poolConfig 29 255 0 (2 ^ 63)

theorem w_ErgAndBarchanRegistersAreWritten :
    (let u := rset pooled .poolCount 29 255 0 (mergeWrite .poolCount (rget pooled .poolCount 29 255 0) 3 0x1fffff)
     accepts pooled 1 = true ∧ poolDie 255 = 29 ∧ fget u .poolConfig 29 255 0 62 61 ≠ 3 ∧ poolBase u 255 % poolSize u 255 = 0 ∧
     poolBase u 255 + poolCount u 255 * poolSize u 255 ≤ tierLimit u (fget u .poolConfig 29 255 0 60 60) ∧
     poolCount u 255 ≤ 2 ^ 20 ∧ poolEnabled pooled 255 = true ∧ poolFree pooled 255 = poolCount pooled 255 ∧
     mapRising 0 pooled.erg.pools = true ∧ mapRising 0 pooled.regs = true) ∧
    (let u := rset pooled .poolCount 29 255 0 (mergeWrite .poolCount (rget pooled .poolCount 29 255 0) 0x1fffff 0x1fffff)
     ¬ poolCount u 255 ≤ 2 ^ 20) ∧
    (poolFree (setPool pooled 255 [(0, ())]) 255 < poolCount (setPool pooled 255 [(0, ())]) 255) ∧
    ((getBarchan (getSp (up 4) (32 * 25 + 16)) 15).cur = 0 ∧ (getBarchan (getSp (up 4) (32 * 25 + 16)) 15).next = 0 ∧
      (getBarchan (getSp (setBarchan (up 4) (32 * 25 + 16) 15 { Barchan.init with cur := 1 }) (32 * 25 + 16)) 15).cur ≠ 0) ∧
    (bits (mergeWrite .pageQuery (rget (up 4) .pageQuery 29 0 0) 49151 0xffff) 15 0 < 49152 ∧
      49152 ≤ bits (mergeWrite .pageQuery (rget (up 4) .pageQuery 29 0 0) 49152 0xffff) 15 0) ∧
    (let new := mergeWrite .replRangeBase (rget (up 4) .replRangeBase 29 0 15) 4096 0xffffffffff
     bits new 39 0 % 4096 = 0 ∧ rangeOverlaps (rset (up 4) .replRangeBase 29 0 15 new) 29 15 = false ∧
     fget (up 4) .replRangeSeq 29 0 15 31 0 = 0) ∧
    (bits (mergeWrite .replRangeBase (rget (up 4) .replRangeBase 29 0 15) 4095 0xffffffffff) 39 0 % 4096 ≠ 0) ∧
    (fget (fset (up 4) .replRangeSeq 29 0 15 31 0 1) .replRangeSeq 29 0 15 31 0 ≠ 0) ∧
    (let new := mergeWrite .replRangeCtrl (rget (up 4) .replRangeCtrl 29 0 15) (2 ^ 63 + 2 ^ 52) (2 ^ 63 + 0xf * 2 ^ 52)
     bits (2 ^ 63 + 0xf * 2 ^ 52) 55 52 ≠ 0 ∧ bits new 55 52 = 1 ∧ bits (2 ^ 63 + 0xf * 2 ^ 52) 19 0 = 0 ∧
     rangeOverlaps (rset (up 4) .replRangeCtrl 29 0 15 new) 29 15 = false ∧
     bit ((2 ^ 63 + 2 ^ 52) &&& (2 ^ 63 + 0xf * 2 ^ 52)) 63 = true) := by and_intros <;> decide +kernel

theorem w_PortsAreControlled :
    (accepts fabric 1 = true ∧ mapRising 0 fabric.regs = true ∧ portUp fabric 0 = true ∧ portUp fabric 15 = false ∧
      bit (rget fabric .edgeRole 0 0 0) 0 ≠ bit (mergeWrite .edgeRole (rget fabric .edgeRole 0 0 0) 1 1) 0 ∧
      bit (rget fabric .edgeRole 0 0 0) 0 = bit (mergeWrite .edgeRole (rget fabric .edgeRole 0 0 0) 0x8000 0x8000) 0) ∧
    (let old := rget fabric .portCtrl 0 0 0
     let w (v m : Nat) := mergeWrite .portCtrl old v m
     bits (w 3 3) 1 0 = 3 ∧ bits (w 2 3) 1 0 ≠ 3 ∧ bits old 5 4 = bits (w 2 3) 5 4 ∧ bits old 5 4 ≠ 0 ∧
     bits (w 0 0x30) 5 4 = 0 ∧ bits (w 0x10 0x30) 5 4 ≠ bits old 5 4 ∧ bits (w 0x10 0x30) 5 4 ≠ 0) ∧
    (let s := fset fabric .portCtrl 0 0 0 5 4 0
     mapRising 0 s.regs = true ∧ bits (rget s .portCtrl 0 0 0) 5 4 = 0 ∧
     bits (mergeWrite .portCtrl (rget s .portCtrl 0 0 0) 0x30 0x30) 5 4 ≠ 0) := by and_intros <;> decide +kernel

/-- Word 3 of a frame: its check value, and its reserved bits 0. -/
def check3 (w0 w1 w2 : Word) (payload : List Byte) : Word := (cpCrc w0 w1 w2 0 payload).setWidth 64

theorem cpIntact_check3 (w0 w1 w2 : Word) (payload : List Byte) (h : payload.length = cpLength w0) :
    cpIntact w0 w1 w2 (check3 w0 w1 w2 payload) payload = true := by
  have z : ∀ c : BitVec 32, setBits (c.setWidth 64) 31 0 0 = setBits 0 31 0 0 := by
    intro c
    have l := c.isLt
    simp only [setBits, bits, BitVec.toNat_setWidth, Nat.shiftRight_zero, Nat.pow_zero, Nat.mul_one]
    congr 1
    simp
    omega
  have e : ∀ c : BitVec 32, (c.setWidth 64).extractLsb' 0 32 = c := by
    intro c
    apply BitVec.eq_of_toNat_eq
    simp [BitVec.extractLsb'_toNat]
    omega
  simp only [cpIntact, h, BEq.rfl, Bool.true_and, check3, e]
  simp only [cpCrc, z, BEq.rfl]

theorem w_CommandAndBulkFramesArrive :
    (let w2 : Word := 0x7000000001
     let w3 := check3 0x110 0 w2 []
     listens (up 4) = true ∧ cpIntact 0x110 0 w2 w3 [] = true ∧ noInjection (up 4) (srcControlPort 30 2) = true ∧
     (0 : Word).extractLsb' 0 32 = (up 4).cp.rxNext ∧ cpType 0x110 = 1 ∧ wbits 0x110 7 0 = 0x10 ∧ wbit w2 48 = false ∧
     wbits w2 47 32 = 0x70 ∧ 6 ≤ (up 4).module.phase) ∧
    (cpIntact 0x111 0 0x7000000001 (check3 0x111 0 0x7000000001 []) [] = true ∧ wbits 0x111 7 0 ≠ 0x10) ∧
    (let w2 : Word := 0x1007000000001
     let s : State := { up 4 with cp := { (up 4).cp with remembered := [{ tag := 1, opcode := 0x70, done := some (0, []) }] } }
     cpIntact 0x110 0 w2 (check3 0x110 0 w2 []) [] = true ∧ wbit w2 48 = true ∧
     findRemembered s 1 = some { tag := 1, opcode := 0x70, done := some (0, []) }) ∧
    (cpIntact 0x110 0 0x7000000001 0 [] = false ∧ onlyReports (up 4) (srcControlPort 30 2) = true ∧
      mapRising 0 (up 4).regs = true) ∧
    (cpIntact 0x110 1 0x7000000001 (check3 0x110 1 0x7000000001 []) [] = true ∧
      (1 : Word).extractLsb' 0 32 ≠ (up 4).cp.rxNext ∧ (up 4).cp.unacked = []) ∧
    (let w2 : Word := 0x7FFFFFF_0000000F
     cpIntact 0x10410 0 w2 (check3 0x10410 0 w2 [1]) [1] = true ∧ cpType 0x10410 = 4 ∧ wbits w2 63 32 + 1 = 2 ^ 27 ∧
     bufferLocked (up 4) 15 = false ∧ (up 4).module.state ≠ 1) ∧
    (2 ^ 27 < wbits 0x8000000_0000000F 63 32 + 1) := by and_intros <;> decide +kernel

theorem w_CommandAndBulkFramesArrive_row : (0x70, ([] : List Nat), Instr.infoRead 1) ∈ framesOf 1 0 0 0 0 := by
  simp [framesOf]

/-- A HELLO of the control port that Holmon accepts, whose sender accepts Holmon's. -/
def helloBytes : List Byte := wordsBytes [0x210, 0x00400010, 0, 0]

theorem w_LinkFramesBringTheLinkUp :
    (running (up 4) = true ∧ noInjection (up 4) (srcControlPort 30 2) = true ∧
      cpIntact 0x510 0 4 (check3 0x510 0 4 []) [] = true ∧ cpType 0x510 = 5 ∧ wbits 4 3 0 = 4) ∧
    (let w0 : Word := 0x200510
     helloBytes.length = 32 ∧ helloBytes.length = cpLength w0 ∧ helloRefused helloBytes = false ∧
     wbit (wordAt helloBytes 0) 17 = false ∧ helloRefused (wordsBytes [0x211, 0, 0, 0]) = true) ∧
    (cpIntact 0x510 0 2 (check3 0x510 0 2 []) [] = true ∧ cpUp (up 4) = true ∧
      cpIntact 0x510 0xFFFFFFFF00000000 3 (check3 0x510 0xFFFFFFFF00000000 3 []) [] = true) := by
  and_intros <;> decide +kernel

theorem w_LinkFramesBringTheLinkUp_hello :
    cpIntact 0x200510 0 1 (check3 0x200510 0 1 helloBytes) helloBytes = true :=
  cpIntact_check3 _ _ _ _ (by decide +kernel)

/-- A frame that waits for its acknowledgement. -/
def sent : BitVec 32 × CpMsg × Nat := (0, { type := 3, tag := 0, opcode := 0, status := 0, payload := [] }, 14)

theorem w_TheControlLinkRestartsAndCommandsTimeOut :
    (let s : State := { up 4 with cp := { (up 4).cp with unacked := [sent] } }
     running s = true ∧ s.cp.step = 4 ∧ s.cp.unacked ≠ [] ∧ s.cp.unacked.all (fun e => decide (e.2.2 < 15)) = true ∧
     s.cp.unacked.any (fun e => e.1 == 0xFFFFFFFF) = false ∧
     onlyReports s (srcControlPort 30 1) = true ∧ onlyReports s (srcControlPort 30 0) = true ∧ mapRising 0 s.regs = true) ∧
    (let s : State := { up 4 with cp := { (up 4).cp with awaiting := [.steward 1 0x10 10 none] } }
     running s = true ∧ stewardWaits 1 s.cp.awaiting = some 0x10 ∧ stewardWaits 2 s.cp.awaiting = none) := by
  and_intros <;> decide +kernel

/-! ### Faults, watchdogs, power -/

/-- A source and its severity set. -/
def severity (s : State) (id sev : Nat) : State := fset s .faultSource (id / 2048) 0 (id % 2048) 2 0 sev

theorem w_EventsActBySeverity :
    (upTo 0 6).all (fun sev => fget (severity (up 4) (srcPort 0 0) sev) .faultSource 0 0 (srcPort 0 0 % 2048) 2 0 == sev) = true ∧
    alreadyContained (setUnit (severity (up 4) (srcPort 0 0) 3) 0 0x01 0 .contained) (srcPort 0 0) = true ∧
    mapFind (up 4).windows 0 = none ∧
    (let r : FaultRec := { severity := 2, injected := false, action := 0, source := 0, seq := 0, address := 0,
                           suppressed := 0, cycle := 0, detail := [] }
     let s : State := { up 4 with windows := [(0, { count := 1, last := some r }), (1, { count := 0, last := none })] }
     running s = true ∧ mapFind s.windows 0 = some { count := 1, last := some r } ∧
     mapFind s.windows 1 = some { count := 0, last := none }) ∧
    (let s : State := { up 4 with module := { (up 4).module with pulse := true } }
     running s = true ∧ s.module.pulse = true ∧ s.module.phase ≠ 0 ∧ (up 4).module.pulse = false) := by
  and_intros <;> decide +kernel

/-- Engine 3 of slot 15 of die 25 set, in a LIVE spindle. -/
def withEngine (e : Engine) : State := setEng (setUnit (up 4) 25 0x10 15 .live) (32 * 25 + 15) 3 e

theorem w_WatchdogsExpireOncePerEpisode :
    (let s := withEngine { Engine.init with state := .waiting }
     let e := getEng s (32 * 25 + 15) 3
     running s = true ∧ watchdogCounts e = true ∧ e.wdRaised = false ∧ engineClocked s (32 * 25 + 15) = true ∧
     eget (eset s .watchdogCtrl (32 * 25 + 15) 3 0 31 0 1) .watchdogCtrl (32 * 25 + 15) 3 0 31 0 ≠ 0) ∧
    ((getDie (up 4) 31).powered = true ∧ (getDie (up 4) 31).hung = false) ∧
    ((up 4).episodes.contains 0 = false ∧ (up 4).episodes.contains 1 = false ∧ 31 ≠ (up 4).module.activeKd) ∧
    ({ up 4 with episodes := [0, 1] } : State).episodes.contains 1 = true ∧
    (let s := session2 { up 4 with module := { (up 4).module with standby := 2 } }
     s.module.standby = 2 ∧ onlyReports s (srcSecurity 31 0) = true ∧ onlyReports s (srcDistaff 30 0) = true ∧
     mapRising 0 s.regs = true ∧ debugLevel s < 3) ∧ (up 4).module.standby ≠ 2 := by and_intros <;> decide +kernel

theorem w_PinsAndPowerResetThePart :
    (up 4).module.inputOk = true ∧ (up 4).module.pwrEn = true ∧ (up 4).module.tripFlag = false ∧ (up 4).module.held = false ∧
    ({ (up 4).module with offPending := true } : Module).offPending = true ∧
    ({ (up 4).module with held := true } : Module).held = true ∧
    ({ (up 4).module with pwrEn := false } : Module).rstN = true ∧
    ({ (up 4).module with pwrEn := false, rstN := false } : Module).inputOk = true ∧
    ({ (up 4).module with inputOk := false } : Module).pwrEn = true := by and_intros <;> decide +kernel

/-- Bring-up in a phase. -/
def bringing (phase : Nat) : State := { State.reset with module := { State.reset.module with phase := phase } }

theorem w_BringUpAndRebootsEnd :
    (upTo 0 6).all (fun k => bringingUp (bringing k)) = true ∧
    ((loaderRun (bringing 1) 30 (getBoot (bringing 1) 30)).2 = 0 ∧
      (loaderRun (bringing 1) 30 (getBoot (bringing 1) 30)).1.running.isSome = true) ∧
    ((getDie (bringing 3) 29).contained = false ∧ mapRising 0 (bringing 5).regs = true ∧ mapRising 0 (bringing 5).units = true ∧
      (upTo 0 128).all (fun p => decide (pget (bringing 5) .portStatus p 0 1 0 ≠ 2)) = true ∧
      passed (bringing 5) 7 0x01 15 = true ∧ passed (bringing 5) 9 0x08 0 = true) ∧
    ((rebootNext 25 2).isSome = true ∧ (rebootNext 31 1).isNone = true ∧ (rebootNext 0 6).isNone = true ∧
      mapRising 0 (up 4).dies = true ∧ (up 4).module.reboot = none ∧ (up 4).module.standby ≠ 1) ∧
    (let s : State := { up 4 with module := { (up 4).module with standby := 1 } }
     running s = true ∧ (getDie s 31).contained = false) ∧
    (let s : State := { up 4 with
       module := { (up 4).module with standby := 1 },
       dies := mapPut (up 4).dies Die.init 31 { getDie (up 4) 31 with contained := true } }
     (getDie s 31).contained = true ∧ mapRising 0 s.dies = true ∧ (loaderRun s 31 (getBoot s 31)).2 = 0 ∧
     (loaderRun s 31 (getBoot s 31)).1.running.isSome = true) := by and_intros <;> decide +kernel

theorem w_TemperatureAndClocks :
    (running (up 4) = true ∧ (getDie (up 4) 31).powered = true ∧ (getDie (up 4) 31).relock = none ∧
      (getDie (up 4) 25).powered = true) ∧
    (let warn := fget (up 4) .thermalCtrl 25 0 0 7 0
     let tripC := fget (up 4) .thermalCtrl 25 0 0 15 8
     fget (up 4) .thermalStatus 25 0 0 16 16 ≠ 1 ∧ warn < tripC ∧ (-1 : Int) < (8 * warn : Nat) ∧
     8 * tripC < 2 ^ 15 ∧ (8 * warn : Nat) < (8 * tripC : Nat) ∧ 8 * ((warn : Int) - 5) + 1 < (8 * warn : Nat)) ∧
    fget (fset (up 4) .thermalStatus 25 0 0 16 16 1) .thermalStatus 25 0 0 16 16 = 1 ∧
    (let s : State := { up 4 with
       dies := mapPut (up 4).dies Die.init 25 { getDie (up 4) 25 with relock := some 800 },
       cp := { (up 4).cp with awaiting := [.relock 1 25] } }
     running s = true ∧ (getDie s 25).powered = true ∧ (getDie s 25).relock = some 800 ∧ s.cp.awaiting = [.relock 1 25] ∧
     mapRising 0 s.regs = true) := by and_intros <;> decide +kernel

/-! ### The fabric -/

/-- A header of a kind and a destination; TAG and AUX 0, no payload. -/
def hdr (kind dst : Nat) : Header := { w0 := word (0x10 + kind * 2 ^ 8 + dst * 2 ^ 32), w1 := 0, w2 := 0, w3 := 0, w4 := 0, w5 := 0, w6 := 0, w7 := 0 }

/-- `fabric` with port 0 set. -/
def withPort (q : Port) : State := setPort fabric 0 q
/-- A frame open on a VC, of one flit. -/
def rx (vc : Nat) : RxFrame := openFrame Port.init (word (1 + vc * 2 ^ 4 + 2 ^ 32))

theorem w_FramesAreReceived :
    (portUp (withPort (getPort fabric 0)) 0 = true ∧ wbits 0x100000001 27 16 = (getPort fabric 0).rxSeq ∧
      (getPort fabric 0).rxFrame = none ∧ 1 ≤ wbits 0x100000001 38 32 ∧ 65 < wbits 0x4200000001 38 32) ∧
    (let s := withPort { getPort fabric 0 with rxFrame := some (rx 14) }
     portUp s 0 = true ∧ (getPort s 0).rxFrame = some (rx 14) ∧ (rx 14).hdr = none ∧ (rx 14).resumed = false ∧ 14 ≤ (rx 14).vc) ∧
    ((kindRow (hKind (hdr 0x11 0))).any (fun r => r.cls != (rx 13).vc / 2) = true) ∧
    ((kindRow (hKind (hdr 0x11 0))).all (fun r => r.cls == (rx 2).vc / 2) = true ∧ hOrd (hdr 0x11 0) = false ∧
      pget fabric .sampleCtrl 0 0 32 32 = 0 ∧
      headerCheck fabric 0 (edgeHeader fabric 0 (hdr 0x11 0)) 2 = some 2 ∧
      headerCheck fabric 0 (edgeHeader fabric 0 (hdr 0x11 0)) 1 = none) ∧
    (let f := { rx 2 with hdr := some (hdr 0x11 0), uid := some 1 }
     let w := word (2 + (frameCrc f.word (hBytes (hdr 0x11 0))).toNat * 2 ^ 32)
     wbits w 27 16 = f.seq ∧ 64 * (f.flits - 1) = 0 ∧ (frameCrc f.word (hBytes (hdr 0x11 0) ++ [])).toNat = wbits w 63 32 ∧
     f.sample = false ∧ f.left = false) := by and_intros <;> decide +kernel

/-- A GET staged for a port. -/
def staged1 : Pkt := { mkPkt 1 0 (hdr 0x11 0) [] with vc := 2, flits := 1 }
/-- `fabric` with that packet staged at port 0 and credit for it. -/
def staging : State := withPort { getPort fabric 0 with stage := [(0, staged1)], credShared := 1 }
/-- A frame that waits for its acknowledgement. -/
def tx : TxFrame := { seq := 4095, pkt := staged1, shared := 1, resent := 0, sample := false }

theorem w_FramesAreSentAndCreditsReturned :
    (portUp staging 0 = true ∧ (egressChoice staging 0).isSome = true ∧ pget staging .sampleCtrl 0 1 32 32 = 0 ∧
      egressChoice fabric 0 = none ∧ staged1.bad = false) ∧
    (let s := withPort { getPort staging 0 with stage := [(0, { staged1 with hdr := hdr 0x50 0, vc := 10 })] }
     caravanChoice s (getPort s 0) = none ∧ (priorityChoice (getPort s 0)).isSome = true ∧ (getPort s 0).run < 15) ∧
    (let c : Caravan := { ingress := 1, egress := 0, rate := 1, feidLo := 0, feidHi := 0xFFFFE }
     let s : State := { withPort { getPort staging 0 with stage := [(0, { staged1 with vc := 12, caravan := some 0 })] } with
       caravans := [(0, c)] }
     (caravanChoice s (getPort s 0)).isSome = true) ∧
    (let s := withPort { getPort fabric 0 with replay := [tx] }
     portUp s 0 = true ∧ (getPort s 0).replay = [] ++ tx :: [] ∧ wbits 0xFFF0004 27 16 = tx.seq ∧
     tx.resent < max 1 (pget s .portCtrl 0 0 39 32) ∧ max 1 (pget s .portCtrl 0 0 39 32) ≤ 255 ∧
     mapRising 0 s.ports = true ∧ mapRising 0 (getPort s 0).tokens = true) ∧
    (wbit 0x100 8 = true ∧ wbit 0x20 8 = false) ∧
    (let s := withPort { getPort staging 0 with credShared := 0 }
     pget (pset s .portCtrl 0 0 31 16 1) .portCtrl 0 0 31 16 ≠ 0 ∧ vcStalled (getPort s 0) 2 = true ∧
     (getPort s 0).stallRaised.contains 2 = false ∧ vcStalled (getPort s 0) 13 = false) := by and_intros <;> decide +kernel

/-- A HELLO word of a partner that allows one lane: VERSION 1.0, levels, an edge partner's role, 65 dedicated credits. -/
def helloWord (role : Nat) : Word := word (7 + 0x10 * 2 ^ 4 + 2 * 2 ^ 12 + role * 2 ^ 16 + 2 ^ 17 + 65 * 2 ^ 38 + 2 * 2 ^ 57)
/-- `fabric` with port 0 in a training phase, its lane 0 equalised and aligned. -/
def training (phase : Nat) : State :=
  withPort { getPort fabric 0 with phase := phase, equalised := if phase = 1 then 0 else 1, aligned := if phase = 3 then 1 else 0 }

theorem w_PortsTrain :
    (let s := training 1
     (getPort s 0).phase = 1 ∧ (usableLanes s 0).testBit 1 = true ∧ (getPort s 0).aligned = 0 ∧ 6 ≤ s.module.phase ∧
     (getPort s 0).equalised.toNat &&& usableLanes s 0 = 0) ∧
    (let s := training 2
     (getPort s 0).phase = 2 ∧ (getPort s 0).equalised.getLsbD 0 = true ∧
     (getPort s 0).aligned.toNat &&& ((getPort s 0).equalised.toNat &&& usableLanes s 0) = 0) ∧
    (let s := training 3
     let noted (h : PartnerHello) := rset (pset s .portStatus 0 0 16 16 h.role) .partnerInfo 0 0 0
       (h.feid + b2n h.degrade * 2 ^ 32 + h.rxDedicated * 2 ^ 33 + h.rxShared * 2 ^ 40)
     (getPort s 0).phase = 3 ∧ (helloCause (noted (partnerOf 7)) 0 (partnerOf 7)).isSome = true ∧
     helloCause (noted (partnerOf (helloWord 1))) 0 (partnerOf (helloWord 1)) = none ∧
     layout (noted (partnerOf (helloWord 1))) 0 (partnerOf (helloWord 1)) ≠ 0 ∧ mapRising 0 s.regs = true) ∧
    (let s := pset (training 3) .portCtrl 0 0 7 7 0
     layout (rset (pset s .portStatus 0 0 16 16 1) .partnerInfo 0 0 0 (2 ^ 32 + 65 * 2 ^ 33)) 0 (partnerOf (helloWord 1)) = 0) ∧
    ((getPort (training 5) 0).phase = 5 ∧ portLive (training 5) 0 = true ∧ usableLanes (training 5) 0 ≠ 0) := by
  and_intros <;> decide +kernel

/-- `fabric` with both lanes of port 0 active. -/
def lanes2 : State := pset fabric .portStatus 0 0 19 18 3
/-- A partner that allows one lane. -/
def degradable : PartnerHello :=
  { version := 0x10, levels := 2, role := 1, degrade := true, feid := 0, rxDedicated := 65, rxShared := 0, lanes := 2 }

theorem w_LanesDropAndRejoin :
    (portUp lanes2 0 = true ∧ fget (fset lanes2 .laneCtrl 0 (dieLane 0 1) 0 15 0 0) .laneCtrl 0 (dieLane 0 1) 0 15 0 = 0) ∧
    (let s := setPort (pset (fset lanes2 .laneCtrl 0 (dieLane 0 1) 0 15 0 1) .portCtrl 0 0 7 7 1) 0
       { getPort lanes2 0 with partner := some degradable }
     portUp s 0 = true ∧ fget s .laneCtrl 0 (dieLane 0 1) 0 15 0 ≠ 0 ∧ pget s .portStatus 0 0 19 18 = 3 ∧ mayDegrade s 0 = true ∧
     mayDegrade lanes2 0 = false ∧ (getPort s 0).dropping = none ∧ ownLane s 0 0x18 = 1) ∧
    (let s := pset (setPort lanes2 0 { getPort lanes2 0 with partner := some degradable }) .portStatus 0 0 19 18 1
     portUp s 0 = true ∧ pget s .portStatus 0 0 19 18 = 2 - 1 ∧ wbit 0x1A 5 = false ∧ (usableLanes s 0).testBit 1 = true ∧
     (getPort s 0).partner.any (fun h => h.lanes == 2) = true ∧ (getPort s 0).recal = none) ∧
    (let s := setPort lanes2 0 { getPort lanes2 0 with recal := some (1, 1), dropping := some 0 }
     (getPort s 0).recal = some (1, 1) ∧ Nat.testBit 1 0 = true ∧ Nat.testBit 1 2 = false ∧ (getPort s 0).dropping = some (1 - 1)) := by
  and_intros <;> decide +kernel

/-- A packet that waits at port 0 for a fetch. -/
def waiter (stage : Nat) (lost : Bool) : Waiter :=
  { pkt := { mkPkt 1 0 (hdr 0x14 0) [] with inPort := some 0, vc := 2 }, stage := stage, rank := 0, gen := 0, lost := lost }
/-- `fabric` with that packet at port die 0. -/
def waiting (stage : Nat) : State := setPortDie fabric 0 { PortDie.init with waiting := [waiter stage false] }

/-- With every stack of every Erg die LIVE. -/
@[irreducible] def stacked : State :=
  let die (d : Nat) : SMap UnitState := (unitKey d 0x00 0, .live) :: (upTo 0 32).map (fun c => (unitKey d 0x19 c, .live))
  let s := waiting 1
  { s with units := s.units ++ (upTo 26 4).flatMap die }
/-- With memory that holds at `a` the directory entry of a job with one rank, at generation 0 and offset 0. -/
def ranked (a : Nat) : State := { stacked with erg := { stacked.erg with mem := memWrite [] a [0, 1] } }

theorem stacked_live : ∀ d < 4, ∀ c < 32, channelLive stacked (26 + d) c = true ∧
    noInjection stacked (srcChannel (26 + d) c 0) = true ∧ noInjection stacked (srcChannel (26 + d) c 1) = true := by
  decide +kernel

theorem directoryUnit_lt : directoryUnit < 2 ^ 21 := by
  have r : rankBase < mgmtUnits - rankSpan + 1 := Nat.mod_lt _ (Nat.succ_pos _)
  have h : Config.directoryPlace % (mgmtUnits - rankSpan - 15) < mgmtUnits - rankSpan - 15 := Nat.mod_lt _ (by decide +kernel)
  have a : mgmtUnits = 2097152 := rfl
  have b : rankSpan = 524288 := rfl
  unfold directoryUnit
  dsimp only
  generalize Config.directoryPlace % (mgmtUnits - rankSpan - 15) = k at *
  generalize rankBase = z at *
  rw [a, b] at *
  split <;> omega

/-- A byte of the management area lies in a stack. -/
theorem mgmt_place {s : State} (g : s.erg.pageMap = []) {o : Nat} (h : o < 2 ^ 33) :
    ∃ d c, d < 4 ∧ c < 32 ∧ addrDieCh (mgmtAddr s o) = (26 + d, c) := by
  have l : bits o 13 12 < 4 := Nat.mod_lt _ (by decide)
  have p : pageHome s (26 + bits o 13 12) 0 (48128 + pageOf o) = defaultHome 0 (48128 + pageOf o) := by
    simp [pageHome, g, mapFind]
  have w : withinOf o < 2097152 := by simp only [withinOf]; omega
  have m : pageOf o < 1024 := by simp only [pageOf]; omega
  have u : mgmtAddr s o = chanKey (26 + bits o 13 12) (defaultHome 0 (48128 + pageOf o) / 8192) * 8589934592
      + defaultHome 0 (48128 + pageOf o) % 8192 * 2097152 + withinOf o := by
    simp only [mgmtAddr, pageAddr, p]
    rfl
  have q : defaultHome 0 (48128 + pageOf o) / 8192 = (48128 + pageOf o) % 32 := by
    simp only [defaultHome, if_true]; omega
  have r : defaultHome 0 (48128 + pageOf o) % 8192 < 4096 := by
    have h : (48128 + pageOf o) / 32 < 4096 := by omega
    simp only [defaultHome, if_true]
    generalize (48128 + pageOf o) / 32 = v at *
    omega
  rw [u, q]
  generalize defaultHome 0 (48128 + pageOf o) % 8192 = y at *
  generalize withinOf o = z at *
  refine ⟨bits o 13 12, (48128 + pageOf o) % 32, l, by omega, ?_⟩
  have hc : (48128 + pageOf o) % 32 < 32 := by omega
  generalize (48128 + pageOf o) % 32 = c at *
  generalize bits o 13 12 = b at *
  have v : (chanKey (26 + b) c * 8589934592 + y * 2097152 + z) / 8589934592 = 44 * b + c := by
    simp only [chanKey]; omega
  simp only [addrDieCh, Prod.mk.injEq]
  show 26 + _ / 8589934592 / 44 = _ ∧ _ / 8589934592 % 44 = _
  rw [v]
  omega

theorem takeInjection_none {s : State} {id : Nat} (h : noInjection s id = true) : takeInjection s id = (false, s) := by
  simp only [noInjection, beq_iff_eq] at h
  simp only [takeInjection, h, if_true]

theorem noInjection_regs {s t : State} (h : s.regs = t.regs) (id : Nat) : noInjection s id = noInjection t id := by
  simp only [noInjection, fget, rget, h]

theorem eccCheck_quiet {s t : State} {a die ch : Nat} (r : s.regs = t.regs) (e : addrDieCh a = (die, ch))
    (x : noInjection t (srcChannel die ch 0) = true) (y : noInjection t (srcChannel die ch 1) = true) : eccCheck s a = s := by
  rw [← noInjection_regs r] at x y
  have h : injected s (srcChannel die ch 0) [] = (false, s) := by rw [injected, takeInjection_none x]
  rw [eccCheck, e]
  simp only [h, Bool.false_eq_true, if_false]
  rw [takeInjection_none y]

theorem memRead_one {a : Nat} (v : Byte) (n : Nat) (h : v ≠ 0) :
    memRead (memWrite [] a [0, v]) a (n + 2) = 0 :: v :: List.replicate n 0 := by
  have e : memWrite [] a [0, v] = [(a + 1, v)] := by
    simp only [memWrite, mapPut, mapDel, mapIns, if_true, if_neg h]
  have t : ∀ n b, a + 1 < b → memRead [(a + 1, v)] b n = List.replicate n 0 := by
    intro n
    induction n with
    | zero => intro b _; rfl
    | succ n ih =>
      intro b hb
      rw [memRead, ih _ (by omega)]
      simp [memByte, mapGet, List.replicate_succ]
      omega
  rw [e, memRead, memRead, t _ _ (by omega)]
  simp [memByte, mapGet]

/-- A directory entry of one rank at generation 0 and offset 0, where the directory of such a memory stands. -/
theorem directory_one {s : State} {a : Nat} (m : s.erg.mem = memWrite [] a [0, 1]) (d : directoryAddr s 0 = a) :
    rankCount s 0 = 1 ∧ jobGeneration s 0 = 0 ∧ rankAddr s 0 0 = mgmtAddr s 0 := by
  have e : directoryNum s 0 = 256 := by
    rw [directoryNum, d, m, memRead_one 1 14 (by decide)]
    decide +kernel
  simp only [rankCount, jobGeneration, rankAddr, tableOffset, e]
  exact ⟨by decide, by decide, by simp [bits]⟩

/-- In a state with the stacks LIVE a byte of the management area is backed, and its check finds nothing. -/
theorem stacked_quiet {s : State} (r : s.regs = stacked.regs) (u : s.units = stacked.units) (d : s.dies = stacked.dies)
    (g : s.erg.pageMap = []) {o : Nat} (h : o < 2 ^ 33) :
    eccCheck s (mgmtAddr s o) = s ∧ backed s (mgmtAddr s o) = true := by
  obtain ⟨m, c, hm, hc, e⟩ := mgmt_place g h
  have l := stacked_live m hm c hc
  refine ⟨eccCheck_quiet r e l.2.1 l.2.2, ?_⟩
  rw [backed, e]
  have q : ∀ k i j, unitLive s k i j = unitLive stacked k i j := fun k i j => by
    simp only [unitLive, unitState, getDie, u, d]
  simpa only [channelLive, ergLive, q] using l.1

/-- A fetch of rank 0 of that job finds its entry. -/
theorem ranked_fetch {s : State} {a : Nat} (m : s.erg.mem = memWrite [] a [0, 1]) (e : directoryAddr s 0 = a)
    (r : s.regs = stacked.regs) (u : s.units = stacked.units) (d : s.dies = stacked.dies)
    (g : s.erg.pageMap = []) (b : s.erg.bad = []) :
    let f := eccCheck (eccCheck s (directoryAddr s 0)) (rankAddr s 0 0)
    0 < rankCount f 0 ∧ rankReadable f 0 0 = true ∧ jobGeneration f 0 = 0 := by
  obtain ⟨n, j, z⟩ := directory_one m e
  have l := directoryUnit_lt
  have x := stacked_quiet r u d g (o := 4096 * directoryUnit + 16 * 0) (by omega)
  have y := stacked_quiet r u d g (o := 0) (by omega)
  have w : directoryAddr s 0 = mgmtAddr s (4096 * directoryUnit + 16 * 0) := rfl
  simp only [z, w, x.1, y.1, n, j]
  simp only [rankReadable, z, w, x.2, y.2, anyBad, b]
  exact ⟨Nat.one_pos, rfl, trivial⟩

theorem directoryAddr_eq {s t : State} (h : s.erg.pageMap = t.erg.pageMap) (j : Nat) : directoryAddr s j = directoryAddr t j := by
  simp only [directoryAddr, mgmtAddr, pageAddr, pageHome, h]

theorem w_FetchesReturnToTheirPackets_rank (a : Nat) (h : a = directoryAddr stacked 0) :
    let s := ranked a
    let rest := modPortDie s 0 (fun x => { x with waiting := removeFirst (waitsOn 0 2) x.waiting })
    let f := eccCheck (eccCheck rest (directoryAddr rest 0)) (rankAddr rest 0 0)
    headWaiter s 0 2 = some (waiter 1 false) ∧ hJob (waiter 1 false).pkt.hdr = 0 ∧ anyPlane s = true ∧
    (getPortDie s 0).orphans = [] ∧ (waiter 1 false).rank < rankCount f 0 ∧
    rankReadable f 0 0 = true ∧ (waiter 1 false).gen = jobGeneration f 0 := by
  intro s rest f
  have q := ranked_fetch (s := rest) (a := a) rfl (by rw [h]; exact directoryAddr_eq rfl 0) rfl rfl rfl
    (show stacked.erg.pageMap = [] by decide +kernel) (show stacked.erg.bad = [] by decide +kernel)
  exact ⟨show headWaiter stacked 0 2 = _ by decide +kernel, by decide +kernel, show anyPlane stacked = true by decide +kernel,
    show (getPortDie stacked 0).orphans = [] by decide +kernel, q.1, q.2.1, q.2.2.symm⟩

theorem w_FetchesReturnToTheirPackets :
    (upTo 0 4).all (fun k => headWaiter (waiting k) 0 2 == some (waiter k false) && anyPlane (waiting k)
      && (getPortDie (waiting k) 0).orphans.isEmpty) = true ∧
    anyPlane (up 4) = false ∧
    (entryAction (routeEntry (waiting 2) 0) = 0) ∧
    (let s : State := { waiting 2 with planeA := { (waiting 2).planeA with active := some { image 1 with entries := [(0, 1)] } } }
     entryAction (routeEntry s 0) = 1) ∧
    (let s := setPortDie fabric 0 { PortDie.init with waiting := [waiter 3 true], orphans := [(14, 0, 0, 0)] }
     headWaiter s 0 2 = some (waiter 3 true) ∧ (getPortDie s 0).orphans.find? (fun o => o.1 == 16 * 0 + 2) = none ∧
     (getPortDie s 0).orphans.find? (fun o => o.1 == 16 * 0 + 14) = some (16 * 0 + 14, 0, 0, 0) ∧ headWaiter s 1 3 = none) := by
  and_intros <;> decide +kernel

/-- A packet of a header, ready on input link 0 and VC 2. -/
def pkt (h : Header) : Pkt := { mkPkt 1 0 h [] with vc := 2, flits := 1, chargeVc := 2 }

theorem w_PacketsCrossToAPlane :
    (getReady fabric 27 = [] ∧
      (let k := { pkt (hdr 0x11 1) with inPort := some 0, entry := 5 }
       let s := setReady { fabric with planeA := { fabric.planeA with credits := [(2, 65)] } } 0 [k]
       (getReady s 0).find? (fun k => k.vc == 2) = some k ∧ dieOff s (inputDie 0) = false ∧ anyPlane s = true ∧
       entered s k = some k ∧ planeFor s k = some 0 ∧ k.link = 0 ∧ k.flits ≤ mapGet (getPlane s 0).credits 0 2 ∧
       isGroup (hDst k.hdr) = false ∧ entryAction k.entry = 1 ∧ portUp s (entryDown k.entry) = true)) ∧
    (entryAction 3 = 3 ∧ entryAction 9 = 1 ∧ portUp fabric (entryDown 9) = false) ∧
    (mapGet (getPlane fabric 1).credits 0 2 < 66) ∧
    (planeLive fabric 1 = true ∧ planeLive (up 4) 1 = false ∧
      mapGet (getPlane fabric 1).held 0 (16 * 27 + 13) + mapGet (getPlane fabric 1).credits 0 (16 * 27 + 13) ≤ 65) := by
  and_intros <;> decide +kernel

/-- `fabric` with a packet of `n` cells queued on an output of plane 0 and a VC. -/
def queued (out vc n : Nat) : State :=
  { fabric with planeA := { fabric.planeA with queues := [(16 * out + vc, [{ pkt (hdr 0x11 1) with vc := vc, flits := n, entry := 5 }])] } }

theorem w_OutputsAreScheduled :
    (planeLive fabric 0 = true ∧ scheduleChoice fabric 0 147 = none) ∧
    ((scheduleChoice (queued 1 2 1) 0 1).isSome = true ∧ (scheduleChoice (queued 128 2 1) 0 128).isSome = true) ∧
    ((queueHead (getPlane (queued 1 2 1) 0) 1 2).isSome = true ∧ roomAt (queued 1 2 1) 0 1 2 1 = true ∧
      roomAt (queued 15 2 1) 0 15 2 1 = false ∧ roomAt (queued 15 2 1) 0 15 3 1 = false) ∧
    (let s := setPort (queued 1 2 65) 1 { getPort fabric 1 with stage := [(0, pkt (hdr 0x11 1))] }
     roomAt s 0 1 2 65 = false ∧ roomAt s 0 1 3 65 = true ∧ isGroup 1 = false ∧ portUp s 1 = true) ∧
    (let s := fset (queued 15 2 1) .outputWd 8 0 0 15 0 1
     fget s .outputWd 8 0 0 15 0 ≠ 0 ∧ outputWaits (getPlane s 0) 15 = true ∧ (getPlane s 0).stalled.contains 15 = false ∧
     outputWaits (getPlane s 0) 14 = false) := by and_intros <;> decide +kernel

/-! ### Erg memory -/

/-- The part with die 26 LIVE and a packet of this header in its inbox. -/
def asked (h : Header) : State := setInbox (erg26 (up 4)) 26 [pkt h]
/-- A header of a kind for the first handle of region 1, with a second word. -/
def toErg (kind : Nat) (w5 : Word) : Header := { hdr kind 0 with w4 := word (hnd 1 0), w5 := w5 }

theorem hnd_first : hndFeid (word (hnd 1 0)) = ownFeid ∧ hndRegion (word (hnd 1 0)) = 1 ∧ hndOffset (word (hnd 1 0)) = 0 :=
  let h := hnd_parts (r := 1) (o := 0) (by decide) (by decide)
  ⟨h.1, h.2.1, h.2.2.1⟩

/-- Address 0 of region 1 is backed, unmarked, and in no replication range; 64 bytes of it lie in one granule. -/
def granuleFree (s : State) : Bool :=
  backed s (ergAddr s 0 0) && !anyBad s (ergAddr s 0 0) 64 && !partBad s (ergAddr s 0 0) 64 && ergLive s 26
    && decide (64 ≤ tierLimit s 0) && decide (pageOf 0 < exposed s 26 0) && (replFind s 26 0 1 0).isNone
    && (replFind s 26 1 1 0).isNone && noInjection s (srcChannel (addrDieCh (ergAddr s 0 0)).1 (addrDieCh (ergAddr s 0 0)).2 0)
    && noInjection s (srcChannel (addrDieCh (ergAddr s 0 0)).1 (addrDieCh (ergAddr s 0 0)).2 1)

theorem w_RequestsReadAndWriteErgMemory :
    (getInbox (asked (toErg kGet 64)) 26 = [pkt (toErg kGet 64)] ∧ hndFeid (toErg kGet 64).w4 = ownFeid ∧
      hndRegion (toErg kGet 64).w4 = 1 ∧ hndOffset (toErg kGet 64).w4 = 0) ∧
    ((pkt (toErg kGet 64)).complete = true ∧ (pkt (toErg kGet 64)).bad = false ∧ granuleFree (asked (toErg kGet 64)) = true ∧
      wbits (toErg kGet 64).w5 12 0 = 64) ∧
    ((toErg kPut 0).w5 = 0 ∧ hKind (toErg kPut 0) = kPut ∧ hKind (toErg kBulkPut 0) = kBulkPut ∧
      granuleFree (asked (toErg kPut 0)) = true) ∧
    (hKind (hdr kGet 0) = kGet ∧ hndRegion (hdr kGet 0).w4 = 0 ∧ backed (up 4) 0 = false ∧
      wbits (toErg kGet 0).w5 12 0 = 0 ∧ writeStatus (asked (hdr kPut 0)) 26 (hdr kPut 0) 0 ≠ stOk) ∧
    (let s := rset (rset (asked (toErg kPut 0)) .replRangeLen 26 0 15 4096) .replRangeCtrl 26 0 15 (2 ^ 63 + 2 ^ 52)
     replFind s 26 0 1 0 = some 15 ∧ replDegraded s 26 15 = false ∧ mapRising 0 s.erg.repl = true ∧
     replFind s 26 1 1 0 = none ∧ anyPlane (setUnit s 8 0x08 0 .live) = true) := by
  refine ⟨⟨rfl, hnd_first.1, hnd_first.2.1, hnd_first.2.2⟩, ?_, ?_, ?_, ?_⟩
  · decide +kernel
  · decide +kernel
  · refine ⟨by decide, by decide, by decide +kernel, by decide, ?_⟩
    have f : handleStatus (hdr kPut 0).w4 (dataHandle (hdr kPut 0).w4) = stBadParam := by
      simp [handleStatus, show hndRegion (hdr kPut 0).w4 = 0 by decide]
    rw [writeStatus, f]
    simp [firstOf, stBadParam, stOk]
  · decide +kernel

/-- An atomic of an operation, mode and format for the first handle of region 1. -/
def atomic (op mode fmt : Nat) : Header :=
  { toErg kAtomic 1 with w6 := word mode, w7 := word (op + fmt * 2 ^ 8) }

/-- The well-formed atomics of the five operations. -/
def atomics : List Header :=
  [atomic 1 modeIx 0x10, atomic 2 0 0x12, atomic 3 0 0x11, atomic 4 0 0x12, atomic 5 0 0x1B]

theorem w_AtomicsChangeTheirBytes : ∀ h ∈ atomics,
    hndFeid h.w4 = ownFeid ∧ hndRegion h.w4 = 1 ∧ atomForm h = true ∧ rangeStatus (asked h) 26 h.w4 (atomBytes h) = stOk ∧
    granuleFree (asked h) = true := by
  intro h m
  have w : h.w4 = word (hnd 1 0) := by
    simp only [atomics, List.mem_cons, List.not_mem_nil, or_false] at m
    obtain rfl | rfl | rfl | rfl | rfl := m <;> rfl
  refine ⟨by rw [w]; exact hnd_first.1, by rw [w]; exact hnd_first.2.1, ?_, ?_, ?_⟩
  · simp only [atomForm, w, hnd_first.2.2]
    clear w
    revert h
    decide +kernel
  · simp only [rangeStatus, w, hnd_first.2.1, hnd_first.2.2]
    clear w
    revert h
    decide +kernel
  · clear w
    revert h
    decide +kernel

theorem w_AtomicsChangeTheirBytes_malformed :
    atomics.map atop = [1, 2, 3, 4, 5] ∧ (atomics.all (fun h => hKind h == kAtomic)) = true ∧
    (getInbox (asked (atomic 1 9 0)) 26).length = 1 ∧ atop (atomic 1 9 0) = 1 ∧ atomForm (atomic 1 9 0) = false := by
  refine ⟨by decide +kernel, by decide +kernel, by decide +kernel, by decide +kernel, ?_⟩
  simp [atomForm, show atop (atomic 1 9 0) = 1 by decide +kernel, show atomMode (atomic 1 9 0) = 9 by decide +kernel,
    modeEx, modeWx, modeIx]

/-- A pool request of an operation to pool 0, whose handle operand is `w5`. -/
def poolReq (op : Nat) (w5 : Word) : Header := { hdr kAtomic 0 with w4 := word (hnd 4 0), w5 := w5, w7 := word op }
/-- Pool 0 enabled with 2 bobbins of 4 KiB, those in the list allocated, and the request in the inbox of its die. -/
def poolAsked (h : Header) (used : SMap Unit) : State :=
  setPool (rset (rset (asked h) .poolCount 26 0 0 2) .poolConfig 26 0 0 (2 ^ 63)) 0 used

theorem w_PoolsAllocateAndFree (op : Nat) (w5 : Word) (q : op = 6 ∨ op = 7) :
    poolOf (poolReq op w5).w4 = 0 ∧ poolStatusOf (poolAsked (poolReq op w5) []) (poolReq op w5) = stOk := by
  obtain ⟨a, b, c, -⟩ := hnd_parts (r := 4) (o := 0) (by decide) (by decide)
  have w : (poolReq op w5).w4 = word (hnd 4 0) := rfl
  have f : atomFmt (poolReq op w5) = 0 := by
    show wbits (word op) 15 8 = 0
    obtain rfl | rfl := q
    · decide +kernel
    · decide +kernel
  have u : unitContained (poolAsked (poolReq op w5) []) 26 0x1C 0 = false := by
    unfold unitContained
    rfl
  refine ⟨by rw [poolOf, w, c], ?_⟩
  simp [poolStatusOf, handleStatus, poolOf, w, a, b, c, f, u, firstOf, poolDie]

theorem w_PoolsAllocateAndFree_alloc :
    (let s := poolAsked (poolReq 6 0) []
     getInbox s 26 = [pkt (poolReq 6 0)] ∧ ergLive s 26 = true ∧ hKind (poolReq 6 0) = kAtomic ∧ atop (poolReq 6 0) = 6 ∧
     poolEnabled s 0 = true ∧ poolFree s 0 = 2) ∧
    poolFree (poolAsked (poolReq 6 0) [(0, ()), (1, ())]) 0 = 0 ∧ poolEnabled (asked (poolReq 6 0)) 0 = false := by
  refine ⟨⟨rfl, ?_⟩, by decide +kernel, by decide +kernel⟩
  and_intros <;> decide +kernel

/-- Pool 0 with its second bobbin allocated and its handle given back. -/
def giving : State := poolAsked (poolReq 7 (word (hnd 1 4096))) [(1, ())]

theorem w_PoolsAllocateAndFree_free :
    atop (poolReq 7 (word (hnd 1 4096))) = 7 ∧ poolEnabled giving 0 = true ∧
    (hndOffset (poolReq 7 (word (hnd 1 4096))).w5 - poolBase giving 0) / poolSize giving 0 = 1 ∧ 1 < poolCount giving 0 ∧
    (poolReq 7 (word (hnd 1 4096))).w5 = bobbin giving 0 1 ∧ mapFind (poolUsed giving 0) 1 = some () := by
  obtain ⟨-, -, c, -⟩ := hnd_parts (r := 1) (o := 4096) (by decide) (by decide)
  have w : ∀ v, (poolReq 7 v).w5 = v := fun _ => rfl
  have b : poolBase giving 0 = 0 := by decide +kernel
  have z : poolSize giving 0 = 4096 := by decide +kernel
  have r : poolRegion giving 0 = 1 := by decide +kernel
  have n : 1 < poolCount giving 0 := by decide +kernel
  have e : poolEnabled giving 0 = true := by decide +kernel
  have f : mapFind (poolUsed giving 0) 1 = some () := by decide +kernel
  have a : atop (poolReq 7 (word (hnd 1 4096))) = 7 := by decide +kernel
  rw [w, bobbin, b, z, r, c, ownHandle_hnd]
  exact ⟨a, e, rfl, n, congrArg (fun o => word (hnd 1 o)) (by decide), f⟩

/-- Range 15 of die 26 a replica of FEID 0 that holds region 1, and the next sequence number it expects. -/
def replica (h : Header) (q : Nat) : State :=
  rset (rset (rset (asked h) .replRangeLen 26 0 15 4096) .replRangeCtrl 26 0 15 (2 ^ 63 + 2 ^ 62 + 2 ^ 52)) .replRangeSeq 26 0 15
    (q * 2 ^ 32)
/-- PUT_FWD of one flit and ATOMIC_FWD of a FETCH_ADD to that range, sequence number 0. -/
def forwarded (kind : Nat) : Header :=
  { toErg (kind + 2 ^ 8) 1 with w7 := word (15 * 2 ^ 48 + 2 + 0x12 * 2 ^ 8) }

theorem w_ReplicasFollowTheirPrimary : ∀ kind ∈ [kPutFwd, kAtomicFwd],
    let h := forwarded kind
    hKind h = kind ∧ hndFeid h.w4 = ownFeid ∧ hndRegion h.w4 = 1 ∧ hndOffset h.w4 = 0 ∧ wbits h.w7 51 48 = 15 ∧
    atomForm h = true ∧ rangeStatus (replica h 0) 26 h.w4 64 = stOk ∧ replHas (replica h 0) 26 15 1 1 0 = true ∧
    replPartner (replica h 0) 26 15 = hSrc h ∧ hAux h = replSeq (replica h 0) 26 15 := by
  intro kind m h
  have w : h.w4 = word (hnd 1 0) := rfl
  refine ⟨?_, hnd_first.1, hnd_first.2.1, hnd_first.2.2, ?_, ?_, ?_, ?_⟩
  · clear w; revert kind; decide +kernel
  · clear w; revert kind; decide +kernel
  · simp only [atomForm, w, hnd_first.2.2]
    clear w; revert kind; decide +kernel
  · simp only [rangeStatus, w, hnd_first.2.1, hnd_first.2.2]
    clear w; revert kind; decide +kernel
  · clear w; revert kind; decide +kernel

theorem w_ReplicasFollowTheirPrimary_others :
    (let s := replica (forwarded kPutFwd) 0
     ergLive s 26 = true ∧ backed s (ergAddr s 0 0) = true ∧ partBad s (ergAddr s 0 0) 64 = false) ∧
    (2 ^ 31 ≤ (0 + 2 ^ 32 - 1) % 2 ^ 32 ∧ 1 ≤ (0 + 2 ^ 32 - (2 ^ 32 - 1)) % 2 ^ 32 ∧
      (0 + 2 ^ 32 - (2 ^ 32 - 1)) % 2 ^ 32 < 2 ^ 31) ∧
    replHas (asked (forwarded kPutFwd)) 26 15 1 1 0 = false ∧ (getRepl (up 4) 26 15).copies = [] := by
  and_intros <;> decide +kernel

/-- SIGNAL or BULK_SIGNAL to counter 0, expecting 64 bytes. -/
def signalReq (kind : Nat) : Header := { hdr kind 0 with w4 := word (hnd 3 0), w5 := 64 }

theorem w_SignalCountersCountAndFire (kind : Nat) : counterHandle (signalReq kind).w4 = true ∧ counterOf (signalReq kind).w4 = 0 := by
  obtain ⟨a, b, c, -⟩ := hnd_parts (r := 3) (o := 0) (by decide) (by decide)
  have w : (signalReq kind).w4 = word (hnd 3 0) := rfl
  simp [counterHandle, counterOf, w, a, b, c]

theorem w_SignalCountersCountAndFire_counters :
    (let s := setCounter (asked (signalReq kSignal)) 0 { Counter.init with version := 0x10 }
     getInbox s 26 = [pkt (signalReq kSignal)] ∧ ergLive s 26 = true ∧ hKind (signalReq kSignal) = kSignal ∧
     hKind (signalReq kBulkSignal) = kBulkSignal ∧ counterReady (getCounter s 0) = true ∧ (getCounter s 0).armed = false ∧
     counterReady (getCounter s 1) = false ∧ counterDie 0 = 26 ∧ counterDie 65535 = 29 ∧ ergLive s 29 = false) ∧
    (let s := setCounter (erg26 (up 4)) 0
       { Counter.init with version := 0x10, armed := true, expected := 64, count := 63, timeoutUs := 1 }
     (getCounter s 0).armed = true ∧ (getCounter s 0).timeoutUs ≠ 0 ∧ (getCounter s 0).count < (getCounter s 0).expected ∧
     ergLive s (counterDie 0) = true) := by
  refine ⟨⟨rfl, ?_⟩, ?_⟩
  · and_intros <;> decide +kernel
  · decide +kernel

/-- An answer of a kind to a TAG with a status. -/
def answerPkt (kind tag st : Nat) : Pkt := pkt { hdr kind 0 with w3 := word tag, w4 := word st }
/-- The first spindle with an IN.GET and an Outlet packet of number 0 outstanding, and an answer in the inbox of its die. -/
def outstanding (kind : Nat) (p : Pkt) : State :=
  let g : GetOut := { number := 0, handle := 0, addr := 0, bytes := 64, group := 0, flag := some 63, ord := 0 }
  let r : OutReq := { number := 0, kind := kind, handle := 0, res := none, answered := none, ord := 0 }
  let s := setInbox (setUnit (up 4) 10 0x10 0 .live) 10 [p]
  setEng (setEng s 320 0 { Engine.init with gets := [g] }) 320 3 { Engine.init with sent := [r] }

theorem w_AnswersReachTheirRequests :
    (let s := outstanding kPut (answerPkt kGetData (2 ^ 28) 0)
     dieOff s 10 = false ∧ (getDie s 10).relock = none ∧ hKind (answerPkt kGetData (2 ^ 28) 0).hdr = kGetData ∧
     (namedGet s (2 ^ 28)).isSome = true ∧ namedGet s (2 ^ 28 + 1) = none ∧ groupOpen (getSp s 320) 0 = false ∧
     (getEng s 320 0).badGroups.contains 0 = false) ∧
    (let s := outstanding kPut (answerPkt kAck (2 * 2 ^ 28) 3)
     hKind (answerPkt kAck (2 * 2 ^ 28) 3).hdr = kAck ∧ namedGet s (2 * 2 ^ 28) = none ∧
     (namedOut s (2 * 2 ^ 28)).any (fun e => e.2.kind == kPut) = true ∧
     wbits (answerPkt kAck (2 * 2 ^ 28) 3).hdr.w4 7 0 ≠ stOk ∧ wbits (answerPkt kAck (2 * 2 ^ 28) 0).hdr.w4 7 0 = stOk ∧
     namedOut s (3 * 2 ^ 28) = none ∧ bits (3 * 2 ^ 28) 31 28 = 3 ∧ ergLive (erg26 s) (26 + bits (3 * 2 ^ 28) 27 26) = true) ∧
    (let s := outstanding kAtomic (answerPkt kAtomicRsp (2 * 2 ^ 28) 0)
     hKind (answerPkt kAtomicRsp (2 * 2 ^ 28) 0).hdr = kAtomicRsp ∧
     (namedOut s (2 * 2 ^ 28)).any (fun e => e.2.kind == kAtomic) = true) := by and_intros <;> decide +kernel

/-! ### Hanks -/

/-- The hank of a descriptor with its member an edge member or a trunk member. -/
def hankOf (desc : List Byte) (type : Nat) (trunk source : Bool) : Hank :=
  { openHank desc with
    d := { (openHank desc).d with type := type, members := [{ port := 0, trunk := trunk, source := source, rank := 0 }] } }
/-- A packet of a kind for hank 7 from port 0: word 0 above KIND, word 4, word 5 and its payload. -/
def part (kind w0 : Nat) (w4 w5 : Word) (payload : List Byte) : Pkt :=
  { pkt { hdr kind 0 with w0 := word (0x10 + kind * 2 ^ 8 + w0), w2 := 7, w4 := w4, w5 := w5 } with
    inPort := some 0, payload := payload }
/-- The part with that hank open and that packet in the inbox of die 10. -/
def parted (h : Hank) (p : Pkt) : State := setInbox (withHank (up 4) h) 10 [p]
/-- A CONTRIB of one element of 8 bytes; a TALLY_UP of no group; an empty CONTRIB of an EXCHANGE. -/
def contrib1 : Pkt := part kContrib (2 ^ 16 + 56 * 2 ^ 24) (2 ^ 26) 0 (List.replicate 8 1)
def tally0 : Pkt := part kTallyUp 0 0 (word (descOf sumDesc).check.toNat) []
def items0 : Pkt := part kContrib (2 ^ 16 + 2 ^ 23 + 63 * 2 ^ 24) 0 0 [0]

theorem w_PartsReachTheirSlots_contrib :
    let h := hankOf sumDesc 1 false false
    let s := parted h contrib1
    let hd := contrib1.hdr
    dieOff s 10 = false ∧ (getDie s 10).relock = none ∧ hKind hd = kContrib ∧ namedHank s hd = some h ∧
    (senderOf h contrib1).isSome = true ∧ cAttempt hd = (getJob s h.d.job).attempt ∧ h.base ≤ hStep hd ∧
    hAux hd < nchunks h.d ∧ seqOf h (hStep hd) (hAux hd) = (hankSlot h 0).awaits ∧ (hankSlot h 0).parts = [] ∧
    partForm h.d hd (padTo (hPayloadLen hd) contrib1.payload) = true ∧ cCount hd ≠ 0 ∧ getHank s h.d.hank = some h := by
  decide +kernel

theorem w_PartsReachTheirSlots_tally :
    let h := hankOf sumDesc 1 true false
    let s := parted h tally0
    let hd := tally0.hdr
    hKind hd = kTallyUp ∧ namedHank s hd = some h ∧ (senderOf h tally0).isSome = true ∧
    cAttempt hd = (getJob s h.d.job).attempt ∧ h.base ≤ hStep hd ∧ hAux hd < nchunks h.d ∧ wbit hd.w4 8 = false ∧
    wbits hd.w5 31 0 = h.d.check.toNat ∧ getHank s h.d.hank = some h ∧
    seqOf h (hStep hd) (hAux hd) = (hankSlot h 0).awaits ∧ tFirst hd = mapGet (hankSlot h 0).groups 0 0 ∧
    groupsLen (tCount hd) [] = some 0 ∧ decodeGroups h.d.mode h.d.inFormat (tCount hd) [] = some [] := by decide +kernel

theorem w_PartsReachTheirSlots_exchange :
    let h := hankOf sumDesc 6 false false
    let s := setInbox (withHank fabric h) 10 [items0]
    let hd := items0.hdr
    hKind hd = kContrib ∧ namedHank s hd = some h ∧ (senderOf h items0).isSome = true ∧ hAux hd < nchunks h.d ∧
    hStep hd - h.base = h.current ∧ xFirst hd = mapGet h.exch.accepted 0 0 ∧
    xForm h 0 hd (padTo (hPayloadLen hd) items0.payload) = true ∧ stagingOk s h = true := by decide +kernel

theorem w_PartsReachTheirSlots_refused :
    namedHank (setInbox (up 4) 10 [contrib1]) contrib1.hdr = none ∧
    (let h := hankOf sumDesc 3 false false
     (senderOf h contrib1).any (fun e => !e.2.source) = true ∧ senderOf h { contrib1 with inPort := some 1 } = none) ∧
    (let h := { hankOf sumDesc 1 false false with slots := [(0, { slotInit 0 with awaits := 1, parts := [0] })] }
     seqOf h 0 0 < (hankSlot h 0).awaits) ∧
    (let h := { hankOf sumDesc 1 false false with base := 1 }
     hStep contrib1.hdr < h.base) := by and_intros <;> decide +kernel

theorem w_NoticesAndBarriersAct :
    (let h := hankOf barrierDesc 5 true false
     let p := part kArrive 0 0x200 0 []
     let s := parted h p
     namedHank s p.hdr = some h ∧ (senderOf h p).any (fun e => e.2.trunk) = true ∧ wbit p.hdr.w4 9 = true ∧ hKind p.hdr = kArrive ∧
     cAttempt p.hdr = (getJob s h.d.job).attempt ∧ hankStep h ≤ hStep p.hdr ∧ wbits p.hdr.w4 8 8 = (hStep p.hdr - h.base) % 2 ∧
     h.barr.cur.contains 0 = false) ∧
    (let h := { hankOf barrierDesc 5 true false with
       d := { (hankOf barrierDesc 5 true false).d with extendsUp := true }
       barr := { (openHank barrierDesc).barr with sentUp := true } }
     let p := part kRelease 0 0 0 []
     namedHank (parted h p) p.hdr = some h ∧ hSrc p.hdr = h.d.parentFeid ∧ hStep p.hdr = hankStep h ∧ hKind p.hdr = kRelease) ∧
    (let p := { part kChunkNotice 0 0 0 [] with hdr := { (part kChunkNotice 0 0 0 []).hdr with w6 := 0x100 } }
     (namedHank (parted (hankOf sumDesc 1 true false) p) p.hdr).isSome = true ∧ wbit p.hdr.w6 8 = true ∧
     hKind p.hdr = kChunkNotice ∧ hKind (part kResult 0 0 0 []).hdr = kResult) := by and_intros <;> decide +kernel

/-- The part with hank 7 open and work for the first spindle. -/
def working (w : Work) : State :=
  modSp (withHank (up 4) (openHank sumDesc)) 320 (fun sp => { sp with work := [w] })

theorem w_HanksBurstAndTimeOut :
    (spindleOf (up 4) 0 = 320 ∧ unitContained (up 4) 10 0x10 0 = false ∧ (getDie (up 4) 10).relock = none ∧
      (getSp (up 4) 320).work = []) ∧
    ((getSp (working (.merge 7 0 0x12 [(0, .fin 1)])) 320).work.length = 1 ∧
      (getHank (working (.merge 7 0 0x12 [(0, .fin 1)])) 7).isSome = true) ∧
    (chunkEls (openHank sumDesc).d 0 = 1024 ∧ 0 + 512 < 1024 ∧ 1024 ≤ 512 + 512 ∧
      chunkGroups (openHank sumDesc).d 0 ≤ 63 + mergeBurst (openHank sumDesc).d.mode / 16) ∧
    (let h := { openHank sumDesc with slots := [(0, { slotInit 0 with started := true })] }
     (hankSlot h 0).started = true ∧ (hankSlot h 0).complete = false ∧ h.d.type ≠ 6 ∧ exchCounted h = false) ∧
    (let h := { hankOf sumDesc 6 false false with exch := { (openHank sumDesc).exch with expected := [(0, 1)] } }
     h.d.type = 6 ∧ exchCounted h = true ∧ stagingOk (withHank fabric h) h = true ∧ anyPlane (withHank fabric h) = true) := by
  and_intros <;> decide +kernel

/-! ### Engines -/

/-- An engine that runs at command 0, nothing in flight. -/
def runner : Engine := { Engine.init with state := .running }
/-- The first spindle LIVE, its engine `i` at a command word; queues hold one entry each. -/
def atWord (i c : Nat) (e : Engine) : State :=
  setSp (setUnit (up 4) 10 0x10 0 .live) 320 (spSetEngine
    { Spindle.init with imem := [(8192 * i, BitVec.ofNat 128 c)], queues := (upTo 0 6).map (fun q => (q, [1])) } i e)

/-- The parts of `Sound` as tests. -/
def soundTest (s : State) : Bool :=
  (s.module.activeKd == 30 || s.module.activeKd == 31) && decide (s.module.state ≤ 4) && decide (s.module.phase ≤ 6)
    && decide (s.module.standby ≤ 2) && memWf s.erg.mem && memWf s.staging && mapWf Spindle.init s.spindles
    && s.spindles.all (fun e => memWf e.2.ls && mapWf Engine.init e.2.engines) && decide (s.records.length ≤ 4096)
    && decide (s.cp.remembered.length ≤ 1024)

theorem sound_of_test {s : State} (h : soundTest s = true) : Sound s := by
  simp only [soundTest, Bool.and_eq_true, Bool.or_eq_true, beq_iff_eq, decide_eq_true_eq, List.all_eq_true] at h
  obtain ⟨⟨⟨⟨⟨⟨⟨⟨⟨a, b⟩, c⟩, d⟩, e⟩, f⟩, g⟩, i⟩, j⟩, k⟩ := h
  exact ⟨⟨a, b, c, d⟩, e, f, ⟨g, i⟩, j, k⟩

/-- A command word of each kind, with the engine it stands at: opcode, a count of 1, and the fields it needs. -/
def words1 : List (Nat × Nat) :=
  [(0, 0x01), (0, 0x02), (0, 0x03 + 2 ^ 40 + 2 * 2 ^ 64), (0, 0x10), (0, 0x11), (0, 0x12), (0, 0x30), (0, 0x31), (0, 0x32),
   (0, 0x33)].map (fun e => (e.1, e.2 + 2 ^ 16))
def words2 : List (Nat × Nat) :=
  [(1, 0x40), (1, 0x41), (1, 0x42), (1, 0x43), (1, 0x50 + 2 ^ 56), (1, 0x51 + 2 ^ 56), (1, 0x52 + 2 ^ 56), (1, 0x53 + 2 ^ 56),
   (1, 0x54 + 2 ^ 56 + 2 ^ 64), (1, 0x55 + 2 ^ 56), (1, 0x56 + 2 ^ 56), (1, 0x57 + 2 ^ 56), (1, 0x58 + 2 ^ 56), (1, 0x59)].map
    (fun e => (e.1, e.2 + 2 ^ 16))
def words3 : List (Nat × Nat) :=
  [(1, 0x60), (1, 0x61 + 2 * 2 ^ 52 + 2 * 2 ^ 60), (1, 0x62 + 2 ^ 40), (1, 0x70 + 2 ^ 40 + 2 ^ 48 + 2 ^ 52),
   (1, 0x71 + 2 ^ 48 + 2 ^ 52), (1, 0x72 + 2 ^ 40 + 2 ^ 48 + 2 ^ 52), (2, 0x80), (2, 0x81), (2, 0x82 + 0x12 * 2 ^ 72), (2, 0x83 + 0x12 * 2 ^ 72),
   (2, 0x84 + 2 * 2 ^ 72), (2, 0x84 + 2 ^ 62 + 2 * 2 ^ 72), (2, 0x85 + 2 * 2 ^ 72), (2, 0x86), (3, 0x90), (3, 0x91),
   (3, 0x92 + 2 * 2 ^ 52 + 0x12 * 2 ^ 56), (3, 0x93)].map (fun e => (e.1, e.2 + 2 ^ 16))
def words4 : List (Nat × Nat) := [(0, 0x20), (0, 0x21), (0, 0x22), (0, 0x23), (0, 0x04), (3, 0x94)]

/-- The word comes to issue its only repeat at its engine. -/
def issues (w : Nat × Nat) : Bool :=
  comesTo (atWord w.1 w.2 runner) (spKey 10 0) w.1 (opcode w.2) w.2 0 1 && soundTest (atWord w.1 w.2 runner)

theorem w_engines_come_to_issue :
    (words1 ++ words2).all issues = true ∧ words3.all issues = true := by and_intros <;> decide +kernel

/-- With nothing in flight and no outstanding IN.GET nothing keeps a repeat from issuing. -/
theorem w_engines_unhindered (i c : Nat) (reads : List (Nat × Nat)) (lines : List (Nat × Nat × Bool))
    (touches : List (Nat × Nat)) (steps : List Nat) (h : (getEng (atWord i c runner) 320 i).flight = [])
    (g : (spEngine (getSp (atWord i c runner) 320) 0).gets = []) :
    unhindered (atWord i c runner) 320 i c reads lines touches steps = true := by
  simp [unhindered, readHazards, lineHazards, getOverlap, h, g]
  intro x a b _ _
  rw [List.find?_eq_none.2 (by simp)]

theorem w_engines_idle : (words1 ++ words2 ++ words3).all (fun w =>
      (getEng (atWord w.1 w.2 runner) 320 w.1).flight == [] && (spEngine (getSp (atWord w.1 w.2 runner) 320) 0).gets == []) = true := by
  decide +kernel

/-- Every address register holds 0, where 1 MiB and one byte of a handle's region lie in range. -/
theorem w_engines_operands (k : Nat) : opdAddr (aReg runner k) = 0 ∧ handleFits (aReg runner k) 4096 = true ∧
    opdHandle (aReg runner k) = 0 ∧
    fits (atWord 0 1 runner) 320 0 0x100000 64 = true ∧ queueFull (getSp (atWord 0 1 runner) 320) 0 0 = false ∧
    (getQueue (getSp (atWord 0 1 runner) 320) 5).length = 1 ∧ unanswered runner < 256 := by
  have a : aReg runner k = aReg runner 0 := rfl
  rw [a]
  and_intros <;> decide +kernel

theorem w_RepeatsIssueAndResultsLand :
    (let f : Flight := { due := 0, seq := 0, pc := 0, late := 0, tgt := .sreg 15 1 }
     let s := atWord 0 1 { runner with now := 1, flight := [f] }
     engineClocked s (spKey 10 0) = true ∧ (getEng s 320 0).flight = [f] ∧ f.due < (getEng s 320 0).now ∧ f.late = 0 ∧
     tgtField { f with late := 1 }.tgt = some (0, 15, 0)) ∧
    (engineClocked (atWord 0 1 runner) (spKey 10 0) = true ∧ activeWhorls runner = []) := by and_intros <;> decide +kernel

theorem w_ControlAndScalarCommandsIssue :
    (let c := 0x02 + 2 ^ 12
     standsAt (atWord 0 c runner) 320 0 0x02 c = true ∧ (getEng (atWord 0 c runner) 320 0).count = none ∧
     predicate (getEng (atWord 0 c runner) 320 0) c = false) ∧
    (let c := 0x03 + 2 ^ 40 + 2 * 2 ^ 64
     bits c 35 34 = 0 ∧ bits c 95 64 < 2 ^ 32 ∧ (lReg runner 0).active = false ∧ (activeWhorls runner).length < 4 ∧
     runner.pc + bits c 52 40 ≤ 8191) := by and_intros <;> decide +kernel

theorem w_MatrixAndSiftOperands :
    (let c := 0x84 + 2 ^ 62 + 2 * 2 ^ 72
     bit c 62 = true ∧ denseBytes (bits c 79 72) ≤ 0x100000) ∧
    (let s := atWord 2 (0x84 + 2 * 2 ^ 72) runner
     headerOk 2 (bytesNat (memRead (getSp s 320).ls 0 8)) = false) ∧
    (4 * mmK 2 * fmtBits 2 ≤ 0x100000 ∧ 1024 * (fmtBits 1 / 8) ≤ 0x100000 ∧ 32 * accBytes modeEx ≤ 0x100000) := by
  and_intros <;> decide +kernel

/-- The word comes to its drain point. -/
def drains (w : Nat × Nat) : Bool :=
  comesToDrain (atWord w.1 w.2 runner) (spKey 10 0) w.1 (opcode w.2) w.2 (opcode w.2 == 0x04 || opcode w.2 == 0x94)
    && soundTest (atWord w.1 w.2 runner)

theorem w_DrainPointsWaitAndGoOn :
    words4.all drains = true ∧
    (let u := drained (atWord 0 0x21 runner) 320 0
     flagOf u 320 0 = false ∧ flagWaiters u 320 0 = [] ∧ engineClocked u 320 = true ∧ (getEng u 320 0).debugHalt = false) ∧
    (let u := drained (modSp (atWord 0 0x21 runner) 320 (fun sp => { sp with flags := 1 })) 320 0
     flagOf u 320 0 = true) ∧
    (let u := drained (setBarchan (atWord 0 0x23 runner) 320 0 { Barchan.init with members := 1, cur := 1 }) 320 0
     logicalAvailable u 0 = true ∧ localSpindle u 10 0 = 320 ∧ participant u 320 0 = 0 ∧
     wbit (getBarchan (getSp u 320) 0).members 0 = true ∧ wbit (getBarchan (getSp u 320) 0).cur 0 = true) ∧
    (wbit (getBarchan (getSp (drained (atWord 0 0x23 runner) 320 0) 320) 0).members 0 = false) ∧
    (haltWaits runner = false ∧ unanswered runner = 0) := by and_intros <;> decide +kernel

theorem w_RaisesAndArrivalsTakeEffect :
    (let s : State := { atWord 0 1 runner with sync := [.raise 0 63] }
     soundTest s = true ∧ (takeSync (isRaise 0) s.sync).isSome = true ∧ (getDie s 10).relock = none ∧
     flagWaiters s (spindleOf s 0) 63 = [] ∧ logicalAvailable s 0 = true ∧ engineClocked s 320 = true) ∧
    (logicalAvailable (setUnit (up 4) 25 0x10 15 .contained) 255 = false) ∧
    (let s : State := { setBarchan (atWord 0 1 runner) 320 15 { Barchan.init with members := 0x8000000000000000 } with
       sync := [.arrival 10 0 15 63] }
     let v := getBarchan (getSp s 320) 15
     soundTest s = true ∧ takeSync (isArrival 10) s.sync = some (.arrival 10 0 15 63, []) ∧ logicalAvailable s 0 = true ∧
     wbit v.members 63 = true ∧ wbit v.cur 63 = false ∧
     popCount 64 (v.cur ||| word (2 ^ 63)).toNat = popCount 64 v.members.toNat) ∧
    (let s := setBarchan (atWord 0 1 runner) 320 15 { Barchan.init with members := 1, cur := 1 }
     let v := getBarchan (getSp s 320) 15
     unitContained s 10 0x10 0 = false ∧ v.members ≠ 0 ∧ popCount 64 v.cur.toNat = popCount 64 v.members.toNat) := by
  and_intros <;> decide +kernel

theorem w_CommandsAreSkippedHeldOrStopped :
    (let c := 0x50 + 2 ^ 12 + 2 ^ 56
     let s := atWord 1 c runner
     standsAt s 320 1 0x50 c = true ∧ (getEng s 320 1).count = none ∧ predicate (getEng s 320 1) c = false ∧ soundTest s = true) ∧
    (let c := 0x71 + 2 ^ 48 + 2 ^ 52
     let s := atWord 1 c runner
     standsAt s 320 1 0x71 c = true ∧ predicate (getEng s 320 1) c = true ∧ repeatCount (getEng s 320 1) c = 0) ∧
    (let c := 0x01 + 2 ^ 13
     2 ^ 32 ≤ repeatCount { runner with sreg := [(0, 0x100000000)] } c) ∧
    (let c := 0x42 + 2 ^ 16
     let s := modSp (atWord 1 c runner) 320 (fun sp => setQueue sp 2 (List.replicate 16 0))
     comesTo s 320 1 0x42 c 0 1 = true ∧ queueFull (getSp s 320) 1 2 = true) ∧
    (let c := 0x40 + 2 ^ 16
     let a : AReg := { base := 0x100000, stride := 0, wrap := 0, count := 0 }
     let s := atWord 1 c { runner with areg := [(0, a)] }
     comesTo s 320 1 0x40 c 0 1 = true ∧ areaBytes s 320 < opdAddr a + 256 ∧ opdAddr { a with base := 32 } % 64 ≠ 0) ∧
    (let s := atWord 0 0x101 runner
     engineClocked s 320 = true ∧ (getEng s 320 0).state = .running ∧ imemWord (getSp s 320) 0 0 = 0x101 ∧ opcode 0x101 = 0x01 ∧
     cmdLegal 0 0x101 = false ∧ 8192 ≤ { runner with pc := 8192 }.pc) ∧
    (let c := 0x42 + 2 ^ 16
     let f : Flight := { due := 5, seq := 0, pc := 0, late := 0, tgt := .vreg (vaOf c 0) 1 }
     let s := atWord 1 c { runner with flight := [f], count := some 1 }
     comesTo s 320 1 0x42 c 0 1 = true ∧ queueFull (getSp s 320) 1 2 = false ∧ (getEng s 320 1).count = some 1 ∧
     (getEng s 320 1).flight = [f] ∧ tgtField f.tgt = some (2, vaOf c 0, 0) ∧ stopOnHazard s 320 1 = false) := by
  and_intros <;> decide +kernel

/-! ### Boundaries of the premises -/

/-- A session of debug level 3 that reaches every die. -/
def session3 (s : State) : State :=
  { s with sec := { s.sec with session := some { level := 3, dies := 0xFFFFFFFF, lifetime := some 1 } } }

theorem w_events_have_room :
    eventRoom fabric 1 = true ∧ recordRoom fabric 1 = true ∧
    (upTo 0 6).all (fun k => eventRoom (bringing k) 300) = true ∧
    (eventRoom (session3 (up 4)) 1 = true ∧ recordRoom (session3 (up 4)) 1 = true) ∧
    (let s : State := { up 4 with module := { (up 4).module with reboot := some (25, 3) } }
     running s = true ∧ s.module.reboot = some (25, 3) ∧ eventRoom s 2 = true ∧ rebootNext 25 6 = none) := by
  and_intros <;> decide +kernel

theorem w_scan_stops :
    scanOpen (session3 (up 4)) 31 = true ∧ scanOpen (session2 (up 4)) 31 = false ∧ scanOpen (up 4) 25 = false ∧
    (planeLive (session3 fabric) 0 = true ∧ scanOpen (session3 fabric) (8 + 0) = true) ∧
    running (up 0) = false := by and_intros <;> decide +kernel

theorem w_CommandAndBulkFramesArrive_version :
    (let w2 : Word := 0xF
     cpIntact 0x10411 0 w2 (check3 0x10411 0 w2 [1]) [1] = true ∧ cpType 0x10411 = 4 ∧ wbits 0x10411 7 0 ≠ 0x10) ∧
    (cpIntact 0x510 0 0 (check3 0x510 0 0 []) [] = true ∧ 4 < cpType 0x510 ∧ cpType 0x010 = 0) := by
  and_intros <;> decide +kernel

theorem w_LinkFramesBringTheLinkUp_steps :
    (let s : State := { up 4 with cp := { (up 4).cp with step := 1 } }
     running s = true ∧ s.cp.step = 1 ∧ noInjection s (srcControlPort s.module.activeKd 2) = true) ∧
    (let s : State := { up 4 with cp := { (up 4).cp with step := 2, aligned := 7 } }
     s.cp.step = 2 ∧ s.cp.aligned ||| BitVec.ofNat 4 (2 ^ wbits 0x34 5 4) = 0xF ∧
       s.cp.aligned ||| BitVec.ofNat 4 (2 ^ wbits 0x24 5 4) ≠ 0xF) ∧
    (cpIntact 0x511 0 4 (check3 0x511 0 4 []) [] = true ∧ wbits 0x511 7 0 ≠ 0x10) := by and_intros <;> decide +kernel

/-- Port 0 with a frame open whose header has come, with a reason or as packet 1. -/
def headed (f : RxFrame) : State := withPort { getPort fabric 0 with rxFrame := some { f with hdr := some (hdr 0x11 0) } }

theorem w_FramesAreReceived_ends :
    (let s := headed { rx 2 with reason := some 2, left := true }
     (getPort s 0).rxFrame.isSome = true ∧ (getPort s 0).rxFrame.all (fun f => f.uid.isNone && f.hdr.isSome) = true) ∧
    (let f := { rx 2 with hdr := some (hdr 0x11 0), uid := some 1 }
     64 * (f.flits - 1) ≠ [(0 : Byte)].length ∧ (frameCrc f.word (hBytes (hdr 0x11 0))).toNat ≠ wbits 0x2 63 32 + 1) ∧
    (let k := { mkPkt 1 0 (hdr 0x11 0) [] with vc := 2, inPort := some 0 }
     stillHere (setReady (headed { rx 2 with uid := some 1 }) 0 [k]) 0 1 = true ∧
     stillHere (headed { rx 2 with uid := some 1 }) 0 1 = false) ∧
    (let s := withPort { getPort fabric 0 with rxFrame := some { rx 2 with resumed := true } }
     (getPort s 0).rxFrame.any (·.resumed) = true) ∧
    (let s := withPort { getPort fabric 0 with rxDiscard := true, rxFrame := none }
     (getPort s 0).rxDiscard = true ∧ (getPort s 0).rxFrame = none) ∧ portUp fabric 15 = false := by
  and_intros <;> decide +kernel

theorem w_FramesAreSentAndCreditsReturned_bad :
    (let s := fset (withPort { getPort staging 0 with stage := [(0, { staged1 with bad := true })] }) .edgeRole 0 0 0 15 0 1
     portUp s 0 = true ∧ isEdge s 0 = true ∧ (egressChoice s 0).any (fun e => e.1.bad) = true) ∧
    (isEdge (fset staging .edgeRole 0 0 0 15 0 0) 0 = false) := by and_intros <;> decide +kernel

theorem w_PortsTrain_phases :
    (let s := training 1
     let v := setPort s 0 { getPort s 0 with equalised := 2 }
     ((getPort v 0).equalised ||| BitVec.ofNat 2 (2 ^ 0)).toNat &&& usableLanes v 0 = usableLanes v 0 ∧
     ((getPort s 0).equalised ||| BitVec.ofNat 2 (2 ^ 0)).toNat &&& usableLanes s 0 ≠ usableLanes s 0 ∧
     (getPort v 0).equalised.toNat &&& usableLanes v 0 ≠ 0) ∧
    (let s := training 2
     let e := (getPort s 0).equalised.toNat &&& usableLanes s 0
     ((getPort s 0).aligned ||| BitVec.ofNat 2 (2 ^ 0)).toNat &&& e = e) ∧
    (let s := setPort (training 2) 0 { getPort (training 2) 0 with aligned := 1 }
     (getPort s 0).aligned.toNat &&& ((getPort s 0).equalised.toNat &&& usableLanes s 0) ≠ 0) ∧
    eventRoom (training 3) 1 = true ∧ portLive (setUnit (training 5) 0 0x01 0 .parked) 0 = false := by
  and_intros <;> decide +kernel

theorem w_LanesDropAndRejoin_handshake :
    (let s := setPort lanes2 0 { getPort lanes2 0 with recal := some (1, 0xF), dropping := none }
     portUp s 0 = true ∧ ownLane s 0 (0x10 + 10) = 1 ∧ (getPort s 0).recal = some (1, 15) ∧
     (upTo 0 4).all (Nat.testBit 15) = true ∧ (usableLanes s 0).testBit 1 = true ∧ (getPort s 0).phase ≠ 1 ∧
     mapRising 0 s.ports = true) ∧
    ((getPort lanes2 0).recal = none ∧ (getPort lanes2 0).dropping = none ∧ pget lanes2 .portStatus 0 0 19 18 = 3 ∧
      wbit 0x3A 5 = true) := by and_intros <;> decide +kernel

/-- A packet from port 0 on an adaptive VC, down to port 1. -/
def down1 (uid : Nat) : Pkt := { pkt (hdr 0x11 1) with uid := uid, inPort := some 0, entry := 5 }

theorem w_PacketsCrossToAPlane_waits :
    (let s := setReady { fabric with
        planeA := { fabric.planeA with credits := [(2, 65)] },
        planeB := { fabric.planeB with queues := [(16 * 1 + 2, [down1 1])] } } 0 [down1 2]
     mustWait s 0 (down1 2) = true ∧ mustWait { s with planeB := fabric.planeB } 0 (down1 2) = false) ∧
    (let s := setReady (up 4) 0 [down1 1]
     anyPlane s = false ∧ (getReady s 0).find? (fun k => k.vc == 2) = some (down1 1)) ∧
    (let k := { down1 1 with inPort := none }
     entered fabric k = none) := by and_intros <;> decide +kernel

theorem w_OutputsAreScheduled_wadi :
    (fget (fset (queued 15 2 1) .routeConfig 8 0 0 31 16 1) .routeConfig (8 + 0) 0 0 31 16 ≠ 0) ∧
    (let s := setPort (queued 1 2 65) 1 { getPort fabric 1 with stage := [(0, pkt (hdr 0x11 1))] }
     (queueHead (getPlane s 0) 1 2).isSome = true ∧ roomAt s 0 1 2 65 = false ∧ roomAt s 0 1 (2 + 1) 65 = true ∧
     (match choosePort (fadd s .routeCount (8 + 0) 0 3 47 0 1) 0 { pkt (hdr 0x11 1) with vc := 3, flits := 65, entry := 5 } with
      | (.out q _, _) => q == 1
      | _ => false) = true) ∧
    (let s := pset (setPort (queued 1 2 65) 1 { getPort fabric 1 with stage := [(0, pkt (hdr 0x11 1))] }) .portStatus 1 0 1 0 0
     (match choosePort (fadd s .routeCount (8 + 0) 0 3 47 0 1) 0 { pkt (hdr 0x11 1) with vc := 3, flits := 65, entry := 5 } with
      | (.drop n, _) => n == 0
      | _ => false) = true) := by and_intros <;> decide +kernel

theorem w_Requests_replay :
    lacksReplay (asked (toErg kGet 64)) 26 (pkt (toErg kGet 64)) = false ∧
    scanOpen (asked (toErg kGet 64)) 26 = false ∧ scanOpen (session3 (asked (toErg kGet 64))) 26 = true := by
  and_intros <;> decide +kernel

theorem w_HanksBurstAndTimeOut_waits :
    burstWaits (up 4) 320 = false ∧
    burstWaits (setEng (up 4) 320 1 { Engine.init with state := .held, hold := 4 }) (spindleOf (up 4) 0) = true ∧
    noInjection (up 4) (srcSpindle (spindleOf (up 4) 0) 0) = true ∧ noInjection (up 4) (srcSpindle (spindleOf (up 4) 0) 1) = true ∧
    (let s := fset (working (.merge 7 0 0x12 [(0, .fin 1)])) .faultSource 10 0 (srcSpindle 320 1 % 2048) 31 16 1
     (slotCheck s 320).1 = true ∧ (getHank s 7).isSome = true) := by and_intros <;> decide +kernel

/-- `runner` past its drain, its wait begun. -/
def waitingAt (c : Nat) : State := atWord 0 c { runner with count := some 1, waitBegun := true, state := .waiting }

theorem w_DrainPointsWaitAndGoOn_later :
    (standsAt (waitingAt 0x21) 320 0 0x21 0x21 = true ∧ (getEng (waitingAt 0x21) 320 0).count.isSome = true ∧
      (getEng (waitingAt 0x21) 320 0).ended = none ∧ (getEng (waitingAt 0x21) 320 0).waitBegun = true ∧
      flagOf (beginCycle (waitingAt 0x21) 320 0) 320 0 = false ∧ soundTest (waitingAt 0x21) = true) ∧
    (let s := modSp (waitingAt 0x21) 320 (fun sp => { sp with flags := 1 })
     flagOf (beginCycle s 320 0) 320 0 = true ∧ (flagWaiters (beginCycle s 320 0) 320 0).length = 1) ∧
    (let s := atWord 0 0x21 { runner with count := some 1, ended := some 0 }
     standsAt s 320 0 0x21 0x21 = true ∧ (getEng s 320 0).ended = some 0) ∧
    (standsAt (waitingAt 0x23) 320 0 0x23 0x23 = true) := by and_intros <;> decide +kernel

theorem w_RaisesAndArrivalsTakeEffect_clearing :
    (let s : State := { modSp (atWord 0 1 runner) 320 (fun sp => { sp with clearing := 0x8000000000000000 }) with
       sync := [.raise 0 63] }
     soundTest s = true ∧ flagClearing s (spindleOf s 0) 63 = true ∧ restoring s 0 = false) ∧
    (let s : State := { up 4 with ops := [(0, { op 7 1 with params := [0, 1, 0] })] }
     restoring s 0 = true) := by and_intros <;> decide +kernel

theorem w_CommandsAreSkippedHeldOrStopped_held :
    (let s := atWord 0 1 { runner with state := .held, hold := 5 }
     engineClocked s 320 = true ∧ (getEng s 320 0).state = .held ∧ (getEng s 320 0).hold = 5 ∧
     (getEng s 320 0).faulting = none ∧ soundTest s = true) ∧
    engineActive { Engine.init with state := .halted } = false ∧
    runner.gets = [] ∧ runner.pc < 8192 ∧ getOverlap (getSp (atWord 1 0x40 runner) 320) [(0x100000, 256)] = false := by
  and_intros <;> decide +kernel

/-! ### Values the spec works out -/

/-- The worked hash of chapter 3: 0x242. -/
theorem test_route_hash : routeHash 0x02A41 0x13C07 0 = 0x242 := by decide +kernel

/-- Chapter 5: three BF16 contributions summed in EX320 give 0x3F80 in either order. -/
theorem test_exact_sum :
    let a := (accIn modeEx 0 2 0x4B80).1
    let b := (accIn modeEx 0 2 0x3F80).1
    let c := (accIn modeEx 0 2 0xCB80).1
    let sum (x y : Acc) := (accMerge modeEx 1 x y).1
    accOut modeEx 1 0 0 2 0 (sum (sum a b) c) = 0x3F80 ∧ accOut modeEx 1 0 0 2 0 (sum (sum a c) b) = 0x3F80 ∧
    (encodeGroup modeEx (sum a b :: List.replicate 15 (.fin 0))).take 6 = [0x95, 0x04, 1, 0, 0, 1] := by decide +kernel

/-- Chapter 5: WX128 with F = -10 takes each 3 * 2^-11 as 2, and EX320 gives the exact sum. -/
theorem test_wx_ties_to_even :
    let w := (accIn modeWx (-10) 1 0x3AC00000).1
    let x := (accIn modeEx 0 1 0x3AC00000).1
    w = .fin 2 ∧ accOut modeWx 1 0 (-10) 1 0 (accMerge modeWx 1 w w).1 = 0x3B800000 ∧
    accOut modeEx 1 0 0 1 0 (accMerge modeEx 1 x x).1 = 0x3B400000 := by decide +kernel

/-- Chapter 5: the MXFP8 E4M3 block of 300, 19/64, 470, IDENTITY and zeros. -/
theorem test_mxfp8_block :
    let vs : List FVal := [.num false 300 0, .num false 19 (-6), .num false 470 0, .num true 0 0] ++ List.replicate 28 (.num false 0 0)
    let r := encodeBlock 8 0 (vs.map (fun v => (v, 0)))
    r.1 = 0x7F ∧ r.2.take 4 = [0x79, 0x2A, 0x7E, 0x80] := by decide +kernel

/-- Chapter 5: Carding at seed, stream, step and index 0. -/
theorem test_carding : carding 0 0 0 0 = (0xCD890190, 0x50F1BBCB, 0x122FA6BB, 0x7072E5FA) := by decide +kernel

/-- Chapter 5: the digest mix. -/
theorem test_digest_mix :
    digestMix 0x5A5A5A5AA5A5A5A5 0 0x3F800000 = 0x5A5A6A89A5AD1576 ∧
    digestMix 0x3C3C3C3CC3C3C3C3 0 0x3F800000 = 0xC3C3C4ABC37CB4AB ∧
    digestMix 0x5A5A5A5AA5A5A5A5 1 0x40000000 = 0x5B5C9C5AED2838EE := by decide +kernel

/-- Chapter 11: handle 0x8000_3112_3456_7890 lies in page 9,337 of MD3, channel 25, physical page 291. -/
theorem test_handle_place :
    26 + bits 0x1234567890 13 12 = 29 ∧ pageOf 0x1234567890 = 9337 ∧ withinOf 0x1234567890 = 0x8A890 ∧
    defaultHome 0 9337 = 25 * 8192 + 291 ∧ defaultHome 1 9337 = 33 * 8192 + 778 := by decide +kernel

/-- Chapter 14: the address of SPINDLE_MAP_HI of SD12, and the failure word of a command during B3. -/
theorem test_register_address :
    regAddr .spindleMap 22 0 1 = 0xB12000000008 ∧ decodeAddr 0xB12000000008 = some (.spindleMap, 1) ∧
    failWord 2 0 3 = wordBytes 0x03000002 := by decide +kernel

/-- Chapter 14, orders 1 and 2: the COMMAND during B3 is answered BRINGUP. -/
theorem test_command_during_bringup :
    let s : State := { up 1 with module := { (up 1).module with phase := 3 } }
    (match exec (.regRead 0x7001 0xB12000000008 1) s with
     | .next t => t.cp.queue.any (fun m => m.status == 9 && m.tag == 0x7001 && m.payload == wordBytes 0x03000002)
         && t.cp.remembered.isEmpty
     | _ => false) = true := by decide +kernel

/-- Chapter 14, order 4, before any spare swap: SPINDLE_MAP_HI reads slots 8 to 15. -/
theorem test_spindle_map_is_read :
    (match exec (.regRead 0x7002 0xB12000000008 1) (up 4) with
     | .next t => t.cp.queue.any (fun m => m.status == 0 && m.payload == wordBytes 0x0F0E0D0C0B0A0908)
     | _ => false) = true := by decide +kernel

/-- Chapter 17: SPINDLE kind 1 of slot 9 of die 22 is source 0xB087, and word 0 of its record. -/
theorem test_fault_source :
    srcSpindle (32 * 22 + 9) 1 = 0xB087 ∧
    (recordWords { severity := 3, injected := false, action := 1, source := 0xB087, seq := 57, address := 0, suppressed := 0,
                   cycle := 0, detail := [] }).headD 0 = 0x39B0871310 := by decide +kernel

/-- Chapter 9: the slots of groups 0, 1 and 2 of the first tile's row 0. -/
theorem test_tile_slots :
    let row : List Nat := [0x3F80, 0, 0xC000, 0, 0, 0, 0x4040, 0, 0, 0, 0, 0]
    (upTo 0 3).map (fun g => groupSlots (groupNonzero row 32 0 g)) = [[0, 2], [0, 2], [0, 1]] := by decide +kernel

/-! ### One step each -/

/-- A step on a state and a command, looked at by a test. -/
def after (c : Instr) (s : State) (p : State → Bool) : Bool :=
  match step { s with pending := [c] } with
  | .next t => p t && t.pending.isEmpty
  | _ => false

/-- R201: the step is committed. -/
theorem test_step_commit : after (.stepCommit 1 0 5 2) (up 4)
    (fun t => (getJob t 0).committed == some 5 && (getJob t 0).attempt == 2) = true := by decide +kernel

/-- R180, R226: a hank of one IX96 slot claims 3 granules of the first spindle, from granule 0. -/
theorem test_hank_open : after (.hankOpen 1 sumDesc) (up 4)
    (fun t => t.hanks.length == 1 && (getSp t 320).claims == [{ hank := 7, slot := 0, start := 0, len := slotGranules modeIx }])
    = true := by decide +kernel

/-- R388: CREDIT of the shared pool adds what it returns. -/
theorem test_credit : after (.credit 0 (3 + 2 ^ 8 + 65 * 2 ^ 16)) fabric (fun t => (getPort t 0).credShared == 65) = true := by
  decide +kernel

/-- R445, R513: RST_N low holds the part in reset with RESET_CAUSE 2. -/
theorem test_rst_n : after .rstNLow (up 4) (fun t => t.module.held && t.module.resetCause == 2 && t.module.errLow) = true := by
  decide +kernel

/-- R264, R217: S.LI puts its immediate in flight to S5 and the program goes on; it lands in the next cycle. -/
theorem test_s_li :
    let c := 0x10 + 2 ^ 16 + 5 * 2 ^ 32 + 77 * 2 ^ 64
    after (.sLi 10 0 0) (atWord 0 c runner) (fun t => (getEng t 320 0).pc == 1 && (getEng t 320 0).now == 1
      && (getEng t 320 0).flight.map (fun f => (f.due, f.tgt)) == [(1, .sreg 5 77)]) = true := by decide +kernel

/-- R256: a count of 0 passes over the command in no cycle. -/
theorem test_zero_count : after (.nop 10 0 0) (atWord 0 0x01 runner) (fun t => (getEng t 320 0).pc == 1
    && (getEng t 320 0).now == 0 && (getEng t 320 0).passed) = true := by decide +kernel

/-- R245: a reserved opcode raises ILLEGAL, whichever engine row comes to it. -/
theorem test_illegal : after (.nop 10 0 0) (atWord 0 0xFF runner) (fun t => (getEng t 320 0).state == .faulted) = true := by
  decide +kernel

/-- R518: the test chain of a D3 session passes the dies in scope in ascending order, and of no other session. -/
theorem test_tap :
    (let s := fun l : Nat => modSec (up 4) (fun c => { c with session := some ⟨l, 0xC0000400, none⟩ })
     tapChain (s 3) = [10, 30, 31] ∧ tapChain (s 2) = []) := by decide +kernel

/-- Events and commands of units the part does not have are refused by name. -/
theorem test_no_such_unit : (match step { up 4 with pending := [.get 25] } with
    | .refused (.noSuchUnit _) => true
    | _ => false) = true := by decide +kernel

theorem w_EveryStepKeepsTheMachineSound : soundTest (up 4) = true ∧ soundTest fabric = true ∧ (up 4).pending = [] := by
  and_intros <;> decide +kernel

end Sys2Proof.Tests
end

section
/-! SUPPORT. Registers after a write to a field of one of them, with no assumption on the sparse store. -/

namespace Sys2Proof.Machine

/-- A key looked up after an insertion, in a store of any form. -/
theorem mapFind_insert {α : Type} (m : SMap α) (v : α) (k j : Nat) :
    mapFind (mapIns m k v) j = if j = k then some v else mapFind m j := by
  induction m with
  | nil => by_cases hj : j = k <;> simp [mapIns, mapFind, hj]
  | cons e r ih =>
    obtain ⟨i, w⟩ := e
    rcases Nat.lt_trichotomy k i with hk | rfl | hk
    · rw [mapIns, if_neg (by omega), if_pos hk]
      rcases Nat.lt_trichotomy j k with hj | rfl | hj
      · simp [mapFind, hj, show j ≠ k by omega, show j ≠ i by omega, show j < i by omega]
      · simp [mapFind]
      · simp [mapFind, show j ≠ k by omega, show ¬ j < k by omega]
    · rw [mapIns, if_pos rfl]
      by_cases hj : j = k <;> simp [mapFind, hj]
    · rw [mapIns, if_neg (by omega), if_neg (by omega)]
      simp only [mapFind, ih]
      split
      · rw [if_neg (by omega)]
      · split
        · rw [if_neg (by omega)]
        · rfl

theorem bits_eq (n hi lo : Nat) : bits n hi lo = n / 2 ^ lo % 2 ^ (hi + 1 - lo) := by
  rw [bits, Nat.shiftRight_eq_div_pow]

/-- Replacing a field leaves what stands above and below it. -/
theorem setBits_toNat (w : Word) {hi lo : Nat} (v : Nat) (hh : hi < 64) (hl : lo ≤ hi) :
    (setBits w hi lo v).toNat
      = 2 ^ (hi + 1) * (w.toNat / 2 ^ (hi + 1)) + v % 2 ^ (hi + 1 - lo) * 2 ^ lo + w.toNat % 2 ^ lo := by
  have hw : w.toNat / 2 ^ (hi + 1) < 2 ^ (63 - hi) := by
    rw [Nat.div_lt_iff_lt_mul (by positivity), ← Nat.pow_add, show 63 - hi + (hi + 1) = 64 by omega]
    exact w.isLt
  have hv : v % 2 ^ (hi + 1 - lo) < 2 ^ (hi + 1 - lo) := Nat.mod_lt _ (by positivity)
  have hc : w.toNat % 2 ^ lo < 2 ^ lo := Nat.mod_lt _ (by positivity)
  have hp : 2 ^ (hi + 1) = 2 ^ (hi + 1 - lo) * 2 ^ lo := by rw [← Nat.pow_add]; congr 1; omega
  have hq : 2 ^ (hi + 1) * 2 ^ (63 - hi) = 2 ^ 64 := by rw [← Nat.pow_add]; congr 1; omega
  have hsplit : w.toNat = 2 ^ (hi + 1) * (w.toNat / 2 ^ (hi + 1)) + bits w.toNat hi lo * 2 ^ lo + w.toNat % 2 ^ lo := by
    rw [bits_eq, hp, Nat.mul_comm (2 ^ (hi + 1 - lo)), ← Nat.div_div_eq_div_mul, Nat.mul_assoc]
    conv_lhs => rw [← Nat.div_add_mod w.toNat (2 ^ lo), ← Nat.div_add_mod (w.toNat / 2 ^ lo) (2 ^ (hi + 1 - lo))]
    ring
  have hlt : 2 ^ (hi + 1) * (w.toNat / 2 ^ (hi + 1)) + v % 2 ^ (hi + 1 - lo) * 2 ^ lo + w.toNat % 2 ^ lo < 2 ^ 64 := by
    have h1 : (v % 2 ^ (hi + 1 - lo) + 1) * 2 ^ lo ≤ 2 ^ (hi + 1) := by rw [hp]; exact Nat.mul_le_mul_right _ hv
    have h2 : 2 ^ (hi + 1) * (w.toNat / 2 ^ (hi + 1) + 1) ≤ 2 ^ 64 := by rw [← hq]; exact Nat.mul_le_mul_left _ hw
    rw [Nat.add_mul, Nat.one_mul] at h1
    rw [Nat.mul_add, Nat.mul_one] at h2
    omega
  have hnew : w.toNat - bits w.toNat hi lo * 2 ^ lo + v % 2 ^ (hi + 1 - lo) * 2 ^ lo
      = 2 ^ (hi + 1) * (w.toNat / 2 ^ (hi + 1)) + v % 2 ^ (hi + 1 - lo) * 2 ^ lo + w.toNat % 2 ^ lo := by omega
  rw [setBits, word, BitVec.toNat_ofNat, hnew, Nat.mod_eq_of_lt hlt]

/-- A field reads back what was put there. -/
theorem bits_setBits_same (w : Word) {hi lo : Nat} (v : Nat) (hh : hi < 64) (hl : lo ≤ hi) :
    bits (setBits w hi lo v).toNat hi lo = v % 2 ^ (hi + 1 - lo) := by
  have hc : w.toNat % 2 ^ lo < 2 ^ lo := Nat.mod_lt _ (by positivity)
  have hp : 2 ^ (hi + 1) = 2 ^ lo * 2 ^ (hi + 1 - lo) := by rw [← Nat.pow_add]; congr 1; omega
  rw [bits_eq, setBits_toNat w v hh hl, hp, Nat.mul_assoc, Nat.mul_comm _ (2 ^ lo), ← Nat.mul_add, Nat.mul_add_div (by positivity), Nat.div_eq_of_lt hc, Nat.add_zero, Nat.mul_add_mod, Nat.mod_mod]

/-! ### Fields that count -/

/-- A write that leaves a field of the register other than at reset lists the register in the store. -/
theorem fset_regs (s : State) (r : Reg) (d i k : Nat) {hi lo v : Nat} (hh : hi < 64) (hl : lo ≤ hi)
    (hr : bits (word (regReset r d k)).toNat hi lo = 0) (hv : v % 2 ^ (hi + 1 - lo) ≠ 0) :
    (fset s r d i k hi lo v).regs
      = mapIns s.regs (regAddr r d i k) (setBits (word (rget s r d i k)) hi lo v) := by
  have hw : word (setBits (word (rget s r d i k)) hi lo v).toNat = setBits (word (rget s r d i k)) hi lo v := by
    simp [word]
  have hne : setBits (word (rget s r d i k)) hi lo v ≠ word (regReset r d k) := fun e =>
    hv (by rw [← bits_setBits_same _ v hh hl, e, hr])
  rw [fset, rset_regs, hw, mapPut, if_neg hne]

/-- What registers read after such a write: the register written, and every other. -/
theorem rget_fset (s : State) (r : Reg) (d i k : Nat) {hi lo v : Nat} (hh : hi < 64) (hl : lo ≤ hi)
    (hr : bits (word (regReset r d k)).toNat hi lo = 0) (hv : v % 2 ^ (hi + 1 - lo) ≠ 0) (r' : Reg) (d' i' k' : Nat) :
    rget (fset s r d i k hi lo v) r' d' i' k'
      = if regAddr r' d' i' k' = regAddr r d i k then (setBits (word (rget s r d i k)) hi lo v).toNat
        else rget s r' d' i' k' := by
  rw [rget, fset_regs s r d i k hh hl hr hv, mapFind_insert]
  by_cases h : regAddr r' d' i' k' = regAddr r d i k
  · rw [if_pos h, if_pos h]
  · rw [if_neg h, if_neg h, rget]

theorem satAdd_one_mod {w : Nat} (hw : 0 < w) (a : Nat) : satAdd w a 1 % 2 ^ w ≠ 0 := by
  have h : 2 ≤ 2 ^ w := by simpa using Nat.pow_le_pow_right (show 0 < 2 by decide) hw
  rw [satAdd, Nat.mod_eq_of_lt (by omega)]
  omega

/-- A count that goes up by one leaves every other register. -/
theorem rget_fadd_other (s : State) (r : Reg) (d i k : Nat) {hi lo : Nat} (hh : hi < 64) (hl : lo ≤ hi)
    (hr : bits (word (regReset r d k)).toNat hi lo = 0) {r' : Reg} {d' i' k' : Nat}
    (hne : regAddr r' d' i' k' ≠ regAddr r d i k) :
    rget (fadd s r d i k hi lo 1) r' d' i' k' = rget s r' d' i' k' := by
  rw [fadd, rget_fset s r d i k hh hl hr (satAdd_one_mod (by omega) _), if_neg hne]

theorem cpCount_reset (d k hi lo : Nat) : bits (word (regReset .cpCount d k)).toNat hi lo = 0 := by
  simp [regReset, regRow, word, bits]

theorem cpCount_addr (d k : Nat) : regAddr .cpCount d 0 k = d * 2 ^ 43 + 0x21 * 2 ^ 36 + 0x100 + 8 * k := by
  simp [regAddr, regHome, regRow, unitAddr]

theorem faultSource_addr (d k : Nat) : regAddr .faultSource d 0 k = d * 2 ^ 43 + 0x2000 + 8 * k := by
  simp [regAddr, regHome, regRow, unitAddr]

theorem eventQueue_addr : regAddr .eventQueue 30 0 0 = 30 * 2 ^ 43 + 0x21 * 2 ^ 36 + 8 := by
  simp [regAddr, regHome, regRow, unitAddr]

/-- The catalogue's severities are 5 at most (R485). -/
theorem sourceRows_severity (n : Nat) : ∀ r ∈ sourceRows n, ∀ kd ∈ r.kinds, kd.severity ≤ 5 := by
  rcases Nat.lt_or_ge n 4 with h | h
  · interval_cases n <;> decide
  · obtain ⟨m, rfl⟩ : ∃ m, n = m + 4 := ⟨n - 4, by omega⟩
    exact (by decide : ∀ r ∈ sourceRows 4, ∀ kd ∈ r.kinds, kd.severity ≤ 5)

theorem findSource_severity {i : Nat} {l : List SourceRow} {x : SourceRow × Nat × Kind}
    (hl : ∀ r ∈ l, ∀ kd ∈ r.kinds, kd.severity ≤ 5) (h : findSource i l = some x) : x.2.2.severity ≤ 5 := by
  induction l with
  | nil => cases h
  | cons r l ih =>
    simp only [findSource] at h
    split at h
    · obtain rfl := Option.some.inj h
      show ((r.kinds.drop _).headD reserved).severity ≤ 5
      cases hk : r.kinds.drop ((i - r.base) % r.kinds.length) with
      | nil => decide
      | cons kd t => exact hl r (List.mem_cons_self ..) kd (List.mem_of_mem_drop (hk ▸ List.mem_cons_self ..))
    · exact ih (fun r hr => hl r (List.mem_cons_of_mem _ hr)) h

/-- A source has counted nothing at reset (R503). -/
theorem faultSource_reset (d k : Nat) : bits (word (regReset .faultSource d k)).toNat 63 32 = 0 := by
  have h : regReset .faultSource d k < 2 ^ 32 := by
    simp only [regReset]
    split
    · next r n kd hs =>
      have := findSource_severity (sourceRows_severity _) hs
      simp only [b2n] at this ⊢
      split <;> omega
    · decide
  rw [bits_eq, word, BitVec.toNat_ofNat]
  omega

/-- Counting an event of a source keeps its severity. -/
theorem severityOf_countSource (s : State) (id : Nat) : severityOf (countSource s id) id = severityOf s id := by
  unfold countSource
  dsimp only
  split
  · rfl
  · have hw : rget s .faultSource (id / 2048) 0 (id % 2048) % 2 ^ 3
        = (word (rget s .faultSource (id / 2048) 0 (id % 2048))).toNat % 2 ^ 3 := by
      rw [word, BitVec.toNat_ofNat]; omega
    rw [severityOf, severityOf, fget, fget, fadd,
      rget_fset s _ _ _ _ (by decide) (by decide) (faultSource_reset ..) (satAdd_one_mod (by decide) _), if_pos rfl,
      setBits_toNat _ _ (by decide) (by decide)]
    simp only [bits_eq]
    omega

theorem severityOf_cpCount (s : State) (d id : Nat) {k : Nat} (hk : k < 8) :
    severityOf (fadd s .cpCount d 0 k 47 0 1) id = severityOf s id := by
  rw [severityOf, severityOf, fget, fget, rget_fadd_other s _ _ _ _ (by decide) (by decide) (cpCount_reset ..)]
  rw [cpCount_addr, faultSource_addr]
  have := Nat.mod_lt id (show 0 < 2048 by decide)
  omega

end Sys2Proof.Machine
end

section
/-! SUPPORT. What an acknowledgement leaves, and what a report leaves of the frames not acknowledged and of CP_COUNT_0. -/

namespace Sys2Proof.Machine

/-! ### Acknowledgements are reports -/

theorem reportLost_reported (s : State) : Reported s (reportLost s) := by
  have h (l : List (Nat × BitVec 32 × Nat)) (t : State) :
      Reported t (l.foldl (fun s e => sendEventW s (activeDie s) 7 [e.1, e.2.1.toNat, e.2.2]) t) := by
    induction l generalizing t with
    | nil => exact .refl t
    | cons e l ih => exact (sendEventW_reported ..).trans (ih _)
  unfold reportLost
  exact ite_reported _ (.refl s) ((lost_reported s (fun _ => [])).trans (h _ _))

theorem released_reported (s : State) (l : List (BitVec 32 × CpMsg × Nat)) :
    Reported s (modCp s (fun c => { c with unacked := l })) := rfl

theorem cpAcked_reported (s : State) (seq : BitVec 32) : Reported s (cpAcked s seq) := by
  unfold cpAcked
  exact ite_reported _ ((released_reported s _).trans ((reportLost_reported _).trans (pump_reported _))) (.refl s)

/-- An acknowledgement that names no frame sent changes nothing. -/
theorem cpAcked_unknown {s : State} {seq : BitVec 32} (h : s.cp.unacked.any (fun e => e.1 == seq) = false) :
    cpAcked s seq = s := by
  rw [cpAcked, h]; rfl

namespace Reported
variable {s t : State}

theorem ops_eq (h : Reported s t) : t.ops = s.ops := by unfold Reported at h; rw [h]
theorem staging_eq (h : Reported s t) : t.staging = s.staging := by unfold Reported at h; rw [h]
theorem episodes_eq (h : Reported s t) : t.episodes = s.episodes := by unfold Reported at h; rw [h]
theorem phase_eq (h : Reported s t) : t.module.phase = s.module.phase := by unfold Reported at h; rw [h]
theorem module_state_eq (h : Reported s t) : t.module.state = s.module.state := by unfold Reported at h; rw [h]
theorem running_eq (h : Reported s t) : running t = running s := by unfold Reported at h; rw [h]; rfl
theorem step_eq (h : Reported s t) : t.cp.step = s.cp.step := by unfold Reported at h; rw [h]
theorem rxNext_eq (h : Reported s t) : t.cp.rxNext = s.cp.rxNext := by unfold Reported at h; rw [h]
theorem placed_eq (h : Reported s t) : t.cp.placed = s.cp.placed := by unfold Reported at h; rw [h]
theorem remembered_eq (h : Reported s t) : t.cp.remembered = s.cp.remembered := by unfold Reported at h; rw [h]
theorem awaiting_eq (h : Reported s t) : t.cp.awaiting = s.cp.awaiting := by unfold Reported at h; rw [h]
theorem lastPlaced_eq (h : Reported s t) : lastPlaced t = lastPlaced s := by
  rw [lastPlaced, h.placed_eq, h.rxNext_eq, lastPlaced]
theorem listens_eq (h : Reported s t) : listens t = listens s := by
  rw [listens, cpUp, h.running_eq, h.step_eq, listens, cpUp]

end Reported

theorem eventQueue_reset : bits (word (regReset .eventQueue 30 0)).toNat 55 32 = 0 := by
  simp [regReset, regRow, word, bits]

/-! ### What reports leave of the frames not acknowledged and of CP_COUNT_0 -/

/-- Going from s to t no frame has been released, and CP_COUNT_0 of every die reads as before. -/
def KeepsCheckCount (s t : State) : Prop :=
  s.cp.unacked.length ≤ t.cp.unacked.length ∧ ∀ d, rget t .cpCount d 0 0 = rget s .cpCount d 0 0

namespace KeepsCheckCount

theorem of_eq {s t : State} (hu : t.cp.unacked = s.cp.unacked) (hr : t.regs = s.regs) : KeepsCheckCount s t :=
  ⟨by rw [hu], fun d => by simp only [rget, hr]⟩

theorem trans {s t u : State} (h : KeepsCheckCount s t) (k : KeepsCheckCount t u) : KeepsCheckCount s u :=
  ⟨h.1.trans k.1, fun d => (k.2 d).trans (h.2 d)⟩

theorem ite {s t u : State} (b : Prop) [Decidable b] (h : KeepsCheckCount s t) (k : KeepsCheckCount s u) :
    KeepsCheckCount s (if b then t else u) := by
  split <;> assumption

/-- A count of another register goes up. -/
theorem of_fadd (s : State) (r : Reg) (d k : Nat) {hi lo : Nat} (hh : hi < 64) (hl : lo ≤ hi)
    (hr : bits (word (regReset r d k)).toNat hi lo = 0) (hne : ∀ d', regAddr .cpCount d' 0 0 ≠ regAddr r d 0 k) :
    KeepsCheckCount s (fadd s r d 0 k hi lo 1) :=
  ⟨by rw [fadd_cp], fun d' => rget_fadd_other s r d 0 k hh hl hr (hne d')⟩

theorem of_cpCount (s : State) (d : Nat) {k : Nat} (hk : 0 < k) (h8 : k < 8) :
    KeepsCheckCount s (fadd s .cpCount d 0 k 47 0 1) :=
  of_fadd s _ _ _ (by decide) (by decide) (cpCount_reset ..) (fun d' => by
    rw [cpCount_addr, cpCount_addr]; omega)

theorem of_countSource (s : State) (id : Nat) : KeepsCheckCount s (countSource s id) :=
  ite _ (of_eq rfl rfl) (of_fadd s _ _ _ (by decide) (by decide) (faultSource_reset ..) (fun d' => by
    have := Nat.mod_lt id (show 0 < 2048 by decide)
    rw [cpCount_addr, faultSource_addr]; omega))

theorem of_pumpList (s : State) (l : List CpMsg) : KeepsCheckCount s (pumpList s l) := by
  induction l generalizing s with
  | nil => exact of_eq rfl rfl
  | cons m l ih =>
    unfold pumpList
    refine ite _ (trans ?_ (ih _)) (of_eq rfl rfl)
    exact ⟨by simp [emit], fun _ => rfl⟩

theorem of_pump (s : State) : KeepsCheckCount s (pump s) := ite _ (of_pumpList s _) (of_eq rfl rfl)

/-- The highest use of the event queue is kept. -/
theorem of_eventQueue (s : State) {v : Nat} (hv : v % 2 ^ (55 + 1 - 32) ≠ 0) :
    KeepsCheckCount s (fset s .eventQueue 30 0 0 55 32 v) := by
  refine ⟨by rw [fset_cp], fun d => ?_⟩
  rw [rget_fset s _ _ _ _ (by decide) (by decide) eventQueue_reset hv, if_neg]
  rw [cpCount_addr, eventQueue_addr]
  omega

theorem of_noteHigh (s : State) : KeepsCheckCount s (noteHigh s) := by
  unfold noteHigh
  dsimp only
  split
  next h => exact of_eventQueue s (by omega)
  next => exact of_eq rfl rfl

theorem of_noteDropped (s : State) (die : Nat) (q : BitVec 32) : KeepsCheckCount s (noteDropped s die q) :=
  (of_cpCount s _ (by decide) (by decide)).trans (of_eq rfl rfl)

theorem of_setErr (s : State) (b : Bool) : KeepsCheckCount s (setErr s b) := ite _ (of_eq rfl rfl) (of_eq rfl rfl)

theorem of_pulseErr (s : State) : KeepsCheckCount s (pulseErr s) :=
  (of_eq (t := modModule s (fun m => { m with pulse := true })) rfl rfl).trans (of_setErr _ _)

theorem of_suppressRecord (s : State) (w : Window) (r : FaultRec) : KeepsCheckCount s (suppressRecord s w r) := of_eq rfl rfl

theorem of_openWindow (s : State) (id : Nat) : KeepsCheckCount s (openWindow s id) := of_eq rfl rfl

theorem of_records (s : State) (l : List FaultRec) (n : BitVec 32) :
    KeepsCheckCount s { s with records := l, nextRecord := n } := of_eq rfl rfl

theorem of_putRecord (s : State) (r : FaultRec) : KeepsCheckCount s (putRecord s r).2.2 := by
  unfold putRecord
  exact of_records ..

theorem of_formRecord (s : State) (id sev action : Nat) (inj : Bool) (a : Nat) (d : List Word) :
    KeepsCheckCount s (formRecord s id sev action inj a d).2 := of_eq rfl rfl

theorem of_modDie (s : State) (die : Nat) (f : Die → Die) : KeepsCheckCount s (modDie s die f) := of_eq rfl rfl

theorem of_queued (s : State) (l : List CpMsg) : KeepsCheckCount s { s with cp := { s.cp with queue := l } } := of_eq rfl rfl

theorem of_dropRecord (s : State) (id sev : Nat) : KeepsCheckCount s (dropRecord s id sev) := by
  unfold dropRecord
  dsimp only
  refine (of_formRecord s id sev 0 false (sourceUnit id) []).trans ?_
  split
  · exact of_suppressRecord _ _ _
  · exact (of_openWindow _ _).trans <| (of_putRecord _ _).trans <| (of_modDie _ _ _).trans <| (of_noteDropped _ _ _).trans <|
      (of_countSource _ _).trans (of_suppressRecord _ _ _)

theorem of_dropEvent (s : State) (die : Nat) (q : BitVec 32) : KeepsCheckCount s (dropEvent s die q) := by
  have h := (of_noteDropped s die q).trans (of_countSource _ (srcDistaff (activeDie s) 3))
  unfold dropEvent
  dsimp only
  generalize countSource (noteDropped s die q) (srcDistaff (activeDie s) 3) = t at h ⊢
  generalize severityOf t (srcDistaff (activeDie s) 3) = sev
  have k := ite (sev ≤ 1) h (h.trans (of_dropRecord t (srcDistaff (activeDie s) 3) sev))
  exact ite _ k (k.trans (of_pulseErr _))

theorem of_sendEvent (s : State) (die ty : Nat) (body : List Byte) : KeepsCheckCount s (sendEvent s die ty body) := by
  unfold sendEvent
  dsimp only
  refine (of_modDie s die (fun d => { d with eventSeq := d.eventSeq + 1 })).trans ?_
  generalize modDie s die (fun d => { d with eventSeq := d.eventSeq + 1 }) = t
  refine trans (t := (freeCycle t).2) (of_eq rfl rfl) ?_
  split
  · exact of_cpCount _ _ (by decide) (by decide)
  · split
    · exact of_dropEvent _ _ _
    · exact (of_queued _ _).trans ((of_noteHigh _).trans (of_pump _))

theorem of_storeOverwritten (s : State) : KeepsCheckCount s (storeOverwritten s) := by
  unfold storeOverwritten
  have h := of_countSource s (srcCollector (activeDie s) 0)
  have pulsed {t : State} (b : Prop) [Decidable b] (k : KeepsCheckCount s t) :
      KeepsCheckCount s (if b then t else pulseErr t) := ite b k (k.trans (of_pulseErr t))
  refine pulsed _ (ite _ h (h.trans ?_))
  dsimp only
  generalize countSource s (srcCollector (activeDie s) 0) = t
  generalize srcCollector (activeDie s) 0 = id
  refine (of_formRecord t id (severityOf t id) 0 false (sourceUnit id) []).trans ?_
  generalize formRecord t id (severityOf t id) 0 false (sourceUnit id) [] = x
  split
  · exact of_suppressRecord _ _ _
  · refine (of_openWindow x.2 id).trans ((of_putRecord _ x.1).trans ?_)
    have k := of_sendEvent (putRecord (openWindow x.2 id) x.1).2.2 (id / 2048) 3
      (wordsBytes (recordWords (putRecord (openWindow x.2 id) x.1).2.1))
    exact ite _ (k.trans ((of_countSource _ id).trans (of_suppressRecord _ _ _))) k

theorem of_keepRecord (s : State) (r : FaultRec) : KeepsCheckCount s (keepRecord s r) := by
  unfold keepRecord
  have h := (of_putRecord s r).trans (of_sendEvent _ ((putRecord s r).2.1.source / 2048) 3
    (wordsBytes (recordWords (putRecord s r).2.1)))
  exact ite _ (h.trans (of_storeOverwritten _)) h

theorem of_storeRecord (s : State) (r : FaultRec) : KeepsCheckCount s (storeRecord s r) := by
  unfold storeRecord
  split
  · exact of_suppressRecord _ _ _
  · exact (of_openWindow _ _).trans (of_keepRecord _ _)

theorem of_storeRecords (s : State) (l : List FaultRec) : KeepsCheckCount s (l.foldl storeRecord s) := by
  induction l generalizing s with
  | nil => exact of_eq rfl rfl
  | cons r l ih => exact (of_storeRecord s r).trans (ih _)

/-- A source of severity NOTIFY at most (R486). -/
theorem of_raiseN (n : Nat) (s : State) (id : Nat) (inj : Bool) (detail : List Word) (h : severityOf s id ≤ 2) :
    KeepsCheckCount s (raiseN n s id inj detail) := by
  have hc := of_countSource s id
  cases n with
  | zero => exact hc
  | succ n =>
    unfold raiseN
    dsimp only
    split
    · exact hc
    · rw [if_pos (.inl (by omega))]
      exact hc.trans (of_eq rfl rfl)

theorem of_raiseFault (s : State) (id : Nat) (h : severityOf s id ≤ 2) : KeepsCheckCount s (raiseFault s id) := by
  have h1 : KeepsCheckCount s (raiseN 4 { s with raised := [] } id false []) :=
    trans (of_eq (t := { s with raised := [] }) rfl rfl) (of_raiseN 4 { s with raised := [] } id false [] h)
  exact h1.trans ((of_storeRecords _ _).trans (of_eq rfl rfl))

end KeepsCheckCount
end Sys2Proof.Machine
end

section
/-! SUPPORT. Frames of the control port as they come in, and O28: the link frames. -/

namespace Sys2Proof.Machine

/-! ### The check of a frame (R411, R492) -/

theorem takeInjection_quiet {s : State} {id : Nat} (h : noInjection s id = true) : takeInjection s id = (false, s) := by
  rw [noInjection, beq_iff_eq] at h
  rw [takeInjection, if_pos h]

/-- With no check left to inject, a frame passes exactly when it is intact. -/
theorem frameFails_quiet {s : State} (h : noInjection s (srcControlPort (activeDie s) 2) = true) (ok : Bool) :
    frameFails s ok = if ok then (false, s)
      else (true, raiseFault (cpCountUp s 0) (srcControlPort (activeDie s) 2)) := by
  simp only [frameFails, injected, takeInjection_quiet h]

theorem cpIntact_length {w0 w1 w2 w3 : Word} {payload : List Byte} (h : cpIntact w0 w1 w2 w3 payload = true) :
    cpLength w0 = payload.length := by
  simp only [cpIntact, Bool.and_eq_true, beq_iff_eq] at h
  exact h.1.symm

/-! ### LINK frames (R407, R410, R411) -/

section
variable {s : State} {w0 w1 w2 w3 : Word} {payload : List Byte} {kind len : Nat} {act : State → State}

/-- A LINK frame of the row's kind that passes its check acts, once what it acknowledges is released. -/
theorem linkFrame_acts (hr : running s = true) (hq : noInjection s (srcControlPort s.module.activeKd 2) = true)
    (hi : cpIntact w0 w1 w2 w3 payload = true) (hv : wbits w0 7 0 = 0x10) (ht : cpType w0 = 5)
    (hk : wbits w2 3 0 = kind) (hl : payload.length = len) :
    linkFrame s kind len w0 w1 w2 w3 payload act
      = act (if cpUp s then cpAcked s (w1.extractLsb' 32 32) else s) := by
  have hlen : cpLength w0 = len := (cpIntact_length hi).trans hl
  simp [linkFrame, hr, frameFails_quiet (s := s) hq, hi, hv, ht, hk, hlen]

/-- One of another VERSION changes nothing (R12). -/
theorem linkFrame_version (hr : running s = true) (hq : noInjection s (srcControlPort s.module.activeKd 2) = true)
    (hi : cpIntact w0 w1 w2 w3 payload = true) (hv : wbits w0 7 0 ≠ 0x10) :
    linkFrame s kind len w0 w1 w2 w3 payload act = s := by
  simp [linkFrame, hr, frameFails_quiet (s := s) hq, hi, hv]

end

theorem noPayload_nil {w0 w1 w2 w3 : Word} (h : cpIntact w0 w1 w2 w3 [] = true) : noPayload w0 = [] := by
  rw [noPayload, cpIntact_length h]; rfl

theorem cpUp_of_step {s : State} {n : Nat} (h : s.cp.step = n) (hn : n ≠ 4) : cpUp s = false := by
  simp [cpUp, h, hn]

/-! ### What each kind does -/

/-- The four ALIGN headers, one to a lane (R408). -/
theorem sendAligns_eq (s : State) : sendAligns s = { s with
    freeCtr := s.freeCtr + 4,
    out := s.out ++ (upTo 0 4).map (fun lane => cpLinkOut (lastPlaced s) 4
      (lane * 2 ^ 4 + wbits (Config.freeWord (s.freeCtr + lane)) 31 0 * 2 ^ 32) []) } := by
  simp [sendAligns, upTo, freeWord, emit, lastPlaced]

theorem takeAlign_step2 {s : State} (h : s.cp.step = 2) (lane : Nat) :
    takeAlign lane s =
      let a := s.cp.aligned ||| BitVec.ofNat 4 (2 ^ lane)
      { s with cp := { s.cp with aligned := a, step := if a = 0xF then 3 else 2 },
               out := if a = 0xF then s.out ++ [cpLinkOut (lastPlaced s) 1 0 (ownHello s false)] else s.out } := by
  rw [takeAlign, if_neg (by omega)]
  dsimp only
  split
  · rfl
  · rw [modCp, ← h]

/-- Frames sent stay in their order: what is unacknowledged, then what waits. -/
theorem pumpList_order (s : State) (l : List CpMsg) :
    (pumpList s l).cp.unacked.map (fun e => e.2.1) ++ (pumpList s l).cp.queue
      = s.cp.unacked.map (fun e => e.2.1) ++ l := by
  induction l generalizing s with
  | nil => rfl
  | cons m r ih =>
    unfold pumpList
    split
    · rw [ih]; simp [emit]
    · rfl

theorem pump_order (s : State) :
    (pump s).cp.unacked.map (fun e => e.2.1) ++ (pump s).cp.queue
      = s.cp.unacked.map (fun e => e.2.1) ++ s.cp.queue := by
  unfold pump
  split
  · exact pumpList_order s _
  · rfl

/-- Every frame sent fewer than 15 times is sent again once. -/
theorem resendList_all (s : State) (l : List (BitVec 32 × CpMsg × Nat)) (h : ∀ e ∈ l, e.2.2 < 15) :
    (resendList s l).1 = l.map (fun e => (e.1, e.2.1, e.2.2 + 1)) ∧ (resendList s l).2.1 = false ∧
      (resendList s l).2.2 = { s with regs := (resendList s l).2.2.regs,
                                      out := s.out ++ l.map (fun e => numberedOut s e.1 e.2.1) } := by
  induction l generalizing s with
  | nil => simp [resendList]
  | cons e r ih =>
    obtain ⟨q, m, n⟩ := e
    have hn : n < 15 := h _ (List.mem_cons_self ..)
    obtain ⟨h1, h2, h3⟩ := ih (cpCountUp (emit s (numberedOut s q m)) 2) (fun e he => h e (List.mem_cons_of_mem _ he))
    unfold resendList
    rw [if_neg (by omega)]
    dsimp only
    refine ⟨by rw [h1]; rfl, h2, ?_⟩
    rw [h3]
    simp [cpCountUp, numberedOut, lastPlaced, emit]

/-- NAK sends every unacknowledged frame again (R413). -/
theorem cpResend_all {s : State} (h : ∀ e ∈ s.cp.unacked, e.2.2 < 15) :
    (cpResend s).cp = { s.cp with unacked := s.cp.unacked.map (fun e => (e.1, e.2.1, e.2.2 + 1)) } ∧
      (cpResend s).out = s.out ++ s.cp.unacked.map (fun e => numberedOut s e.1 e.2.1) ∧
      cpResend s = { s with cp := (cpResend s).cp, out := (cpResend s).out, regs := (cpResend s).regs } := by
  obtain ⟨h1, h2, h3⟩ := resendList_all s s.cp.unacked h
  have hr : cpResend s = { (resendList s s.cp.unacked).2.2 with
      cp := { (resendList s s.cp.unacked).2.2.cp with unacked := s.cp.unacked.map (fun e => (e.1, e.2.1, e.2.2 + 1)) } } := by
    rw [cpResend]
    dsimp only
    rw [h2, h1]
    rfl
  rw [hr, h3]
  exact ⟨rfl, rfl, rfl⟩

/-- What an acknowledgement releases: the frames up to the one it names (R412). -/
theorem cpAcked_releases {s : State} {q : BitVec 32} {m : CpMsg} {n : Nat} {pre post : List (BitVec 32 × CpMsg × Nat)}
    (hu : s.cp.unacked = pre ++ (q, m, n) :: post) (hp : ∀ e ∈ pre, e.1 ≠ q) (hl : s.cp.lost = [])
    (hq : s.cp.queue = []) : cpAcked s q = { s with cp := { s.cp with unacked := post } } := by
  have hd : (s.cp.unacked.dropWhile (fun e => e.1 != q)).drop 1 = post := by
    rw [hu, List.dropWhile_append_of_pos (fun e he => by simpa using hp e he)]
    simp
  have ha : s.cp.unacked.any (fun e => e.1 == q) = true := by rw [hu]; simp
  rw [cpAcked, if_pos ha, reportLost, if_pos (.inl hl), pump]
  simp only [modCp, hd, hq, pumpList]
  split <;> simp [← hq]

/-! ### The HELLO at step 3 (R410) -/

theorem takeHello_accepted {s : State} {h : List Byte} (hs : s.cp.step = 3) (ha : helloRefused h = false)
    (hj : wbit (wordAt h 0) 17 = false) :
    takeHello h s = pump { s with cp := { s.cp with
      step := 4, rxFrames := wbits (wordAt h 8) 15 0, rxKib := wbits (wordAt h 8) 31 16 } } := by
  simp [takeHello, hs, ha, hj, modCp]

theorem takeHello_refused {s : State} {h : List Byte} (hs : s.cp.step = 3) (ha : helloRefused h = true) :
    takeHello h s = modCp (sendHello (cpRestart s) true) (fun c => { c with step := 0 }) := by
  simp [takeHello, hs, ha]

/-! ### O28 -/

/-- Settles O28: each kind of LINK frame passes its check (`linkFrame_acts`) and does what its own lemma says. -/
theorem linkFramesBringTheLinkUp : Obligations.LinkFramesBringTheLinkUp := by
  refine ⟨fun s w0 w1 w2 w3 hr hq ht => ⟨?lock, ?align, ?version, ?hello, ?ack, ?nak⟩, ?released⟩
  case lock =>
    intro hs
    show Host.Outcome.next (if running s ∧ s.cp.step = 1 then _ else s) = _
    rw [if_pos ⟨hr, hs⟩, sendAligns_eq]
    rfl
  case align =>
    intro hv hi hk hs
    show Host.Outcome.next (linkFrame s 4 0 w0 w1 w2 w3 (noPayload w0) _) = _
    rw [noPayload_nil hi, linkFrame_acts hr hq hi hv ht hk List.length_nil, cpUp_of_step hs (by decide), if_neg (by decide),
      takeAlign_step2 hs]
  case version =>
    intro hv hi i hm
    simp only [List.mem_cons, List.not_mem_nil, or_false] at hm
    rcases hm with rfl | rfl | rfl
    · show Host.Outcome.next (linkFrame s 2 0 w0 w1 w2 w3 (noPayload w0) _) = _
      rw [noPayload_nil hi, linkFrame_version hr hq hi hv]
    · show Host.Outcome.next (linkFrame s 3 0 w0 w1 w2 w3 (noPayload w0) _) = _
      rw [noPayload_nil hi, linkFrame_version hr hq hi hv]
    · show Host.Outcome.next (linkFrame s 4 0 w0 w1 w2 w3 (noPayload w0) _) = _
      rw [noPayload_nil hi, linkFrame_version hr hq hi hv]
  case hello =>
    intro h hl hi hv hk hs
    have he : exec (.linkFrameHello w0 w1 w2 w3 h) s = .next (takeHello h s) := by
      show Host.Outcome.next (linkFrame s 1 32 w0 w1 w2 w3 h (takeHello h)) = _
      rw [linkFrame_acts hr hq hi hv ht hk hl, cpUp_of_step hs (by decide), if_neg (by decide)]
    refine ⟨fun ha hj => ⟨_, he, ?_⟩, fun ha => ⟨_, he, ?_⟩⟩
    · rw [takeHello_accepted hs ha hj]
      exact ⟨pump_cp _, pump_order _, by conv_lhs => rw [pump_eq]⟩
    · rw [takeHello_refused hs ha]
      exact ⟨rfl, rfl, rfl⟩
  case ack =>
    intro hv hi hk hu
    show Host.Outcome.next (linkFrame s 2 0 w0 w1 w2 w3 (noPayload w0) id) = _
    rw [noPayload_nil hi, linkFrame_acts hr hq hi hv ht hk List.length_nil, if_pos hu, id]
  case nak =>
    intro hv hi hk hu _ hany hn
    refine ⟨cpResend s, ?_, cpResend_all hn⟩
    show Host.Outcome.next (linkFrame s 3 0 w0 w1 w2 w3 (noPayload w0) _) = _
    rw [noPayload_nil hi, linkFrame_acts hr hq hi hv ht hk List.length_nil, if_pos hu, cpAcked_unknown hany, if_pos hu]
  case released =>
    intro s q m n pre post hu hp hl hq
    rw [cpAcked_releases hu hp hl hq]
    exact ⟨rfl, rfl⟩

end Sys2Proof.Machine
end

section
/-! SUPPORT. Numbered frames of the control port, and O27: COMMAND and BULK frames. -/

namespace Sys2Proof.Machine

/-! ### Parameter words of a payload (R423) -/

theorem bytesNat_natBytes_eq (k n : Nat) : bytesNat (natBytes k n) = n % 256 ^ k := by
  induction k generalizing n with
  | zero => simp [natBytes, bytesNat, Nat.mod_one]
  | succ k ih =>
    have h : n % 256 ^ (k + 1) = n % 256 + 256 * (n / 256 % 256 ^ k) := by rw [Nat.pow_succ', Nat.mod_mul]
    rw [natBytes, bytesNat, ih, BitVec.toNat_ofNat, h]

theorem wordAt_wordsBytes (ws : List Word) (k : Nat) (hk : k < ws.length) : wordAt (wordsBytes ws) (8 * k) = ws[k] := by
  induction ws generalizing k with
  | nil => simp at hk
  | cons w ws ih =>
    have hl : (wordBytes w).length = 8 := wordBytes_length w
    rw [wordAt, show wordsBytes (w :: ws) = wordBytes w ++ wordsBytes ws from rfl]
    cases k with
    | zero =>
      rw [Nat.mul_zero, List.drop_zero, List.take_append_of_le_length (by omega), List.take_of_length_le (by omega),
        wordBytes, bytesNat_natBytes_eq, Nat.mod_eq_of_lt (by simpa using w.isLt), word]
      simp
    | succ k =>
      rw [show 8 * (k + 1) = (wordBytes w).length + 8 * k by omega, List.drop_append, List.drop_eq_nil_of_le (by omega),
        Nat.add_sub_cancel_left, List.nil_append]
      exact ih k (by simpa using hk)

/-- Parameter k of a payload made of parameter words. -/
theorem cpParam_words (ws : List Word) (k : Nat) (hk : k < ws.length) : cpParam (wordsBytes ws) k = ws[k].toNat := by
  rw [cpParam, wordAt_wordsBytes ws k hk]

theorem word_toNat {n : Nat} (h : n < 2 ^ 64) : (word n).toNat = n := by
  rw [word, BitVec.toNat_ofNat, Nat.mod_eq_of_lt h]

/-- A command whose payload has its length is that command. -/
theorem sized_words {ws : List Word} {n : Nat} {c : Cmd} (hl : ws.length = n) (hc : c.lengthOk = true) :
    sized (wordsBytes ws) n c = c := by
  have h : (wordsBytes ws).length == 8 * n := by rw [wordsBytes_length, hl, beq_iff_eq]
  rw [sized, h, ← hc]

/-- Every row of `framesOf` names the command that its instruction takes (R423): the parameter words are read back, and
the payload has the length that the row asks for. -/
theorem framesOf_command (s : State) (tag : Nat) {a b c d : Nat} (ha : a < 2 ^ 64) (hb : b < 2 ^ 64) (hc : c < 2 ^ 64)
    (hd : d < 2 ^ 64) : ∀ r ∈ framesOf tag a b c d, ∃ x : Cmd,
      commandOf s tag r.1 (wordsBytes (r.2.1.map word)) = some x ∧ x.tag = tag ∧ x.opcode = r.1 ∧
        exec r.2.2 s = .next (takeCommand s x) := by
  have hwa := word_toNat ha
  have hwb := word_toNat hb
  have hwc := word_toNat hc
  have hwd := word_toNat hd
  intro r hr
  simp only [framesOf, List.mem_cons, List.not_mem_nil, or_false] at hr
  rcases hr with rfl | rfl | rfl | rfl | rfl | rfl | rfl | rfl | rfl | rfl | rfl | rfl | rfl | rfl | rfl | rfl | rfl | rfl |
    rfl | rfl | rfl | rfl | rfl
  all_goals
    refine ⟨_, ?_, rfl, rfl, rfl⟩
    simp (disch := simp) only [commandOf, startCommand, List.map_cons, List.map_nil, cpParam_words, List.getElem_cons_zero,
      List.getElem_cons_succ, hwa, hwb, hwc, hwd, word_toNat]
    exact congrArg some (sized_words rfl rfl)

/-! ### A numbered frame (R411, R412, R413) -/

theorem framePlaced_eq (s : State) (w1 : Word) :
    sendCpLink (modCp (cpAcked s (w1.extractLsb' 32 32)) (fun c => { c with rxNext := c.rxNext + 1, placed := true })) 2
      = framePlaced s w1 := by
  have h := (cpAcked_reported s (w1.extractLsb' 32 32)).rxNext_eq
  simp [sendCpLink, emit, modCp, lastPlaced, framePlaced, h]

section
variable {s : State} {w0 w1 w2 w3 : Word} {payload : List Byte} {type : Nat} {legal : Bool} {place : State → State}

/-- A frame of the row's TYPE that is intact and next in sequence is placed, and acts where R407 lets it. -/
theorem numberedRow_placed (hl : listens s = true) (hi : cpIntact w0 w1 w2 w3 payload = true)
    (hq : noInjection s (srcControlPort s.module.activeKd 2) = true) (hs : w1.extractLsb' 0 32 = s.cp.rxNext)
    (ht : cpType w0 = type) (h4 : 1 ≤ type ∧ type ≤ 4) (hg : legal = true) :
    numberedRow s type w0 w1 w2 w3 payload legal place = place (framePlaced s w1) := by
  have hr := (cpAcked_reported s (w1.extractLsb' 32 32)).rxNext_eq
  rw [← framePlaced_eq]
  simp [numberedRow, ht, h4, numbered, hl, hi, frameFails_quiet (s := s) hq, hr, hs, hg]

/-- One that fails its check is answered with a NAK, whatever its TYPE. -/
theorem numberedRow_fails (hl : listens s = true) (hi : cpIntact w0 w1 w2 w3 payload = false)
    (hq : noInjection s (srcControlPort s.module.activeKd 2) = true) :
    numberedRow s type w0 w1 w2 w3 payload legal place
      = sendNak (raiseFault (cpCountUp s 0) (srcControlPort (activeDie s) 2)) := by
  simp [numberedRow, numbered, unnumbered, hl, hi, frameFails_quiet (s := s) hq]

/-- One out of sequence that acknowledges nothing is answered with a NAK. -/
theorem numberedRow_sequence (hl : listens s = true) (hi : cpIntact w0 w1 w2 w3 payload = true)
    (hq : noInjection s (srcControlPort s.module.activeKd 2) = true)
    (ha : s.cp.unacked.any (fun e => e.1 == w1.extractLsb' 32 32) = false) (hs : w1.extractLsb' 0 32 ≠ s.cp.rxNext)
    (h4 : 1 ≤ cpType w0 ∧ cpType w0 ≤ 4) :
    numberedRow s type w0 w1 w2 w3 payload legal place = sendNak s := by
  simp [numberedRow, h4, numbered, hl, hi, frameFails_quiet (s := s) hq, cpAcked_unknown ha, hs]

/-- One whose TYPE is not that of a numbered frame is discarded and counted. -/
theorem numberedRow_type (hl : listens s = true) (hi : cpIntact w0 w1 w2 w3 payload = true)
    (hq : noInjection s (srcControlPort s.module.activeKd 2) = true)
    (ha : s.cp.unacked.any (fun e => e.1 == w1.extractLsb' 32 32) = false) (h4 : cpType w0 = 0 ∨ 4 < cpType w0) :
    numberedRow s type w0 w1 w2 w3 payload legal place = cpCountUp s 4 := by
  rw [numberedRow, if_neg (by omega)]
  simp [unnumbered, hl, hi, frameFails_quiet (s := s) hq, cpAcked_unknown ha]

end

theorem sendNak_up {s : State} (h : cpUp s = true) :
    sendNak s = { cpCountUp s 1 with out := s.out ++ [cpLinkOut (lastPlaced s) 3 0 []] } := by
  rw [sendNak, if_pos h]
  rfl

/-! ### What placing a frame leaves -/

section
variable (s : State) (w1 : Word)

theorem framePlaced_phase : (framePlaced s w1).module.phase = s.module.phase := (cpAcked_reported s _).phase_eq
theorem framePlaced_module_state : (framePlaced s w1).module.state = s.module.state := (cpAcked_reported s _).module_state_eq
theorem framePlaced_listens : listens (framePlaced s w1) = listens s := (cpAcked_reported s _).listens_eq
theorem framePlaced_remembered (tag : Nat) : findRemembered (framePlaced s w1) tag = findRemembered s tag :=
  congrArg (fun l => l.reverse.find? (fun r => r.tag == tag)) (cpAcked_reported s _).remembered_eq
theorem framePlaced_staging : (framePlaced s w1).staging = s.staging := (cpAcked_reported s _).staging_eq
theorem framePlaced_bufferLocked (b : Nat) : bufferLocked (framePlaced s w1) b = bufferLocked s b := by
  have h := cpAcked_reported s (w1.extractLsb' 32 32)
  rw [bufferLocked, bufferLocked, ← h.ops_eq, ← h.awaiting_eq]
  rfl

end

/-! ### A COMMAND frame placed (R416, R418, R423) -/

section
variable {p : State} {w0 w2 : Word} {pl : List Byte}

/-- A command sent for the first time that the table holds is taken like the row that stands for it. -/
theorem placeCommand_row (hl : listens p = true) (hv : wbits w0 7 0 = 0x10) (hf : wbit w2 48 = false) {c : Cmd}
    (hc : commandOf p (wbits w2 31 0) (wbits w2 47 32) pl = some c) (ht : c.tag = wbits w2 31 0)
    (ho : c.opcode = wbits w2 47 32) : placeCommand w0 w2 pl p = takeCommand p c := by
  simp [placeCommand, takeCommand, hl, hv, hf, takeKnown, hc, ht, ho]

/-- One sent again is answered with the outcome remembered, or not yet. -/
theorem placeCommand_again (hv : wbits w0 7 0 = 0x10) (hf : wbit w2 48 = true) (h6 : 6 ≤ p.module.phase) {r : Remembered}
    (hr : findRemembered p (wbits w2 31 0) = some r) :
    (∀ st l, r.done = some (st, l) → placeCommand w0 w2 pl p = respond p (wbits w2 31 0) r.opcode st l) ∧
      (r.done = none → placeCommand w0 w2 pl p = p) := by
  constructor
  · intro st l hd
    simp [placeCommand, hv, hf, takeKnown, Nat.not_lt.2 h6, hr, hd]
  · intro hd
    simp [placeCommand, hv, hf, takeKnown, Nat.not_lt.2 h6, hr, hd]

theorem placeCommand_unknown (hv : wbits w0 7 0 = 0x10) (hf : wbit w2 48 = false) (h6 : 6 ≤ p.module.phase)
    (hc : commandOf p (wbits w2 31 0) (wbits w2 47 32) pl = none) :
    placeCommand w0 w2 pl p = takeUnknown p (wbits w2 31 0) (wbits w2 47 32) := by
  simp [placeCommand, hv, hf, takeKnown, Nat.not_lt.2 h6, hc]

end

/-- The table holds no other OPCODE. -/
theorem commandOf_unknown (s : State) (tag : Nat) {opcode : Nat} (pl : List Byte)
    (h : opcode ∉ [0x10, 0x11, 0x20, 0x21, 0x22, 0x28, 0x29, 0x30, 0x31, 0x38, 0x39, 0x40, 0x48, 0x49, 0x4A, 0x50, 0x51,
      0x52, 0x53, 0x54, 0x55, 0x60, 0x68, 0x70]) : commandOf s tag opcode pl = none := by
  simp only [List.mem_cons, List.not_mem_nil, or_false, not_or] at h
  unfold commandOf
  split <;> simp_all

/-- An answer waits or has been sent. -/
theorem answer_frame (s : State) (tag opcode status : Nat) (payload : List Byte) :
    { type := 2, tag := BitVec.ofNat 32 tag, opcode := BitVec.ofNat 16 opcode, status := BitVec.ofNat 8 status,
      payload := payload } ∈ (answer s tag opcode status payload).cp.queue
        ++ (answer s tag opcode status payload).cp.unacked.map (fun e => e.2.1) :=
  pump_mem (answering s tag opcode status payload) _ (by simp [answering, modCp])

/-- A NOT_SUPPORTED answer waits or has been sent, and changes nothing but the control link. -/
theorem answer_notSupported (s : State) (tag opcode : Nat) (payload : List Byte) :
    { type := 2, tag := BitVec.ofNat 32 tag, opcode := BitVec.ofNat 16 opcode, status := 8, payload := payload }
        ∈ (answer s tag opcode stNotSupported payload).cp.queue
          ++ (answer s tag opcode stNotSupported payload).cp.unacked.map (fun e => e.2.1) ∧
      answer s tag opcode stNotSupported payload = { s with
        cp := (answer s tag opcode stNotSupported payload).cp, out := (answer s tag opcode stNotSupported payload).out } :=
  ⟨answer_frame s tag opcode stNotSupported payload, answer_eq s tag opcode stNotSupported payload⟩

theorem takeUnknown_eq (s : State) (tag opcode : Nat) :
    takeUnknown s tag opcode = answer (noted s tag opcode) tag opcode stNotSupported (failWord 4 0 0) := rfl

/-- The answer to an OPCODE that the table does not hold (order 4). -/
theorem takeUnknown_answers (s : State) (tag opcode : Nat) :
    { type := 2, tag := BitVec.ofNat 32 tag, opcode := BitVec.ofNat 16 opcode, status := 8, payload := failWord 4 0 0 }
        ∈ (takeUnknown s tag opcode).cp.queue ++ (takeUnknown s tag opcode).cp.unacked.map (fun e => e.2.1) ∧
      takeUnknown s tag opcode = { s with cp := (takeUnknown s tag opcode).cp, out := (takeUnknown s tag opcode).out } := by
  obtain ⟨r, hr⟩ := noted_form s tag opcode
  rw [takeUnknown_eq, hr]
  exact answer_notSupported _ tag opcode (failWord 4 0 0)

/-! ### A frame that fails its check (R411) -/

/-- CP_COUNT_0 has gone up by one, and what stands above it is left. -/
theorem rget_cpCountUp (s : State) : rget (cpCountUp s 0) .cpCount (activeDie s) 0 0
    = satAdd 48 (fget s .cpCount (activeDie s) 0 0 47 0) 1 + bits (rget s .cpCount (activeDie s) 0 0) 63 48 * 2 ^ 48 := by
  have hlt : rget s .cpCount (activeDie s) 0 0 < 2 ^ 64 := by
    unfold rget
    split
    · exact BitVec.isLt _
    · exact (by decide : (0 : Nat) < 2 ^ 64)
  have hm := satAdd_one_mod (w := 47 + 1 - 0) (by decide) (fget s .cpCount (activeDie s) 0 0 47 0)
  rw [cpCountUp, fadd, rget_fset s _ _ _ _ (by decide) (by decide) (cpCount_reset ..) hm, if_pos rfl,
    setBits_toNat _ _ (by decide) (by decide), word_toNat hlt]
  simp only [bits_eq, satAdd]
  omega

/-- A source that at most reports still does once another register has counted. -/
theorem raiseFault_afterCount {s : State} {id : Nat} (h : severityOf s id ≤ 2) :
    Reported (cpCountUp s 0) (raiseFault (cpCountUp s 0) id) ∧
      KeepsCheckCount (cpCountUp s 0) (raiseFault (cpCountUp s 0) id) := by
  have h' : severityOf (cpCountUp s 0) id ≤ 2 := by rwa [cpCountUp, severityOf_cpCount _ _ _ (by decide)]
  exact ⟨raiseFault_reported _ _ h', KeepsCheckCount.of_raiseFault _ _ h'⟩

/-- What a frame that fails its check leaves: the NAK, the count, and nothing placed or released. -/
theorem failedFrame_leaves {s : State} (hu : cpUp s = true) (h : onlyReports s (srcControlPort (activeDie s) 2) = true) :
    let t := sendNak (raiseFault (cpCountUp s 0) (srcControlPort (activeDie s) 2))
    cpLinkOut (lastPlaced s) 3 0 [] ∈ t.out ∧ t.cp.rxNext = s.cp.rxNext ∧ t.cp.placed = s.cp.placed ∧
      t.cp.unacked.length ≥ s.cp.unacked.length ∧ t.staging = s.staging ∧ t.cp.remembered = s.cp.remembered ∧
      rget t .cpCount s.module.activeKd 0 0 = satAdd 48 (fget s .cpCount s.module.activeKd 0 0 47 0) 1
        + bits (rget s .cpCount s.module.activeKd 0 0) 63 48 * 2 ^ 48 := by
  obtain ⟨hr, hk⟩ := raiseFault_afterCount (of_decide_eq_true h)
  generalize raiseFault (cpCountUp s 0) (srcControlPort (activeDie s) 2) = u at hr hk
  have hup : cpUp u = true := by rw [cpUp, hr.step_eq]; exact hu
  have hn : KeepsCheckCount u (cpCountUp u 1) := KeepsCheckCount.of_cpCount u _ (by decide) (by decide)
  have hlast : lastPlaced u = lastPlaced s := hr.lastPlaced_eq
  rw [sendNak_up hup, hlast]
  refine ⟨List.mem_append_right _ (List.mem_singleton.2 rfl), hr.rxNext_eq, hr.placed_eq, hk.1, hr.staging_eq,
    hr.remembered_eq, ?_⟩
  exact (hn.2 _).trans ((hk.2 _).trans (rget_cpCountUp s))

/-! ### O27 -/

/-- Settles O27: a frame in sequence is placed (`numberedRow_placed`), a COMMAND frame is then the row it names
(`framesOf_command`), and a BULK frame stores its payload. -/
theorem commandAndBulkFramesArrive : Obligations.CommandAndBulkFramesArrive := by
  refine ⟨?command, ?failed, ?bulk⟩
  case command =>
    intro s w0 w1 w2 w3 payload hl hi hq hs ht hlen p tag opcode
    have hp : listens p = true := (framePlaced_listens s w1).trans hl
    have he : exec (.command w0 w1 w2 w3 payload) s = .next (placeCommand w0 w2 payload p) := by
      show Host.Outcome.next (numberedRow s 1 w0 w1 w2 w3 payload _ _) = _
      rw [numberedRow_placed hl hi hq hs ht (by decide) (by rw [cpIntact_length hi]; exact decide_eq_true hlen)]
    rw [he]
    refine ⟨fun hv => ?_, fun hv hf a b c d ha hb hc hd r hr ho hpl => ?_, fun hv hf h6 => ?_, fun hv hf h6 ho => ?_⟩
    · rw [placeCommand, if_pos hv]
    · obtain ⟨x, hx, hxt, hxo, hex⟩ := framesOf_command p tag ha hb hc hd r hr
      have hx' : commandOf p tag opcode payload = some x := by rw [ho, hpl]; exact hx
      rw [hex, placeCommand_row hp hv hf hx' hxt (hxo.trans ho.symm)]
    · have h6' : 6 ≤ p.module.phase := (framePlaced_phase s w1).symm ▸ h6
      refine ⟨fun r st l hr hd => ?_, fun r hr hd => ?_⟩
      · rw [(placeCommand_again hv hf h6' ((framePlaced_remembered s w1 tag).trans hr)).1 st l hd]
      · rw [(placeCommand_again hv hf h6' ((framePlaced_remembered s w1 tag).trans hr)).2 hd]
    · have h6' : 6 ≤ p.module.phase := (framePlaced_phase s w1).symm ▸ h6
      rw [placeCommand_unknown hv hf h6' (commandOf_unknown p tag payload ho)]
      exact ⟨_, rfl, takeUnknown_answers p tag opcode⟩
  case failed =>
    intro s w0 w1 w2 w3 payload hl hq i hm
    have hu : cpUp s = true := by rw [listens, Bool.and_eq_true] at hl; exact hl.2
    obtain ⟨type, legal, place, he⟩ : ∃ type legal place,
        exec i s = .next (numberedRow s type w0 w1 w2 w3 payload legal place) := by
      simp only [List.mem_cons, List.not_mem_nil, or_false] at hm
      rcases hm with rfl | rfl
      · exact ⟨_, _, _, rfl⟩
      · exact ⟨_, _, _, rfl⟩
    rw [he]
    refine ⟨fun hi ho _ => ?_, fun hi ha => ⟨fun h1 h4 hs => ?_, fun ht => ?_⟩⟩
    · rw [numberedRow_fails hl hi hq]
      exact ⟨_, rfl, failedFrame_leaves hu ho⟩
    · rw [numberedRow_sequence hl hi hq ha hs ⟨h1, h4⟩, sendNak_up hu]
    · rw [numberedRow_type hl hi hq ha ht]
  case bulk =>
    intro s w0 w1 w2 w3 payload hl hi hq hs ht h1 h2 p b o
    have he : exec (.bulk w0 w1 w2 w3 payload) s = .next (placeBulk w0 w2 payload p) := by
      show Host.Outcome.next (numberedRow s 4 w0 w1 w2 w3 payload _ _) = _
      rw [numberedRow_placed hl hi hq hs ht (by decide) (by rw [cpIntact_length hi]; simp [h1, h2])]
    rw [he]
    refine ⟨fun hv => ?_, fun hv hb h6 hk hm => ?_, fun hv hd => ?_⟩
    · rw [placeBulk]
      simp only [hv, if_true, ne_eq, not_false_eq_true]
    · rw [placeBulk, if_neg (not_not_intro hv), if_neg, framePlaced_staging]
      rw [framePlaced_phase, framePlaced_bufferLocked, framePlaced_module_state, hk]
      simp [hm]; omega
    · rw [placeBulk, if_neg (not_not_intro hv), if_pos]
      rwa [framePlaced_phase, framePlaced_bufferLocked, framePlaced_module_state]

end Sys2Proof.Machine
end

section
/-! SUPPORT. `hank.open` (R180). -/

namespace Sys2Proof.Machine

theorem mem_upTo {x : Nat} (a k : Nat) : x ∈ upTo a k ↔ a ≤ x ∧ x < a + k := by
  induction k generalizing a with
  | zero => simp only [upTo, List.not_mem_nil, false_iff]; omega
  | succ k ih => simp only [upTo, List.mem_cons, ih]; omega

theorem wbits_lt (w : Word) (hi lo : Nat) : wbits w hi lo < 2 ^ (hi + 1 - lo) := by
  rw [wbits, bits_eq]
  exact Nat.mod_lt _ (Nat.two_pow_pos _)

theorem hankDie_lt (d : List Byte) : hankDie (descOf d) < 32 := by
  have hb : (descOf d).spindleBase < 2 ^ (43 + 1 - 36) := wbits_lt ..
  unfold hankDie
  split <;> omega

/-- The dies of a hank are dies of the part. -/
theorem hankDies_lt (d : List Byte) : ∀ x ∈ hankDies (descOf d), x < 32 := by
  intro x hx
  have hb : (descOf d).spindleBase < 2 ^ (43 + 1 - 36) := wbits_lt ..
  simp only [hankDies, List.mem_eraseDups, List.mem_cons, List.mem_map] at hx
  rcases hx with rfl | ⟨l, -, rfl⟩
  · exact hankDie_lt d
  · omega

/-! ### What claiming does not look at -/

theorem claimSlot_cp (s : State) (c : ControlPort) (d : HankDesc) (j : Nat) :
    claimSlot { s with cp := c } d j = (claimSlot s d j).map (fun t => { t with cp := c }) := by
  have hk : slotKey { s with cp := c } d j = slotKey s d j := rfl
  have hsp : ∀ k, getSp { s with cp := c } k = getSp s k := fun _ => rfl
  have hl : ∀ k, fget { s with cp := c } .slotLimit (k / 32) (k % 32) 0 11 0 = fget s .slotLimit (k / 32) (k % 32) 0 11 0 :=
    fun _ => rfl
  simp only [claimSlot, hk, hsp, hl]
  cases lowestRun (getSp s (slotKey s d j)).claims
    (fget s .slotLimit (slotKey s d j / 32) (slotKey s d j % 32) 0 11 0) (slotGranules d.mode) with
  | none => rfl
  | some a => rfl

theorem claimSlots_cp (c : ControlPort) (d : HankDesc) (l : List Nat) (s : State) :
    claimSlots { s with cp := c } d l = (claimSlots s d l).map (fun t => { t with cp := c }) := by
  induction l generalizing s with
  | nil => rfl
  | cons j r ih =>
    rw [claimSlots, claimSlot_cp, claimSlots]
    cases claimSlot s d j with
    | none => rfl
    | some t => exact ih t

theorem claimSlot_out {s t : State} {d : HankDesc} {j : Nat} (h : claimSlot s d j = some t) : t.out = s.out := by
  unfold claimSlot at h
  dsimp only at h
  split at h
  · cases h
  · cases h; rfl

theorem claimSlots_out {d : HankDesc} {l : List Nat} {s t : State} (h : claimSlots s d l = some t) : t.out = s.out := by
  induction l generalizing s with
  | nil => cases h; rfl
  | cons j r ih =>
    obtain ⟨u, hu, hr⟩ := Option.bind_eq_some_iff.1 h
    exact (ih hr).trans (claimSlot_out hu)

theorem poolFree_cp (s : State) (c : ControlPort) (p : Nat) : poolFree { s with cp := c } p = poolFree s p := rfl

theorem fget_cp (s : State) (c : ControlPort) (r : Reg) (d i k hi lo : Nat) :
    fget { s with cp := c } r d i k hi lo = fget s r d i k hi lo := rfl

theorem noteLow_cp (s : State) (c : ControlPort) (p : Nat) : noteLow { s with cp := c } p = { noteLow s p with cp := c } := by
  have hs : ∀ r d i k hi lo v, fset { s with cp := c } r d i k hi lo v = { fset s r d i k hi lo v with cp := c } :=
    fun _ _ _ _ _ _ _ => rfl
  simp only [noteLow, poolFree_cp, fget_cp, hs]
  by_cases h : poolFree s p < fget s .poolStatus (poolDie p) p 0 52 32
  · simp only [h, if_true]
  · simp only [h, if_false]

theorem noteLow_out (s : State) (p : Nat) : (noteLow s p).out = s.out := by
  unfold noteLow
  split
  · exact fset_out ..
  · rfl

theorem poolAlloc_cp (s : State) (c : ControlPort) (p : Nat) :
    poolAlloc { s with cp := c } p = ((poolAlloc s p).1, (poolAlloc s p).2.1, { (poolAlloc s p).2.2 with cp := c }) := by
  have he : poolEnabled { s with cp := c } p = poolEnabled s p := rfl
  have hu : poolUsed { s with cp := c } p = poolUsed s p := rfl
  have hb : ∀ i, bobbin { s with cp := c } p i = bobbin s p i := fun _ => rfl
  have hs : ∀ u, setPool { s with cp := c } p u = { setPool s p u with cp := c } := fun _ => rfl
  have hf : ∀ r d i k hi lo n, fadd { s with cp := c } r d i k hi lo n = { fadd s r d i k hi lo n with cp := c } :=
    fun _ _ _ _ _ _ _ => rfl
  simp only [poolAlloc, he, hu, hb, hs, hf, poolFree_cp, noteLow_cp]
  cases poolEnabled s p with
  | false => rfl
  | true =>
    by_cases h0 : poolFree s p = 0
    · simp only [h0, Bool.not_true, Bool.false_eq_true, if_true, if_false]
    · simp only [h0, Bool.not_true, Bool.false_eq_true, if_false]

theorem poolAlloc_out (s : State) (p : Nat) : (poolAlloc s p).2.2.out = s.out := by
  unfold poolAlloc
  split
  · rfl
  · split
    · exact fset_out ..
    · exact noteLow_out _ p

theorem claimBobbins_cp (c : ControlPort) (p n : Nat) (s : State) (l : List Word) :
    claimBobbins p n { s with cp := c } l = (claimBobbins p n s l).map (fun x => (x.1, { x.2 with cp := c })) := by
  induction n generalizing s l with
  | zero => rfl
  | succ n ih =>
    rw [claimBobbins, claimBobbins, poolAlloc_cp]
    show (if unitContained s (poolDie p) 0x1C p then none else _) = _
    split
    · rfl
    · obtain ⟨st, w, t⟩ := poolAlloc s p
      cases st with
      | zero => exact ih t (l ++ [w])
      | succ _ => rfl

theorem claimBobbins_out {p n : Nat} {s : State} {l : List Word} {x : List Word × State}
    (h : claimBobbins p n s l = some x) : x.2.out = s.out := by
  induction n generalizing s l with
  | zero => cases h; rfl
  | succ n ih =>
    rw [claimBobbins] at h
    have ha := poolAlloc_out s p
    split at h
    · cases h
    · split at h
      · next he => rw [he] at ha; exact (ih h).trans ha
      · cases h

/-! ### The checks of R180 -/

/-- What a descriptor that passes checks 1 to 6 does is left to the claims. -/
theorem hankOpen_claims {s s1 s2 : State} {desc : List Byte} {staging : List Word}
    (hlen : ¬ desc.length < 80 + 8 * (descOf desc).memberCount) (hv : wbits (wordAt desc 0) 7 0 = 0x10)
    (hk : descKind (descOf desc) = true) (hf : descFields (descOf desc) = true) (hh : descHandle (descOf desc) = true)
    (hm : descMembers s (descOf desc) = true) (hp : descPool s (descOf desc) = true)
    (hn : getHank s (descOf desc).hank = none) (hl : s.hanks.length < 4096)
    (ha : ∀ i, i < (descOf desc).spindleSpan → logicalAvailable s (((descOf desc).spindleBase + i) % 256) = true)
    (hs : (descOf desc).syncEn = true → logicalAvailable s (descOf desc).syncSpindle = true)
    (hb : (descOf desc).type = 5 → barrierCount s (hankDie (descOf desc)) < 256)
    (h1 : claimSlots s (descOf desc) (upTo 0 (descOf desc).slotBudget) = some s1)
    (h2 : claimBobbins (exchPool (descOf desc))
      (if (descOf desc).type = 6 then (descOf desc).memberCount * stagingPer (descOf desc) else 0) s1 [] = some (staging, s2)) :
    hankOpen s desc = (stOk, 0, setHank s2 (descOf desc).hank (hankInit (descOf desc) (openBase s (descOf desc)) staging)) := by
  have hv' : wbits (descWord desc 0) 7 0 = 0x10 := hv
  have hav : (upTo (descOf desc).spindleBase (descOf desc).spindleSpan).any (fun l => !logicalAvailable s (l % 256)) = false := by
    rw [List.any_eq_false]
    intro l hl
    obtain ⟨hlo, hhi⟩ := (mem_upTo _ _).1 hl
    have := ha (l - (descOf desc).spindleBase) (by omega)
    rw [Nat.add_sub_cancel' hlo] at this
    simp [this]
  have hsync : ((descOf desc).syncEn && !logicalAvailable s (descOf desc).syncSpindle) = false := by
    cases he : (descOf desc).syncEn with
    | false => rfl
    | true => simp [hs he]
  have hbar : ¬ ((descOf desc).type = 5 ∧ 256 ≤ barrierCount s (hankDie (descOf desc))) :=
    fun ⟨h5, hc⟩ => absurd (hb h5) (by omega)
  unfold hankOpen
  simp only [hv', hk, hf, hh, hm, hp, hn, hav, hsync, hlen, h1, h2, ne_eq, not_true, if_false, Bool.not_true, Bool.or_false,
    decide_false, Bool.false_eq_true, Option.isSome_none, Nat.not_le.2 hl, hbar]

/-! ### O11 -/

/-- Settles O11: the checks pass, and the claims do not look at the control port. -/
theorem hankOpens : Obligations.HankOpens := by
  intro s s1 s2 tag desc staging hacc hst hlen hv hk hf hh hm hp hn hl ha hs hb h1 h2
  have hout : s2.out = s.out := (claimBobbins_out h2).trans (claimSlots_out h1)
  refine ⟨_, hankInit (descOf desc) (openBase s (descOf desc)) staging, rfl, ?_, rfl, rfl, rfl, rfl, rfl, rfl⟩
  refine takeCommand_done hacc rfl rfl ?_ rfl (fun _ => hst) (hankDies_lt desc) hout (fun r => ?_)
  · show (decide (80 ≤ desc.length) && desc.length % 8 == 0
      && decide (desc.length ≤ 80 + 8 * (descOf desc).memberCount)) = true
    simp only [hlen, Bool.and_eq_true, decide_eq_true_eq, beq_iff_eq]
    omega
  · have h1' := claimSlots_cp { s.cp with remembered := r } (descOf desc) (upTo 0 (descOf desc).slotBudget) s
    have h2' := claimBobbins_cp { s.cp with remembered := r } (exchPool (descOf desc))
      (if (descOf desc).type = 6 then (descOf desc).memberCount * stagingPer (descOf desc) else 0) s1 []
    rw [h1] at h1'
    rw [h2] at h2'
    show settle tag 0x20 (hankOpen { s with cp := { s.cp with remembered := r } } desc) = _
    rw [hankOpen_claims (s := { s with cp := { s.cp with remembered := r } }) (by omega) hv hk hf hh hm hp hn hl ha hs hb h1' h2']
    rfl

end Sys2Proof.Machine
end

section
/-! SUPPORT. `step.abort` (R198): packets put in line, the event, and poison counted as stale. -/

namespace Sys2Proof.Machine

/-! ### An event that is only issued or only counted (R433) -/

/-- Going from s to t an event has changed free values, event numbers, counting registers, the control port and the log
alone. -/
structure Announced (s t : State) : Prop where
  frame : t = { s with freeCtr := t.freeCtr, dies := t.dies, regs := t.regs, cp := t.cp, out := t.out }
  log : s.out <+: t.out

theorem Announced.trans {s t u : State} (h : Announced s t) (k : Announced t u) : Announced s u :=
  ⟨by rw [k.frame, h.frame], h.log.trans k.log⟩

theorem regs_announced (s : State) (l : SMap Word) : Announced s { s with regs := l } := ⟨rfl, List.prefix_rfl⟩

theorem cp_announced (s : State) (c : ControlPort) : Announced s { s with cp := c } := ⟨rfl, List.prefix_rfl⟩

theorem fset_announced (s : State) (r : Reg) (d i k hi lo v : Nat) : Announced s (fset s r d i k hi lo v) := by
  unfold fset rset; exact regs_announced ..

theorem fadd_announced (s : State) (r : Reg) (d i k hi lo n : Nat) : Announced s (fadd s r d i k hi lo n) := by
  unfold fadd; exact fset_announced ..

theorem noteHigh_announced (s : State) : Announced s (noteHigh s) := by
  unfold noteHigh
  dsimp only
  split
  · exact fset_announced ..
  · exact ⟨rfl, List.prefix_rfl⟩

theorem pump_announced (s : State) : Announced s (pump s) := by
  refine ⟨?_, pump_out s⟩
  have h := pump_eq s
  generalize pump s = t at h
  rw [h]

theorem noteDropped_announced (s : State) (die : Nat) (q : BitVec 32) : Announced s (noteDropped s die q) := by
  unfold noteDropped; exact (fadd_announced ..).trans (cp_announced ..)

theorem countSource_announced (s : State) (id : Nat) : Announced s (countSource s id) := by
  unfold countSource
  dsimp only
  split
  · exact ⟨rfl, List.prefix_rfl⟩
  · exact fadd_announced ..

theorem severityOf_dropped (s : State) (die id : Nat) (q : BitVec 32) :
    severityOf (countSource (noteDropped s die q) id) id = severityOf s id := by
  rw [severityOf_countSource]
  exact severityOf_cpCount s (activeDie s) id (by decide)

/-- A dropped event whose source only counts is counted (R433). -/
theorem dropEvent_announced {s : State} (die : Nat) (q : BitVec 32) (h : severityOf s (srcDistaff (activeDie s) 3) ≤ 1) :
    Announced s (dropEvent s die q) := by
  have hs := severityOf_dropped s die (srcDistaff (activeDie s) 3) q
  have ha : activeDie (noteDropped s die q) = activeDie s := rfl
  unfold dropEvent
  simp only [hs, h, if_true]
  rw [if_pos (by omega)]
  exact (noteDropped_announced s die q).trans (countSource_announced ..)

/-- An event that is no sample, for which there is room or whose loss is only counted. -/
theorem sendEvent_announced {s : State} (die : Nat) {ty : Nat} {body : List Byte} (hty : ty ≠ 2) (hb : body.length ≤ 80)
    (hr : eventRoom s 1 = true) : Announced s (sendEvent s die ty body) := by
  simp only [eventRoom, Bool.or_eq_true, decide_eq_true_eq] at hr
  unfold sendEvent
  dsimp only
  generalize ht : (freeCycle (modDie s die (fun d => { d with eventSeq := d.eventSeq + 1 }))).2 = t
  have h0 : Announced s t := by rw [← ht]; exact ⟨rfl, List.prefix_rfl⟩
  have hcp : t.cp = s.cp := by rw [← ht]; rfl
  have hsev : severityOf t (srcDistaff (activeDie t) 3) = severityOf s (srcDistaff (activeDie s) 3) := by rw [← ht]; rfl
  refine h0.trans ?_
  rw [if_neg (fun h => hty h.1), hcp]
  split
  · next hfull =>
    refine dropEvent_announced die _ (hsev ▸ hr.resolve_left (fun hroom => ?_))
    simp only [cpFrameBytes, List.length_append, wordsBytes_length, List.length_cons, List.length_nil] at hfull
    omega
  · refine Announced.trans ?_ (pump_announced _)
    refine Announced.trans ?_ (noteHigh_announced _)
    exact cp_announced t _

/-! ### Packets of an abort -/

/-- Going from s to t packets have been put in line, and nothing else. -/
def Enqueued (s t : State) : Prop := t = { s with ready := t.ready, nextUid := t.nextUid }

theorem Enqueued.refl (s : State) : Enqueued s s := rfl

theorem Enqueued.trans {s t u : State} (h : Enqueued s t) (k : Enqueued t u) : Enqueued s u := by
  unfold Enqueued at *
  rw [k, h]

theorem Enqueued.anyPlane_eq {s t : State} (h : Enqueued s t) : anyPlane t = anyPlane s := by
  unfold Enqueued at h
  rw [h]
  rfl

theorem Enqueued.eventRoom_eq {s t : State} (h : Enqueued s t) (n : Nat) : eventRoom t n = eventRoom s n := by
  unfold Enqueued at h
  rw [h]
  rfl

theorem sendAbort_enqueued {s : State} (h : anyPlane s = true) (die : Nat) (f : Fields) : Enqueued s (sendAbort s die f) := by
  unfold sendAbort
  rw [if_pos h]
  rfl

theorem foldl_enqueued {α : Type} {g : State → α → State} (hg : ∀ s x, anyPlane s = true → Enqueued s (g s x)) (l : List α)
    {s t : State} (hp : anyPlane s = true) (h : Enqueued s t) : Enqueued s (l.foldl g t) := by
  induction l generalizing t with
  | nil => exact h
  | cons x l ih => exact ih (h.trans (hg t x (h.anyPlane_eq.trans hp)))

theorem sendAbort_if_enqueued {s : State} (b : Prop) [Decidable b] (h : anyPlane s = true) (die : Nat) (f : Fields) :
    Enqueued s (if b then sendAbort s die f else s) := by
  split
  · exact sendAbort_enqueued h die f
  · exact .refl s

theorem sendAbort_else_enqueued {s : State} (b : Prop) [Decidable b] (h : anyPlane s = true) (die : Nat) (f : Fields) :
    Enqueued s (if b then s else sendAbort s die f) := by
  split
  · exact .refl s
  · exact sendAbort_enqueued h die f

/-- The job's attempt advances and its open hanks are discarded (R198, steps 1 and 2). -/
def abortReset (s : State) (job reason : Nat) : State :=
  let t := setJob s job { getJob s job with attempt := ((getJob s job).attempt + 1) % 256 }
  { t with
    hanks := t.hanks.map (fun e => if e.2.d.job = job then (e.1, hankReset (replayFrom s job) reason e.2) else e),
    spindles := mapAll t.spindles Spindle.init (fun _ sp => dropWork ((jobHanks s job).map (·.d.hank)) sp) }

/-- An event after packets have been put in line. -/
theorem announced_after {s u : State} (h : Enqueued s u) (hr : eventRoom s 1 = true) (die : Nat) {ty : Nat} {body : List Nat}
    (hty : ty ≠ 2) (hb : body.length ≤ 10) :
    ∃ u', Enqueued s u' ∧ Announced u' (sendEventW u die ty body) ∧ Reported u' (sendEventW u die ty body) := by
  refine ⟨u, h, sendEvent_announced die hty ?_ ((h.eventRoom_eq 1).trans hr), sendEventW_reported ..⟩
  rw [wordsBytes_length, List.length_map]
  omega

/-- After the reset an abort puts packets in line and issues one event. -/
theorem abortJob_announced {s : State} {job : Nat} (hp : anyPlane s = true) (hr : eventRoom s 1 = true) (which : List Hank)
    (up : Bool) (hank aux step reason origin : Nat) :
    ∃ u, Enqueued (abortReset s job reason) u ∧
      Announced u (abortJob s job which up hank aux step reason origin) ∧
      Reported u (abortJob s job which up hank aux step reason origin) := by
  have hp' : anyPlane (abortReset s job reason) = true := hp
  have hr' : eventRoom (abortReset s job reason) 1 = true := hr
  unfold abortJob
  dsimp only
  refine announced_after (body := [_, _, _, _, _, _, _]) ?_ hr' _ (show 4 ≠ 2 by decide) (show 7 ≤ 10 by decide)
  exact foldl_enqueued (fun s h hp => sendAbort_else_enqueued _ hp _ _) _ hp'
    (foldl_enqueued (fun s h hp => sendAbort_if_enqueued _ hp _ _) _ hp'
      (foldl_enqueued (fun s f hp => sendAbort_enqueued hp _ _) _ hp' (.refl _)))

/-! ### Poison counted as stale -/

theorem staleHank_cp (s : State) (c : ControlPort) (hank : Nat) :
    staleHank { s with cp := c } hank = { staleHank s hank with cp := c } := by
  have hg : getHank { s with cp := c } hank = getHank s hank := rfl
  simp only [staleHank, modHank, hg]
  cases getHank s hank with
  | none => rfl
  | some h => rfl

theorem staleHank_out (s : State) (hank : Nat) : (staleHank s hank).out = s.out := by
  unfold staleHank modHank
  split
  · rfl
  · rfl

theorem staleHanks_cp (l : List Hank) (s : State) (c : ControlPort) :
    l.foldl (fun s h => staleHank s h.d.hank) { s with cp := c }
      = { l.foldl (fun s h => staleHank s h.d.hank) s with cp := c } := by
  induction l generalizing s with
  | nil => rfl
  | cons h l ih => rw [List.foldl_cons, List.foldl_cons, staleHank_cp]; exact ih _

theorem staleHanks_out (l : List Hank) (s : State) : (l.foldl (fun s h => staleHank s h.d.hank) s).out = s.out := by
  induction l generalizing s with
  | nil => rfl
  | cons h l ih => exact (ih _).trans (staleHank_out s h.d.hank)

/-! ### The two cases of `step.abort` -/

theorem stepAbort_current {s : State} {job step attempt : Nat} (ha : attempt = (getJob s job).attempt)
    (hc : ∀ c, (getJob s job).committed = some c → c < step) :
    stepAbort s job step attempt = abortJob s job (jobHanks s job) true 0 0 step 0 ownFeid := by
  unfold stepAbort
  refine if_neg (not_or.2 ⟨not_not_intro ha, ?_⟩)
  simp only [Option.any_eq_true, decide_eq_true_eq, not_exists, not_and, Nat.not_le]
  exact hc

theorem stepAbort_stale {s : State} {job step attempt : Nat}
    (h : attempt ≠ (getJob s job).attempt ∨ ∃ c, (getJob s job).committed = some c ∧ step ≤ c) :
    stepAbort s job step attempt = (jobHanks s job).foldl (fun s h => staleHank s h.d.hank) s := by
  unfold stepAbort
  refine if_pos (h.imp_right ?_)
  simp only [Option.any_eq_true, decide_eq_true_eq]
  exact id

theorem stepParams_of {job attempt : Nat} (hj : job < 4096) (ha : attempt < 256) : stepParams job attempt = true := by
  simp only [stepParams, hj, ha, decide_true, Bool.and_self]

/-- A `step.abort` within its ranges is answered OK over what `stepAbort` gives. -/
theorem takeStepAbort {s : State} {tag job param attempt : Nat} (h : accepts s tag = true) (hj : job < 4096)
    (ha : attempt < 256) :
    exec (.stepAbort tag job param attempt) s
      = .next (answerOk (stepAbort (noted s tag 0x39) job (param % 2 ^ 48) attempt) tag 0x39 []) := by
  show Host.Outcome.next (takeCommand s (cmdStepAbort tag job param attempt)) = _
  rw [takeCommand_runs h rfl rfl (fun h => absurd h Bool.false_ne_true) (fun _ h => absurd h List.not_mem_nil)]
  show Host.Outcome.next (settle tag 0x39 (if stepParams job attempt then _ else _)) = _
  rw [stepParams_of hj ha, if_pos rfl]
  rfl

/-! ### What the answered abort leaves -/

/-- Packets, the event and the answer leave the reset's effect. -/
theorem abort_frame {s u w t : State} {c : ControlPort} {job : Nat} (hu : Enqueued { abortReset s job 0 with cp := c } u)
    (hw : Announced u w) (ht : t = { w with cp := t.cp, out := t.out }) :
    t = { abortReset s job 0 with ready := t.ready, nextUid := t.nextUid, freeCtr := t.freeCtr, dies := t.dies,
                                  regs := t.regs, cp := t.cp, out := t.out } := by
  unfold Enqueued at hu
  rw [ht, hw.frame, hu]

theorem Enqueued.cp_eq {s t : State} (h : Enqueued s t) : t.cp = s.cp := by unfold Enqueued at h; rw [h]

theorem Enqueued.out_eq {s t : State} (h : Enqueued s t) : t.out = s.out := by unfold Enqueued at h; rw [h]

theorem Reported.cp_eq {s t : State} (h : Reported s t) :
    t.cp = { s.cp with queue := t.cp.queue, unacked := t.cp.unacked, txNext := t.cp.txNext, lost := t.cp.lost } := by
  unfold Reported at h
  rw [h]

theorem answer_lost (s : State) (tag opcode status : Nat) (payload : List Byte) :
    (answer s tag opcode status payload).cp.lost = s.cp.lost := by
  rw [answer_pump, pump_cp]
  rfl

/-- A report issued while a command stands as taken does not keep it from being answered. -/
theorem reported_replies {s w : State} {tag opcode : Nat} (hn : (findRemembered s tag).isNone = true) {u : State}
    (hcp : u.cp = (noted s tag opcode).cp) (hw : Reported u w) (hout : s.out <+: w.out) (status : Nat) (payload : List Byte) :
    Replies { s with cp := { s.cp with lost := (answer w tag opcode status payload).cp.lost } }
      (answer w tag opcode status payload) tag opcode status payload := by
  rw [answer_lost]
  have hc := hw.cp_eq
  rw [hcp, noted_eq] at hc
  refine answer_replies_of (s := { s with cp := { s.cp with lost := w.cp.lost } }) hn ?_ ?_ hout status payload
  · rw [hc, noted_eq]
  · rw [hc]

/-! ### O14 -/

/-- Settles O14: after the reset only packets are put in line and one event is issued (`abortJob_announced`). -/
theorem stepAborts : Obligations.StepAborts := by
  intro s tag job param attempt hacc hj ha
  refine ⟨fun hp hr hcur hcom => ?current, fun hst => ?stale⟩
  case current =>
    obtain ⟨-, -, -, hnone, -⟩ := accepts_iff hacc
    obtain ⟨r, hn⟩ := noted_form s tag 0x39
    obtain ⟨u, hu, hw, hrep⟩ := abortJob_announced (s := { s with cp := { s.cp with remembered := r } }) (job := job) hp hr
      (jobHanks s job) true 0 0 (param % 2 ^ 48) 0 ownFeid
    rw [takeStepAbort hacc hj ha, hn, stepAbort_current (s := { s with cp := { s.cp with remembered := r } }) hcur hcom]
    rw [show jobHanks { s with cp := { s.cp with remembered := r } } job = jobHanks s job from rfl]
    generalize abortJob _ job (jobHanks s job) true 0 0 (param % 2 ^ 48) 0 ownFeid = w at hw hrep ⊢
    have hcp : u.cp = (noted s tag 0x39).cp := by rw [hn]; exact hu.cp_eq
    have hout : s.out <+: w.out := by rw [show s.out = u.out from hu.out_eq.symm]; exact hw.log
    have hrp := reported_replies hnone hcp hrep hout stOk []
    have hf := abort_frame hu hw (answer_eq w tag 0x39 stOk [])
    rw [show answerOk w tag 0x39 [] = answer w tag 0x39 stOk [] from rfl]
    generalize answer w tag 0x39 stOk [] = t at hrp hf
    refine ⟨t, rfl, hrp, ?_, ?_, ?_⟩
    · rw [hf, hcur]; rfl
    · rw [hf]; rfl
    · rw [hf]; rfl
  case stale =>
    refine ⟨_, rfl, takeCommand_done hacc rfl rfl rfl rfl (fun h => absurd h Bool.false_ne_true)
      (fun _ h => absurd h List.not_mem_nil) (staleHanks_out ..) (fun r => ?_)⟩
    have hs := stepAbort_stale (s := { s with cp := { s.cp with remembered := r } }) hst
    show settle tag 0x39 (if stepParams job attempt then (stOk, 0, stepAbort _ job (param % 2 ^ 48) attempt) else _) = _
    rw [stepParams_of hj ha, if_pos rfl, hs, staleHanks_cp]
    rfl

end Sys2Proof.Machine
end

section
/-! SUPPORT. `op.poll`, `op.cancel`, an operation's step and its watchdog (R426, R427, R430, R494). -/

namespace Sys2Proof.Machine

/-! ### `op.poll` and `op.cancel` -/

section
variable {s : State} {tag handle k : Nat} {o : Op}

theorem pollOp_running (h : opOf s handle = some (k, o)) (h0 : o.state = 0) :
    pollOp s tag handle = answerOk s tag 0x49 (opRecord o) := by
  simp only [pollOp, h, h0, if_true]

theorem pollOp_ended (h : opOf s handle = some (k, o)) (h0 : o.state ≠ 0) :
    pollOp s tag handle = { answerOk s tag 0x49 (opRecord o) with ops := mapDel (answerOk s tag 0x49 (opRecord o)).ops k } := by
  simp only [pollOp, h, h0, if_false]

theorem pollOp_unknown (h : opOf s handle = none) : pollOp s tag handle = answer s tag 0x49 stBadParam (failWord 8 0 0) := by
  simp only [pollOp, h, fail8]

theorem cancelOp_ended (h : opOf s handle = some (k, o)) (h0 : o.state ≠ 0) :
    cancelOp s tag handle = answerOk s tag 0x4A [opWord0 o] := by
  simp only [cancelOp, h, h0, ne_eq, not_false_eq_true, if_true]

theorem cancelOp_refused (h : opOf s handle = some (k, o)) (h0 : o.state = 0) (hc : o.code = 2 ∨ o.code = 8 ∨ o.code = 10) :
    cancelOp s tag handle = answer s tag 0x4A stBusy (failWord 8 0 0) := by
  have : cancellable o.code = false := by rcases hc with h | h | h <;> rw [h] <;> rfl
  simp only [cancelOp, h, h0, this, fail8, ne_eq, not_true, if_false, Bool.not_false, if_true]

theorem cancelOp_running (h : opOf s handle = some (k, o)) (h0 : o.state = 0) (h2 : o.code ≠ 2) (h8 : o.code ≠ 8)
    (h10 : o.code ≠ 10) :
    cancelOp s tag handle = answerOk (putOp s k { o with cancelReq := true }) tag 0x4A [opWord0 { o with cancelReq := true }] := by
  have : cancellable o.code = true := by simp [cancellable, h2, h8, h10]
  simp only [cancelOp, h, h0, this, ne_eq, not_true, if_false, Bool.not_true, Bool.false_eq_true]

theorem cancelOp_unknown (h : opOf s handle = none) : cancelOp s tag handle = answer s tag 0x4A stBadParam (failWord 8 0 0) := by
  simp only [cancelOp, h, fail8]

end

/-- An answer followed by the removal of a slot's record. -/
theorem answered_removed {s : State} {tag opcode : Nat} (hn : (findRemembered s tag).isNone = true) (k : Nat)
    (result : List Word) {a : State} (ha : a = answerOk (noted s tag opcode) tag opcode result) :
    Done s { s with ops := mapDel s.ops k } { a with ops := mapDel a.ops k } tag opcode result := by
  have hd : Done s s a tag opcode result := by
    obtain ⟨r, hr⟩ := noted_form s tag opcode
    rw [ha]
    exact answerOk_done hn (by rw [hr]) rfl result
  obtain ⟨⟨h1, h2, h3, h4⟩, hf⟩ := hd
  have hops : a.ops = s.ops := by rw [hf]
  refine ⟨⟨h1, h2, h3, h4⟩, ?_⟩
  rw [hops, hf]

/-! ### The end of an operation (R430) -/

theorem Reported.planeA_eq {s t : State} (h : Reported s t) : t.planeA = s.planeA := by unfold Reported at h; rw [h]
theorem Reported.planeB_eq {s t : State} (h : Reported s t) : t.planeB = s.planeB := by unfold Reported at h; rw [h]
theorem Reported.hanks_eq {s t : State} (h : Reported s t) : t.hanks = s.hanks := by unfold Reported at h; rw [h]
theorem Reported.jobs_eq {s t : State} (h : Reported s t) : t.jobs = s.jobs := by unfold Reported at h; rw [h]
theorem Reported.erg_eq {s t : State} (h : Reported s t) : t.erg = s.erg := by unfold Reported at h; rw [h]
theorem Reported.spindles_eq {s t : State} (h : Reported s t) : t.spindles = s.spindles := by unfold Reported at h; rw [h]
theorem Reported.ports_eq {s t : State} (h : Reported s t) : t.ports = s.ports := by unfold Reported at h; rw [h]
theorem Reported.portDies_eq {s t : State} (h : Reported s t) : t.portDies = s.portDies := by unfold Reported at h; rw [h]
theorem Reported.caravans_eq {s t : State} (h : Reported s t) : t.caravans = s.caravans := by unfold Reported at h; rw [h]

/-- An operation's record as it ends, and its watchdog's episode with it. -/
def ended (s : State) (k : Nat) (o : Op) (state status check : Nat) : State :=
  { s with ops := mapIns s.ops k { o with state := state, status := status, check := check },
           episodes := s.episodes.filter (fun e => e != 128 + k) }

theorem endOp_reported (s : State) (k : Nat) (o : Op) (state status check : Nat) :
    Reported (ended s k o state status check) (endOp s k o state status check) := sendEventW_reported ..

theorem mapFind_inserted {α : Type} (m : SMap α) (k : Nat) (v : α) : mapFind (mapIns m k v) k = some v := by
  rw [mapFind_insert, if_pos rfl]

theorem endOp_find (s : State) (k : Nat) (o : Op) (state status check : Nat) :
    mapFind (endOp s k o state status check).ops k = some { o with state := state, status := status, check := check } := by
  rw [(endOp_reported ..).ops_eq]
  exact mapFind_inserted ..

theorem endOp_episodes (s : State) (k : Nat) (o : Op) (state status check : Nat) :
    128 + k ∉ (endOp s k o state status check).episodes := by
  rw [(endOp_reported ..).episodes_eq]
  simp [ended]

/-! ### A step (R427) -/

/-- How a step of slot k leaves the state, from what its work gave. -/
def stepEnds (k : Nat) (x : Stepped) : State :=
  match x with
  | (s, o, some (st, ck)) => endOp s k o 1 st ck
  | (s, o, none) => if o.cancelReq ∧ o.done < o.total then endOp (abandonOp s o) k o 2 stOk 0 else putOp s k o

section
variable {s : State} {k units : Nat} {o : Op} {ok : Bool}

theorem execOpStep_running (h : running s = true) : exec (.opStep units ok) s = .next (opStep s units ok) := by
  show Host.Outcome.next (if running s then opStep s units ok else s) = _
  rw [if_pos h]

theorem opStep_hung (hm : 2 ≤ s.module.state) (hn : nextOp s = some (k, o)) (hh : opHangs s o = true) :
    opStep s units ok = { s with opTurn := k } := by
  have hh' : opHangs { s with opTurn := k } o = true := hh
  simp only [opStep, hn, hh', if_true]
  rw [if_neg (by omega)]

theorem opStep_works (hm : 2 ≤ s.module.state) (hn : nextOp s = some (k, o)) (hh : opHangs s o = false) :
    opStep s units ok
      = stepEnds k (opWork { s with opTurn := k, episodes := s.episodes.filter (fun e => e != 128 + k) } o units ok) := by
  have hh' : opHangs { s with opTurn := k } o = false := hh
  simp only [opStep, hn, hh', Bool.false_eq_true, if_false]
  rw [if_neg (by omega)]
  rfl

end

theorem stepEnds_find (k : Nat) (x : Stepped) :
    mapFind (stepEnds k x).ops k = some (match x.2.2 with
      | some (st, ck) => { x.2.1 with state := 1, status := st, check := ck }
      | none => if x.2.1.cancelReq = true ∧ x.2.1.done < x.2.1.total
          then { x.2.1 with state := 2, status := stOk, check := 0 } else x.2.1) := by
  obtain ⟨s, o, e⟩ := x
  cases e with
  | some e => exact endOp_find s k o 1 e.1 e.2
  | none =>
    by_cases h : o.cancelReq = true ∧ o.done < o.total
    · simp only [stepEnds, if_pos h]
      exact endOp_find ..
    · simp only [stepEnds, if_neg h]
      exact mapFind_inserted ..

/-! ### ROUTE_SWAP (R87) -/

/-- The route caches of port dies are emptied. -/
def emptyRouteCaches (s : State) (l : List Nat) : State :=
  l.foldl (fun s d => modPortDie s d (fun p => { p with routeCache := [] })) s

/-- Emptying the route caches looks at the port dies and changes them alone. -/
theorem emptyRouteCaches_eq (l : List Nat) {s t : State} (h : t.portDies = s.portDies) :
    emptyRouteCaches t l = { t with portDies := (emptyRouteCaches s l).portDies } := by
  induction l generalizing s t with
  | nil => rw [show (emptyRouteCaches s []).portDies = t.portDies from h.symm]; rfl
  | cons d l ih =>
    have hg : getPortDie t d = getPortDie s d := by unfold getPortDie; rw [h]
    have hd : (modPortDie t d (fun p => { p with routeCache := [] })).portDies
        = (modPortDie s d (fun p => { p with routeCache := [] })).portDies := by
      simp only [modPortDie, setPortDie, hg, h]
    exact ih hd

/-- The swap before caravans are closed. -/
def swapped (s : State) : State :=
  { s with planeA := flipPlane s.planeA, planeB := flipPlane s.planeB, portDies := (emptyRouteCaches s (upTo 0 8)).portDies }

theorem routeImage_portDies (s : State) (l : SMap PortDie) : routeImage { s with portDies := l } = routeImage s := rfl

theorem swapRoutes_eq (s : State) :
    swapRoutes s = if (routeImage { s with planeA := flipPlane s.planeA, planeB := flipPlane s.planeB }).any
        (fun i => i.treeLevels == 3) then closeThose (swapped s) (fun _ _ => true) else swapped s := by
  have he : emptyRouteCaches (bothPlanes s flipPlane) (upTo 0 8) = swapped s :=
    emptyRouteCaches_eq (upTo 0 8) (s := s) (t := bothPlanes s flipPlane) rfl
  have hr : routeImage (swapped s) = routeImage { s with planeA := flipPlane s.planeA, planeB := flipPlane s.planeB } :=
    routeImage_portDies { s with planeA := flipPlane s.planeA, planeB := flipPlane s.planeB } _
  rw [← hr, ← he]
  rfl

theorem flipPlane_active (p : Plane) : (flipPlane p).active = p.shadow := by
  unfold flipPlane
  dsimp only
  split
  · rfl
  · rfl

/-- Closing caravans leaves the images, and what is no packet and no port. -/
theorem closeThose_keeps (s : State) (gone : Nat → Caravan → Bool) :
    (closeThose s gone).planeA.active = s.planeA.active ∧ (closeThose s gone).planeB.active = s.planeB.active ∧
      (closeThose s gone).hanks = s.hanks ∧ (closeThose s gone).jobs = s.jobs ∧ (closeThose s gone).erg = s.erg ∧
      (closeThose s gone).spindles = s.spindles := ⟨rfl, rfl, rfl, rfl, rfl, rfl⟩

theorem closeThose_all (s : State) : (closeThose s (fun _ _ => true)).caravans = [] :=
  List.filter_eq_nil_iff.2 (fun _ _ => Bool.false_ne_true)

theorem swapped_keeps (s : State) :
    (swapped s).planeA.active = s.planeA.shadow ∧ (swapped s).planeB.active = s.planeB.shadow ∧
      (swapped s).hanks = s.hanks ∧ (swapped s).jobs = s.jobs ∧ (swapped s).erg = s.erg ∧
      (swapped s).spindles = s.spindles := by
  simp only [swapped, flipPlane_active, and_self]

/-- What a swap leaves, whether it closes caravans or not. -/
theorem swapRoutes_keeps (s : State) :
    (swapRoutes s).planeA.active = s.planeA.shadow ∧ (swapRoutes s).planeB.active = s.planeB.shadow ∧
      (swapRoutes s).hanks = s.hanks ∧ (swapRoutes s).jobs = s.jobs ∧ (swapRoutes s).erg = s.erg ∧
      (swapRoutes s).spindles = s.spindles := by
  have hs := swapped_keeps s
  have hc := closeThose_keeps (swapped s) (fun _ _ => true)
  rw [swapRoutes_eq]
  generalize swapped s = u at hs hc
  generalize closeThose u (fun _ _ => true) = v at hc
  split
  · simpa only [hc] using hs
  · exact hs

theorem opWork_swap {s : State} {o : Op} {units : Nat} {ok : Bool} (hc : o.code = 2) (ht : o.total ≤ 1) (hu : 1 ≤ units)
    (hok : ok = true) :
    ∃ r, opWork s o units ok = (swapRoutes s, { o with done := 1, result := [r] }, some (stOk, 0)) := by
  refine ⟨word (((routeImage (swapRoutes s)).map (·.generation.toNat)).getD 0), ?_⟩
  unfold opWork
  simp only [hc, hok, stepSwap, workDone, advanced, ht, if_true, if_false, Bool.not_true, Bool.false_eq_true,
    show ¬ (2 = 9) by decide, show ¬ (2 = 10) by decide, show ¬ units = 0 by omega, List.map_cons, List.map_nil]

end Sys2Proof.Machine
end

section
/-! SUPPORT. An operation's step keeps its code; the watchdog; O18. -/

namespace Sys2Proof.Machine

/-! ### A step keeps the operation's code -/

theorem ite_code {b : Prop} [Decidable b] {x y : Op} {n : Nat} (hx : x.code = n) (hy : y.code = n) :
    (if b then x else y).code = n := by
  split
  · exact hx
  · exact hy

theorem ite_stepped_code {b : Prop} [Decidable b] {x y : Stepped} {n : Nat} (hx : x.2.1.code = n) (hy : y.2.1.code = n) :
    (if b then x else y).2.1.code = n := by
  split
  · exact hx
  · exact hy

section
variable (s : State) (o : Op) (units : Nat) (ok : Bool)

theorem stepErgLoad_code : (stepErgLoad s o units).2.1.code = o.code := ite_stepped_code rfl rfl

theorem stepLoad_code : (stepLoad s o units).2.1.code = o.code := by
  unfold stepLoad
  dsimp only
  split
  · rfl
  · exact ite_stepped_code (ite_code rfl rfl) (ite_code rfl rfl)
  · rfl
  · exact stepErgLoad_code s o units

theorem stepSwap_code : (stepSwap s o units).2.1.code = o.code := ite_stepped_code rfl rfl

theorem stepScrub_code : (stepScrub s o units).2.1.code = o.code := rfl

theorem stepRetire_code : (stepRetire s o units).2.1.code = o.code := ite_stepped_code rfl (ite_stepped_code rfl rfl)

theorem stepMigrate_code : (stepMigrate s o units).2.1.code = o.code := ite_stepped_code rfl rfl

theorem spindlesDone_code (x : Nat × Nat × State) : (spindlesDone o x).2.1.code = o.code := ite_stepped_code rfl rfl

theorem stepSpare_code : (stepSpare s o units).2.1.code = o.code := by
  refine ite_stepped_code rfl ?_
  split
  · rfl
  · rfl

theorem stepStage_code : (stepStage s o units).2.1.code = o.code :=
  ite_stepped_code rfl (ite_stepped_code rfl (ite_stepped_code rfl rfl))

theorem stepDrain_code (late : Bool) : (stepDrain s o late).2.1.code = o.code :=
  ite_stepped_code rfl (ite_stepped_code rfl (ite_stepped_code rfl rfl))

theorem stepRecal_code : (stepRecal s o ok).2.1.code = o.code :=
  ite_stepped_code rfl (ite_stepped_code rfl (ite_stepped_code rfl (ite_stepped_code rfl rfl)))

/-- Whatever a step does, the operation keeps its code (R428). -/
theorem opWork_code : (opWork s o units ok).2.1.code = o.code := by
  unfold opWork
  split
  · exact stepDrain_code ..
  split
  · exact stepRecal_code ..
  split
  · rfl
  split
  · exact stepLoad_code ..
  · exact stepSwap_code ..
  · exact stepScrub_code ..
  · exact stepRetire_code ..
  · exact stepMigrate_code ..
  · exact spindlesDone_code ..
  · exact spindlesDone_code ..
  · exact stepSpare_code ..
  · exact stepStage_code ..

end

/-! ### STEP_WATCHDOG (R494) -/

section
variable {s : State} {k : Nat} {o : Op}

/-- The state and the operation when the watchdog expires: the step under way has taken its effect, or has not. -/
def expiring (s : State) (o : Op) : State × Op :=
  if (freeBelow 2 s).1 = 1 then ((opWork (freeBelow 2 s).2 o 1 true).1, (opWork (freeBelow 2 s).2 o 1 true).2.1)
  else ((freeBelow 2 s).2, o)

theorem expiring_code : (expiring s o).2.code = o.code := by
  unfold expiring
  split
  · exact opWork_code ..
  · rfl

theorem stepExpires_eq : stepExpires s k o
    = endOp (abandonOp (raiseDetail (expiring s o).1 (srcOp (activeDie (expiring s o).1) k)
        [word (opHandle (expiring s o).1 k), word (expiring s o).2.code]) (expiring s o).2) k (expiring s o).2 1 stTimeout 0 := rfl

theorem execStepWatchdog_running (hr : running s = true) (hk : k < 64) (ho : mapFind s.ops k = some o) (h0 : o.state = 0) :
    exec (.stepWatchdog k) s = .next (stepExpires s k o) := by
  show execStepWatchdog k s = _
  simp only [execStepWatchdog, hk, ho, hr, h0, and_self, if_true]

theorem execStepWatchdog_ended (hk : k < 64) (ho : mapFind s.ops k = some o) (h0 : o.state ≠ 0) :
    exec (.stepWatchdog k) s = .next s := by
  show execStepWatchdog k s = _
  simp only [execStepWatchdog, hk, ho, h0, and_false, if_true, if_false]

end

/-! ### O18 -/

/-- `op.poll` and `op.cancel` of an operation the handle names. -/
theorem pollAndCancel_known {s : State} {tag handle k : Nat} {o : Op} (hacc : accepts s tag = true)
    (ho : opOf s (handle % 2 ^ 32) = some (k, o)) :
    (∃ t, exec (.opPoll tag handle) s = .next t ∧
      Done s (if o.state = 0 then s else { s with ops := mapDel s.ops k }) t tag 0x49 (opRecord o)) ∧
    (o.state = 0 → o.code ≠ 2 → o.code ≠ 8 → o.code ≠ 10 →
      ∃ t, exec (.opCancel tag handle) s = .next t ∧
        Done s { s with ops := mapIns s.ops k { o with cancelReq := true } } t tag 0x4A
          [opWord0 { o with cancelReq := true }]) ∧
    (o.state = 0 → o.code = 2 ∨ o.code = 8 ∨ o.code = 10 →
      ∃ t, exec (.opCancel tag handle) s = .next t ∧ Replies s t tag 0x4A stBusy (failWord 8 0 0) ∧
        t = { s with cp := t.cp, out := t.out }) ∧
    (o.state ≠ 0 → ∃ t, exec (.opCancel tag handle) s = .next t ∧ Done s s t tag 0x4A [opWord0 o]) := by
  have hop : ∀ r, opOf { s with cp := { s.cp with remembered := r } } (handle % 2 ^ 32) = some (k, o) := fun _ => ho
  refine ⟨?poll, fun h0 h2 h8 h10 => ?cancelled, fun h0 hc => ?busy, fun h0 => ?past⟩
  case poll =>
    refine ⟨_, rfl, ?_⟩
    split
    · next h0 =>
      exact takeCommand_done hacc rfl rfl rfl rfl (fun h => absurd h Bool.false_ne_true)
        (fun _ h => absurd h List.not_mem_nil) rfl (fun r => pollOp_running (hop r) h0)
    · next h0 =>
      obtain ⟨-, -, -, hnone, -⟩ := accepts_iff hacc
      rw [takeCommand_runs hacc rfl rfl (fun h => absurd h Bool.false_ne_true) (fun _ h => absurd h List.not_mem_nil)]
      have hno : opOf (noted s tag 0x49) (handle % 2 ^ 32) = some (k, o) := by
        obtain ⟨r, hr⟩ := noted_form s tag 0x49
        rw [hr]
        exact ho
      show Done s _ (pollOp (noted s tag 0x49) tag (handle % 2 ^ 32)) tag 0x49 (opRecord o)
      rw [pollOp_ended hno h0]
      exact answered_removed hnone k (opRecord o) rfl
  case cancelled =>
    exact ⟨_, rfl, takeCommand_done hacc rfl rfl rfl rfl (fun h => absurd h Bool.false_ne_true)
      (fun _ h => absurd h List.not_mem_nil) rfl (fun r => cancelOp_running (hop r) h0 h2 h8 h10)⟩
  case busy =>
    exact ⟨_, rfl, takeCommand_fails hacc rfl rfl rfl rfl (fun h => absurd h Bool.false_ne_true)
      (fun _ h => absurd h List.not_mem_nil) (fun r => cancelOp_refused (hop r) h0 hc)⟩
  case past =>
    exact ⟨_, rfl, takeCommand_done hacc rfl rfl rfl rfl (fun h => absurd h Bool.false_ne_true)
      (fun _ h => absurd h List.not_mem_nil) rfl (fun r => cancelOp_ended (hop r) h0)⟩

/-- `op.poll` and `op.cancel` of a stale or unknown handle. -/
theorem pollAndCancel_unknown {s : State} {tag handle : Nat} (hacc : accepts s tag = true)
    (ho : opOf s (handle % 2 ^ 32) = none) : ∀ i ∈ [Instr.opPoll tag handle, .opCancel tag handle],
      ∃ t, exec i s = .next t ∧ (∃ opcode, Replies s t tag opcode stBadParam (failWord 8 0 0)) ∧
        t = { s with cp := t.cp, out := t.out } := by
  have hop : ∀ r, opOf { s with cp := { s.cp with remembered := r } } (handle % 2 ^ 32) = none := fun _ => ho
  intro i hi
  simp only [List.mem_cons, List.not_mem_nil, or_false] at hi
  rcases hi with rfl | rfl
  · obtain ⟨hr, hf⟩ := takeCommand_fails (c := cmdOpPoll tag handle) hacc rfl rfl rfl rfl
      (fun h => absurd h Bool.false_ne_true) (fun _ h => absurd h List.not_mem_nil) (fun r => pollOp_unknown (hop r))
    exact ⟨_, rfl, ⟨_, hr⟩, hf⟩
  · obtain ⟨hr, hf⟩ := takeCommand_fails (c := cmdOpCancel tag handle) hacc rfl rfl rfl rfl
      (fun h => absurd h Bool.false_ne_true) (fun _ h => absurd h List.not_mem_nil) (fun r => cancelOp_unknown (hop r))
    exact ⟨_, rfl, ⟨_, hr⟩, hf⟩

/-- The state as slot k begins a step. -/
def turned (s : State) (k : Nat) : State := { s with opTurn := k, episodes := s.episodes.filter (fun e => e != 128 + k) }

/-- The one step of a ROUTE_SWAP, and the record it leaves. -/
theorem swapStep {s : State} {units : Nat} {ok : Bool} {k : Nat} {o : Op} (hm : 2 ≤ s.module.state)
    (hn : nextOp s = some (k, o)) (hh : opHangs s o = false) (hc : o.code = 2) (ht : o.total ≤ 1) (hu : 1 ≤ units)
    (hok : ok = true) :
    ∃ r, Reported (ended (swapRoutes (turned s k)) k { o with done := 1, result := [r] } 1 stOk 0) (opStep s units ok) ∧
      mapFind (opStep s units ok).ops k = some { o with state := 1, status := stOk, check := 0, done := 1, result := [r] } := by
  obtain ⟨r, hr⟩ := opWork_swap (s := turned s k) hc ht hu hok
  have hw : opStep s units ok = stepEnds k (opWork (turned s k) o units ok) := opStep_works hm hn hh
  rw [hw, hr]
  exact ⟨r, endOp_reported .., endOp_find ..⟩

/-- The swap where the new image has fewer than three levels. -/
theorem swapRoutes_open {s : State} (hl : (routeImage { s with planeA := flipPlane s.planeA, planeB := flipPlane s.planeB }).any
    (fun i => i.treeLevels == 3) = false) :
    (swapRoutes s).planeA = flipPlane s.planeA ∧ (swapRoutes s).planeB = flipPlane s.planeB ∧
      (swapRoutes s).ports = s.ports ∧ (swapRoutes s).caravans = s.caravans ∧
      (swapRoutes s).portDies = (emptyRouteCaches s (upTo 0 8)).portDies := by
  rw [swapRoutes_eq, if_neg (fun hp => Bool.false_ne_true (hl.symm.trans hp))]
  simp only [swapped, and_self]

/-- The swap where the new image has three levels: no caravan stays open (R106). -/
theorem swapRoutes_closes {s : State}
    (hl : (routeImage { s with planeA := flipPlane s.planeA, planeB := flipPlane s.planeB }).any
      (fun i => i.treeLevels == 3) = true) : (swapRoutes s).caravans = [] := by
  rw [swapRoutes_eq, if_pos hl]
  exact closeThose_all _

theorem turned_routeImage (s : State) (k : Nat) (a b : Plane) :
    routeImage { turned s k with planeA := a, planeB := b } = routeImage { s with planeA := a, planeB := b } := rfl

theorem turned_routeCaches (s : State) (k : Nat) (l : List Nat) :
    (emptyRouteCaches (turned s k) l).portDies = (emptyRouteCaches s l).portDies := by
  rw [emptyRouteCaches_eq l (s := s) (t := turned s k) rfl]

/-- What the step of a ROUTE_SWAP leaves (R87). -/
theorem swapStep_leaves {s t : State} {k : Nat} {o : Op} (h : Reported (ended (swapRoutes (turned s k)) k o 1 stOk 0) t) :
    t.planeA.active = s.planeA.shadow ∧ t.planeB.active = s.planeB.shadow ∧
      t.hanks = s.hanks ∧ t.jobs = s.jobs ∧ t.erg = s.erg ∧ t.spindles = s.spindles := by
  have hk := swapRoutes_keeps (turned s k)
  generalize swapRoutes (turned s k) = u at h hk
  rw [h.planeA_eq, h.planeB_eq, h.hanks_eq, h.jobs_eq, h.erg_eq, h.spindles_eq]
  exact hk

theorem swapStep_open {s t : State} {k : Nat} {o : Op} (h : Reported (ended (swapRoutes (turned s k)) k o 1 stOk 0) t)
    (hl : (routeImage { s with planeA := flipPlane s.planeA, planeB := flipPlane s.planeB }).any
      (fun i => i.treeLevels == 3) = false) :
    t.planeA = flipPlane s.planeA ∧ t.planeB = flipPlane s.planeB ∧ t.ports = s.ports ∧ t.caravans = s.caravans ∧
      t.portDies = (emptyRouteCaches s (upTo 0 8)).portDies := by
  have hk := swapRoutes_open (s := turned s k) ((congrArg _ (turned_routeImage s k _ _)).trans hl)
  rw [turned_routeCaches] at hk
  generalize swapRoutes (turned s k) = u at h hk
  rw [h.planeA_eq, h.planeB_eq, h.ports_eq, h.caravans_eq, h.portDies_eq]
  exact hk

theorem swapStep_closes {s t : State} {k : Nat} {o : Op} (h : Reported (ended (swapRoutes (turned s k)) k o 1 stOk 0) t)
    (hl : (routeImage { s with planeA := flipPlane s.planeA, planeB := flipPlane s.planeB }).any
      (fun i => i.treeLevels == 3) = true) : t.caravans = [] := by
  have hk := swapRoutes_closes (s := turned s k) ((congrArg _ (turned_routeImage s k _ _)).trans hl)
  generalize swapRoutes (turned s k) = u at h hk
  exact h.caravans_eq.trans hk

/-- The expired operation ends with TIMEOUT (R494). -/
theorem stepExpires_ends (s : State) (k : Nat) (o : Op) :
    mapFind (stepExpires s k o).ops k = some { (expiring s o).2 with state := 1, status := stTimeout, check := 0 } ∧
      128 + k ∉ (stepExpires s k o).episodes := by
  rw [stepExpires_eq]
  exact ⟨endOp_find .., endOp_episodes _ k _ 1 stTimeout 0⟩

/-- Settles O18: an operation's record is what its step ends with (`stepEnds_find`), a swap leaves the flipped planes,
and a step keeps the code that the watchdog's record shows (`opWork_code`). -/
theorem operationsStepAndEnd : Obligations.OperationsStepAndEnd := by
  refine ⟨?commands, ?steps, ?watchdog⟩
  case commands =>
    intro s tag handle hacc
    exact ⟨fun k o ho => pollAndCancel_known hacc ho, fun ho => pollAndCancel_unknown hacc ho⟩
  case steps =>
    intro s units ok k o hr hm hn
    rw [execOpStep_running hr]
    refine ⟨fun hh => ?hung, fun hh x hx => ?works, fun hh hc ht hu hok => ?swap⟩
    case hung => rw [opStep_hung hm hn hh]
    case works =>
      refine ⟨_, rfl, ?_⟩
      rw [opStep_works hm hn hh, hx]
      exact stepEnds_find k x
    case swap =>
      obtain ⟨r, h, hf⟩ := swapStep hm hn hh hc ht hu hok
      generalize opStep s units ok = t at h hf
      obtain ⟨hA, hB, hhanks, hjobs, herg, hsp⟩ := swapStep_leaves h
      exact ⟨t, rfl, hA, hB, ⟨r, hf⟩, hhanks, hjobs, herg, hsp, swapStep_open h, swapStep_closes h⟩
  case watchdog =>
    intro s k o hr hk ho
    refine ⟨fun h0 => ?_, execStepWatchdog_ended hk ho⟩
    obtain ⟨hf, he⟩ := stepExpires_ends s k o
    exact ⟨_, _, execStepWatchdog_running hr hk ho h0, hf, rfl, rfl, rfl, expiring_code, he, stepExpires_eq⟩

end Sys2Proof.Machine
end

section
/-! SUPPORT. One step of the block: every command keeps a sound state sound (O4), and none stops the block but an event
at a unit the part does not have (O5). -/

namespace Sys2Proof.Machine

/-! ### O4 -/

/-- Soundness looks at nothing of the queue. -/
theorem pending_sound {s : State} (h : Sound s) (l : List Instr) : Sound { s with pending := l } :=
  sound_upd h rfl rfl rfl rfl rfl

/-- Every command that answers a next state keeps soundness, each by the law of its own meaning. -/
theorem exec_sound {s : State} (h : Sound s) (i : Instr) : ∀ t, exec i s = .next t → Sound t := by
  cases i with
  | regRead => exact execRegRead_sound _ _ _ s h
  | regWrite => exact execRegWrite_sound _ _ _ _ s h
  | hankOpen => exact execHankOpen_sound _ _ s h
  | hankClose => exact execHankClose_sound _ _ s h
  | hankQuery => exact execHankQuery_sound _ _ s h
  | caravanOpen => exact execCaravanOpen_sound _ _ _ _ _ _ _ s h
  | caravanClose => exact execCaravanClose_sound _ _ s h
  | progLoad => exact execProgLoad_sound _ _ _ _ _ s h
  | progStart => exact execProgStart_sound _ _ _ s h
  | stepCommit => exact execStepCommit_sound _ _ _ _ s h
  | stepAbort => exact execStepAbort_sound _ _ _ _ s h
  | powerSet => exact execPowerSet_sound _ _ _ _ s h
  | opPoll => exact execOpPoll_sound _ _ s h
  | opCancel => exact execOpCancel_sound _ _ s h
  | tableLoad => exact execTableLoad_sound _ _ _ _ _ s h
  | routeSwap => exact execRouteSwap_sound _ s h
  | scrub => exact execScrub_sound _ _ _ _ _ s h
  | retire => exact execRetire_sound _ _ _ _ _ s h
  | tierMigrate => exact execTierMigrate_sound _ _ _ _ _ s h
  | contextSave => exact execContextSave_sound _ _ _ _ _ s h
  | contextRestore => exact execContextRestore_sound _ _ _ _ s h
  | spareSwap => exact execSpareSwap_sound _ _ _ s h
  | portDrain => exact execPortDrain_sound _ _ _ _ s h
  | laneRecal => exact execLaneRecal_sound _ _ _ s h
  | fwStage => exact execFwStage_sound _ _ _ _ s h
  | opStep => exact execOpStep_sound _ _ s h
  | debugOpen => exact execDebugOpen_sound _ _ _ _ s h
  | zeroisation => exact execZeroisation_sound s h
  | debugClose => exact execDebugClose_sound _ s h
  | debugEngineHalt => exact execDebugEngineHalt_sound _ _ _ _ s h
  | debugEngineRelease => exact execDebugEngineRelease_sound _ _ _ _ s h
  | debugRead => exact execDebugRead_sound _ _ _ _ _ _ s h
  | debugWrite => exact execDebugWrite_sound _ _ _ _ _ _ _ s h
  | flagSet => exact execFlagSet_sound _ _ _ _ s h
  | flagClear => exact execFlagClear_sound _ _ _ _ s h
  | barchanArrive => exact execBarchanArrive_sound _ _ _ _ _ s h
  | barchanRelease => exact execBarchanRelease_sound _ _ _ _ s h
  | barchanClear => exact execBarchanClear_sound _ _ _ _ s h
  | faultRead => exact execFaultRead_sound _ _ _ s h
  | attestReport => exact execAttestReport_sound _ _ s h
  | infoRead => exact execInfoRead_sound _ s h
  | addKey => exact execAddKey_sound _ s h
  | revokeKey => exact execRevokeKey_sound _ s h
  | deploy => exact execDeploy_sound _ s h
  | secReturn => exact execSecReturn_sound _ s h
  | raiseSvn => exact execRaiseSvn_sound _ s h
  | force => exact execForce_sound _ _ _ _ s h
  | dieReboot => exact execDieReboot_sound _ _ _ _ s h
  | unitRelease => exact execUnitRelease_sound _ _ _ _ s h
  | hold => exact execHold_sound _ _ _ _ s h
  | poolConfig => exact execPoolConfig_sound _ _ _ _ _ _ s h
  | barchanMembers => exact execBarchanMembers_sound _ _ _ _ _ _ s h
  | pageQuery => exact execPageQuery_sound _ _ _ _ s h
  | replRangeCtrl => exact execReplRangeCtrl_sound _ _ _ _ _ _ s h
  | edgeRole => exact execEdgeRole_sound _ _ _ _ s h
  | portCtrl => exact execPortCtrl_sound _ _ _ _ _ s h
  | command => exact execCommand_sound _ _ _ _ _ s h
  | bulk => exact execBulk_sound _ _ _ _ _ s h
  | linkFrameHello => exact execLinkFrameHello_sound _ _ _ _ _ s h
  | linkFrameAck => exact execLinkFrameAck_sound _ _ _ _ s h
  | linkFrameNak => exact execLinkFrameNak_sound _ _ _ _ s h
  | linkFrameAlign => exact execLinkFrameAlign_sound _ _ _ _ s h
  | resendTimeout => exact execResendTimeout_sound _ s h
  | linkUpLimit => exact execLinkUpLimit_sound s h
  | commandTimeout => exact execCommandTimeout_sound _ s h
  | headerFlit => exact execHeaderFlit_sound _ _ s h
  | frameStart => exact execFrameStart_sound _ _ s h
  | frameEnd => exact execFrameEnd_sound _ _ _ s h
  | credit => exact execCredit_sound _ _ s h
  | linkWordAck => exact execLinkWordAck_sound _ _ s h
  | linkWordNak => exact execLinkWordNak_sound _ _ s h
  | replayTimeout => exact execReplayTimeout_sound _ s h
  | align => exact execAlign_sound _ _ _ s h
  | hello => exact execHello_sound _ _ s h
  | laneDrop => exact execLaneDrop_sound _ _ s h
  | laneAdd => exact execLaneAdd_sound _ _ s h
  | recalReq => exact execRecalReq_sound _ _ s h
  | laneDropTimeout => exact execLaneDropTimeout_sound _ s h
  | lockLoss => exact execLockLoss_sound _ _ _ s h
  | trainingLimit => exact execTrainingLimit_sound _ s h
  | creditStall => exact execCreditStall_sound _ _ s h
  | routeFetch => exact execRouteFetch_sound _ _ s h
  | rankFetch => exact execRankFetch_sound _ _ s h
  | rankWaitTimeout => exact execRankWaitTimeout_sound _ _ s h
  | planeRoute => exact execPlaneRoute_sound _ _ s h
  | planeCredit => exact execPlaneCredit_sound _ _ _ s h
  | schedule => exact execSchedule_sound _ _ s h
  | wadiMove => exact execWadiMove_sound _ _ _ s h
  | egressArbitration => exact execEgressArbitration_sound _ s h
  | shaperRefill => exact execShaperRefill_sound _ s h
  | outputStall => exact execOutputStall_sound _ _ s h
  | get => exact execGet_sound _ s h
  | put => exact execPut_sound _ s h
  | bulkPut => exact execBulkPut_sound _ s h
  | addExact => exact execAddExact_sound _ s h
  | fetchAdd => exact execFetchAdd_sound _ s h
  | atomMax => exact execAtomMax_sound _ s h
  | atomMin => exact execAtomMin_sound _ s h
  | cas => exact execCas_sound _ s h
  | alloc => exact execAlloc_sound _ s h
  | free => exact execFree_sound _ s h
  | putFwd => exact execPutFwd_sound _ s h
  | atomicFwd => exact execAtomicFwd_sound _ s h
  | replTimeout => exact execReplTimeout_sound _ _ s h
  | signal => exact execSignal_sound _ s h
  | bulkSignal => exact execBulkSignal_sound _ s h
  | countedWrite => exact execCountedWrite_sound _ s h
  | fire => exact execFire_sound _ s h
  | signalTimeout => exact execSignalTimeout_sound _ s h
  | getData => exact execGetData_sound _ s h
  | ack => exact execAck_sound _ s h
  | atomicRsp => exact execAtomicRsp_sound _ s h
  | contrib => exact execContrib_sound _ s h
  | tallyUp => exact execTallyUp_sound _ s h
  | chunkNotice => exact execChunkNotice_sound _ s h
  | result => exact execResult_sound _ s h
  | arrive => exact execArrive_sound _ s h
  | release => exact execRelease_sound _ s h
  | hankBurst => exact execHankBurst_sound _ s h
  | chunkTimeout => exact execChunkTimeout_sound _ _ s h
  | roundTimeout => exact execRoundTimeout_sound _ _ s h
  | exchangeSend => exact execExchangeSend_sound _ s h
  | nop => exact execNop_sound _ _ _ s h
  | j => exact execJ_sound _ _ _ s h
  | whorl => exact execWhorl_sound _ _ _ s h
  | halt => exact execHalt_sound _ _ _ s h
  | sLi => exact execSLi_sound _ _ _ s h
  | sOp => exact execSOp_sound _ _ _ s h
  | aSet => exact execASet_sound _ _ _ s h
  | syncRaise => exact execSyncRaise_sound _ _ _ s h
  | syncWait => exact execSyncWait_sound _ _ _ s h
  | barArrive => exact execBarArrive_sound _ _ _ s h
  | barWait => exact execBarWait_sound _ _ _ s h
  | raise => exact execRaise_sound _ s h
  | barchanArrival => exact execBarchanArrival_sound _ s h
  | furtherRelease => exact execFurtherRelease_sound _ _ _ s h
  | inGet => exact execInGet_sound _ _ _ s h
  | inCopy => exact execInCopy_sound _ _ _ s h
  | inFill => exact execInFill_sound _ _ _ s h
  | inPush => exact execInPush_sound _ _ _ s h
  | vLd => exact execVLd_sound _ _ _ s h
  | vSt => exact execVSt_sound _ _ _ s h
  | vPush => exact execVPush_sound _ _ _ s h
  | vPop => exact execVPop_sound _ _ _ s h
  | vAdd => exact execVAdd_sound _ _ _ s h
  | vMul => exact execVMul_sound _ _ _ s h
  | vMax => exact execVMax_sound _ _ _ s h
  | vMin => exact execVMin_sound _ _ _ s h
  | vCvt => exact execVCvt_sound _ _ _ s h
  | vFma => exact execVFma_sound _ _ _ s h
  | vExp => exact execVExp_sound _ _ _ s h
  | vRcp => exact execVRcp_sound _ _ _ s h
  | vSqrt => exact execVSqrt_sound _ _ _ s h
  | vCard => exact execVCard_sound _ _ _ s h
  | mmClr => exact execMmClr_sound _ _ _ s h
  | mmT => exact execMmT_sound _ _ _ s h
  | mmSt => exact execMmSt_sound _ _ _ s h
  | accX => exact execAccX_sound _ _ _ s h
  | accC => exact execAccC_sound _ _ _ s h
  | accR => exact execAccR_sound _ _ _ s h
  | sortK => exact execSortK_sound _ _ _ s h
  | topkK => exact execTopkK_sound _ _ _ s h
  | filt => exact execFilt_sound _ _ _ s h
  | compact => exact execCompact_sound _ _ _ s h
  | tileExp => exact execTileExp_sound _ _ _ s h
  | tileCmp => exact execTileCmp_sound _ _ _ s h
  | padC => exact execPadC_sound _ _ _ s h
  | outPut => exact execOutPut_sound _ _ _ s h
  | outDrain => exact execOutDrain_sound _ _ _ s h
  | outAtom => exact execOutAtom_sound _ _ _ s h
  | outSig => exact execOutSig_sound _ _ _ s h
  | outFence => exact execOutFence_sound _ _ _ s h
  | landing => exact execLanding_sound _ _ _ s h
  | engineQueueWatchdog => exact execEngineQueueWatchdog_sound _ _ _ s h
  | stewardWatchdog => exact execStewardWatchdog_sound _ s h
  | stepWatchdog => exact execStepWatchdog_sound _ s h
  | distaffWatchdog => exact execDistaffWatchdog_sound _ _ s h
  | resynchronise => exact execResynchronise_sound s h
  | suppressedRecord => exact execSuppressedRecord_sound _ s h
  | pulseEnd => exact execPulseEnd_sound s h
  | lifetime => exact execLifetime_sound s h
  | thermal => exact execThermal_sound _ _ s h
  | relock => exact execRelock_sound _ s h
  | bringupPhase => exact execBringupPhase_sound _ s h
  | bringupLimit => exact execBringupLimit_sound _ s h
  | rebootPhase => exact execRebootPhase_sound _ s h
  | powerRemoval => exact execPowerRemoval_sound s h
  | pwrEnLow => exact execPwrEnLow_sound s h
  | pwrEnRising => exact execPwrEnRising_sound s h
  | rstNLow => exact execRstNLow_sound s h
  | rstNRising => exact execRstNRising_sound s h
  | inputLoss => exact execInputLoss_sound s h
  | inputRestore => exact execInputRestore_sound s h
  | controlLaneLockLoss => exact execControlLaneLockLoss_sound _ s h
  | fecLock => exact execFecLock_sound s h
  | signalDetect => exact execSignalDetect_sound _ _ s h
  | equalisationComplete => exact execEqualisationComplete_sound _ _ s h
  | degradeThreshold => exact execDegradeThreshold_sound _ _ s h
  | clockLock => exact execClockLock_sound _ s h

/-- Settles O4: an idle step changes nothing, and a command's step is that command on the queue's rest. -/
theorem everyStepKeepsTheMachineSound : Obligations.EveryStepKeepsTheMachineSound := by
  intro s t h
  unfold step
  split
  · rintro ⟨⟩
    exact h
  · exact exec_sound (pending_sound h _) _ t

/-! ### Guards answer a next state or refuse a missing unit -/

/-- What the block may answer: a next state, or a refusal that names a unit the part does not have. -/
def Proceeds (r : Res) : Prop := (∃ t, r = .next t) ∨ ∃ what, r = .refused (.noSuchUnit what)

theorem next_proceeds (t : State) : Proceeds (.next t) := .inl ⟨t, rfl⟩

theorem noSuchUnit_proceeds (what : String) : Proceeds (.refused (.noSuchUnit what)) := .inr ⟨what, rfl⟩

section
variable {c : Prop} [Decidable c]

theorem ite_proceeds {a b : Res} (ha : Proceeds a) (hb : Proceeds b) : Proceeds (if c then a else b) := by
  split
  · exact ha
  · exact hb

/-- An event that acts where its unit exists, and is left to a guard where not. -/
theorem orElse_proceeds (t : State) {r : Res} (hr : Proceeds r) : Proceeds (if c then .next t else r) :=
  ite_proceeds (next_proceeds t) hr

/-- An event that acts where its unit exists, and is refused where not. -/
theorem guarded_proceeds (t : State) (what : String) :
    Proceeds (if c then .next t else .refused (.noSuchUnit what)) :=
  orElse_proceeds t (noSuchUnit_proceeds what)

end

section
variable (s : State)

theorem atPort_proceeds (p : Nat) : Proceeds (atPort p s) := guarded_proceeds s _
theorem atUnit_proceeds (what : String) (lo n k : Nat) : Proceeds (atUnit what lo n k s) := guarded_proceeds s _
theorem atEngine_proceeds (die slot e : Nat) : Proceeds (atEngine die slot e s) := guarded_proceeds s _
theorem atErg_proceeds (die : Nat) : Proceeds (atErg die s) := guarded_proceeds s _
theorem atCounter_proceeds (n : Nat) : Proceeds (atCounter n s) := guarded_proceeds s _
theorem atSpindleDie_proceeds (die : Nat) : Proceeds (atSpindleDie die s) := guarded_proceeds s _
theorem atSpindle_proceeds (l : Nat) : Proceeds (atSpindle l s) := guarded_proceeds s _
theorem atPortVc_proceeds (p vc : Nat) : Proceeds (atPortVc p vc s) := guarded_proceeds s _
theorem atPortLane_proceeds (p l : Nat) : Proceeds (atPortLane p l s) := guarded_proceeds s _
theorem atLane_proceeds (die l : Nat) : Proceeds (atLane die l s) := guarded_proceeds s _
theorem atOutput_proceeds (plane out : Nat) : Proceeds (atOutput plane out s) := guarded_proceeds s _
theorem atConsumer_proceeds (die : Nat) : Proceeds (atConsumer die s) := guarded_proceeds s _

theorem writeAt_proceeds (tag : Nat) (r : Reg) (die inst k : Nat) (value mask : Word) :
    Proceeds (writeAt tag r die inst k value mask s) := guarded_proceeds _ _

/-! ### The engine's commands and drain points -/

theorem execCmd_proceeds (die slot i op : Nat) (plan : Nat → Nat → Nat → State → Nat → Plan) :
    Proceeds (execCmd die slot i op plan s) := orElse_proceeds _ (atEngine_proceeds s die slot i)

theorem execDrain_proceeds (die slot i op : Nat) (k : Nat → Nat → Nat → State → State) :
    Proceeds (execDrain die slot i op k s) := orElse_proceeds _ (atEngine_proceeds s die slot i)

theorem execHalt_proceeds (die slot engine : Nat) : Proceeds (execHalt die slot engine s) := by
  unfold execHalt
  exact execDrain_proceeds s _ _ _ _ _

theorem execSyncRaise_proceeds (die slot engine : Nat) : Proceeds (execSyncRaise die slot engine s) := by
  unfold execSyncRaise
  exact execDrain_proceeds s _ _ _ _ _

theorem execSyncWait_proceeds (die slot engine : Nat) : Proceeds (execSyncWait die slot engine s) := by
  unfold execSyncWait
  exact execDrain_proceeds s _ _ _ _ _

theorem execBarArrive_proceeds (die slot engine : Nat) : Proceeds (execBarArrive die slot engine s) := by
  unfold execBarArrive
  exact execDrain_proceeds s _ _ _ _ _

theorem execBarWait_proceeds (die slot engine : Nat) : Proceeds (execBarWait die slot engine s) := by
  unfold execBarWait
  exact execDrain_proceeds s _ _ _ _ _

theorem execOutFence_proceeds (die slot engine : Nat) : Proceeds (execOutFence die slot engine s) := by
  unfold execOutFence
  exact execDrain_proceeds s _ _ _ _ _

/-! ### Watchdogs and lane locks that act on what a guard lets through -/

theorem execEngineQueueWatchdog_proceeds (die slot engine : Nat) :
    Proceeds (execEngineQueueWatchdog die slot engine s) := by
  unfold execEngineQueueWatchdog
  split
  · exact next_proceeds _
  · exact atEngine_proceeds s die slot engine

theorem execStewardWatchdog_proceeds (die : Nat) : Proceeds (execStewardWatchdog die s) := by
  unfold execStewardWatchdog
  split
  · exact next_proceeds _
  · exact atUnit_proceeds s "steward" 0 32 die

theorem execDistaffWatchdog_proceeds (die : Nat) (mirror : Bool) : Proceeds (execDistaffWatchdog die mirror s) := by
  unfold execDistaffWatchdog
  split
  · exact next_proceeds _
  · exact atUnit_proceeds s "control die" 30 2 die

theorem execControlLaneLockLoss_proceeds (lane : Nat) : Proceeds (execControlLaneLockLoss lane s) := by
  unfold execControlLaneLockLoss
  split
  · exact next_proceeds _
  · exact atUnit_proceeds s "wavelength lane" 0 4 lane

end

/-! ### O5 -/

/-- No command faults, and what it refuses is an event at a missing unit: rows by the guard they stand behind. -/
theorem exec_proceeds (i : Instr) (s : State) : Proceeds (exec i s) := by
  cases i with
  | regRead | regWrite | hankOpen | hankClose | hankQuery | caravanOpen | caravanClose | progLoad | progStart
  | stepCommit | stepAbort | powerSet | opPoll | opCancel | tableLoad | routeSwap | scrub | retire | tierMigrate
  | contextSave | contextRestore | spareSwap | portDrain | laneRecal | fwStage | opStep | debugOpen | zeroisation
  | debugClose | debugEngineHalt | debugEngineRelease | debugRead | debugWrite | flagSet | flagClear | barchanArrive
  | barchanRelease | barchanClear | faultRead | attestReport | infoRead | addKey | revokeKey | deploy | secReturn
  | raiseSvn | command | bulk | linkFrameHello | linkFrameAck | linkFrameNak | linkFrameAlign | resendTimeout
  | linkUpLimit | commandTimeout | chunkTimeout | roundTimeout | exchangeSend | resynchronise | suppressedRecord
  | pulseEnd | lifetime | bringupPhase | bringupLimit | rebootPhase | powerRemoval | inputLoss | fecLock | pwrEnLow
  | rstNLow | rstNRising => exact next_proceeds _
  | pwrEnRising | inputRestore => exact ite_proceeds (next_proceeds _) (next_proceeds _)
  | force | dieReboot | unitRelease | hold | poolConfig | barchanMembers | pageQuery | replRangeCtrl | edgeRole
  | portCtrl => exact writeAt_proceeds s _ _ _ _ _ _ _
  | headerFlit | frameStart | frameEnd | credit | linkWordAck | linkWordNak | replayTimeout | hello | laneDrop
  | laneAdd | recalReq | laneDropTimeout | trainingLimit | egressArbitration | shaperRefill
    => exact orElse_proceeds _ (atPort_proceeds s _)
  | creditStall => exact orElse_proceeds _ (atPortVc_proceeds s _ _)
  | routeFetch | rankFetch | rankWaitTimeout => exact atPortVc_proceeds _ _ _
  | align | signalDetect | equalisationComplete => exact atPortLane_proceeds _ _ _
  | lockLoss | degradeThreshold => exact atLane_proceeds _ _ _
  | schedule | outputStall => exact atOutput_proceeds _ _ _
  | planeRoute | planeCredit | wadiMove | furtherRelease => exact guarded_proceeds _ _
  | get | put | bulkPut | addExact | fetchAdd | atomMax | atomMin | cas | alloc | free | putFwd | atomicFwd | signal
  | bulkSignal => exact atErg_proceeds _ _
  | replTimeout => exact ite_proceeds (atErg_proceeds _ _) (noSuchUnit_proceeds _)
  | countedWrite | fire | signalTimeout => exact atCounter_proceeds _ _
  | getData | ack | atomicRsp => exact atConsumer_proceeds _ _
  | contrib | tallyUp | chunkNotice | result | arrive | release => exact atSpindleDie_proceeds _ _
  | barchanArrival | relock => exact orElse_proceeds _ (atSpindleDie_proceeds s _)
  | hankBurst => exact atSpindle_proceeds _ _
  | raise | stepWatchdog | thermal | clockLock => exact orElse_proceeds _ (atUnit_proceeds s _ _ _ _)
  | engineQueueWatchdog => exact execEngineQueueWatchdog_proceeds s _ _ _
  | stewardWatchdog => exact execStewardWatchdog_proceeds s _
  | distaffWatchdog => exact execDistaffWatchdog_proceeds s _ _
  | controlLaneLockLoss => exact execControlLaneLockLoss_proceeds s _
  | landing => exact orElse_proceeds _ (atEngine_proceeds s _ _ _)
  | nop | j | whorl | sLi | sOp | aSet | inGet | inCopy | inFill | inPush | vLd | vSt | vPush | vPop | vAdd | vMul
  | vMax | vMin | vCvt | vFma | vExp | vRcp | vSqrt | vCard | mmClr | mmT | mmSt | accX | accC | accR | sortK | topkK
  | filt | compact | tileExp | tileCmp | padC | outPut | outDrain | outAtom | outSig
    => exact execCmd_proceeds s _ _ _ _ _
  | halt => exact execHalt_proceeds s _ _ _
  | syncRaise => exact execSyncRaise_proceeds s _ _ _
  | syncWait => exact execSyncWait_proceeds s _ _ _
  | barArrive => exact execBarArrive_proceeds s _ _ _
  | barWait => exact execBarWait_proceeds s _ _ _
  | outFence => exact execOutFence_proceeds s _ _ _

/-- Settles O5: an empty queue idles, and any command proceeds (`exec_proceeds`). -/
theorem onlyAMissingUnitStopsTheBlock : Obligations.OnlyAMissingUnitStopsTheBlock := by
  intro s
  unfold step
  split
  · exact next_proceeds s
  · exact exec_proceeds _ _

end Sys2Proof.Machine
end

section
/-! SUPPORT. What power-on leaves (O2), and a store of dies that no step builds, at which a relock's end is not what O34
says. -/

namespace Sys2Proof.Machine

/-! ### O2 -/

/-- After reset no register is stored: each holds its reset value. -/
theorem rget_reset (r : Reg) (die inst k : Nat) : rget State.reset r die inst k = regReset r die k := rfl

/-- ERR_CTRL reads its width of 1,000 units; its bit 33 is the pin's level, which is low, in place of the stored bit. -/
theorem errCtrl_reset (die : Nat) : (readReg State.reset .errCtrl die 0 0).1 = 0x2000003E8 := by
  have hstored : regReset .errCtrl die 0 = 0x2000003E8 := rfl
  simp only [readReg, rget_reset, hstored]
  decide

/-- Settles O2: a register that shows no other state reads its reset value; ERR_CTRL shows the pin (`errCtrl_reset`). -/
theorem resetLeavesThePartAtPowerOn : Obligations.ResetLeavesThePartAtPowerOn := by
  refine ⟨?state, ?coreDies, fun _ _ _ _ _ => rfl, fun _ _ _ => ⟨rfl, rfl⟩, fun die _ _ => ⟨errCtrl_reset die, rfl⟩,
    fun _ _ => rfl⟩
  case state => and_intros <;> rfl
  case coreDies => decide +kernel

/-! ### O34 -/

/-- A store of dies that names die 10 twice: it reads as a die that has lost its lock, behind which stands a die in a
relock. -/
def doubledDie : State :=
  { State.reset with dies := [(10, { Die.init with unlocked := true }), (10, { Die.init with relock := some 800 })] }

/-- Locking the first entry makes it the default, which removes it; RELOCK then ends the relock of the second. -/
theorem execRelock_doubledDie {t : State} (h : exec (.relock 10) doubledDie = .next t) : t.dies = [] := by
  cases h
  rfl

/-- Refutes O34: of a die in no relock RELOCK is said to lock the die alone, with no assumption that the store of dies is
in canonical form. At `doubledDie` it also ends the relock of the entry that the first one hid; the clause on a die in a
relock has the assumption (`mapRising 0 s.dies`). -/
theorem not_temperatureAndClocks : ¬ Obligations.TemperatureAndClocks := by
  rintro ⟨-, h⟩
  obtain ⟨-, -, hlocks, -⟩ := h doubledDie 10 rfl rfl rfl
  have hdies := execRelock_doubledDie (hlocks rfl (by decide) (by decide))
  exact absurd hdies (by decide)

end Sys2Proof.Machine
end

section
/-! SUPPORT. The oldest packet of a die's consumers: when a row takes it and what is left then. -/

namespace Sys2Proof.Machine

variable {s : State} {die : Nat} {p : Pkt} {rest : List Pkt}

/-- Only a write into Erg memory can lack room in the replay buffer. -/
theorem lacksReplay_of_kind (s : State) (die : Nat) {p : Pkt}
    (hk : (hKind p.hdr == kPut || hKind p.hdr == kBulkPut || hKind p.hdr == kAtomic) = false) : lacksReplay s die p = false := by
  simp only [lacksReplay, hk, Bool.and_false, Bool.false_and]

/-- A packet at the front that need not wait is the one a row looks at. -/
theorem takeHead_front (hin : getInbox s die = p :: rest) (hl : lacksReplay s die p = false) (want : Header → Bool)
    (f : Pkt → State → State) :
    takeHead s die want f =
      if p.complete && want p.hdr && !(dieOff s die && decide (die < 26)) && !scanOpen s die then
        if p.bad then stompAt (setInbox s die rest) p else f p (setInbox s die rest)
      else s := by
  simp only [takeHead, hin, pickFrom, hl, List.contains_nil, Bool.or_self, Bool.false_eq_true, if_false]

/-- A whole packet of the kind a row takes, not marked bad, at a die that works. -/
theorem takeHead_takes (hin : getInbox s die = p :: rest) (hl : lacksReplay s die p = false) {want : Header → Bool}
    (hw : want p.hdr = true) (hc : p.complete = true) (hb : p.bad = false) (hoff : dieOff s die = false ∨ 26 ≤ die)
    (hscan : scanOpen s die = false) (f : Pkt → State → State) :
    takeHead s die want f = f p (setInbox s die rest) := by
  have hon : (dieOff s die && decide (die < 26)) = false := by
    rcases hoff with h | h
    · rw [h, Bool.false_and]
    · rw [decide_eq_false (by omega), Bool.and_false]
  rw [takeHead_front hin hl, hc, hw, hon, hscan, hb]
  rfl

/-! ### CHUNK_NOTICE, RESULT, ARRIVE and RELEASE at a spindle die (R56, R198, R335, R336) -/

/-- A hank packet of a kind that is no write reaches the hank machinery. -/
theorem takeHank_takes (hin : getInbox s die = p :: rest) {kind : Nat} (hk : hKind p.hdr = kind)
    (hw : (kind == kPut || kind == kBulkPut || kind == kAtomic) = false) (hc : p.complete = true) (hb : p.bad = false)
    (hoff : dieOff s die = false) (hrel : (getDie s die).relock = none) (hscan : scanOpen s die = false)
    (f : Pkt → State → State) : takeHank die kind s f = f p (setInbox s die rest) := by
  rw [takeHank, hrel, Option.isSome_none, if_neg Bool.false_ne_true]
  exact takeHead_takes hin (lacksReplay_of_kind s die (hk ▸ hw)) (want := fun h => hKind h == kind) (beq_iff_eq.2 hk) hc hb
    (.inl hoff) hscan f

theorem atSpindleDie_next (h : 10 ≤ die ∧ die < 26) (t : State) : atSpindleDie die t = .next t := if_pos h

theorem getJob_setInbox (s : State) (die : Nat) (l : List Pkt) (j : Nat) : getJob (setInbox s die l) j = getJob s j := rfl

end Sys2Proof.Machine
end

section
/-! SUPPORT. What reaches the hank machinery of a spindle die besides parts, and O49: CHUNK_NOTICE, RESULT, ARRIVE and
RELEASE (R56, R198, R334-R337). -/

namespace Sys2Proof.Machine

section
variable {s : State} {p : Pkt} {h : Hank}

/-- A CHUNK_NOTICE that carries poison acts on the hank it names. -/
theorem hankNotice_poison (hn : namedHank s p.hdr = some h) (hb : wbit p.hdr.w6 8 = true) :
    hankNotice s p = poison s h.d.hank (wbits p.hdr.w6 7 0) (hAux p.hdr) (hStep p.hdr) (wbits p.hdr.w6 23 16)
      (wbits p.hdr.w7 19 0) false := by
  simp only [hankNotice, hn, hb, if_true]

/-- Any other is consumed. -/
theorem hankNotice_consumed (hq : namedHank s p.hdr = none ∨ wbit p.hdr.w6 8 = false) : hankNotice s p = s := by
  rcases hq with hn | hb
  · simp only [hankNotice, hn]
  · cases hn : namedHank s p.hdr <;> simp only [hankNotice, hn, hb, Bool.false_eq_true, if_false]

/-- The arrival of member `mi` noted in the hank's current round, or in the next one (R335). -/
def withArrival (h : Hank) (mi : Nat) (m : Member) (hd : Header) : Hank :=
  let child := if m.trunk then mapPut h.barr.childFeid 0 mi (hSrc hd) else h.barr.childFeid
  { h with barr :=
    if hStep hd - h.base = h.current then { h.barr with cur := insNat h.barr.cur mi, childFeid := child }
    else { h.barr with next := insNat h.barr.next mi, childFeid := child } }

theorem hankArrive_unnamed (hn : namedHank s p.hdr = none) : hankArrive s p = notOpen s p := by
  simp only [hankArrive, hn]

theorem hankArrive_stranger (hn : namedHank s p.hdr = some h) (hm : senderOf h p = none) : hankArrive s p = notOpen s p := by
  simp only [hankArrive, hn, hm]

/-- What an ARRIVE of a member does at the hank it names (R335). -/
theorem hankArrive_member (hn : namedHank s p.hdr = some h) {mi : Nat} {m : Member} (hm : senderOf h p = some (mi, m)) :
    hankArrive s p =
      if h.d.type ≠ 5 ∨ wbit p.hdr.w4 9 ≠ m.trunk then notOpen s p
      else if cAttempt p.hdr ≠ (getJob s h.d.job).attempt ∨ hStep p.hdr < hankStep h then staleHank s h.d.hank
      else if wbits p.hdr.w4 8 8 ≠ (hStep p.hdr - h.base) % 2 then poisonRound s h.d.hank 5
      else if h.current + 2 ≤ hStep p.hdr - h.base then
        raiseDetail s (srcSpindleMap (10 + h.d.hank % 16) 0)
          [word h.d.job, word h.d.hank, word (p.inPort.getD 0), word (hStep p.hdr)]
      else if (if hStep p.hdr - h.base = h.current then h.barr.cur else h.barr.next).contains mi = true then
        poisonRound s h.d.hank 5
      else settleBarrier 2 (setHank s h.d.hank (
        if hStep p.hdr - h.base = h.current then startRound (withArrival h mi m p.hdr) (hStep p.hdr - h.base)
        else withArrival h mi m p.hdr)) h.d.hank := by
  simp only [hankArrive, hn, hm, withArrival, countStale]
  split_ifs <;> rfl

theorem hankRelease_unnamed (hn : namedHank s p.hdr = none) : hankRelease s p = s := by
  simp only [hankRelease, hn]

/-- What a RELEASE does at the hank it names (R336). -/
theorem hankRelease_named (hn : namedHank s p.hdr = some h) :
    hankRelease s p =
      if h.d.type ≠ 5 then s
      else if hSrc p.hdr ≠ h.d.parentFeid ∨ h.d.extendsUp = false ∨ hStep p.hdr ≠ hankStep h ∨ h.barr.sentUp = false then
        staleHank s h.d.hank
      else settleBarrier 1 (releaseRound s h.d.hank) h.d.hank := by
  simp only [hankRelease, hn, countStale, Bool.not_eq_true']

end

/-! ### O49 -/

/-- Settles O49: the packet at the front is taken (`takeHank_takes`); what it does then is said for each kind by
`hankNotice_poison`, `hankArrive_member` and `hankRelease_named`. -/
theorem noticesAndBarriersAct : Obligations.NoticesAndBarriersAct := by
  intro s die p rest hlo hhi hin hc hb hoff hrel hscan
  have hdie : 10 ≤ die ∧ die < 26 := ⟨hlo, hhi⟩
  refine ⟨?result, ?notice, ?arrive, ?release⟩
  case result =>
    intro hk
    show execResult die s = _
    rw [execResult, takeHank_takes hin hk rfl hc hb hoff hrel hscan, atSpindleDie_next hdie]
  case notice =>
    intro hk
    have act : exec (.chunkNotice die) s = .next (hankNotice (setInbox s die rest) p) := by
      show execChunkNotice die s = _
      rw [execChunkNotice, takeHank_takes hin hk rfl hc hb hoff hrel hscan, atSpindleDie_next hdie]
    rw [act]
    exact ⟨fun hq => congrArg _ (hankNotice_consumed hq), fun h hn hp => congrArg _ (hankNotice_poison hn hp)⟩
  case arrive =>
    intro hk
    have act : exec (.arrive die) s = .next (hankArrive (setInbox s die rest) p) := by
      show execArrive die s = _
      rw [execArrive, takeHank_takes hin hk rfl hc hb hoff hrel hscan, atSpindleDie_next hdie]
    rw [act]
    refine ⟨fun hn => congrArg _ (hankArrive_unnamed hn), fun h hn => ⟨fun hm => congrArg _ (hankArrive_stranger hn hm), ?_⟩, ?_⟩
    · intro mi m hm hwrong
      rw [hankArrive_member (s := setInbox s die rest) hn hm, if_pos hwrong]
    · intro h mi m hn hm h5 htrunk
      rw [hankArrive_member (s := setInbox s die rest) hn hm, if_neg (by simp [h5, htrunk]), getJob_setInbox]
      refine ⟨fun hstale => by rw [if_pos hstale], fun hcur hstep => ?_⟩
      rw [if_neg (by simp [hcur, hstep])]
      refine ⟨fun hpar => by rw [if_pos hpar], fun hpar hover => ?_, fun hpar hnear htwice => ?_, fun hpar hnear hfirst => ?_⟩
        <;> rw [if_neg (not_not.2 hpar)]
      · rw [if_pos hover]
      · rw [if_neg (Nat.not_le.2 hnear), if_pos htwice]
      · rw [if_neg (Nat.not_le.2 hnear), if_neg (Bool.eq_false_iff.1 hfirst)]
        rfl
  case release =>
    intro hk
    have act : exec (.release die) s = .next (hankRelease (setInbox s die rest) p) := by
      show execRelease die s = _
      rw [execRelease, takeHank_takes hin hk rfl hc hb hoff hrel hscan, atSpindleDie_next hdie]
    rw [act]
    refine ⟨fun hn => congrArg _ (hankRelease_unnamed hn), fun h hn => ?_⟩
    rw [hankRelease_named (s := setInbox s die rest) hn]
    refine ⟨fun h5 => by rw [if_pos h5], fun h5 hsrc hext hstep hsent => ?_, fun h5 hwrong => ?_⟩
    · rw [if_neg (not_not.2 h5), if_neg (by simp [hsrc, hext, hstep, hsent])]
    · rw [if_neg (not_not.2 h5), if_pos hwrong]
end Sys2Proof.Machine
end

section
/-! SUPPORT. The Outlet's sends (R276, R277, R325): what their plans read does not change as the cycle begins; and O57. -/

namespace Sys2Proof.Machine

/-- Of its plan a repeat performs the results, the steps, the occupancy, the effects and where the program goes on. -/
theorem perform_congr (s : State) (key i n : Nat) {p q : Plan} (hr : p.results = q.results) (hs : p.steps = q.steps)
    (ho : p.occ = q.occ) (ha : p.act = q.act) (hn : p.next = q.next) : perform s key i n p = perform s key i n q := by
  simp only [perform, hr, hs, ho, ha, hn]

section
variable {s : State} (hs : Sound s) (key c rep : Nat)
include hs

theorem planOutPut_beginCycle : planOutPut key 3 c (beginCycle s key 3) rep = planOutPut key 3 c s rep := by
  obtain ⟨v, hv⟩ := getEng_beginCycle hs key 3
  obtain ⟨w, hw⟩ := getSp_beginCycle hs key 3
  simp only [planOutPut, lsRead, hv, hw]
  rfl

theorem planOutDrain_beginCycle : planOutDrain key 3 c (beginCycle s key 3) rep = planOutDrain key 3 c s rep := by
  obtain ⟨v, hv⟩ := getEng_beginCycle hs key 3
  obtain ⟨w, hw⟩ := getSp_beginCycle hs key 3
  simp only [planOutDrain, hv, hw]
  rfl

theorem planOutAtom_beginCycle : planOutAtom key 3 c (beginCycle s key 3) rep = planOutAtom key 3 c s rep := by
  obtain ⟨v, hv⟩ := getEng_beginCycle hs key 3
  simp only [planOutAtom, hv]
  rfl

theorem planOutSig_beginCycle : planOutSig key 3 c (beginCycle s key 3) rep = planOutSig key 3 c s rep := by
  obtain ⟨v, hv⟩ := getEng_beginCycle hs key 3
  simp only [planOutSig, hv]
  rfl

end

theorem outletHold_few {e : Engine} (h : unanswered e < 256) : outletHold e = 0 := if_neg (Nat.not_le.2 h)

/-! ### O57 -/

/-- Settles O57: each command issues unhindered (`execCmd_issues`) by a plan that reads nothing the cycle's beginning
changes, and what the plan performs is the packet's sending. -/
theorem outletCommandsSend : Obligations.OutletCommandsSend := by
  intro s die slot c rep n hlo hhi hslot hs
  have hr : 10 ≤ die ∧ die < 26 ∧ slot < 17 ∧ 3 < 4 := ⟨hlo, hhi, hslot, by decide⟩
  have hkey : spKey die slot / 32 = die := by unfold spKey; omega
  intro key e b sp a1 a2 a3 src h res k occ v w counter creg sent put hfew
  have hsent : ∀ f r, sendOut key f r = sent f r := by
    intro f r
    funext t
    show sendFrom _ (spKey die slot / 32) _ = _
    rw [hkey]
    rfl
  have hhold : outletHold e = 0 := outletHold_few hfew
  refine ⟨?put, ?drain, ?atom, ?sig⟩
  case put =>
    intro hc hsrc hdst hu
    have herrs : (planOutPut key 3 c s rep).errs = [] :=
      List.append_eq_nil_iff.2 ⟨localOpd_ok (.inr hsrc), handleOpd_ok (.inr hdst)⟩
    exact (execCmd_issues hs hr (planOutPut_beginCycle hs key c rep) hc hu herrs hhold).trans
      (congrArg _ (perform_congr b key 3 n rfl rfl rfl (hsent _ _) rfl))
  case drain =>
    intro hc hdst q x r hq hqueue hu
    subst hq
    have hfull : getQueue (getSp s key) (4 + bits c 48 48) = x :: r := hqueue
    have hhold' : (planOutDrain key 3 c s rep).hold = 0 := by
      simp only [planOutDrain, hfull, if_neg (List.cons_ne_nil x r)]
      exact hhold
    have hact : (planOutDrain key 3 c s rep).act = fun s => sent (put (natBytes 256 x.toNat)) none
        (modSp s key (fun sp => setQueue sp (4 + bits c 48 48) ((getQueue sp (4 + bits c 48 48)).drop 1))) := by
      simp only [planOutDrain, hfull, hsent]
      rfl
    exact (execCmd_issues hs hr (planOutDrain_beginCycle hs key c rep) hc hu (handleOpd_ok (.inr hdst)) hhold').trans
      (congrArg _ (perform_congr b key 3 n rfl rfl rfl hact rfl))
  case atom =>
    intro hc hdst hres hu
    have herrs : (planOutAtom key 3 c s rep).errs = [] :=
      List.append_eq_nil_iff.2 ⟨handleOpd_ok hdst, localOpd_ok (.inr hres)⟩
    exact (execCmd_issues hs hr (planOutAtom_beginCycle hs key c rep) hc hu herrs hhold).trans
      (congrArg _ (perform_congr b key 3 n rfl rfl rfl (hsent _ _) rfl))
  case sig =>
    intro hc hdst hcount hu
    have herrs : (planOutSig key 3 c s rep).errs = [] :=
      List.append_eq_nil_iff.2 ⟨handleOpd_ok (.inr hdst), if_neg (Nat.not_le.2 hcount)⟩
    exact (execCmd_issues hs hr (planOutSig_beginCycle hs key c rep) hc hu herrs hhold).trans
      (congrArg _ (perform_congr b key 3 n rfl rfl rfl (hsent _ _) rfl))
end Sys2Proof.Machine
end

section
/-! SUPPORT. Route and rank fetches that return to a port die, and O39 (R62, R65, R66, R68, R87, R89, R526). -/

namespace Sys2Proof.Machine

section
variable {s : State} {p vc : Nat}

theorem atPortVc_next (h : p < 128 ∧ vc < 14) (t : State) : atPortVc p vc t = .next t := if_pos h

@[simp] theorem withEntry_link (s : State) (k : Pkt) (e : BitVec 32) : (withEntry s k e).link = k.link := by
  unfold withEntry
  split <;> rfl

/-- A route entry NONE, or LOCAL for a kind this Holmon does not consume, discards the packet with NO_ROUTE. -/
theorem routed_noRoute {k : Pkt} {e : BitVec 32} (h : entryAction e = 0 ∨ (entryAction e = 3 ∧ consumes (hKind k.hdr) = false)) :
    routed s p k e = discardPkt s p 9 k := by
  rw [routed, if_pos (by simpa only [Bool.not_eq_true'] using h)]

/-- With any other entry the packet stands in line for a core plane. -/
theorem routed_goesOn {k : Pkt} {e : BitVec 32}
    (h : entryAction e = 1 ∨ entryAction e = 2 ∨ (entryAction e = 3 ∧ consumes (hKind k.hdr) = true)) :
    routed s p k e = setReady s k.link (getReady s k.link ++ [withEntry s k e]) := by
  have hgo : ¬ (entryAction e = 0 ∨ (entryAction e = 3 ∧ !consumes (hKind k.hdr))) := by
    rcases h with h | h | ⟨h, hc⟩
    · simp [h]
    · simp [h]
    · simp [h, hc]
  rw [routed, if_neg hgo, enqueueReady, withEntry_link]

/-! ### A route fetch returns (R89) -/

theorem routeReturn_nobody (h : headWaiter s p vc = none) : routeReturn s p vc = s := by
  simp only [routeReturn, h]

theorem routeReturn_otherStage {w : Waiter} (h : headWaiter s p vc = some w) (hs : w.stage ≠ 2) : routeReturn s p vc = s := by
  simp only [routeReturn, h, if_neg hs]

theorem routeReturn_noPlane {w : Waiter} (h : headWaiter s p vc = some w) (hs : w.stage = 2) (ha : anyPlane s = false) :
    routeReturn s p vc = advance (discardPkt (dropWaiter s p vc) p 11 w.pkt) p vc := by
  simp only [routeReturn, h, hs, ha, if_true, Bool.not_false]

theorem routeReturn_routed {w : Waiter} (h : headWaiter s p vc = some w) (hs : w.stage = 2) (ha : anyPlane s = true) :
    routeReturn s p vc = advance (routed (modPortDie (dropWaiter s p vc) (p / 16) (fun d => { d with
      routeCache := cacheInsert (fun x => (Config.routeSet x.1).toNat) d.routeCache
        (hDst w.pkt.hdr, routeEntry s (hDst w.pkt.hdr)) })) p w.pkt (routeEntry s (hDst w.pkt.hdr))) p vc := by
  simp only [routeReturn, h, hs, ha, if_true, Bool.not_true, Bool.false_eq_true, if_false]

/-! ### A rank fetch returns (R65, R66) -/

section
variable (ho : (getPortDie s (p / 16)).orphans.find? (fun o => o.1 == 16 * p + vc) = none)
include ho

theorem rankReturn_nobody (h : headWaiter s p vc = none) : rankReturn s p vc = s := by
  simp only [rankReturn, ho, h]

theorem rankReturn_notAwaited {w : Waiter} (h : headWaiter s p vc = some w) (hs : ¬ ((w.stage = 1 ∨ w.stage = 3) ∧ w.lost = false)) :
    rankReturn s p vc = s := by
  simp only [rankReturn, ho, h, Bool.not_eq_true', if_neg hs]

theorem rankReturn_lost {w : Waiter} (h : headWaiter s p vc = some w) (hs : w.stage = 1 ∨ w.stage = 3) (hl : w.lost = false)
    (ha : anyPlane s = false) :
    rankReturn s p vc = waitFirst (dropWaiter s p vc) (p / 16) { w with lost := true } := by
  simp only [rankReturn, ho, h, Bool.not_eq_true', if_pos (And.intro hs hl), ha, Bool.false_eq_true, if_false]

theorem rankReturn_arrives {w : Waiter} (h : headWaiter s p vc = some w) (hs : w.stage = 1 ∨ w.stage = 3) (hl : w.lost = false)
    (ha : anyPlane s = true) : rankReturn s p vc = rankArrives s p vc w := by
  simp only [rankReturn, ho, h, Bool.not_eq_true', if_pos (And.intro hs hl), ha, if_true]

end

theorem rankArrives_unreadable {w : Waiter}
    (h : rankCount (fetchRank (dropWaiter s p vc) (hJob w.pkt.hdr) w.rank) (hJob w.pkt.hdr) ≤ w.rank
      ∨ rankReadable (fetchRank (dropWaiter s p vc) (hJob w.pkt.hdr) w.rank) (hJob w.pkt.hdr) w.rank = false) :
    rankArrives s p vc w
      = advance (discardPkt (fetchRank (dropWaiter s p vc) (hJob w.pkt.hdr) w.rank) p 5 w.pkt) p vc := by
  simp only [rankArrives, Bool.not_eq_true', if_pos h.symm]

/-- A readable entry within the table is that of an older generation, or translates the packet. -/
theorem rankArrives_readable {w : Waiter}
    (hc : w.rank < rankCount (fetchRank (dropWaiter s p vc) (hJob w.pkt.hdr) w.rank) (hJob w.pkt.hdr))
    (hr : rankReadable (fetchRank (dropWaiter s p vc) (hJob w.pkt.hdr) w.rank) (hJob w.pkt.hdr) w.rank = true) :
    rankArrives s p vc w =
      if w.gen ≠ jobGeneration (fetchRank (dropWaiter s p vc) (hJob w.pkt.hdr) w.rank) (hJob w.pkt.hdr) then
        waitFirst (fetchRank (dropWaiter s p vc) (hJob w.pkt.hdr) w.rank) (p / 16)
          { w with gen := jobGeneration (fetchRank (dropWaiter s p vc) (hJob w.pkt.hdr) w.rank) (hJob w.pkt.hdr) }
      else advance (begin (cacheRank (fetchRank (dropWaiter s p vc) (hJob w.pkt.hdr) w.rank) (p / 16) (hJob w.pkt.hdr) w.rank)
        p w.pkt w.stage) p vc := by
  simp only [rankArrives, hr, Bool.not_true, Bool.false_eq_true, false_or, if_neg (Nat.not_le.2 hc)]

/-- A fetch whose packet is gone is cached when it is whole and of the present generation. -/
theorem rankReturn_orphan {o : Nat × Nat × Nat × BitVec 32}
    (h : (getPortDie s (p / 16)).orphans.find? (fun o => o.1 == 16 * p + vc) = some o) :
    rankReturn s p vc = orphanReturn s p vc o := by
  simp only [rankReturn, h]

/-- The port die without the first fetch that VC `vc` of port `p` has given up. -/
def dropOrphan (s : State) (p vc : Nat) : State :=
  modPortDie s (p / 16) (fun d => { d with orphans := removeFirst (fun o => o.1 == 16 * p + vc) d.orphans })

theorem orphanReturn_eq (s : State) (p vc : Nat) (o : Nat × Nat × Nat × BitVec 32) :
    orphanReturn s p vc o =
      if anyPlane s = false then dropOrphan s p vc
      else if rankReadable (fetchRank (dropOrphan s p vc) o.2.1 o.2.2.1) o.2.1 o.2.2.1 = true
          ∧ o.2.2.2 = jobGeneration (fetchRank (dropOrphan s p vc) o.2.1 o.2.2.1) o.2.1 then
        cacheRank (fetchRank (dropOrphan s p vc) o.2.1 o.2.2.1) (p / 16) o.2.1 o.2.2.1
      else fetchRank (dropOrphan s p vc) o.2.1 o.2.2.1 := by
  simp only [orphanReturn, Bool.not_eq_true']
  rfl

/-! ### A packet has waited its microsecond (R65) -/

theorem rankExpire_nobody (h : headWaiter s p vc = none) : rankExpire s p vc = s := by
  simp only [rankExpire, h]

theorem rankExpire_otherStage {w : Waiter} (h : headWaiter s p vc = some w) (hs : ¬ (w.stage = 1 ∨ w.stage = 3)) :
    rankExpire s p vc = s := by
  simp only [rankExpire, h, if_neg hs]

theorem rankExpire_discards {w : Waiter} (h : headWaiter s p vc = some w) (hs : w.stage = 1 ∨ w.stage = 3) :
    rankExpire s p vc = advance (discardPkt (if w.lost = true then dropWaiter s p vc else
      modPortDie (dropWaiter s p vc) (p / 16) (fun d => { d with
        orphans := d.orphans ++ [(16 * p + vc, hJob w.pkt.hdr, w.rank, w.gen)] })) p 5 w.pkt) p vc := by
  simp only [rankExpire, h, if_pos hs]

end

/-! ### O39 -/

/-- Settles O39: a return is what `routeReturn_routed`, `rankArrives_readable`, `rankExpire_discards` or `orphanReturn_eq`
says; every other event finds nobody that waits for it. -/
theorem fetchesReturnToTheirPackets : Obligations.FetchesReturnToTheirPackets := by
  refine ⟨fun s p vc w hp hvc hw => ?waiter, fun s p vc hp hvc => ?alone⟩
  all_goals
    have hroute : exec (.routeFetch p vc) s = .next (routeReturn s p vc) := atPortVc_next ⟨hp, hvc⟩ _
    have hrank : exec (.rankFetch p vc) s = .next (rankReturn s p vc) := atPortVc_next ⟨hp, hvc⟩ _
    have hexpire : exec (.rankWaitTimeout p vc) s = .next (rankExpire s p vc) := atPortVc_next ⟨hp, hvc⟩ _
    rw [hroute, hrank, hexpire]
  case waiter =>
    refine ⟨fun hst => ?route, fun hst => ?rank, fun hst => ?behind⟩
    case route =>
      refine ⟨fun ha => congrArg _ (routeReturn_noPlane hw hst ha), fun ha he => ?_, fun ha he => ?_,
        fun ho => congrArg _ (rankReturn_notAwaited ho hw (by simp [hst])), congrArg _ (rankExpire_otherStage hw (by simp [hst]))⟩
      · rw [routeReturn_routed hw hst ha, routed_noRoute he]
        rfl
      · rw [routeReturn_routed hw hst ha, routed_goesOn he]
        rfl
    case rank =>
      refine ⟨fun ho hl => congrArg _ (rankReturn_notAwaited ho hw (by simp [hl])),
        fun ho hl ha => congrArg _ (rankReturn_lost ho hw hst hl ha), fun ho hl ha => ⟨fun hbad => ?_, fun hc hr => ?_⟩,
        fun hl => ?_, fun hl => ?_, congrArg _ (routeReturn_otherStage hw (by omega))⟩
      · rw [rankReturn_arrives ho hw hst hl ha, rankArrives_unreadable hbad]
        rfl
      · rw [rankReturn_arrives ho hw hst hl ha, rankArrives_readable hc hr]
        exact ⟨fun hg => congrArg _ (if_pos hg), fun hg => congrArg _ (if_neg (not_not.2 hg))⟩
      · rw [rankExpire_discards hw hst, hl]
        rfl
      · rw [rankExpire_discards hw hst, hl]
        rfl
    case behind =>
      exact ⟨congrArg _ (routeReturn_otherStage hw (by omega)),
        fun ho => congrArg _ (rankReturn_notAwaited ho hw (by simp [hst])), congrArg _ (rankExpire_otherStage hw (by omega))⟩
  case alone =>
    refine ⟨fun hn => ⟨congrArg _ (routeReturn_nobody hn), congrArg _ (rankExpire_nobody hn)⟩,
      fun ho hn => congrArg _ (rankReturn_nobody ho hn), fun job rank gen ho => ?_⟩
    rw [rankReturn_orphan ho, orphanReturn_eq]
    refine ⟨fun ha => congrArg _ (if_pos ha), fun ha hbad => ?_, fun ha hr hg => ?_⟩ <;>
      rw [if_neg (Bool.not_eq_false _ ▸ ha)]
    · exact congrArg _ (if_neg fun h => hbad.elim (fun hr => Bool.false_ne_true (hr.symm.trans h.1)) (fun hg => hg h.2))
    · exact congrArg _ (if_pos ⟨hr, hg⟩)
end Sys2Proof.Machine
end

section
/-! SUPPORT. Answers that reach their originators, and O47 (R57, R266, R272, R281, R444). -/

namespace Sys2Proof.Machine

section
variable {s : State} {die : Nat} {p : Pkt} {rest : List Pkt}

theorem atConsumer_next (h : 10 ≤ die ∧ die < 30) (t : State) : atConsumer die t = .next t := if_pos h

/-- While a die relocks its clock no answer is taken there. -/
theorem takeAnswer_relocks (h : (getDie s die).relock ≠ none) (kind : Nat) (f : Pkt → State → State) :
    takeAnswer die kind s f = s := if_pos (Option.isSome_iff_ne_none.2 h)

/-- Nor any hank packet. -/
theorem takeHank_relocks (h : (getDie s die).relock ≠ none) (kind : Nat) (f : Pkt → State → State) :
    takeHank die kind s f = s := if_pos (Option.isSome_iff_ne_none.2 h)

/-- Elsewhere an answer at the front is taken. -/
theorem takeAnswer_takes (hin : getInbox s die = p :: rest) {kind : Nat} (hk : hKind p.hdr = kind)
    (hw : (kind == kPut || kind == kBulkPut || kind == kAtomic) = false) (hc : p.complete = true) (hb : p.bad = false)
    (hoff : dieOff s die = false ∨ 26 ≤ die) (hrel : (getDie s die).relock = none) (hscan : scanOpen s die = false)
    (f : Pkt → State → State) : takeAnswer die kind s f = f p (setInbox s die rest) := by
  rw [takeAnswer, hrel, Option.isSome_none, if_neg Bool.false_ne_true]
  exact takeHead_takes hin (lacksReplay_of_kind s die (hk ▸ hw)) (want := fun h => hKind h == kind) (beq_iff_eq.2 hk) hc hb
    hoff hscan f

/-! ### An IN.GET repeat completes (R266, R281, R282) -/

/-- The Intake after a repeat has completed, an exception that waited for it taken. -/
def getEnded (s : State) (key : Nat) (g : GetOut) : State :=
  takeFault (modEng s key 0 (fun e => { e with gets := e.gets.filter (fun x => x.number != g.number) })) key 0

/-- The same for a repeat that ended with an error. -/
def getFailed (s : State) (key : Nat) (g : GetOut) : State :=
  takeFault (modEng s key 0 (fun e =>
    { e with gets := e.gets.filter (fun x => x.number != g.number),
             badGroups := if e.badGroups.contains g.group then e.badGroups else e.badGroups ++ [g.group],
             errFetch := earlier e.errFetch g.ord g.handle })) key 0

/-- What the end of a repeat does once its engine has noted it. -/
def groupSettled (s : State) (key : Nat) (g : GetOut) : State :=
  if (getEng s key 0).gets.any (fun x => x.group == g.group) || groupOpen (getSp s key) g.group then s
  else
    let v := modEng s key 0 (fun e => { e with badGroups := e.badGroups.filter (· != g.group) })
    match g.flag with
    | some n => if (getEng s key 0).badGroups.contains g.group then v else raiseOwn v key n
    | none => v

theorem getDone_good (s : State) (key : Nat) (g : GetOut) : getDone s key g false = groupSettled (getEnded s key g) key g := by
  simp only [getDone, Bool.false_eq_true, false_and, if_false]
  rfl

theorem getDone_bad (s : State) (key : Nat) (g : GetOut) : getDone s key g true = groupSettled (getFailed s key g) key g := by
  have hgroups : ∀ l : List Nat, (if True ∧ (!l.contains g.group) = true then l ++ [g.group] else l)
      = if l.contains g.group = true then l else l ++ [g.group] := by
    intro l
    cases l.contains g.group <;> simp
  simp only [getDone, if_true, hgroups]
  rfl

variable {key : Nat} {g : GetOut}

theorem groupSettled_goesOn
    (h : (getEng s key 0).gets.any (fun x => x.group == g.group) = true ∨ groupOpen (getSp s key) g.group = true) :
    groupSettled s key g = s := if_pos (Bool.or_eq_true_iff.2 h)

section
variable (hany : (getEng s key 0).gets.any (fun x => x.group == g.group) = false)
  (hopen : groupOpen (getSp s key) g.group = false)
include hany hopen

/-- With the last repeat of a good command its flag is raised. -/
theorem groupSettled_good (hb : (getEng s key 0).badGroups.contains g.group = false) :
    groupSettled s key g = match g.flag with
      | some n => raiseOwn (modEng s key 0 (fun e => { e with badGroups := e.badGroups.filter (· != g.group) })) key n
      | none => modEng s key 0 (fun e => { e with badGroups := e.badGroups.filter (· != g.group) }) := by
  rw [groupSettled, hany, hopen, hb]
  cases g.flag <;> rfl

/-- A command with an errored repeat, or without a flag, raises none. -/
theorem groupSettled_silent (hb : (getEng s key 0).badGroups.contains g.group = true ∨ g.flag = none) :
    groupSettled s key g = modEng s key 0 (fun e => { e with badGroups := e.badGroups.filter (· != g.group) }) := by
  rw [groupSettled, hany, hopen]
  cases hf : g.flag with
  | none => rfl
  | some n => rw [hb.resolve_right (by simp [hf])]; rfl

end

/-! ### GET_DATA -/

theorem takeGetData_unnamed (h : namedGet s (hTag p.hdr) = none) : takeGetData p s = s := by
  simp only [takeGetData, h]

theorem takeGetData_named (h : namedGet s (hTag p.hdr) = some (key, g)) :
    takeGetData p s = groupSettled (getEnded
      (modSp s key (fun sp => { sp with ls := memWrite sp.ls g.addr (padTo g.bytes p.payload) })) key g) key g := by
  simp only [takeGetData, h, getDone_good, spWrite]

/-! ### An Outlet packet is answered (R57, R272) -/

/-- The Outlet's packet has ended. -/
def outEnded (s : State) (key : Nat) (r : OutReq) : State :=
  modEng s key 3 (fun e => { e with sent := e.sent.filter (fun x => x.number != r.number) })

/-- The Outlet's packet has ended with an error, which waits for the next fence. -/
def outFailed (s : State) (key : Nat) (r : OutReq) : State :=
  modEng s key 3 (fun e => { e with sent := e.sent.filter (fun x => x.number != r.number),
                                    errOutlet := earlier e.errOutlet r.ord r.handle })

variable {r : OutReq} {st : Nat}

theorem outDone_error (h : st ≠ stOk) (v : Word) : outDone s key r st v = outFailed s key r := by
  simp only [outDone, if_pos h, outFailed]

theorem outDone_plain (h : st = stOk) (hk : r.kind ≠ kAtomic) (v : Word) : outDone s key r st v = outEnded s key r := by
  simp only [outDone, if_neg (not_not.2 h), if_neg hk, outEnded]

theorem outDone_result (h : st = stOk) (hk : r.kind = kAtomic) (v : Word) : outDone s key r st v = modEng s key 3 (fun e =>
    { e with sent := e.sent.map (fun x => if x.number = r.number then { x with answered := some v } else x) }) := by
  simp only [outDone, if_neg (not_not.2 h), if_pos hk]

/-! ### ACK -/

theorem takeAck_get (h : namedGet s (hTag p.hdr) = some (key, g)) :
    takeAck p s = if ansStatus p.hdr = stOk then s else groupSettled (getFailed s key g) key g := by
  simp only [takeAck, h, getDone_bad]

theorem takeAck_out (h : namedGet s (hTag p.hdr) = none) (ho : namedOut s (hTag p.hdr) = some (key, r)) :
    takeAck p s = if r.kind = kAtomic ∧ ansStatus p.hdr = stOk then s else outDone s key r (ansStatus p.hdr) 0 := by
  simp only [takeAck, h, ho]

theorem takeAck_unnamed (h : namedGet s (hTag p.hdr) = none) (ho : namedOut s (hTag p.hdr) = none) :
    takeAck p s = if tagOrigin (hTag p.hdr) = 3 ∧ ergLive s (26 + bits (hTag p.hdr) 27 26) = true then
        replAck s (26 + bits (hTag p.hdr) 27 26) (bits (hTag p.hdr) 19 16) (BitVec.ofNat 32 (hAux p.hdr)) (ansStatus p.hdr)
      else s := by
  simp only [takeAck, h, ho]

/-! ### ATOMIC_RSP -/

theorem takeAtomicRsp_unnamed (h : namedOut s (hTag p.hdr) = none) : takeAtomicRsp p s = s := by
  simp only [takeAtomicRsp, h]

theorem takeAtomicRsp_atomic (h : namedOut s (hTag p.hdr) = some (key, r)) (hk : r.kind = kAtomic) :
    takeAtomicRsp p s = outDone s key r (ansStatus p.hdr) p.hdr.w5 := by
  simp only [takeAtomicRsp, h, if_pos hk]

end

/-! ### O47 -/

/-- Settles O47: where no clock relocks the answer at the front is taken (`takeAnswer_takes`); a GET_DATA or an error of an
IN.GET ends a repeat (`groupSettled`), any other answer an Outlet packet (`outDone_plain`, `outDone_error`,
`outDone_result`). -/
theorem answersReachTheirRequests : Obligations.AnswersReachTheirRequests := by
  refine ⟨fun s die hlo hhi hrel => ⟨?answers, fun h26 => ?hanks⟩, fun s die p rest hlo hhi hin hc hb hoff hrel hscan => ?_⟩
  case answers =>
    have quiet (kind : Nat) (f : Pkt → State → State) : atConsumer die (takeAnswer die kind s f) = .next s := by
      rw [takeAnswer_relocks hrel, atConsumer_next ⟨hlo, hhi⟩]
    simp only [List.forall_mem_cons]
    exact ⟨quiet kGetData _, quiet kAck _, quiet kAtomicRsp _, List.forall_mem_nil _⟩
  case hanks =>
    have quiet (kind : Nat) (f : Pkt → State → State) : atSpindleDie die (takeHank die kind s f) = .next s := by
      rw [takeHank_relocks hrel, atSpindleDie_next ⟨hlo, h26⟩]
    simp only [List.forall_mem_cons]
    exact ⟨quiet kContrib _, quiet kTallyUp _, quiet kChunkNotice _, quiet kResult _, quiet kArrive _, quiet kRelease _,
      List.forall_mem_nil _⟩
  have hdie : 10 ≤ die ∧ die < 30 := ⟨hlo, hhi⟩
  refine ⟨fun hk => ?data, fun hk => ?ack, fun hk => ?rsp⟩
  case data =>
    have act : exec (.getData die) s = .next (takeGetData p (setInbox s die rest)) := by
      show execGetData die s = _
      rw [execGetData, takeAnswer_takes hin hk rfl hc hb hoff hrel hscan, atConsumer_next hdie]
    rw [act]
    refine ⟨fun hn => congrArg _ (takeGetData_unnamed hn), fun key g hn => ?_⟩
    rw [takeGetData_named (s := setInbox s die rest) hn]
    exact ⟨fun h => congrArg _ (groupSettled_goesOn h), fun ha ho hg => congrArg _ (groupSettled_good ha ho hg),
      fun ha ho hg => congrArg _ (groupSettled_silent ha ho (.inl hg))⟩
  case ack =>
    have act : exec (.ack die) s = .next (takeAck p (setInbox s die rest)) := by
      show execAck die s = _
      rw [execAck, takeAnswer_takes hin hk rfl hc hb hoff hrel hscan, atConsumer_next hdie]
    rw [act]
    refine ⟨fun key r hg ho => ?_, fun key g hn => ?_, fun hg ho => ?_⟩
    · rw [takeAck_out (s := setInbox s die rest) hg ho]
      refine ⟨fun hst hkind => ?_, fun hst hkind => congrArg _ (if_pos ⟨hkind, hst⟩), fun hst => ?_⟩
      · exact congrArg _ ((if_neg fun h => hkind h.1).trans (outDone_plain hst hkind 0))
      · exact congrArg _ ((if_neg fun h => hst h.2).trans (outDone_error hst 0))
    · rw [takeAck_get (s := setInbox s die rest) hn]
      refine ⟨fun hst => congrArg _ (if_pos hst), fun hst => ?_⟩
      rw [if_neg (show ¬ ansStatus p.hdr = stOk from hst)]
      exact ⟨fun h => congrArg _ (groupSettled_goesOn h), fun hf ha ho => congrArg _ (groupSettled_silent ha ho (.inr hf))⟩
    · rw [takeAck_unnamed (s := setInbox s die rest) hg ho]
      exact ⟨fun h3 hl => congrArg _ (if_pos ⟨h3, hl⟩), fun h3 => congrArg _ (if_neg fun h => h3 h.1)⟩
  case rsp =>
    have act : exec (.atomicRsp die) s = .next (takeAtomicRsp p (setInbox s die rest)) := by
      show execAtomicRsp die s = _
      rw [execAtomicRsp, takeAnswer_takes hin hk rfl hc hb hoff hrel hscan, atConsumer_next hdie]
    rw [act]
    refine ⟨fun hn => congrArg _ (takeAtomicRsp_unnamed hn), fun key r hn hkind => ?_⟩
    rw [takeAtomicRsp_atomic (s := setInbox s die rest) hn hkind]
    exact ⟨fun hst => congrArg _ (outDone_result hst hkind _), fun hst => congrArg _ (outDone_error hst _)⟩

end Sys2Proof.Machine
end

section
/-! SUPPORT. Register writes by a row of their own: the write a command comes to, and other registers after it. -/

namespace Sys2Proof.Machine

theorem mapFind_low {α : Type} {m : SMap α} {k lo : Nat} (h : mapRising lo m = true) (hk : k < lo) : mapFind m k = none := by
  cases m with
  | nil => rfl
  | cons e r =>
    simp only [mapRising, Bool.and_eq_true, decide_eq_true_eq] at h
    rw [mapFind, if_neg (by omega), if_pos (by omega)]

/-- Another key after a removal. -/
theorem mapFind_mapDel_other {α : Type} {lo : Nat} {m : SMap α} (h : mapRising lo m = true) {k j : Nat} (hj : j ≠ k) :
    mapFind (mapDel m k) j = mapFind m j := by
  induction m generalizing lo with
  | nil => rfl
  | cons e r ih =>
    obtain ⟨i, w⟩ := e
    simp only [mapRising, Bool.and_eq_true, decide_eq_true_eq] at h
    rw [mapDel]
    split
    next hk =>
      rw [mapFind, if_neg (by omega)]
      split
      next hlt => exact mapFind_low h.2 (by omega)
      next => rfl
    next =>
      split
      · rfl
      · rw [mapFind, mapFind, ih h.2]

/-- A register after a write to another one. -/
theorem rget_rset_other {s : State} (h : mapRising 0 s.regs = true) {r r' : Reg} {d i k d' i' k' : Nat}
    (hne : regAddr r' d' i' k' ≠ regAddr r d i k) (v : Nat) : rget (rset s r d i k v) r' d' i' k' = rget s r' d' i' k' := by
  have hfind : mapFind (rset s r d i k v).regs (regAddr r' d' i' k') = mapFind s.regs (regAddr r' d' i' k') := by
    rw [rset_regs, mapPut]
    split
    · exact mapFind_mapDel_other h hne
    · rw [mapFind_insert, if_neg hne]
  rw [rget, hfind, rget]

/-! ### A write that a row names by unit and index -/

/-- A row's register is the one its address names. -/
structure NamesRegister (r : Reg) (die inst k a : Nat) : Prop where
  form : die < 32 ∧ inst < 4096 ∧ (regRow r).base + (regRow r).stride * k < 2 ^ 24
  addr : (unitAddr die (regRow r).cls inst + (regRow r).base + (regRow r).stride * k) % 2 ^ 48 = a
  decode : decodeAddr a = some (r, k)
  die : addrDie a = die
  inst : addrInst a = inst

/-- Only a write to a fault source injects checks. -/
theorem injects_other {s : State} {a : Nat} {r : Reg} {k : Nat} (hdec : decodeAddr a = some (r, k)) (hf : r ≠ .faultSource)
    (value mask : Nat) : injects s a value mask = false := by
  rw [injects, hdec]
  split
  next heq => exact absurd (congrArg Prod.fst (Option.some.inj heq)) hf
  next => rfl

/-- An accepted `reg.write` of a register, but for the fault sources and a FORCE, is its write and the answer to it. -/
theorem takeCommand_regWrite {s : State} {tag : Nat} (hacc : accepts s tag = true) {addr a : Nat} (ha : addr % 2 ^ 48 = a)
    (hdie : addrDie a < 32) {r : Reg} {k : Nat} (hdec : decodeAddr a = some (r, k)) (hf : r ≠ .faultSource)
    (hfo : r ≠ .failoverCtrl) (value mask : Word) :
    takeCommand s (cmdRegWrite s tag addr value mask)
      = settle tag 0x11 (writeReg (noted s tag 0x11) r (addrDie a) (addrInst a) k value.toNat mask.toNat) := by
  have hperm : (cmdRegWrite s tag addr value mask).permitted = true := by
    simp only [cmdRegWrite, ha, injects_other hdec hf, Bool.false_and, Bool.not_false, Bool.true_or]
  have hdies : ∀ d ∈ (cmdRegWrite s tag addr value mask).dies, d < 32 := by
    simp only [cmdRegWrite, plainCmd, ha, List.mem_singleton, forall_eq]
    exact hdie
  have hrun : (cmdRegWrite s tag addr value mask).run (noted s tag 0x11) = regWrite (noted s tag 0x11) tag a value.toNat mask.toNat := by
    simp only [cmdRegWrite, plainCmd, ha]
  refine (takeCommand_runs (c := cmdRegWrite s tag addr value mask) hacc rfl hperm nofun hdies).trans (hrun.trans ?_)
  simp only [regWrite, hdec, regWriteAt, hfo, false_and, and_false, if_false]

/-- An accepted write of a row that names such a register. -/
theorem writeAt_settles {s : State} {tag : Nat} (hacc : accepts s tag = true) {r : Reg} {die inst k a : Nat}
    (hn : NamesRegister r die inst k a) (hf : r ≠ .faultSource) (hfo : r ≠ .failoverCtrl) (value mask : Word) :
    writeAt tag r die inst k value mask s
      = .next (settle tag 0x11 (writeReg (noted s tag 0x11) r die inst k value.toNat mask.toNat)) := by
  obtain ⟨hwf, haddr, hdec, hdie, hinst⟩ := hn
  rw [writeAt, if_pos hwf, takeCommand_regWrite hacc haddr (by rw [hdie]; exact hwf.1) hdec hf hfo, hdie, hinst]

/-- A write that is done is answered OK. -/
theorem settle_written (tag opcode : Nat) (s : State) : settle tag opcode (written s) = answerOk s tag opcode [] := rfl

/-- A write that is refused is answered BAD_PARAM. -/
theorem settle_badWrite (tag opcode : Nat) (s : State) :
    settle tag opcode (badWrite s) = answer s tag opcode stBadParam (failWord 8 0 0) := rfl

end Sys2Proof.Machine
end

section
/-! SUPPORT. EDGE_ROLE and PORT_CTRL (R71, R396, R398, R402), and O26. -/

namespace Sys2Proof.Machine

/-! ### The registers' addresses (R25, R420) -/

section
variable {die cls inst : Nat}

theorem addrDie_unitAddr (hd : die < 32) (hc : cls < 128) (hi : inst < 4096) : addrDie (unitAddr die cls inst) = die := by
  rw [addrDie, unitAddr, bits_eq]; omega

theorem addrCls_unitAddr (hc : cls < 128) (hi : inst < 4096) : addrCls (unitAddr die cls inst) = cls := by
  rw [addrCls, unitAddr, bits_eq]; omega

theorem addrInst_unitAddr (hi : inst < 4096) : addrInst (unitAddr die cls inst) = inst := by
  rw [addrInst, unitAddr, bits_eq]; omega

theorem addrOff_unitAddr (die cls inst : Nat) : addrOff (unitAddr die cls inst) = 0 := by
  rw [addrOff, unitAddr, bits_eq]; omega

/-- The register at offset 0 of a unit. -/
theorem decodeAddr_unitAddr (hd : die < 32) (hc : cls < 128) (hi : inst < 4096) (hu : unitExists die cls inst = true) :
    decodeAddr (unitAddr die cls inst) = findReg die cls 0 (classRegs cls) := by
  rw [decodeAddr, addrDie_unitAddr hd hc hi, addrCls_unitAddr hc hi, addrInst_unitAddr hi, addrOff_unitAddr, if_pos hu]

end

theorem dieKind_port {die : Nat} (h : die < 8) : dieKind die = 0 := if_pos h

theorem namesRegister_edgeRole {die : Nat} (h : die < 8) : NamesRegister .edgeRole die 0 0 (unitAddr die 3 0) where
  form := ⟨by omega, by omega, by decide⟩
  addr := by show (unitAddr die 3 0 + 0 + 8 * 0) % 2 ^ 48 = _; rw [unitAddr]; omega
  decode := by
    have hu : unitExists die 3 0 = true := by simp [unitExists, classCount, dieKind_port h]; omega
    rw [decodeAddr_unitAddr (by omega) (by omega) (by omega) hu]; rfl
  die := addrDie_unitAddr (by omega) (by omega) (by omega)
  inst := addrInst_unitAddr (by omega)

theorem namesRegister_portCtrl {die port : Nat} (h : die < 8) (hp : port < 16) :
    NamesRegister .portCtrl die port 0 (unitAddr die 1 port) where
  form := ⟨by omega, by omega, by decide⟩
  addr := by show (unitAddr die 1 port + 0 + 8 * 0) % 2 ^ 48 = _; rw [unitAddr]; omega
  decode := by
    have hu : unitExists die 1 port = true := by simp [unitExists, classCount, dieKind_port h]; omega
    rw [decodeAddr_unitAddr (by omega) (by omega) (by omega) hu]; rfl
  die := addrDie_unitAddr (by omega) (by omega) (by omega)
  inst := addrInst_unitAddr (by omega)

/-! ### What noting a command leaves -/

theorem noted_modCp (s : State) (tag opcode : Nat) : ∃ c, noted s tag opcode = { s with cp := c } := ⟨_, rfl⟩

theorem rget_cp (s : State) (c : ControlPort) (r : Reg) (d i k : Nat) : rget { s with cp := c } r d i k = rget s r d i k := rfl

/-! ### EDGE_ROLE (R71, R396) -/

theorem writeReg_edgeRole {s : State} {die value mask : Nat} (hm : 0xffff &&& mask ≠ 0) :
    writeReg s .edgeRole die 0 0 value mask
      = written (writeEdgeRole s die (rget s .edgeRole die 0 0) (mergeWrite .edgeRole (rget s .edgeRole die 0 0) value mask)) := by
  have hw : ¬ (writable .edgeRole &&& mask = 0) := hm
  rw [writeReg, if_neg hw]

/-- A write of EDGE_ROLE leaves each port's LINK_STATE as it was. -/
theorem portUp_rset_edgeRole {s : State} (h : mapRising 0 s.regs = true) (die k v : Nat) :
    portUp (rset s .edgeRole die 0 0 v) (16 * die + k) = portUp s (16 * die + k) := by
  have hne : regAddr .portStatus ((16 * die + k) / 16) ((16 * die + k) % 16) 0 ≠ regAddr .edgeRole die 0 0 := by
    show (16 * die + k) / 16 * 2 ^ 43 + 1 * 2 ^ 36 + (16 * die + k) % 16 * 2 ^ 24 + 8 + 8 * 0
      ≠ die * 2 ^ 43 + 3 * 2 ^ 36 + 0 * 2 ^ 24 + 0 + 8 * 0
    omega
  rw [portUp, portUp, pget, pget, fget, fget, rget_rset_other h hne]
  rfl

/-- No UP port's role bit changes: the value is stored, and nothing else follows. -/
theorem writeEdgeRole_stores {s : State} (h : mapRising 0 s.regs = true) {die old new : Nat}
    (hq : ∀ k, k < 16 → bit old k = bit new k ∨ portUp s (16 * die + k) = false) :
    writeEdgeRole s die old new = rset s .edgeRole die 0 0 new := by
  have hquiet : ∀ l : List Nat, (∀ k ∈ l, k < 16) → l.foldl (fun s k =>
      if bit old k ≠ bit new k ∧ portUp s (16 * die + k) then oneCycle (fun s => retrain raiseWith s (16 * die + k) 0) s else s)
      (rset s .edgeRole die 0 0 new) = rset s .edgeRole die 0 0 new := by
    intro l hl
    induction l with
    | nil => rfl
    | cons k r ih =>
      rw [List.foldl_cons, if_neg, ih fun j hj => hl j (List.mem_cons_of_mem _ hj)]
      rintro ⟨hbit, hup⟩
      rw [portUp_rset_edgeRole h] at hup
      exact (hq k (hl k (List.mem_cons_self ..))).elim hbit (fun hd => Bool.false_ne_true (hd.symm.trans hup))
  exact hquiet _ fun k hk => by have := (mem_upTo 0 16).1 hk; omega

/-! ### PORT_CTRL (R396, R398, R402) -/

/-- PORT_CTRL stored, its MODE shown but in RECOVERY. -/
def modeShown (s : State) (die port new : Nat) : State :=
  let v := rset s .portCtrl die port 0 new
  if pget v .portStatus (16 * die + port) 0 9 8 = 3 then v else pset v .portStatus (16 * die + port) 0 9 8 (bits new 1 0)

theorem writeReg_portCtrl {s : State} {die port value mask : Nat} (hm : 0xffffff00b3 &&& mask ≠ 0) :
    writeReg s .portCtrl die port 0 value mask =
      let new := mergeWrite .portCtrl (rget s .portCtrl die port 0) value mask
      if bits new 1 0 = 3 then badWrite s
      else written (writePortCtrl s (16 * die + port) (rget s .portCtrl die port 0) new) := by
  have hw : ¬ (writable .portCtrl &&& mask = 0) := hm
  rw [writeReg, if_neg hw]

/-- What follows from a change of LANE_ENABLE. -/
theorem writePortCtrl_eq (s : State) {die port : Nat} (hp : port < 16) (old new : Nat) :
    writePortCtrl s (16 * die + port) old new =
      if bits old 5 4 = bits new 5 4 then modeShown s die port new
      else if bits new 5 4 = 0 then oneCycle (fun s => linkEnds raiseWith s (16 * die + port) 0) (modeShown s die port new)
      else if bits old 5 4 = 0 then startTraining (modeShown s die port new) (16 * die + port)
      else (upTo 0 2).foldl (fun s l => laneEnabled s (16 * die + port) l (bit (bits old 5 4) l) (bit (bits new 5 4) l))
        (modeShown s die port new) := by
  have hdiv : (16 * die + port) / 16 = die := by omega
  have hmod : (16 * die + port) % 16 = port := by omega
  simp only [writePortCtrl, hdiv, hmod, modeShown]

theorem laneEnabled_eq (s : State) (p l : Nat) (was now : Bool) :
    laneEnabled s p l was now =
      if was = true ∧ now = false then
        if (getPort s p).recal.any (fun r => r.1 == l) then recalFails s p 8 else oneCycle (fun s => dropLane raiseWith s p l) s
      else if was = false ∧ now = true then recalBegin s p l true
      else s := by
  cases was <;> cases now <;> rfl

/-- Neither looks at the control port. -/
theorem modeShown_cp (s : State) (c : ControlPort) (die port new : Nat) :
    modeShown { s with cp := c } die port new = { modeShown s die port new with cp := c } := by
  by_cases h : pget (rset s .portCtrl die port 0 new) .portStatus (16 * die + port) 0 9 8 = 3
  · have h' : pget (rset { s with cp := c } .portCtrl die port 0 new) .portStatus (16 * die + port) 0 9 8 = 3 := h
    rw [modeShown, modeShown, if_pos h, if_pos h']
    rfl
  · have h' : ¬ pget (rset { s with cp := c } .portCtrl die port 0 new) .portStatus (16 * die + port) 0 9 8 = 3 := h
    rw [modeShown, modeShown, if_neg h, if_neg h']
    rfl

theorem modeShown_out (s : State) (die port new : Nat) : (modeShown s die port new).out = s.out := by
  rw [modeShown]
  split <;> rfl

/-! ### O26 -/

/-- Settles O26: the write is that of its register (`writeAt_settles`); of EDGE_ROLE `writeEdgeRole_stores` says when nothing
follows, of PORT_CTRL `writePortCtrl_eq` what does. -/
theorem portsAreControlled : Obligations.PortsAreControlled := by
  intro s tag die port value mask hacc hdie hport hrise
  have hnew : (findRemembered s tag).isNone = true := (accepts_iff hacc).2.2.2.1
  obtain ⟨c, hc⟩ := noted_modCp s tag 0x11
  have answered {u : State} (hu : u.out = s.out) : Done s u (answerOk { u with cp := c } tag 0x11 []) tag 0x11 [] :=
    answerOk_done hnew (by rw [hc]) hu []
  refine ⟨fun hm => ?edge, fun hm => ?ctrl⟩
  case edge =>
    have act : exec (.edgeRole tag die value mask) s = .next (answerOk (writeEdgeRole (noted s tag 0x11) die
        (rget s .edgeRole die 0 0) (mergeWrite .edgeRole (rget s .edgeRole die 0 0) value.toNat mask.toNat)) tag 0x11 []) := by
      refine (writeAt_settles hacc (namesRegister_edgeRole hdie) nofun nofun value mask).trans ?_
      rw [writeReg_edgeRole hm, settle_written, hc, rget_cp]
    refine ⟨fun hq => ?_, _, act, rfl⟩
    rw [hc, writeEdgeRole_stores (s := { s with cp := c }) hrise hq] at act
    exact ⟨_, act, answered rfl⟩
  case ctrl =>
    have act : exec (.portCtrl tag die port value mask) s
        = .next (settle tag 0x11 (writeReg (noted s tag 0x11) .portCtrl die port 0 value.toNat mask.toNat)) :=
      writeAt_settles hacc (namesRegister_portCtrl hdie hport) nofun nofun value mask
    rw [writeReg_portCtrl hm, hc, rget_cp] at act
    refine ⟨fun hmode => ?refused, fun hmode => ?taken⟩
    case refused =>
      rw [if_pos hmode, settle_badWrite] at act
      refine ⟨_, act, answer_replies (u := { s with cp := c }) hnew (by rw [hc]) rfl _ _, ?_⟩
      conv_lhs => rw [answer_eq]
    case taken =>
      rw [if_neg hmode, settle_written, writePortCtrl_eq _ hport, modeShown_cp] at act
      rw [hc]
      refine ⟨fun hsame => ?_, fun hold hnone => act.trans ?_, fun hold hsome => act.trans ?_, fun hne hold hsome => act.trans ?_⟩
      · rw [if_pos hsame] at act
        exact ⟨_, act, answered (modeShown_out s die port _)⟩
      · rw [if_neg (fun h => hold (h.trans hnone)), if_pos hnone, ← modeShown_cp]
        rfl
      · rw [if_neg (fun h => hsome (h.symm.trans hold)), if_neg hsome, if_pos hold, ← modeShown_cp]
        rfl
      · rw [if_neg hne, if_neg hsome, if_neg hold, ← modeShown_cp]
        simp only [laneEnabled_eq]
        rfl
end Sys2Proof.Machine
end

section
/-! SUPPORT. Frames as they arrive at a fabric port, and O35 (R68, R69, R133, R385-R387, R390, R391). -/

namespace Sys2Proof.Machine

section
variable {s : State} {p : Nat}

theorem whenUp_up (h : portUp s p = true) (t : State) : whenUp s p t = t := if_pos h

theorem whenUp_down (h : portUp s p = false) (t : State) : whenUp s p t = s := if_neg (Bool.eq_false_iff.1 h)

/-- A row of a port that acts while its link is UP. -/
theorem atUpPort {r : Res} {f : State} (hr : r = if p < 128 then .next (whenUp s p f) else atPort p s) (hp : p < 128)
    (hu : portUp s p = true) : r = .next f := by
  rw [hr, if_pos hp, whenUp_up hu]

/-- While its link is not UP it does nothing. -/
theorem atDownPort {r : Res} {f : State} (hr : r = if p < 128 then .next (whenUp s p f) else atPort p s) (hp : p < 128)
    (hu : portUp s p = false) : r = .next s := by
  rw [hr, if_pos hp, whenUp_down hu]

/-! ### START (R390) -/

variable {w : Word} {h : Header} {f : RxFrame} {flits : List Byte}

/-- A START that opens its frame: in sequence, with no other frame open, of a legal number of flits. -/
def startsFrame (q : Port) (w : Word) : Prop :=
  wbits w 27 16 = q.rxSeq ∧ q.rxFrame = none ∧ 1 ≤ wbits w 38 32 ∧ wbits w 38 32 ≤ 65

theorem rxStart_opens (hw : startsFrame (getPort s p) w) :
    rxStart s p w = setPort s p { getPort s p with rxFrame := some (openFrame (getPort s p) w), rxHeld := none, rxDiscard := false } :=
  if_pos hw

theorem rxStart_misplaced (hw : ¬ startsFrame (getPort s p) w) :
    rxStart s p w = if (getPort s p).rxDiscard = true ∧ wbits w 27 16 ≠ (getPort s p).rxSeq then s else rxError s p := by
  refine (if_neg hw).trans ?_
  simp only [Bool.and_eq_true, bne_iff_ne]

/-! ### The header flit (R386) -/

theorem rxHeader_noFrame (hf : (getPort s p).rxFrame = none) : rxHeader s p h = s := by
  simp only [rxHeader, hf]

theorem rxHeader_later (hf : (getPort s p).rxFrame = some f) (hh : f.hdr.isSome = true) : rxHeader s p h = s := by
  simp only [rxHeader, hf, hh, if_true]

theorem rxHeader_resumed (hf : (getPort s p).rxFrame = some f) (hh : f.hdr = none) (hr : f.resumed = true) :
    rxHeader s p h = setPort s p { getPort s p with rxFrame := some { f with hdr := some h } } := by
  simp only [rxHeader, hf, hh, hr, Option.isSome_none, Bool.false_eq_true, if_false, if_true, modPort]

theorem rxHeader_new (hf : (getPort s p).rxFrame = some f) (hh : f.hdr = none) (hr : f.resumed = false) :
    rxHeader s p h = takeHeader s p f h := by
  simp only [rxHeader, hf, hh, hr, Option.isSome_none, Bool.false_eq_true, if_false]

theorem headerReason_reserved (hv : 14 ≤ f.vc) : headerReason s p f h = some 16 := if_pos hv

/-- The VC is not one of the packet's class and ordering. -/
def wrongVc (vc : Nat) (h : Header) : Prop :=
  (∃ r, kindRow (hKind h) = some r ∧ r.cls ≠ vc / 2) ∨ (hOrd h = true ∧ vc % 2 = 0)

theorem wrongVc_iff {vc : Nat} :
    ((kindRow (hKind h)).any (fun r => r.cls != vc / 2) || (hOrd h && vc % 2 == 0)) = true ↔ wrongVc vc h := by
  simp only [wrongVc, Bool.or_eq_true, Option.any_eq_true, bne_iff_ne, Bool.and_eq_true, beq_iff_eq]

theorem headerReason_wrongVc (hv : f.vc < 14) (hw : wrongVc f.vc h) : headerReason s p f h = some 17 := by
  rw [headerReason, if_neg (Nat.not_le.2 hv), if_pos (wrongVc_iff.2 hw)]

/-- On its own VC what counts are the checks of R68. -/
theorem headerReason_checks (hv : f.vc < 14) (hk : ∀ r, kindRow (hKind h) = some r → r.cls = f.vc / 2)
    (ho : hOrd h = true → f.vc % 2 = 1) : headerReason s p f h = headerCheck s p (edgeHeader s p h) f.flits := by
  have hw : ¬ wrongVc f.vc h := by
    rintro (⟨r, hr, hne⟩ | ⟨hord, heven⟩)
    · exact hne (hk r hr)
    · have := ho hord
      omega
  rw [headerReason, if_neg (Nat.not_le.2 hv), if_neg (fun e => hw (wrongVc_iff.1 e))]

/-- A discard at the header flit is noted in the frame. -/
theorem takeHeader_notes {r : Nat} (hr : headerReason s p f h = some r) :
    takeHeader s p f h = setPort s p { getPort s p with
      sampIn := (sampleTick s p 0 (getPort s p).sampIn).2,
      rxFrame := some { f with hdr := some h, sample := (sampleTick s p 0 (getPort s p).sampIn).1, reason := some r,
                               taken := some (edgeHeader s p h, h), left := true } } := by
  have hr' : headerReason s p { f with hdr := some h, sample := (sampleTick s p 0 (getPort s p).sampIn).1 } h = some r := hr
  simp only [takeHeader, hr', modPort]

/-- Any other header flit becomes a packet at the port die. -/
theorem takeHeader_arrives (hr : headerReason s p f h = none) :
    takeHeader s p f h = arrivePkt
      { setPort s p { getPort s p with
          sampIn := (sampleTick s p 0 (getPort s p).sampIn).2,
          rxFrame := some { f with hdr := some h, sample := (sampleTick s p 0 (getPort s p).sampIn).1, uid := some s.nextUid } } with
        nextUid := s.nextUid + 1 } p
      { mkPkt s.nextUid (linkOf (p / 16)) (edgeHeader s p h) [] with
        raw := h, flits := f.flits, vc := f.vc, chargeVc := f.vc, detour := f.detour, complete := false,
        inPort := some p, edge := isEdge s p } := by
  have hr' : headerReason s p { f with hdr := some h, sample := (sampleTick s p 0 (getPort s p).sampIn).1 } h = none := hr
  simp only [takeHeader, hr', newUid]
  rfl

/-! ### END (R69, R385, R390, R391) -/

theorem rxEnd_noFrame (hf : (getPort s p).rxFrame = none) :
    rxEnd s p w flits = if (getPort s p).rxDiscard = true then s else rxError s p := by
  simp only [rxEnd, hf]

theorem rxEnd_noHeader (hf : (getPort s p).rxFrame = some f) (hh : f.hdr = none) : rxEnd s p w flits = rxError s p := by
  simp only [rxEnd, hf, hh]

theorem rxEnd_otherFrame (hf : (getPort s p).rxFrame = some f) (hh : f.hdr = some h) (hs : wbits w 27 16 ≠ f.seq) :
    rxEnd s p w flits = rxError s p := by
  simp only [rxEnd, hf, hh, if_pos hs]

/-- The END of the open frame: whether the number of its flits and its CRC are right says what follows. -/
theorem rxEnd_checks (hf : (getPort s p).rxFrame = some f) (hh : f.hdr = some h) (hs : wbits w 27 16 = f.seq) :
    rxEnd s p w flits =
      if 64 * (f.flits - 1) = flits.length then
        if (frameCrc f.word (hBytes h ++ flits)).toNat = wbits w 63 32 then rxWhole s p f (wbit w 8) flits else rxCrcFail s p f
      else if (frameCrc f.word (hBytes h ++ flits)).toNat = wbits w 63 32 then rxLength s p f h flits else rxError s p := by
  simp only [rxEnd, hf, hh, hs, ne_eq, not_true_eq_false, if_false, decide_eq_true_eq, ite_not]

/-- The port once the frame is whole: the next one is expected, and it is acknowledged. -/
def acked (s : State) (p : Nat) (f : RxFrame) : State :=
  sendWord (modPort s p (fun q => { q with rxSeq := (q.rxSeq + 1) % 4096, rxFrame := none })) p (4 + f.seq * 2 ^ 16)

theorem rxWhole_discarded (hu : f.uid = none) (bad : Bool) :
    rxWhole s p f bad flits = sampleFrame
      (countFrame raiseFault (returnCredits (acked s p f) p f.vc (f.flits - f.shared) f.shared) p f) p f bad flits := by
  simp only [rxWhole, hu]
  rfl

theorem rxWhole_left {u : Nat} (hu : f.uid = some u) (hl : f.left = true) (bad : Bool) :
    rxWhole s p f bad flits = sampleFrame (packetWhole (returnCredits (acked s p f) p f.vc (f.flits - f.shared) f.shared) u
      (fun k => { k with bad := bad || k.bad, payload := flits })) p f bad flits := by
  simp only [rxWhole, hu, hl, if_true]
  rfl

theorem rxWhole_stays {u : Nat} (hu : f.uid = some u) (hl : f.left = false) (bad : Bool) :
    rxWhole s p f bad flits = sampleFrame (packetWhole
      (modPort (acked s p f) p (fun q => { q with rxBuf := q.rxBuf ++ [(u, f.vc, f.flits - f.shared, f.shared)] })) u
      (fun k => { k with bad := bad || k.bad, payload := flits })) p f bad flits := by
  simp only [rxWhole, hu, hl, Bool.false_eq_true, if_false]
  rfl

/-- A transmission error in a frame that is not resumed when it is resent. -/
def rxCut (s : State) (p : Nat) : State := modPort (rxError s p) p (fun q => { q with rxHeld := none })

theorem rxCrcFail_discarded (hu : f.uid = none) : rxCrcFail s p f = rxCut s p := by
  simp only [rxCrcFail, hu]
  rfl

theorem rxCrcFail_forwarded {u : Nat} (hu : f.uid = some u) : rxCrcFail s p f =
    if stillHere (rxCut s p) p u = true then forget (rxCut s p) p u
    else raiseFault (endBad (padd (rxCut s p) .linkCount p 2 47 0 1) p u id) (srcPort p 7) := by
  simp only [rxCrcFail, hu]
  rfl

theorem rxLength_discarded (hu : f.uid = none) : rxLength s p f h flits = rxCut s p := by
  simp only [rxLength, hu]
  rfl

theorem rxLength_here {u : Nat} (hu : f.uid = some u) (hl : stillHere (rxCut s p) p u = true) : rxLength s p f h flits =
    dropCounted (forget (rxCut s p) p u) p 2 (edgeHeader (forget (rxCut s p) p u) p h) h := by
  have hl' : stillHere (modPort (rxError s p) p (fun q => { q with rxHeld := none })) p u = true := hl
  simp only [rxLength, hu, hl', if_true]
  rfl

/-- The state in which LENGTH is counted for a packet that has gone on. -/
def rxCutBad (s : State) (p u n : Nat) (flits : List Byte) : State :=
  raiseFault (endBad (rxCut s p) p u (fun k => { k with payload := padTo n flits })) (srcPort p 7)

theorem rxLength_gone {u : Nat} (hu : f.uid = some u) (hl : stillHere (rxCut s p) p u = false) : rxLength s p f h flits =
    dropCounted (rxCutBad s p u (64 * (f.flits - 1)) flits) p 2 (edgeHeader (rxCutBad s p u (64 * (f.flits - 1)) flits) p h) h := by
  have hl' : stillHere (modPort (rxError s p) p (fun q => { q with rxHeld := none })) p u = false := hl
  simp only [rxLength, hu, hl', Bool.false_eq_true, if_false]
  rfl

end

/-! ### O35 -/

/-- Settles O35: a row of an UP port is what its link layer does (`atUpPort`): for START `rxStart_opens`, for a header flit
`takeHeader_notes` and `takeHeader_arrives`, and END is decided by its two checks (`rxEnd_checks`). -/
theorem framesAreReceived : Obligations.FramesAreReceived := by
  refine ⟨fun s p hp hup => ?up, fun s p hp hdown => ?down⟩
  case down =>
    exact ⟨fun w => atDownPort rfl hp hdown, fun h => atDownPort rfl hp hdown, fun w flits => atDownPort rfl hp hdown⟩
  have start (w : Word) {t : State} (ht : rxStart s p w = t) : exec (.frameStart p w) s = .next t :=
    ht ▸ atUpPort rfl hp hup
  have header (h : Header) {t : State} (ht : rxHeader s p h = t) : exec (.headerFlit p h) s = .next t :=
    ht ▸ atUpPort rfl hp hup
  have ended (w : Word) (flits : List Byte) {t : State} (ht : rxEnd s p w flits = t) : exec (.frameEnd p w flits) s = .next t :=
    ht ▸ atUpPort rfl hp hup
  refine ⟨?opens, ?misplaced, ?newHeader, ?otherHeader, ?noFrame, ?ends, ?otherFrame, ?endsNothing, ?noHeader⟩
  case opens => exact fun w hseq hnone hlo hhi => start w (rxStart_opens ⟨hseq, hnone, hlo, hhi⟩)
  case misplaced =>
    intro w hw
    refine start w (rxStart_misplaced ?_)
    rintro ⟨hseq, hnone, hlo, hhi⟩
    rcases hw with h | h | h | h
    · exact h hseq
    · exact Bool.false_ne_true ((hnone ▸ h : (none : Option RxFrame).isSome = true))
    · omega
    · omega
  case newHeader =>
    intro f h hf hnone hres
    have noted {r : Nat} (hr : headerReason s p f h = some r) :=
      header h ((rxHeader_new hf hnone hres).trans (takeHeader_notes hr))
    refine ⟨fun hv => noted (headerReason_reserved hv), fun hv hw => noted (headerReason_wrongVc hv hw),
      fun hv hk ho => ⟨fun r hr => noted ((headerReason_checks hv hk ho).trans hr), fun hr => ?_⟩⟩
    exact header h ((rxHeader_new hf hnone hres).trans (takeHeader_arrives ((headerReason_checks hv hk ho).trans hr)))
  case otherHeader =>
    exact fun f h hf => ⟨fun hsome => header h (rxHeader_later hf hsome),
      fun hnone hres => header h (rxHeader_resumed hf hnone hres)⟩
  case noFrame => exact fun h hf => header h (rxHeader_noFrame hf)
  case otherFrame => exact fun w flits f h hf hh hs => ended w flits (rxEnd_otherFrame hf hh hs)
  case endsNothing => exact fun w flits hf => ended w flits (rxEnd_noFrame hf)
  case noHeader => exact fun w flits f hf hh => ended w flits (rxEnd_noHeader hf hh)
  case ends =>
    intro w flits f h hf hh hs
    have checks := rxEnd_checks (flits := flits) hf hh hs
    refine ⟨fun hlen hcrc => ?whole, fun hlen hcrc => ?badCrc, fun hlen hcrc => ?badLength, fun hlen hcrc => ?both⟩
    case whole =>
      have he := checks.trans ((if_pos hlen).trans (if_pos hcrc))
      exact ⟨fun hu => ended w flits (he.trans (rxWhole_discarded hu _)),
        fun u hu hl => ended w flits (he.trans (rxWhole_left hu hl _)),
        fun u hu hl => ended w flits (he.trans (rxWhole_stays hu hl _))⟩
    case badCrc =>
      have he := checks.trans ((if_pos hlen).trans (if_neg hcrc))
      exact ⟨fun hu => ended w flits (he.trans (rxCrcFail_discarded hu)),
        fun u hu hl => ended w flits (he.trans ((rxCrcFail_forwarded hu).trans (if_pos hl))),
        fun u hu hl => ended w flits (he.trans ((rxCrcFail_forwarded hu).trans (if_neg (Bool.eq_false_iff.1 hl))))⟩
    case badLength =>
      have he := checks.trans ((if_neg hlen).trans (if_pos hcrc))
      exact ⟨fun hu => ended w flits (he.trans (rxLength_discarded hu)),
        fun u hu hl => ended w flits (he.trans (rxLength_here hu hl)),
        fun u hu hl => ended w flits (he.trans (rxLength_gone hu hl))⟩
    case both => exact ended w flits (checks.trans ((if_neg hlen).trans (if_neg hcrc)))

end Sys2Proof.Machine
end

section
/-! SUPPORT. Requests at their Erg die: when one is taken, and what its checks give (R350-R354, R439). -/

namespace Sys2Proof.Machine

section
variable {s : State} {die : Nat} {p : Pkt} {rest : List Pkt}

theorem atErg_next (h : 26 ≤ die ∧ die < 30) (t : State) : atErg die t = .next t := if_pos h

/-! ### Taking a request -/

/-- A lone packet that lacks room in the replay buffer waits (R354, R360). -/
theorem takeRequest_waits (hin : getInbox s die = [p]) (hl : lacksReplay s die p = true) (want : Header → Bool)
    (f : Header → List Byte → State → State) : takeRequest s die want f = s := by
  simp only [takeRequest, takeHead, hin, pickFrom, hl, Bool.true_or, if_true, Option.map_none]

variable (hin : getInbox s die = p :: rest) (hl : lacksReplay s die p = false)
include hin hl

/-- A packet that is not whole or not of the row's kind, and any at a die whose clocks a D3 session has stopped, stays. -/
theorem takeRequest_leaves {want : Header → Bool}
    (h : p.complete = false ∨ want p.hdr = false ∨ scanOpen s die = true) (f : Header → List Byte → State → State) :
    takeRequest s die want f = s := by
  rw [takeRequest, takeHead_front hin hl, if_neg]
  rcases h with h | h | h <;> simp [h]

variable {want : Header → Bool} (hc : p.complete = true) (hw : want p.hdr = true) (hscan : scanOpen s die = false)
  (hdie : 26 ≤ die) (f : Header → List Byte → State → State)
include hc hw hscan hdie

/-- A packet marked bad is discarded (R69). -/
theorem takeRequest_bad (hb : p.bad = true) : takeRequest s die want f = stompAt (setInbox s die rest) p := by
  have hon : (dieOff s die && decide (die < 26)) = false := by rw [decide_eq_false (by omega), Bool.and_false]
  rw [takeRequest, takeHead_front hin hl, hc, hw, hscan, hon, hb]
  rfl

/-- A die that is not LIVE answers FAULTED (R439). -/
theorem takeRequest_refused (hb : p.bad = false) (hlive : ergLive s die = false) :
    takeRequest s die want f = sendFrom (setInbox s die rest) die (responseFields p.hdr stFaulted 0) := by
  rw [takeRequest, takeHead_takes hin hl hw hc hb (.inr hdie) hscan]
  exact if_neg (Bool.eq_false_iff.1 hlive)

/-- A LIVE one carries it out. -/
theorem takeRequest_acts (hb : p.bad = false) (hlive : ergLive s die = true) :
    takeRequest s die want f = f p.hdr (padTo (hPayloadLen p.hdr) p.payload) (setInbox s die rest) := by
  rw [takeRequest, takeHead_takes hin hl hw hc hb (.inr hdie) hscan]
  exact if_pos hlive

omit hw in
/-- So does a row of one kind. -/
theorem takeRequest_ofKind {kind : Nat} (hk : hKind p.hdr = kind) (hb : p.bad = false) (hlive : ergLive s die = true) :
    takeRequest s die (fun h => hKind h == kind) f = f p.hdr (padTo (hPayloadLen p.hdr) p.payload) (setInbox s die rest) :=
  takeRequest_acts hin hl hc (want := fun h => hKind h == kind) (beq_iff_eq.2 hk) hscan hdie f hb hlive

end

/-! ### Checks (R352) -/

theorem firstOf_error {st : Nat} (h : st ≠ stOk) (l : List Nat) : firstOf (st :: l) = st := if_neg h

theorem firstOf_ok (l : List Nat) : firstOf (stOk :: l) = firstOf l := rfl

section
variable {s : State} {die : Nat} {w : Word}

/-- A handle of this Holmon's HBM or LPDDR. -/
def NamesData (w : Word) : Prop := hndFeid w = ownFeid ∧ (hndRegion w = 1 ∨ hndRegion w = 2)

/-- `n` bytes at a handle lie within its region, its die's exposed pages and one granule. -/
def InRange (s : State) (die : Nat) (w : Word) (n : Nat) : Prop :=
  1 ≤ n ∧ n ≤ 4096 ∧ hndOffset w + n ≤ tierLimit s (hndRegion w - 1) ∧
    pageOf (hndOffset w) < exposed s die (hndRegion w - 1) ∧ hndOffset w / 4096 = (hndOffset w + n - 1) / 4096

theorem handleStatus_data (h : NamesData w) : handleStatus w (dataHandle w) = stOk := by
  obtain ⟨hf, hr⟩ := h
  have hd : dataHandle w = true := by simpa [dataHandle] using hr
  rw [handleStatus, if_neg (by omega), if_pos hd]

theorem handleStatus_foreign (h : hndFeid w ≠ ownFeid ∨ hndRegion w = 0 ∨ 4 < hndRegion w) (reaches : Bool) :
    handleStatus w reaches = stBadParam := if_pos h

theorem handleStatus_denied (hf : hndFeid w = ownFeid) (hr : hndRegion w = 3 ∨ hndRegion w = 4) :
    handleStatus w (dataHandle w) = stDenied := by
  have hd : ¬ dataHandle w = true := by simp [dataHandle]; omega
  rw [handleStatus, if_neg (by omega), if_neg hd]

theorem rangeStatus_ok {n : Nat} (h : InRange s die w n) : rangeStatus s die w n = stOk := by
  obtain ⟨h1, h2, h3, h4, h5⟩ := h
  exact if_neg (by omega)

theorem rangeStatus_bad {n : Nat} (hn : n ≤ 4096) (h : ¬ InRange s die w n) : rangeStatus s die w n = stBadParam := by
  refine if_pos ?_
  by_contra hc
  exact h ⟨by omega, hn, by omega, by omega, by omega⟩

theorem backStatus_unbacked (hb : backed s (ergAddr s (hndRegion w - 1) (hndOffset w)) = false) (n : Nat) (reads : Bool) :
    backStatus s w n reads = stFaulted := by
  simp only [backStatus, hb, Bool.not_false, Bool.true_or, if_true]

theorem backStatus_read (hb : backed s (ergAddr s (hndRegion w - 1) (hndOffset w)) = true) (n : Nat) :
    backStatus s w n true = if anyBad s (ergAddr s (hndRegion w - 1) (hndOffset w)) n = true then stFaulted else stOk := by
  simp only [backStatus, hb, Bool.not_true, Bool.false_or, if_true]

theorem backStatus_write (hb : backed s (ergAddr s (hndRegion w - 1) (hndOffset w)) = true) {n : Nat}
    (hp : partBad s (ergAddr s (hndRegion w - 1) (hndOffset w)) n = false) : backStatus s w n false = stOk := by
  simp only [backStatus, hb, hp, Bool.not_true, Bool.false_or, Bool.false_eq_true, if_false]

/-! ### The ECC checker without injections (R492) -/

/-- Neither check of the channel at an address has an injection left. -/
def QuietChannel (s : State) (a : Nat) : Prop :=
  noInjection s (srcChannel (addrDieCh a).1 (addrDieCh a).2 0) = true ∧
    noInjection s (srcChannel (addrDieCh a).1 (addrDieCh a).2 1) = true

theorem eccCheck_quiet {a : Nat} (h : QuietChannel s a) : eccCheck s a = s := by
  obtain ⟨h0, h1⟩ := h
  simp only [eccCheck, injected, takeInjection_quiet h0, Bool.false_eq_true, if_false, takeInjection_quiet h1]

/-- Blocks of one channel. -/
theorem eccChecks_quiet {a n : Nat} (h : QuietChannel s a)
    (hsame : ∀ b, a / 64 ≤ b → 64 * b < a + n → 64 * b / 2 ^ 33 = a / 2 ^ 33) : eccChecks s a n = s := by
  have hall : ∀ l : List Nat, (∀ b ∈ l, eccCheck s (64 * b) = s) → l.foldl (fun s b => eccCheck s (64 * b)) s = s := by
    intro l hl
    induction l with
    | nil => rfl
    | cons b r ih =>
      rw [List.foldl_cons, hl b (List.mem_cons_self ..)]
      exact ih fun c hc => hl c (List.mem_cons_of_mem _ hc)
  refine hall _ fun b hb => eccCheck_quiet ?_
  have hb := (mem_upTo _ _).1 hb
  have hch : addrDieCh (64 * b) = addrDieCh a := by
    simp only [addrDieCh, hsame b hb.1 (by omega)]
  rw [QuietChannel, hch]
  exact h

/-- Addresses keep their place within a granule. -/
theorem ergAddr_granule (s : State) (tier o : Nat) : ergAddr s tier o % 4096 = o % 4096 := by
  simp only [ergAddr, pageAddr, withinOf]
  omega

/-- Bytes within one granule lie in one channel. -/
theorem eccChecks_inRange {n : Nat} (hr : InRange s die w n)
    (hq : QuietChannel s (ergAddr s (hndRegion w - 1) (hndOffset w))) :
    eccChecks s (ergAddr s (hndRegion w - 1) (hndOffset w)) n = s := by
  obtain ⟨h1, h2, -, -, h5⟩ := hr
  have hg := ergAddr_granule s (hndRegion w - 1) (hndOffset w)
  generalize ergAddr s (hndRegion w - 1) (hndOffset w) = a at *
  refine eccChecks_quiet hq fun b hlo hhi => ?_
  omega

end
end Sys2Proof.Machine
end

section
/-! SUPPORT. GET, PUT and BULK_PUT at their Erg die (R350-R355, R360), and O42. -/

namespace Sys2Proof.Machine

section
variable {s : State} {die : Nat} {h : Header}

/-! ### GET -/

/-- Orders 1 to 3 of a GET. -/
def getEarly (s : State) (die : Nat) (h : Header) : Nat :=
  firstOf [handleStatus h.w4 (dataHandle h.w4), if 4096 < wbits h.w5 12 0 then stBadParam else rangeStatus s die h.w4 (wbits h.w5 12 0)]

/-- A GET: `t` is the state after the checker has read where orders 1 to 3 and the channel let it, `st` the status. -/
theorem ergGet_at {t : State} {st : Nat}
    (ht : (if getEarly s die h = stOk ∧ backed s (ergAddr s (hndRegion h.w4 - 1) (hndOffset h.w4)) = true
      then eccChecks s (ergAddr s (hndRegion h.w4 - 1) (hndOffset h.w4)) (wbits h.w5 12 0) else s) = t)
    (hst : firstOf [getEarly s die h, backStatus t h.w4 (wbits h.w5 12 0) true] = st) :
    ergGet s die h =
      if st = stOk then
        sendFrom (countAnswer t die stOk) die
          { kind := kGetData, ord := hOrd h, dst := hSrc h, tag := hTag h, a4 := word (kGet * 2 ^ 8), a5 := h.w4,
            payload := memRead t.erg.mem (ergAddr s (hndRegion h.w4 - 1) (hndOffset h.w4)) (wbits h.w5 12 0) }
      else ergRespond t die h st 0 := by
  subst ht hst
  rfl

/-- An error of orders 1 to 3 is answered. -/
theorem ergGet_refused {st : Nat} (he : getEarly s die h = st) (hst : st ≠ stOk) : ergGet s die h = ergRespond s die h st 0 := by
  have hcheck : ¬ (getEarly s die h = stOk ∧ backed s (ergAddr s (hndRegion h.w4 - 1) (hndOffset h.w4)) = true) :=
    fun hc => hst (he ▸ hc.1)
  exact (ergGet_at (if_neg hcheck) (he ▸ firstOf_error (he ▸ hst) _)).trans (if_neg (he ▸ hst))

theorem getEarly_foreign (hw : hndFeid h.w4 ≠ ownFeid ∨ hndRegion h.w4 = 0 ∨ 4 < hndRegion h.w4) :
    getEarly s die h = stBadParam := by
  rw [getEarly, handleStatus_foreign hw]
  rfl

theorem getEarly_denied (hf : hndFeid h.w4 = ownFeid) (hr : hndRegion h.w4 = 3 ∨ hndRegion h.w4 = 4) :
    getEarly s die h = stDenied := by
  rw [getEarly, handleStatus_denied hf hr]
  rfl

theorem getEarly_range (hn : NamesData h.w4) (hr : ¬ InRange s die h.w4 (wbits h.w5 12 0)) : getEarly s die h = stBadParam := by
  rw [getEarly, handleStatus_data hn]
  by_cases h4 : 4096 < wbits h.w5 12 0
  · rw [if_pos h4]; rfl
  · rw [if_neg h4, rangeStatus_bad (by omega) hr]; rfl

theorem getEarly_ok (hn : NamesData h.w4) (hr : InRange s die h.w4 (wbits h.w5 12 0)) : getEarly s die h = stOk := by
  rw [getEarly, handleStatus_data hn, if_neg (Nat.not_lt.2 hr.2.1), rangeStatus_ok hr]
  rfl

/-- The bytes of a GET within range are in an unusable channel. -/
theorem ergGet_unbacked (he : getEarly s die h = stOk)
    (hb : backed s (ergAddr s (hndRegion h.w4 - 1) (hndOffset h.w4)) = false) :
    ergGet s die h = ergRespond s die h stFaulted 0 := by
  have hst : firstOf [getEarly s die h, backStatus s h.w4 (wbits h.w5 12 0) true] = stFaulted := by
    rw [he, firstOf_ok, backStatus_unbacked hb]
    rfl
  exact (ergGet_at (if_neg (by simp [hb])) hst).trans (if_neg (by decide))

/-- A GET within range, its channel's checker quiet, is answered with its bytes unless one of them is uncorrectable. -/
theorem ergGet_reads (he : getEarly s die h = stOk)
    (hb : backed s (ergAddr s (hndRegion h.w4 - 1) (hndOffset h.w4)) = true)
    (hq : eccChecks s (ergAddr s (hndRegion h.w4 - 1) (hndOffset h.w4)) (wbits h.w5 12 0) = s) :
    ergGet s die h =
      if anyBad s (ergAddr s (hndRegion h.w4 - 1) (hndOffset h.w4)) (wbits h.w5 12 0) = true then ergRespond s die h stFaulted 0
      else sendFrom (countAnswer s die stOk) die
        { kind := kGetData, ord := hOrd h, dst := hSrc h, tag := hTag h, a4 := word (kGet * 2 ^ 8), a5 := h.w4,
          payload := memRead s.erg.mem (ergAddr s (hndRegion h.w4 - 1) (hndOffset h.w4)) (wbits h.w5 12 0) } := by
  have hst : firstOf [getEarly s die h, backStatus s h.w4 (wbits h.w5 12 0) true]
      = if anyBad s (ergAddr s (hndRegion h.w4 - 1) (hndOffset h.w4)) (wbits h.w5 12 0) = true then stFaulted else stOk := by
    rw [he, firstOf_ok, backStatus_read hb]
    split <;> rfl
  rw [ergGet_at ((if_pos ⟨he, hb⟩).trans hq) hst]
  split <;> rfl

/-! ### PUT and BULK_PUT -/

theorem counterStatus_none {w : Word} (h0 : w = 0) : counterStatus3 w = stOk ∧ counterStatus6 s w = stOk :=
  ⟨if_pos (.inl h0), if_pos (.inl h0)⟩

theorem counterStatus_live {w : Word} (hc : counterHandle w = true) (hl : ergLive s (counterDie (counterOf w)) = true) :
    counterStatus3 w = stOk ∧ counterStatus6 s w = stOk := ⟨if_pos (.inr hc), if_pos (.inr hl)⟩

/-- A write within range of writable bytes, in no REPLICA range, whose counter can count, passes its checks. -/
theorem writeStatus_ok {n : Nat} (hn : NamesData h.w4) (hr : InRange s die h.w4 n)
    (hc : counterStatus3 h.w5 = stOk ∧ counterStatus6 s h.w5 = stOk)
    (hrep : replFind s die 1 (hndRegion h.w4) (hndOffset h.w4) = none)
    (hb : backed s (ergAddr s (hndRegion h.w4 - 1) (hndOffset h.w4)) = true)
    (hp : partBad s (ergAddr s (hndRegion h.w4 - 1) (hndOffset h.w4)) n = false) : writeStatus s die h n = stOk := by
  have hreplica : replicaStatus s die h.w4 = stOk := by rw [replicaStatus, hrep]; rfl
  rw [writeStatus, handleStatus_data hn, rangeStatus_ok hr, hc.1, hc.2, hreplica, backStatus_write hb hp]
  rfl

theorem ergPutReq_refused {d : List Byte} (hst : writeStatus s die h d.length ≠ stOk) :
    ergPutReq s die h d = ergRespond s die h (writeStatus s die h d.length) 0 := if_neg hst

/-- The bytes are stored, and the write is applied. -/
theorem ergPutReq_stores {d : List Byte} (hst : writeStatus s die h d.length = stOk) :
    ergPutReq s die h d =
      let t := ergPut s (ergAddr s (hndRegion h.w4 - 1) (hndOffset h.w4)) d
      applied t die h.w4 (some h) (putFwdFields t die h.w4 d) 0 (if h.w5 = 0 then none else some (counterOf h.w5, d.length)) :=
  if_pos hst

/-- In no PRIMARY range an applied write is settled at once. -/
theorem applied_plain {w : Word} (hp : replFind s die 0 (hndRegion w) (hndOffset w) = none) (f : Fields) (result : Word)
    (counted : Option (Nat × Nat)) : applied s die w (some h) f result counted = settleWrite s die (some h) result counted := by
  simp only [applied, hp]

theorem applied_primary {w : Word} {n : Nat} (hp : replFind s die 0 (hndRegion w) (hndOffset w) = some n) (f : Fields)
    (result : Word) (counted : Option (Nat × Nat)) :
    applied s die w (some h) f result counted = forward s die n (some h) f result counted := by
  simp only [applied, hp]

/-- With a plane LIVE its bytes go to their counter. -/
theorem settleWrite_counts (ha : anyPlane s = true) (result : Word) (c n : Nat) :
    settleWrite s die (some h) result (some (c, n)) = modErg s (fun e => { e with counting := e.counting ++
      [{ counter := c, bytes := n, reply := some (h, stOk), die := die }] }) := by
  simp only [settleWrite, ha, Bool.not_true, Bool.false_eq_true, and_false, if_false]

section
variable {d : List Byte} (hst : writeStatus s die h d.length = stOk)
include hst

/-- A write that names a counter is answered after its count. -/
theorem ergPutReq_counts (hp : replFind s die 0 (hndRegion h.w4) (hndOffset h.w4) = none) (hc : h.w5 ≠ 0) (ha : anyPlane s = true) :
    ergPutReq s die h d = modErg (ergPut s (ergAddr s (hndRegion h.w4 - 1) (hndOffset h.w4)) d) (fun e => { e with
      counting := e.counting ++ [{ counter := counterOf h.w5, bytes := d.length, reply := some (h, stOk), die := die }] }) := by
  rw [ergPutReq_stores hst, if_neg hc]
  exact (applied_plain (s := ergPut s _ d) hp _ _ _).trans (settleWrite_counts (s := ergPut s _ d) ha _ _ _)

/-- Any other in no PRIMARY range is answered. -/
theorem ergPutReq_answers (hp : replFind s die 0 (hndRegion h.w4) (hndOffset h.w4) = none) (h0 : h.w5 = 0) :
    ergPutReq s die h d = ergRespond (ergPut s (ergAddr s (hndRegion h.w4 - 1) (hndOffset h.w4)) d) die h stOk 0 := by
  rw [ergPutReq_stores hst, if_pos h0]
  exact applied_plain (s := ergPut s _ d) hp _ _ _

end

/-! ### Forwarding (R360) -/

/-- KIND of a header a Holmon makes. -/
theorem hKind_mkHeader {f : Fields} (hk : f.kind < 256) : hKind (mkHeader f) = f.kind := by
  simp only [hKind, mkHeader, wbits, word, bits_eq, BitVec.toNat_ofNat]
  omega

/-- The copy that a range keeps of a request it forwards. -/
def keptCopy (s : State) (die n : Nat) (h : Option Header) (f : Fields) (result : Word) (counted : Option (Nat × Nat)) : ReplCopy :=
  let f : Fields := { f with ord := true, dst := replPartner s die n, tag := replTag die n, aux := replSeq s die n }
  { seq := BitVec.ofNat 32 (replSeq s die n), pkt := mkPkt 0 (linkOf die) (mkHeader f) f.payload, original := h,
    result := result, counted := counted }

theorem hKind_keptCopy (n : Nat) {f : Fields} {k : Nat} (hf : f.kind = k) (hk : k < 256) (result : Word)
    (counted : Option (Nat × Nat)) : hKind (keptCopy s die n (some h) f result counted).pkt.hdr = k :=
  (hKind_mkHeader (hf ▸ hk)).trans hf

theorem getRepl_setRepl (hm : mapRising 0 s.erg.repl = true) (n : Nat) (r : Repl) :
    getRepl (setRepl s die n r) die n = r := by
  refine (mapGet_mapPut hm _ r _ _).trans (if_pos rfl)

/-- The range with one more copy. -/
def oneMore (s : State) (die n : Nat) (c : ReplCopy) : State :=
  setRepl s die n { getRepl s die n with copies := (getRepl s die n).copies ++ [c] }

/-- With SEQ and PENDING as they stand then. -/
def keeping (s : State) (die n : Nat) (c : ReplCopy) : State :=
  fset (fset (oneMore s die n c) .replRangeSeq die 0 n 63 32 (replSeq s die n + 1))
    .replRangeSeq die 0 n 31 0 ((getRepl s die n).copies.length + 1)

theorem fset_form (s : State) (r : Reg) (d i k hi lo v : Nat) : ∃ l, fset s r d i k hi lo v = { s with regs := l } := ⟨_, rfl⟩

theorem keeping_form (s : State) (die n : Nat) (c : ReplCopy) : ∃ l, keeping s die n c = { oneMore s die n c with regs := l } := by
  unfold keeping
  obtain ⟨l, hl⟩ := fset_form (oneMore s die n c) .replRangeSeq die 0 n 63 32 (replSeq s die n + 1)
  rw [hl]
  exact fset_form _ _ _ _ _ _ _ _

/-- A forwarded request is kept with its range and sent. -/
theorem forward_keeps {n : Nat} (hd : replDegraded s die n = false) (f : Fields) (result : Word) (counted : Option (Nat × Nat)) :
    forward s die n (some h) f result counted =
      sendKept (keeping s die n (keptCopy s die n (some h) f result counted)) die
        (keptCopy s die n (some h) f result counted).pkt := if_neg (Bool.eq_false_iff.1 hd)

theorem sendKept_sends (ha : anyPlane s = true) (p : Pkt) :
    sendKept s die p = { setReady s (linkOf die) (getReady s (linkOf die) ++ [{ p with uid := s.nextUid }]) with
      nextUid := s.nextUid + 1 } := if_pos ha

/-- What a range keeps is there to be sent again. -/
theorem getRepl_oneMore (hm : mapRising 0 s.erg.repl = true) (n : Nat) (c : ReplCopy) :
    (getRepl (oneMore s die n c) die n).copies = (getRepl s die n).copies ++ [c] := by
  rw [oneMore, getRepl_setRepl hm]

/-- A write into a PRIMARY range is kept and forwarded. -/
theorem ergPutReq_forwards {d : List Byte} {n : Nat} (hst : writeStatus s die h d.length = stOk)
    (hp : replFind s die 0 (hndRegion h.w4) (hndOffset h.w4) = some n) (h0 : h.w5 = 0)
    (hd : replDegraded s die n = false) (ha : anyPlane s = true) {t : State}
    (ht : t = ergPut s (ergAddr s (hndRegion h.w4 - 1) (hndOffset h.w4)) d) {c : ReplCopy}
    (hc : c = keptCopy t die n (some h) (putFwdFields t die h.w4 d) 0 none) :
    ∃ ready regs, ergPutReq s die h d
      = { oneMore t die n c with ready := ready, regs := regs, nextUid := s.nextUid + 1 } := by
  have hpt : replFind t die 0 (hndRegion h.w4) (hndOffset h.w4) = some n := by rw [ht]; exact hp
  have hdt : replDegraded t die n = false := by rw [ht]; exact hd
  have hat : anyPlane (oneMore t die n c) = true := by rw [ht]; exact ha
  have hut : (oneMore t die n c).nextUid = s.nextUid := by rw [ht]; rfl
  obtain ⟨l, hl⟩ := keeping_form t die n c
  rw [ergPutReq_stores hst, if_pos h0]
  dsimp only
  rw [← ht, applied_primary hpt, forward_keeps hdt, ← hc, hl, sendKept_sends (s := { oneMore t die n c with regs := l }) hat]
  rw [← hut]
  exact ⟨_, _, rfl⟩

end

/-! ### O42 -/

/-- Settles O42: every row takes a request alike (`takeRequest_leaves`, `takeRequest_bad`, `takeRequest_refused`); a GET is
what `ergGet_reads` and its refusals say, a write is counted, answered or forwarded once its checks pass (`writeStatus_ok`). -/
theorem requestsReadAndWriteErgMemory : Obligations.RequestsReadAndWriteErgMemory := by
  refine ⟨fun s die p rest hlo hhi hin => ?taking, fun s die p rest hlo hhi hin hc hb hlive hscan hl => ?acting⟩
  all_goals have hdie : 26 ≤ die ∧ die < 30 := ⟨hlo, hhi⟩
  case taking =>
    intro e he
    have hrow : ∃ f, exec e.1 s = atErg die (takeRequest s die e.2 f) := by
      simp only [List.mem_cons, List.not_mem_nil, or_false] at he
      rcases he with rfl | rfl | rfl | rfl | rfl | rfl | rfl | rfl | rfl | rfl | rfl | rfl | rfl | rfl <;> exact ⟨_, rfl⟩
    obtain ⟨f, hf⟩ := hrow
    rw [hf, atErg_next hdie]
    exact ⟨fun hl hr => congrArg _ (takeRequest_waits (hr ▸ hin) hl e.2 f), fun hl =>
      ⟨fun h => congrArg _ (takeRequest_leaves hin hl h f), fun hc hw hscan =>
        ⟨fun hb => congrArg _ (takeRequest_bad hin hl hc hw hscan hlo f hb),
          fun hb hlive => congrArg _ (takeRequest_refused hin hl hc hw hscan hlo f hb hlive)⟩⟩⟩
  case acting =>
    intro h w u a named inRange
    refine ⟨fun hk => ?get, fun i hi => ?write⟩
    case get =>
      have act : exec (.get die) s = .next (ergGet u die h) := by
        show execGet die s = _
        rw [execGet, takeRequest_ofKind hin hl hc hscan hlo _ hk hb hlive, atErg_next hdie]
      rw [act]
      refine ⟨fun hn hr hback hq0 hq1 => ?_, fun hw => ?_, fun hf hr => ?_, fun hn hr => ?_, fun hn hr hback => ?_⟩
      · have hreads := ergGet_reads (s := u) (getEarly_ok hn hr) hback (eccChecks_inRange hr ⟨hq0, hq1⟩)
        exact ⟨fun hbad => congrArg _ (hreads.trans (if_pos hbad)),
          fun hgood => congrArg _ (hreads.trans (if_neg (Bool.eq_false_iff.1 hgood)))⟩
      · exact congrArg _ (ergGet_refused (getEarly_foreign hw) (by decide))
      · exact congrArg _ (ergGet_refused (getEarly_denied hf hr) (by decide))
      · exact congrArg _ (ergGet_refused (getEarly_range hn hr) (by decide))
      · exact congrArg _ (ergGet_unbacked (getEarly_ok hn hr) hback)
    case write =>
      intro d bad stored
      have act : exec i s = .next (ergPutReq u die h d) := by
        rcases hi with ⟨rfl, hk⟩ | ⟨rfl, hk⟩
        · show execPut die s = _
          rw [execPut, takeRequest_ofKind hin hl hc hscan hlo _ hk hb hlive, atErg_next hdie]
        · show execBulkPut die s = _
          rw [execBulkPut, takeRequest_ofKind hin hl hc hscan hlo _ hk hb hlive, atErg_next hdie]
      rw [act]
      refine ⟨fun hn hr hch hne hcl hrep hpri hback hpart ha => ?counted, fun hn hr h0 hrep hback hpart => ⟨fun hpri => ?plain,
        fun n hpri hdeg ha hm hn16 => ?primary⟩, fun hst => congrArg _ (ergPutReq_refused hst)⟩
      case counted =>
        have hst : writeStatus u die h d.length = stOk := writeStatus_ok hn hr (counterStatus_live hch hcl) hrep hback hpart
        exact congrArg _ (ergPutReq_counts hst hpri hne ha)
      case plain =>
        have hst : writeStatus u die h d.length = stOk := writeStatus_ok hn hr (counterStatus_none h0) hrep hback hpart
        exact congrArg _ (ergPutReq_answers hst hpri h0)
      case primary =>
        have hst : writeStatus u die h d.length = stOk := writeStatus_ok hn hr (counterStatus_none h0) hrep hback hpart
        obtain ⟨ready, regs, ht⟩ := ergPutReq_forwards hst hpri h0 hdeg ha rfl rfl
        rw [ht]
        exact ⟨_, rfl, rfl, ⟨_, getRepl_oneMore (s := ergPut u a d) hm n _, rfl, rfl, rfl,
          hKind_keptCopy n rfl (show kPutFwd < 256 by decide) _ _⟩, rfl⟩
end Sys2Proof.Machine
end

section
/-! SUPPORT. An event writes registers of the classes 0x00 (fault sources) and 0x21 (the control port) and no others. -/

namespace Sys2Proof.Machine

/-- The registers of every class but those an event counts in stand in t as in s. -/
def KeepsUnitRegs (s t : State) : Prop :=
  ∀ a, addrCls a ≠ 0 → addrCls a ≠ 0x21 → mapFind t.regs a = mapFind s.regs a

namespace KeepsUnitRegs

theorem of_eq {s t : State} (h : t.regs = s.regs) : KeepsUnitRegs s t := fun _ _ _ => by rw [h]

theorem trans {s t u : State} (h : KeepsUnitRegs s t) (k : KeepsUnitRegs t u) : KeepsUnitRegs s u :=
  fun a h0 h1 => (k a h0 h1).trans (h a h0 h1)

theorem ite {s t u : State} (b : Prop) [Decidable b] (h : KeepsUnitRegs s t) (k : KeepsUnitRegs s u) :
    KeepsUnitRegs s (if b then t else u) := by
  split <;> assumption

/-- A write that lists a register of one of the two classes. -/
theorem of_fset (s : State) (r : Reg) (d k : Nat) {hi lo v : Nat} (hh : hi < 64) (hl : lo ≤ hi)
    (hr : bits (word (regReset r d k)).toNat hi lo = 0) (hv : v % 2 ^ (hi + 1 - lo) ≠ 0)
    (hc : addrCls (regAddr r d 0 k) = 0 ∨ addrCls (regAddr r d 0 k) = 0x21) : KeepsUnitRegs s (fset s r d 0 k hi lo v) := by
  intro a h0 h1
  have hne : a ≠ regAddr r d 0 k := fun e => hc.elim (e ▸ h0) (e ▸ h1)
  rw [fset_regs s r d 0 k hh hl hr hv, mapFind_insert, if_neg hne]

theorem of_cpCount (s : State) (d : Nat) {k : Nat} (hk : k < 8) : KeepsUnitRegs s (fadd s .cpCount d 0 k 47 0 1) :=
  of_fset s _ _ _ (by decide) (by decide) (cpCount_reset ..) (satAdd_one_mod (by decide) _)
    (.inr (by rw [cpCount_addr, addrCls, bits_eq]; omega))

theorem of_countSource (s : State) (id : Nat) : KeepsUnitRegs s (countSource s id) :=
  ite _ (of_eq rfl) (of_fset s _ _ _ (by decide) (by decide) (faultSource_reset ..) (satAdd_one_mod (by decide) _) (.inl (by
    have := Nat.mod_lt id (show 0 < 2048 by decide)
    rw [faultSource_addr, addrCls, bits_eq]; omega)))

theorem of_noteHigh (s : State) : KeepsUnitRegs s (noteHigh s) := by
  unfold noteHigh
  dsimp only
  split
  next h => exact of_fset s _ _ _ (by decide) (by decide) eventQueue_reset (by omega) (.inr (by rw [eventQueue_addr]; decide))
  next => exact of_eq rfl

theorem of_queued (s : State) (l : List CpMsg) : KeepsUnitRegs s { s with cp := { s.cp with queue := l } } := of_eq rfl

theorem of_pump (s : State) : KeepsUnitRegs s (pump s) := of_eq (by rw [pump_eq])

theorem of_noteDropped (s : State) (die : Nat) (q : BitVec 32) : KeepsUnitRegs s (noteDropped s die q) :=
  (of_cpCount s _ (by decide)).trans (of_eq rfl)

theorem of_pulseErr (s : State) : KeepsUnitRegs s (pulseErr s) :=
  (of_eq (t := modModule s (fun m => { m with pulse := true })) rfl).trans (ite _ (of_eq rfl) (of_eq rfl))

theorem of_dropRecord (s : State) (id sev : Nat) : KeepsUnitRegs s (dropRecord s id sev) := by
  unfold dropRecord
  dsimp only
  split
  · exact of_eq rfl
  · refine trans (of_eq ?_) ((of_noteDropped _ _ _).trans ((of_countSource _ id).trans (of_eq rfl)))
    rfl

theorem of_dropEvent (s : State) (die : Nat) (q : BitVec 32) : KeepsUnitRegs s (dropEvent s die q) := by
  have h := (of_noteDropped s die q).trans (of_countSource _ (srcDistaff (activeDie s) 3))
  unfold dropEvent
  dsimp only
  generalize countSource (noteDropped s die q) (srcDistaff (activeDie s) 3) = t at h ⊢
  have k := h.trans (ite (severityOf t (srcDistaff (activeDie s) 3) ≤ 1) (of_eq rfl)
    (of_dropRecord t (srcDistaff (activeDie s) 3) (severityOf t (srcDistaff (activeDie s) 3))))
  exact ite _ k (k.trans (of_pulseErr _))

theorem of_sendEvent (s : State) (die ty : Nat) (body : List Byte) : KeepsUnitRegs s (sendEvent s die ty body) := by
  unfold sendEvent
  dsimp only
  generalize hm : modDie s die (fun d => { d with eventSeq := d.eventSeq + 1 }) = t
  refine trans (t := (freeCycle t).2) (of_eq (hm ▸ rfl)) ?_
  split
  · exact of_cpCount _ _ (by decide)
  · split
    · exact of_dropEvent _ _ _
    · exact (of_queued _ _).trans ((of_noteHigh _).trans (of_pump _))

/-- Samples that go to Distaff. -/
theorem of_drainSamples (s : State) (die : Nat) : KeepsUnitRegs s (drainSamples s die) := by
  have hfold (l : List (List Byte)) (t : State) : KeepsUnitRegs t (l.foldl (fun s r => sendEvent s die 2 r) t) := by
    induction l generalizing t with
    | nil => exact of_eq rfl
    | cons r l ih => exact (of_sendEvent t die 2 r).trans (ih _)
  unfold drainSamples
  refine ite _ (of_eq rfl) (trans (of_eq ?_) (hfold _ _))
  rfl

end KeepsUnitRegs

/-! ### EDGE_ROLE and the registers of the ports -/

theorem mapFind_mapDel_above {α : Type} {m : SMap α} {k j : Nat} (hj : k < j) : mapFind (mapDel m k) j = mapFind m j := by
  induction m with
  | nil => rfl
  | cons e r ih =>
    obtain ⟨i, w⟩ := e
    rw [mapDel]
    split
    · rw [mapFind, if_neg (by omega), if_neg (by omega)]
    · split
      · rfl
      · rw [mapFind, mapFind, ih]

/-- A write leaves every register of a higher address, whatever form the store has. -/
theorem mapFind_rset_above (s : State) (r : Reg) (d i k v : Nat) {a : Nat} (ha : regAddr r d i k < a) :
    mapFind (rset s r d i k v).regs a = mapFind s.regs a := by
  rw [rset_regs, mapPut]
  split
  · exact mapFind_mapDel_above ha
  · rw [mapFind_insert, if_neg (by omega)]

theorem isEdge_of_regs {s t : State} {p : Nat}
    (h : mapFind t.regs (regAddr .edgeRole (p / 16) 0 0) = mapFind s.regs (regAddr .edgeRole (p / 16) 0 0)) :
    isEdge t p = isEdge s p := by
  rw [isEdge, isEdge, fget, fget, rget, rget, h]

theorem edgeRole_addr (d : Nat) : regAddr .edgeRole d 0 0 = d * 2 ^ 43 + 3 * 2 ^ 36 := by
  simp [regAddr, regHome, regRow, unitAddr]

theorem sampleStatus_addr (d i k : Nat) : regAddr .sampleStatus d i k = d * 2 ^ 43 + 2 ^ 36 + i * 2 ^ 24 + 0x10810 + 8 * k := by
  simp [regAddr, regHome, regRow, unitAddr]

theorem excessBytes_addr (d i k : Nat) : regAddr .excessBytes d i k = d * 2 ^ 43 + 2 ^ 36 + i * 2 ^ 24 + 0x10500 + 8 * k := by
  simp [regAddr, regHome, regRow, unitAddr]

theorem isEdge_event {s t : State} (h : KeepsUnitRegs s t) (p : Nat) : isEdge t p = isEdge s p := by
  refine isEdge_of_regs (h _ ?_ ?_) <;> rw [edgeRole_addr, addrCls, bits_eq] <;> omega

theorem isEdge_sampleStatus (s : State) (p d hi lo v : Nat) (hd : d < 2) :
    isEdge (pset s .sampleStatus p d hi lo v) p = isEdge s p :=
  isEdge_of_regs (mapFind_rset_above s _ _ _ _ _ (by rw [sampleStatus_addr, edgeRole_addr]; omega))

theorem isEdge_queueSample (s : State) (p d : Nat) (record : List Byte) (hd : d < 2) :
    isEdge (queueSample s p d record) p = isEdge s p := by
  unfold queueSample
  split
  · exact isEdge_sampleStatus s p d 31 0 _ hd
  · rfl

theorem isEdge_countSample (s : State) (p d : Nat) (hd : d < 2) : isEdge (countSample s p d) p = isEdge s p := by
  rw [countSample, isEdge_sampleStatus s p d 63 32 _ hd]

theorem isEdge_freeCycle (s : State) (p : Nat) : isEdge (freeCycle s).2 p = isEdge s p := rfl

/-- A sample leaves the roles of the ports. -/
theorem isEdge_takeSample (s : State) (p d : Nat) (bad : Bool) (reason : Option Nat) (vc flits : Nat) (bytes : List Byte)
    (hd : d < 2) : isEdge (takeSample s p d bad reason vc flits bytes) p = isEdge s p := by
  rw [takeSample, isEdge_event (.of_drainSamples _ _), isEdge_queueSample _ _ _ _ hd, isEdge_event (.of_drainSamples _ _),
    isEdge_freeCycle, isEdge_countSample s p d hd]

theorem kindClass_le (k : Nat) : kindClass k ≤ 6 := by
  rw [kindClass]
  cases hr : kindRow k with
  | none => exact Nat.zero_le 6
  | some r => exact (by decide : ∀ r ∈ kindTable, r.cls ≤ 6) r (List.mem_of_find?_eq_some hr)

theorem isEdge_countExcess (s : State) (p : Nat) (k : Pkt) : isEdge (countExcess s p k) p = isEdge s p := by
  unfold countExcess
  dsimp only
  split
  · have hc := kindClass_le (hKind k.hdr)
    rw [padd, fadd, fset]
    refine isEdge_of_regs (mapFind_rset_above s _ _ _ _ _ ?_)
    rw [excessBytes_addr, edgeRole_addr, pktClass]
    omega
  · rfl

end Sys2Proof.Machine
end

section
/-! SUPPORT. Frames as an UP port sends them, credits and shapers, and O36 (R69, R121-R127, R388-R390). -/

namespace Sys2Proof.Machine

variable {s : State} {p : Nat} {k : Pkt}

/-! ### The choice of the egress arbiter (R122, R123) -/

/-- Tiers 1 and 2 come first while fewer than sixteen frames ran or the shared tier has none. -/
theorem egressChoice_ahead (h : (getPort s p).run < 15 ∨ sharedChoice s p (getPort s p) = none) :
    egressChoice s p = match caravanChoice s (getPort s p) with
      | some k => some (k, 1, { getPort s p with run := (getPort s p).run + 1 })
      | none => match priorityChoice (getPort s p) with
        | some k => some (k, 2, { getPort s p with run := (getPort s p).run + 1 })
        | none => (sharedChoice s p (getPort s p)).map (fun e => (e.1, 3, { e.2 with run := 0 })) := by
  refine if_neg fun ⟨hrun, hshared⟩ => ?_
  rcases h with h | h
  · omega
  · rw [h] at hshared
    exact Bool.false_ne_true hshared

theorem egressChoice_shared {e : Pkt × Port} (he : sharedChoice s p (getPort s p) = some e)
    (h : 15 ≤ (getPort s p).run ∨ (caravanChoice s (getPort s p) = none ∧ priorityChoice (getPort s p) = none)) :
    egressChoice s p = some (e.1, 3, { e.2 with run := 0 }) := by
  unfold egressChoice
  rcases h with h | ⟨hc, hp⟩
  · simp only [he, h, Option.isSome_some, and_self, if_true, Option.map_some]
  · simp only [he, hc, hp, Option.map_some, ite_self]

theorem egress_none (h : egressChoice s p = none) : egress s p = s := by
  rw [egress, h]

theorem egress_drops {tier : Nat} {q' : Port} (h : egressChoice s p = some (k, tier, q')) (hb : k.bad = true) (he : isEdge s p = true) :
    egress s p = dropStaged s p k := by
  rw [egress, h]
  exact if_pos ⟨hb, he⟩

theorem egress_sends {tier : Nat} {q' : Port} (h : egressChoice s p = some (k, tier, q')) (hk : k.bad = false ∨ isEdge s p = false) :
    egress s p = sendFrame (setPort s p q') p k tier := by
  rw [egress, h]
  refine if_neg fun ⟨hb, he⟩ => ?_
  rcases hk with hk | hk
  · exact absurd (hb.symm.trans hk) (by decide)
  · exact absurd (he.symm.trans hk) (by decide)

/-! ### The end of a frame (R69, R133) -/

/-- A frame whose packet may leave: END goes out, and its record where it is sampled. -/
theorem frameGone_leaves {f : TxFrame} (hk : f.pkt.bad = false ∨ isEdge s p = false) :
    frameGone s p f = if f.sample
      then takeSample (emit s (.frameEnd p (endWord f))) p 1 f.pkt.bad none f.pkt.vc f.pkt.flits (hBytes f.pkt.hdr ++ f.pkt.payload)
      else emit s (.frameEnd p (endWord f)) := by
  have hedge : isEdge (if f.sample
      then takeSample (emit s (.frameEnd p (endWord f))) p 1 f.pkt.bad none f.pkt.vc f.pkt.flits (hBytes f.pkt.hdr ++ f.pkt.payload)
      else emit s (.frameEnd p (endWord f))) p = isEdge s p := by
    split
    · exact isEdge_takeSample _ p 1 _ _ _ _ _ (by decide)
    · rfl
  refine if_neg fun ⟨hb, he⟩ => ?_
  rcases hk with hk | hk
  · exact absurd (hb.symm.trans hk) (by decide)
  · exact absurd (he.symm.trans (hedge.trans hk)) (by decide)

/-- The excess is counted, and the buckets debited but for a packet of an open caravan. -/
def charged (s : State) (p : Nat) (k : Pkt) : State :=
  if rideCaravan (countExcess s p k) k then countExcess s p k else debit (countExcess s p k) p k

theorem isEdge_charged (s : State) (p : Nat) (k : Pkt) : isEdge (charged s p k) p = isEdge s p := by
  rw [← isEdge_countExcess s p k, charged]
  split <;> rfl

/-! ### The replay buffer (R390) -/

variable {pre post : List TxFrame} {f : TxFrame}

theorem replay_find (hpre : ∀ x ∈ pre, x.seq ≠ f.seq) :
    (pre ++ f :: post).find? (fun t => t.seq == f.seq) = some f := by
  rw [List.find?_append, List.find?_eq_none.2 (fun x hx => by simpa using hpre x hx), List.find?_cons_of_pos (by simp)]
  rfl

theorem replay_takeWhile (hpre : ∀ x ∈ pre, x.seq ≠ f.seq) :
    (pre ++ f :: post).takeWhile (fun t => t.seq != f.seq) = pre := by
  rw [List.takeWhile_append_of_pos (fun x hx => by simpa using hpre x hx), List.takeWhile_cons_of_neg (by simp), List.append_nil]

theorem replay_dropWhile (hpre : ∀ x ∈ pre, x.seq ≠ f.seq) :
    (pre ++ f :: post).dropWhile (fun t => t.seq != f.seq) = f :: post := by
  rw [List.dropWhile_append_of_pos (fun x hx => by simpa using hpre x hx), List.dropWhile_cons_of_neg (by simp)]

/-- ACK releases its frame and those before it. -/
theorem ackUpTo_releases (hq : (getPort s p).replay = pre ++ f :: post) (hpre : ∀ x ∈ pre, x.seq ≠ f.seq) :
    ackUpTo s p f.seq = setPort s p { getPort s p with replay := post } := by
  have hany : (pre ++ f :: post).any (fun t => t.seq == f.seq) = true := by simp
  rw [ackUpTo, modPort, hq, if_pos hany, replay_dropWhile hpre]
  rfl

/-- What a port puts out for one frame that it sends again. -/
def frameOut (p : Nat) (x : TxFrame) : List Out :=
  .frame p (startWord x.pkt x.seq x.shared) x.pkt :: (if x.pkt.complete then [.frameEnd p (endWord x)] else [])

/-- A frame sent again, counted in LINK_COUNT. -/
def resendOne (p : Nat) (s : State) (x : TxFrame) : State :=
  let s := padd (emit s (.frame p (startWord x.pkt x.seq x.shared) x.pkt)) .linkCount p 1 47 0 1
  if x.pkt.complete then emit s (.frameEnd p (endWord x)) else s

theorem padd_form (s : State) (r : Reg) (p k hi lo n : Nat) : ∃ l, padd s r p k hi lo n = { s with regs := l } := ⟨_, rfl⟩

theorem resendOne_out (x : TxFrame) (t : State) : ∃ r, resendOne p t x = { t with out := t.out ++ frameOut p x, regs := r } := by
  obtain ⟨r, hr⟩ := padd_form (emit t (.frame p (startWord x.pkt x.seq x.shared) x.pkt)) .linkCount p 1 47 0 1
  refine ⟨r, ?_⟩
  rw [resendOne, hr, frameOut]
  split
  · rw [emit, emit, List.append_assoc]; rfl
  · rfl

theorem resendAll_out (l : List TxFrame) (t : State) :
    ∃ r, l.foldl (resendOne p) t = { t with out := t.out ++ l.flatMap (frameOut p), regs := r } := by
  induction l generalizing t with
  | nil => exact ⟨t.regs, by rw [List.flatMap_nil, List.append_nil]; rfl⟩
  | cons x l ih =>
    obtain ⟨r, hr⟩ := resendOne_out (p := p) x t
    obtain ⟨r', hr'⟩ := ih { t with out := t.out ++ frameOut p x, regs := r }
    exact ⟨r', by rw [List.foldl_cons, hr, hr', List.flatMap_cons, List.append_assoc]⟩

/-- NAK below RETRY_LIMIT: the frame and those after it are sent again. -/
theorem resendFrom_out (hq : (getPort s p).replay = pre ++ f :: post) (hpre : ∀ x ∈ pre, x.seq ≠ f.seq) :
    ∃ r, resendFrom s p f.seq
      = { setPort s p { getPort s p with replay := pre ++ (f :: post).map (fun x => { x with resent := x.resent + 1 }) } with
          out := s.out ++ (f :: post).flatMap (frameOut p), regs := r } := by
  obtain ⟨r, hr⟩ := resendAll_out (p := p) (f :: post)
    (setPort s p { getPort s p with replay := pre ++ (f :: post).map (fun x => { x with resent := x.resent + 1 }) })
  refine ⟨r, Eq.trans ?_ hr⟩
  simp only [resendFrom, hq, replay_takeWhile hpre, List.drop_left]
  rfl

theorem retryFrom_resends (hq : (getPort s p).replay = pre ++ f :: post) (hpre : ∀ x ∈ pre, x.seq ≠ f.seq)
    (hlim : f.resent < max 1 (pget s .portCtrl p 0 39 32)) : retryFrom s p f.seq = resendFrom s p f.seq := by
  rw [retryFrom, hq, replay_find hpre]
  exact if_neg (by omega)

theorem retryFrom_fails (hq : (getPort s p).replay = pre ++ f :: post) (hpre : ∀ x ∈ pre, x.seq ≠ f.seq)
    (hlim : max 1 (pget s .portCtrl p 0 39 32) ≤ f.resent) : retryFrom s p f.seq = linkFails s p 7 := by
  rw [retryFrom, hq, replay_find hpre]
  exact if_pos hlim

theorem replayExpire_nil (hq : (getPort s p).replay = []) : replayExpire s p = s := by
  rw [replayExpire, hq]

theorem replayExpire_cons (hq : (getPort s p).replay = f :: post) : replayExpire s p = retryFrom s p f.seq := by
  rw [replayExpire, hq]

/-! ### Credits (R388, R389) -/

theorem rxCredit_shared {w : Word} (hw : wbit w 8 = true) : rxCredit s p w
    = setPort s p { getPort s p with credShared := (getPort s p).credShared + wbits w 31 16, stallRaised := [] } := if_pos hw

theorem rxCredit_dedicated {w : Word} (hw : wbit w 8 = false) : rxCredit s p w
    = setPort s p { getPort s p with credDed := countAdd (getPort s p).credDed (wbits w 7 4) (wbits w 31 16),
                                     stallRaised := (getPort s p).stallRaised.filter (· != wbits w 7 4) } :=
  if_neg (Bool.eq_false_iff.1 hw)

variable {vc : Nat}

theorem creditExpire_raises (hon : pget s .portCtrl p 0 31 16 ≠ 0) (hst : vcStalled (getPort s p) vc = true)
    (hnew : (getPort s p).stallRaised.contains vc = false) : creditExpire s p vc = raiseFault
      (padd (setPort s p { getPort s p with stallRaised := insNat (getPort s p).stallRaised vc }) .linkCount p 8 47 0 1) (srcPort p 2) :=
  if_pos ⟨hon, hst, by rw [hnew]; rfl⟩

theorem creditExpire_quiet (h : pget s .portCtrl p 0 31 16 = 0 ∨ vcStalled (getPort s p) vc = false ∨
    (getPort s p).stallRaised.contains vc = true) : creditExpire s p vc = s := by
  refine if_neg fun ⟨hon, hst, hnew⟩ => ?_
  rcases h with h | h | h
  · exact hon h
  · exact absurd (hst.symm.trans h) (by decide)
  · rw [h] at hnew
    exact absurd hnew (by decide)

/-! ### The shaper settings of a refill (R126) -/

/-- A setting noted where it is not at its reset value. -/
def putSetting (m : SMap Nat) (k v : Nat) : SMap Nat := if v = shapeReset k then m else mapIns m k v

theorem putSetting_other (m : SMap Nat) (v : Nat) {k j : Nat} (hj : j ≠ k) : mapFind (putSetting m k v) j = mapFind m j := by
  rw [putSetting]
  split
  · rfl
  · rw [mapFind_insert, if_neg hj]

theorem putSetting_same {m : SMap Nat} {k : Nat} (hm : mapFind m k = none) (v : Nat) :
    (mapFind (putSetting m k v) k).getD (shapeReset k) = v := by
  rw [putSetting]
  split
  next h => rw [hm, Option.getD_none, h]
  next => rw [mapFind_insert, if_pos rfl, Option.getD_some]

/-- The four settings of a class: its rates at c and 8 + c, its sizes at 16 + c and 24 + c. -/
def putClass (s : State) (p : Nat) (m : SMap Nat) (c : Nat) : SMap Nat :=
  putSetting (putSetting (putSetting (putSetting m c (pget s .shapeRate p c 15 0)) (8 + c) (pget s .shapeRate p c 31 16))
    (16 + c) (pget s .shapeSize p c 15 0)) (24 + c) (pget s .shapeSize p c 31 16)

theorem shapeNow_eq (s : State) (p : Nat) :
    shapeNow s p = putSetting ((upTo 0 7).foldl (putClass s p) []) 32 (pget s .shapeConfig p 0 7 0) := rfl

theorem putClass_other (m : SMap Nat) {c j : Nat} (hj : j % 8 ≠ c % 8) : mapFind (putClass s p m c) j = mapFind m j := by
  rw [putClass, putSetting_other _ _ (by omega), putSetting_other _ _ (by omega), putSetting_other _ _ (by omega),
    putSetting_other _ _ (by omega)]

theorem putClasses_other {l : List Nat} {j : Nat} (hl : ∀ c ∈ l, j % 8 ≠ c % 8) (m : SMap Nat) :
    mapFind (l.foldl (putClass s p) m) j = mapFind m j := by
  induction l generalizing m with
  | nil => rfl
  | cons c l ih =>
    rw [List.foldl_cons, ih (fun x hx => hl x (List.mem_cons_of_mem _ hx)), putClass_other m (hl c (List.mem_cons_self ..))]

/-- What the settings of a refill hold of a class is what that class's registers held alone. -/
theorem mapFind_shapeNow {c j : Nat} (hc : c < 7) (hj : j % 8 = c) (h32 : j < 32) :
    ∃ m, (∀ i, i % 8 = c → mapFind m i = none) ∧ mapFind (shapeNow s p) j = mapFind (putClass s p m c) j := by
  obtain ⟨a, b, hab⟩ := List.append_of_mem ((mem_upTo _ _).2 ⟨Nat.zero_le c, by omega⟩ : c ∈ upTo 0 7)
  have hnd : (a ++ c :: b).Nodup ∧ ∀ x ∈ a ++ c :: b, x < 8 := hab ▸ (by decide)
  obtain ⟨hnd, hlt⟩ := hnd
  have hne {l : List Nat} (hl : ∀ x ∈ l, x < 8 ∧ x ≠ c) {i : Nat} (hi : i % 8 = c) : ∀ x ∈ l, i % 8 ≠ x % 8 := fun x hx => by
    have := hl x hx
    omega
  have ha : ∀ x ∈ a, x < 8 ∧ x ≠ c := fun x hx => ⟨hlt x (by simp [hx]), fun e => by
    simp only [List.nodup_append, List.nodup_cons] at hnd
    exact hnd.2.2 x hx c (List.mem_cons_self ..) e⟩
  have hb : ∀ x ∈ b, x < 8 ∧ x ≠ c := fun x hx => ⟨hlt x (by simp [hx]), fun e => by
    simp only [List.nodup_append, List.nodup_cons] at hnd
    exact hnd.2.1.1 (e ▸ hx)⟩
  refine ⟨a.foldl (putClass s p) [], fun i hi => putClasses_other (hne ha hi) [], ?_⟩
  rw [shapeNow_eq, putSetting_other _ _ (by omega), hab, List.foldl_append, List.foldl_cons, putClasses_other (hne hb hj)]

theorem shaped_rate {q : Port} {c : Nat} (hc : c < 7) : shaped { q with shape := shapeNow s p } c = pget s .shapeRate p c 15 0 := by
  obtain ⟨m, hm, hf⟩ := mapFind_shapeNow (s := s) (p := p) hc (j := c) (by omega) (by omega)
  rw [shaped, hf, putClass, putSetting_other _ _ (by omega), putSetting_other _ _ (by omega), putSetting_other _ _ (by omega),
    putSetting_same (hm _ (by omega))]

theorem shaped_peakRate {q : Port} {c : Nat} (hc : c < 7) :
    shaped { q with shape := shapeNow s p } (8 + c) = pget s .shapeRate p c 31 16 := by
  obtain ⟨m, hm, hf⟩ := mapFind_shapeNow (s := s) (p := p) hc (j := 8 + c) (by omega) (by omega)
  rw [shaped, hf, putClass, putSetting_other _ _ (by omega), putSetting_other _ _ (by omega), putSetting_same]
  rw [putSetting_other _ _ (by omega), hm _ (by omega)]

theorem shaped_size {q : Port} {c : Nat} (hc : c < 7) :
    shaped { q with shape := shapeNow s p } (16 + c) = pget s .shapeSize p c 15 0 := by
  obtain ⟨m, hm, hf⟩ := mapFind_shapeNow (s := s) (p := p) hc (j := 16 + c) (by omega) (by omega)
  rw [shaped, hf, putClass, putSetting_other _ _ (by omega), putSetting_same]
  rw [putSetting_other _ _ (by omega), putSetting_other _ _ (by omega), hm _ (by omega)]

theorem shaped_peakSize {q : Port} {c : Nat} (hc : c < 7) :
    shaped { q with shape := shapeNow s p } (24 + c) = pget s .shapeSize p c 31 16 := by
  obtain ⟨m, hm, hf⟩ := mapFind_shapeNow (s := s) (p := p) hc (j := 24 + c) (by omega) (by omega)
  rw [shaped, hf, putClass, putSetting_same]
  rw [putSetting_other _ _ (by omega), putSetting_other _ _ (by omega), putSetting_other _ _ (by omega), hm _ (by omega)]

/-! ### The buckets of a refill (R126, R127) -/

/-- A pass over distinct keys sets each from what stood there. -/
theorem mapGet_foldl_put {α : Type} [DecidableEq α] {d : α} (h : Nat → α → α) {l : List Nat} (hl : l.Nodup) {m : SMap α}
    (hm : mapRising 0 m = true) (k : Nat) :
    mapGet (l.foldl (fun m k => mapPut m d k (h k (mapGet m d k))) m) d k = if k ∈ l then h k (mapGet m d k) else mapGet m d k := by
  induction l generalizing m with
  | nil => simp
  | cons x l ih =>
    obtain ⟨hx, hl⟩ := List.nodup_cons.1 hl
    have hput : mapRising 0 (mapPut m d x (h x (mapGet m d x))) = true := by
      rw [mapPut]
      split
      · exact mapDel_rising hm
      · exact mapIns_rising hm (Nat.zero_le x)
    rw [List.foldl_cons, ih hl hput, mapGet_mapPut hm]
    rcases eq_or_ne k x with rfl | hne
    · simp [hx]
    · simp [hne]

/-- A port with the settings that its registers hold. -/
def settingsTaken (s : State) (p : Nat) : Port := { getPort s p with shape := shapeNow s p }

/-- A bucket that holds v, after one refill. -/
def filled (q : Port) (k : Nat) (v : Int) : Int := min (v + bucketRate q k) (bucketSize q k)

/-- The same port with its buckets filled. -/
def refilled (s : State) (p : Nat) : Port :=
  { settingsTaken s p with
    tokens := buckets.foldl (fun m k => mapPut m 65536 k (filled (settingsTaken s p) k (mapGet m 65536 k))) (getPort s p).tokens }

theorem refill_eq (s : State) (p : Nat) : refill s p = setPort s p (refilled s p) := rfl

theorem refilled_eq (s : State) (p : Nat) :
    refilled s p = { getPort s p with tokens := (refilled s p).tokens, shape := shapeNow s p } := by
  rw [refilled, settingsTaken]

theorem setPort_eq (s : State) (p : Nat) (v : Port) : setPort s p v = { s with ports := (setPort s p v).ports } := rfl

/-- A refill at a port of a store in canonical order. -/
theorem getPort_refill (hs : mapRising 0 s.ports = true) : getPort (refill s p) p = refilled s p := by
  rw [refill_eq, getPort, setPort_ports, mapGet_mapPut hs, if_pos rfl]

/-- Each bucket of a refill gains its rate, up to its size. -/
theorem bucket_refilled (ht : mapRising 0 (getPort s p).tokens = true) {k : Nat} (hk : k ∈ buckets) :
    bucket (refilled s p) k = filled (settingsTaken s p) k (bucket (getPort s p) k) := by
  rw [bucket, refilled, mapGet_foldl_put _ (by decide) ht, if_pos hk, bucket]

theorem bucket_refilled_committed (ht : mapRising 0 (getPort s p).tokens = true) {c : Nat} (hc : c < 7) :
    bucket (refilled s p) c
      = min (bucket (getPort s p) c + pget s .shapeRate p c 15 0) (64 * max 1 (pget s .shapeSize p c 15 0) : Nat) := by
  rw [bucket_refilled ht (List.mem_append_left _ ((mem_upTo _ _).2 ⟨Nat.zero_le c, by omega⟩)), filled, bucketRate, bucketSize,
    settingsTaken, shaped_rate hc, shaped_size hc]

theorem bucket_refilled_peak (ht : mapRising 0 (getPort s p).tokens = true) {c : Nat} (hc : c < 7) :
    bucket (refilled s p) (8 + c)
      = min (bucket (getPort s p) (8 + c) + pget s .shapeRate p c 31 16) (64 * max 1 (pget s .shapeSize p c 31 16) : Nat) := by
  rw [bucket_refilled ht (List.mem_append_right _ ((mem_upTo _ _).2 ⟨by omega, by omega⟩)), filled, bucketRate, bucketSize,
    ← Nat.add_assoc, settingsTaken, shaped_peakRate hc, shaped_peakSize hc]

/-! ### O36 -/

/-- What the egress arbiter does with its choice, as O36 states it. -/
theorem egressArbitration_sends (hp : p < 128) (hu : portUp s p = true) {tier : Nat} {q' : Port}
    (h : egressChoice s p = some (k, tier, q')) (hk : k.bad = false ∨ isEdge s p = false) :
    let v := charged (setPort s p q') p k
    let r := getPort v p
    let ded := min k.flits (mapGet r.credDed 0 k.vc)
    let n := sampleTick v p 1 r.sampOut
    let f : TxFrame := { seq := r.txSeq, pkt := k, shared := k.flits - ded, resent := 0, sample := n.1 && !k.complete }
    let w : State := { setPort v p (roundAdd { r with
          stage := removeFirst (fun e => e.2.uid == k.uid && e.2.vc == k.vc) r.stage,
          credDed := countSub r.credDed k.vc ded, credShared := r.credShared - (k.flits - ded),
          txSeq := (r.txSeq + 1) % 4096, replay := r.replay ++ [f], sampOut := n.2 } k tier) with
        out := v.out ++ [.frame p (startWord k r.txSeq (k.flits - ded)) k] }
    let e : State := { w with out := w.out ++ [.frameEnd p (endWord f)] }
    (k.complete = false → exec (.egressArbitration p) s = .next w) ∧
    (k.complete = true → n.1 = false → exec (.egressArbitration p) s = .next e) ∧
    (k.complete = true → n.1 = true → exec (.egressArbitration p) s
      = .next (takeSample e p 1 k.bad none k.vc k.flits (hBytes k.hdr ++ k.payload))) := by
  intro v r ded n f w e
  have hexec : exec (.egressArbitration p) s = .next (if k.complete then frameGone w p { f with sample := n.1 } else w) := by
    exact (atUpPort rfl hp hu).trans (congrArg Host.Outcome.next ((egress_sends h hk).trans rfl))
  have hedge : isEdge w p = isEdge s p := isEdge_charged (setPort s p q') p k
  have hgone : frameGone w p { f with sample := n.1 }
      = if n.1 then takeSample e p 1 k.bad none k.vc k.flits (hBytes k.hdr ++ k.payload) else e :=
    frameGone_leaves (hedge ▸ hk)
  refine ⟨fun hc => ?_, fun hc hn => ?_, fun hc hn => ?_⟩
  · rw [hexec, hc]; rfl
  · rw [hexec, hc, hgone, hn]; rfl
  · rw [hexec, hc, hgone, hn]; rfl

/-- NAK of a frame that the replay buffer holds. -/
theorem linkWordNak_retries {w : Word} (hp : p < 128) (hu : portUp s p = true) (hw : wbits w 27 16 = f.seq) :
    exec (.linkWordNak p w) s = .next (retryFrom s p f.seq) :=
  hw ▸ atUpPort rfl hp hu

theorem replayTimeout_expires (hp : p < 128) (hu : portUp s p = true) : exec (.replayTimeout p) s = .next (replayExpire s p) :=
  atUpPort rfl hp hu

theorem creditStall_expires (hp : p < 128) (hu : portUp s p = true) (hvc : vc < 14) :
    exec (.creditStall p vc) s = .next (creditExpire s p vc) :=
  (if_pos ⟨hp, hvc⟩).trans (congrArg Host.Outcome.next (whenUp_up hu _))

theorem creditStall_down (hp : p < 128) (hd : portUp s p = false) (hvc : vc < 14) : exec (.creditStall p vc) s = .next s :=
  (if_pos ⟨hp, hvc⟩).trans (congrArg Host.Outcome.next (whenUp_down hd _))

/-- Settles O36: the arbiter's choice, what it sends, the replay buffer, the shapers and the credits, each by its lemmas
above. That no write on the way to END changes EDGE_ROLE is `isEdge_charged` and `isEdge_takeSample`. -/
theorem framesAreSentAndCreditsReturned : Obligations.FramesAreSentAndCreditsReturned := by
  unfold Obligations.FramesAreSentAndCreditsReturned
  refine ⟨fun s p hp hu => ⟨?caravan, ?priority, fun e he h => egressChoice_shared he h, ?idle, ?bad,
      fun k tier q' h hk => egressArbitration_sends hp hu h hk, ?replay, ?empty, ?shaper⟩,
    fun s p hp hu => ⟨?shared, ?dedicated, fun vc hvc => ⟨?stalled, ?quiet⟩⟩,
    fun s p hp hd => ⟨atDownPort rfl hp hd, atDownPort rfl hp hd, fun vc hvc => creditStall_down hp hd hvc, fun w =>
      ⟨atDownPort rfl hp hd, atDownPort rfl hp hd, atDownPort rfl hp hd⟩⟩⟩
  case caravan =>
    intro k h hc
    rw [egressChoice_ahead h, hc]
  case priority =>
    intro k h hc hk
    rw [egressChoice_ahead h, hc, hk]
  case idle =>
    intro h
    exact (atUpPort rfl hp hu).trans (congrArg Host.Outcome.next (egress_none h))
  case bad =>
    intro k tier q' h hb he
    exact (atUpPort rfl hp hu).trans (congrArg Host.Outcome.next (egress_drops h hb he))
  case replay =>
    intro w pre f post hq hpre hw
    refine ⟨?_, fun hlim => ?_, fun hlim => ?_, fun hnil => ?_⟩
    · exact (atUpPort rfl hp hu).trans (congrArg Host.Outcome.next (hw ▸ ackUpTo_releases hq hpre))
    · obtain ⟨r, hr⟩ := resendFrom_out hq hpre
      refine ⟨_, (linkWordNak_retries hp hu hw).trans (congrArg Host.Outcome.next ((retryFrom_resends hq hpre hlim).trans hr)),
        rfl, rfl, rfl⟩
    · rw [linkWordNak_retries hp hu hw, retryFrom_fails hq hpre hlim]
      rfl
    · rw [linkWordNak_retries hp hu hw, replayTimeout_expires hp hu, replayExpire_cons (hnil ▸ hq)]
  case empty =>
    intro hq
    rw [replayTimeout_expires hp hu, replayExpire_nil hq]
  case shaper =>
    intro hs ht
    refine ⟨refill s p, if_pos hp, ?_⟩
    rw [getPort_refill hs]
    exact ⟨refilled_eq s p, fun c hc => ⟨bucket_refilled_committed ht hc, bucket_refilled_peak ht hc⟩,
      setPort_eq s p (refilled s p)⟩
  case shared =>
    intro w hw
    exact (atUpPort rfl hp hu).trans (congrArg Host.Outcome.next (rxCredit_shared hw))
  case dedicated =>
    intro w hw
    exact (atUpPort rfl hp hu).trans (congrArg Host.Outcome.next (rxCredit_dedicated hw))
  case stalled =>
    intro hon hst hnew
    rw [creditStall_expires hp hu hvc, creditExpire_raises hon hst hnew]
  case quiet =>
    intro h
    rw [creditStall_expires hp hu hvc, creditExpire_quiet h]

end Sys2Proof.Machine
end

section
/-! SUPPORT. `hank.close`, `hank.query`, `caravan.open` and `caravan.close`, and O12 (R107, R109, R181, R210, R225). -/

namespace Sys2Proof.Machine

/-! ### Bobbins given back -/

/-- A bobbin given back comes out of its pool, and the control port is not looked at. -/
theorem poolRelease_ok {s t : State} {p : Nat} {w : Word} {src : Nat} (h : poolRelease s p w src = (stOk, t)) :
    t.out = s.out ∧ ∀ c, (poolRelease { s with cp := c } p w src).2 = { t with cp := c } := by
  unfold poolRelease at h
  dsimp only at h
  split at h
  · cases h
  · next hlegal =>
    split at h
    · next hheld =>
      cases h
      exact ⟨rfl, fun c => congrArg Prod.snd ((if_neg hlegal).trans (if_pos hheld))⟩
    · cases h

/-- One of several bobbins given back, and whether all so far were allocated. -/
def releaseNoted (p : Nat) (x : Bool × State) (w : Word) : Bool × State :=
  (x.1 && (poolRelease x.2 p w ownFeid).1 == stOk, (poolRelease x.2 p w ownFeid).2)

theorem releaseNoted_all {p : Nat} {l : List Word} {ok : Bool} {s x : State}
    (h : l.foldl (releaseNoted p) (ok, s) = (true, x)) :
    ok = true ∧ x.out = s.out ∧
      ∀ c, l.foldl (fun s w => (poolRelease s p w ownFeid).2) { s with cp := c } = { x with cp := c } := by
  induction l generalizing ok s with
  | nil => cases h; exact ⟨rfl, rfl, fun _ => rfl⟩
  | cons w l ih =>
    obtain ⟨hok, hout, hall⟩ := ih h
    obtain ⟨hbefore, hst⟩ := Bool.and_eq_true_iff.1 hok
    obtain ⟨hout', hcp⟩ := poolRelease_ok (Prod.ext (beq_iff_eq.1 hst) rfl : poolRelease s p w ownFeid = (stOk, _))
    refine ⟨hbefore, hout.trans hout', fun c => ?_⟩
    rw [List.foldl_cons, hcp c]
    exact hall c

/-! ### `hank.close` and `hank.query` -/

/-- What a close of an idle hank does before its staging is given back. -/
def hankGone (s : State) (hank : Nat) : State :=
  { s with hanks := mapDel s.hanks hank,
           spindles := mapAll s.spindles Spindle.init (fun key sp =>
             { dropWork [hank] sp with
               claims := sp.claims.filter (fun c => c.hank != hank),
               ls := withSlots s key (sp.claims.filter (fun c => c.hank == hank)) }) }

section
variable {s : State} {tag hank : Nat} {h : Hank}

theorem hankClose_idle (hh : getHank s hank = some h) (hp : holdsPart h = false) :
    hankClose s hank = (stOk, 0,
      h.exch.staging.foldl (fun s w => (poolRelease s (exchPool h.d) w ownFeid).2) (hankGone s hank)) := by
  simp only [hankClose, hh, hp, Bool.false_eq_true, if_false]
  rfl

theorem hankClose_busy (hh : getHank s hank = some h) (hp : holdsPart h = true) :
    hankClose s hank = (stBusy, 0, s) := by
  simp only [hankClose, hh, hp, if_true]

theorem hankClose_unknown (hh : getHank s hank = none) : hankClose s hank = (stBadParam, 0, s) := by
  simp only [hankClose, hh]

theorem hankGone_cp (s : State) (hank : Nat) (c : ControlPort) :
    hankGone { s with cp := c } hank = { hankGone s hank with cp := c } := rfl

theorem closeDies_open (hh : getHank s hank = some h) : (cmdHankClose s tag hank).dies = hankDies h.d := by
  show ((getHank s hank).map (fun h => hankDies h.d)).getD [] = _
  rw [hh]
  rfl

theorem closeDies_unknown (hh : getHank s hank = none) : (cmdHankClose s tag hank).dies = [] := by
  show ((getHank s hank).map (fun h => hankDies h.d)).getD [] = _
  rw [hh]
  rfl

theorem settle_refused {opcode st : Nat} (hst : st ≠ stOk) (x : Nat) (u : State) :
    settle tag opcode (st, x, u) = answer u tag opcode st (failWord 8 x 0) := if_neg hst

theorem closes_idle (hacc : accepts s tag = true) (hh : getHank s hank = some h) (hd : ∀ d ∈ hankDies h.d, d < 32)
    (hp : holdsPart h = false) {x : State}
    (hx : h.exch.staging.foldl (releaseNoted (exchPool h.d)) (true, hankGone s hank) = (true, x)) :
    Done s x (takeCommand s (cmdHankClose s tag hank)) tag 0x21 [] := by
  obtain ⟨-, hout, hfree⟩ := releaseNoted_all hx
  refine takeCommand_done hacc rfl rfl rfl rfl (fun hf => absurd hf Bool.false_ne_true)
    (closeDies_open (tag := tag) hh ▸ hd) hout (fun r => ?_)
  show settle tag 0x21 (hankClose { s with cp := { s.cp with remembered := r } } hank) = _
  rw [hankClose_idle (s := { s with cp := { s.cp with remembered := r } }) hh hp, hankGone_cp, hfree]
  rfl

/-- A close that R181 refuses changes nothing. -/
theorem close_refused {st : Nat} (hacc : accepts s tag = true) (hd : ∀ d ∈ (cmdHankClose s tag hank).dies, d < 32)
    (hst : st ≠ stOk) (hc : ∀ r, hankClose { s with cp := { s.cp with remembered := r } } hank
      = (st, 0, { s with cp := { s.cp with remembered := r } })) :
    Replies s (takeCommand s (cmdHankClose s tag hank)) tag 0x21 st (failWord 8 0 0) ∧
      takeCommand s (cmdHankClose s tag hank) = { s with cp := (takeCommand s (cmdHankClose s tag hank)).cp,
                                                         out := (takeCommand s (cmdHankClose s tag hank)).out } := by
  refine takeCommand_fails hacc rfl rfl rfl rfl (fun hf => absurd hf Bool.false_ne_true) hd (fun r => ?_)
  show settle tag 0x21 (hankClose { s with cp := { s.cp with remembered := r } } hank) = _
  rw [hc r, settle_refused hst]

theorem query_answers (hacc : accepts s tag = true) (hh : getHank s hank = some h) :
    Done s s (takeCommand s (cmdHankQuery tag hank)) tag 0x22 (hankRecord s h) := by
  refine takeCommand_done hacc rfl rfl rfl rfl (fun hf => absurd hf Bool.false_ne_true) (List.forall_mem_nil _) rfl
    (fun r => ?_)
  show (match getHank s hank with
    | some h => answerOk { s with cp := { s.cp with remembered := r } } tag 0x22 (hankRecord s h)
    | none => fail8 { s with cp := { s.cp with remembered := r } } tag 0x22 stBadParam 0) = _
  rw [hh]

theorem query_unknown (hacc : accepts s tag = true) (hh : getHank s hank = none) :
    Replies s (takeCommand s (cmdHankQuery tag hank)) tag 0x22 stBadParam (failWord 8 0 0) ∧
      takeCommand s (cmdHankQuery tag hank) = { s with cp := (takeCommand s (cmdHankQuery tag hank)).cp,
                                                       out := (takeCommand s (cmdHankQuery tag hank)).out } := by
  refine takeCommand_fails hacc rfl rfl rfl rfl (fun hf => absurd hf Bool.false_ne_true) (List.forall_mem_nil _)
    (fun r => ?_)
  show (match getHank s hank with
    | some h => answerOk { s with cp := { s.cp with remembered := r } } tag 0x22 (hankRecord s h)
    | none => fail8 { s with cp := { s.cp with remembered := r } } tag 0x22 stBadParam 0) = _
  rw [hh]
  rfl

end

/-! ### Caravans -/

section
variable {s : State} {tag n : Nat}

theorem caravanOpen_legal {c : Caravan} (hex : caravansExist s = true) (hn : n < 256) (hin : c.ingress < 128)
    (heg : c.egress < 128) (hne : c.ingress ≠ c.egress) (hlo : c.feidLo ≤ c.feidHi) (hhi : c.feidHi ≤ 0xFFFFE)
    (hr : 1 ≤ c.rate) (hslots : reservedSlots s c.egress + c.rate ≤ 48) (hup : portUp s c.ingress = true)
    (hup' : portUp s c.egress = true) (hfree : mapFind s.caravans n = none) :
    caravanOpen s n c = (stOk, 0, { s with
      caravans := mapIns s.caravans n c,
      planeA := { s.planeA with forgotten := s.planeA.forgotten.filter (· != n) },
      planeB := { s.planeB with forgotten := s.planeB.forgotten.filter (· != n) } }) := by
  have hbad : ¬ (256 ≤ n ∨ 128 ≤ c.ingress ∨ 128 ≤ c.egress ∨ c.ingress = c.egress ∨ c.feidHi < c.feidLo
      ∨ 0xFFFFE < c.feidHi ∨ c.rate = 0 ∨ 48 < c.rate ∨ !portUp s c.ingress ∨ !portUp s c.egress) := by
    simp only [hup, hup', Bool.not_true, Bool.false_eq_true, or_false]
    omega
  have hbusy : ¬ ((mapFind s.caravans n).isSome ∨ 48 < reservedSlots s c.egress + c.rate) := by
    rw [hfree]
    simpa using hslots
  simp only [caravanOpen, hex, Bool.not_true, Bool.false_eq_true, if_false, if_neg hbad, if_neg hbusy]

/-- A packet leaves caravan n, the only one that closes (R109). -/
theorem leaveCaravan_number (n : Nat) :
    leaveCaravan (fun c => c == n) = fun k => if k.caravan = some n then { k with caravan := none } else k := by
  funext k
  have hany : k.caravan.any (fun c => c == n) = true ↔ k.caravan = some n := by
    cases k.caravan <;> simp
  simp only [leaveCaravan, hany]

/-- Only the caravan of number n closes, where it is open. -/
theorem closeThose_number (h : (mapFind s.caravans n).isSome = true) :
    closeThose s (fun k _ => k == n)
      = { everyPkt s (fun k => if k.caravan = some n then { k with caravan := none } else k) with
          caravans := s.caravans.filter (fun e => e.1 != n),
          ports := mapAll (everyPkt s (fun k => if k.caravan = some n then { k with caravan := none } else k)).ports
            Port.init (fun _ q => { q with caravanUsed := q.caravanUsed.filter (fun e => e.1 != n) }) } := by
  have hgone : ∀ c, (mapFind s.caravans c).any (fun _ => c == n) = (c == n) := by
    intro c
    by_cases hc : c = n
    · subst hc
      obtain ⟨v, hv⟩ := Option.isSome_iff_exists.1 h
      simp [hv]
    · cases mapFind s.caravans c <;> simp [hc]
  simp only [closeThose, hgone, leaveCaravan_number]
  rfl

theorem planeDies_lt : ∀ d ∈ [8, 9], d < 32 := by decide

theorem caravan_opens (hacc : accepts s tag = true) {ingress egress lo hi rate : Nat} {u : State}
    (hopen : ∀ r, caravanOpen { s with cp := { s.cp with remembered := r } } n
      { ingress := ingress, egress := egress, rate := rate, feidLo := lo, feidHi := hi }
        = (stOk, 0, { u with cp := { s.cp with remembered := r } })) (hout : u.out = s.out) :
    Done s u (takeCommand s (cmdCaravanOpen tag n ingress egress lo hi rate)) tag 0x28 [] := by
  refine takeCommand_done hacc rfl rfl rfl rfl (fun hf => absurd hf Bool.false_ne_true) planeDies_lt hout (fun r => ?_)
  show settle tag 0x28 (caravanOpen { s with cp := { s.cp with remembered := r } } n _) = _
  rw [hopen]
  rfl

theorem caravan_closes (hacc : accepts s tag = true) (h : (mapFind s.caravans n).isSome = true) :
    Done s (closeThose s (fun k _ => k == n)) (takeCommand s (cmdCaravanClose tag n)) tag 0x29 [] := by
  refine takeCommand_done hacc rfl rfl rfl rfl (fun hf => absurd hf Bool.false_ne_true) planeDies_lt rfl (fun r => ?_)
  show settle tag 0x29 (if (mapFind s.caravans n).isSome then
    (stOk, 0, closeThose { s with cp := { s.cp with remembered := r } } (fun k _ => k == n)) else _) = _
  rw [if_pos h]
  rfl

theorem caravan_unknown (hacc : accepts s tag = true) (h : mapFind s.caravans n = none) :
    Replies s (takeCommand s (cmdCaravanClose tag n)) tag 0x29 stBadParam (failWord 8 0 0) ∧
      takeCommand s (cmdCaravanClose tag n) = { s with cp := (takeCommand s (cmdCaravanClose tag n)).cp,
                                                       out := (takeCommand s (cmdCaravanClose tag n)).out } := by
  refine takeCommand_fails hacc rfl rfl rfl rfl (fun hf => absurd hf Bool.false_ne_true) planeDies_lt (fun r => ?_)
  show settle tag 0x29 (if (mapFind s.caravans n).isSome then _ else
    (stBadParam, 0, { s with cp := { s.cp with remembered := r } })) = _
  rw [h]
  rfl

end

/-! ### O12 -/

/-- Settles O12: a hank's close and query and a caravan's open and close, case by case. -/
theorem hanksCloseAndCaravansOpen : Obligations.HanksCloseAndCaravansOpen := by
  refine ⟨fun s tag hank hacc => ⟨fun h hh hd => ⟨fun x hp hx => ?idle, fun hp => ?busy, ?query⟩, fun hh => ?unknown⟩,
    fun s tag n ingress egress lo hi rate hacc => ⟨?opens, ?closes, ?absent⟩⟩
  case idle => exact ⟨_, rfl, closes_idle hacc hh hd hp hx⟩
  case busy =>
    exact ⟨_, rfl, close_refused hacc (closeDies_open (tag := tag) hh ▸ hd) (by decide) fun r =>
      hankClose_busy (s := { s with cp := { s.cp with remembered := r } }) hh hp⟩
  case query => exact ⟨_, rfl, query_answers hacc hh⟩
  case unknown =>
    intro i hi
    rcases List.mem_pair.1 hi with rfl | rfl
    · obtain ⟨hr, hf⟩ := close_refused hacc (closeDies_unknown (tag := tag) hh ▸ List.forall_mem_nil _) (by decide) fun r =>
        hankClose_unknown (s := { s with cp := { s.cp with remembered := r } }) hh
      exact ⟨_, rfl, ⟨_, hr⟩, hf⟩
    · obtain ⟨hr, hf⟩ := query_unknown hacc hh
      exact ⟨_, rfl, ⟨_, hr⟩, hf⟩
  case opens =>
    intro hex hn hin heg hne hlo hhi hr hslots hup hup' hfree
    exact ⟨_, rfl, caravan_opens hacc (fun r =>
      caravanOpen_legal (s := { s with cp := { s.cp with remembered := r } })
        hex hn hin heg hne hlo hhi hr hslots hup hup' hfree) rfl⟩
  case closes =>
    intro hopen u
    refine ⟨_, rfl, ?_⟩
    have h := caravan_closes hacc hopen
    rw [closeThose_number hopen] at h
    exact h
  case absent =>
    intro hfree
    exact ⟨_, rfl, caravan_unknown hacc hfree⟩

end Sys2Proof.Machine
end

section
/-! SUPPORT. `op.start` of each stepped operation, and O17 (R86, R87, R236, R238, R365, R371, R372, R401, R425, R429, R466,
R499). -/

namespace Sys2Proof.Machine

/-! ### An operation whose targets are free takes a slot (R425) -/

/-- The state with a new operation in slot k, whose use count has advanced. -/
def slotTaken (s : State) (k code total : Nat) (ps : List Nat) : State :=
  putOp { s with opUses := mapPut s.opUses 0 k (if mapGet s.opUses 0 k + 1 = 2 ^ 26 then 1 else mapGet s.opUses 0 k + 1) } k
    (newOp code total ps)

theorem startOp_takes {s : State} {tag code total k : Nat} {ps : List Nat} {targets : List OpTarget} {start : State → State}
    (hb : targetsBusy s targets = false) (hk : freeSlot s = some k) :
    startOp s tag code total ps targets none start
      = start (answerOk (slotTaken s k code total ps) tag 0x48 [word (opHandle (slotTaken s k code total ps) k)]) := by
  simp only [startOp, hb, Bool.false_eq_true, if_false, hk]
  rfl

/-- What a start does besides makes v of s, and looks at neither the slots, the control port nor the log. -/
def StartsAside (start : State → State) (s v : State) : Prop :=
  ∀ cp out uses ops, start { s with cp := cp, out := out, opUses := uses, ops := ops }
    = { v with cp := cp, out := out, opUses := uses, ops := ops }

/-- A reply concerns the control port and the log. -/
theorem Replies.of_eq {s t u : State} {tag opcode status : Nat} {payload : List Byte} (h : Replies s t tag opcode status payload)
    (hcp : u.cp = t.cp) (hout : u.out = t.out) : Replies s u tag opcode status payload := by
  obtain ⟨houtcome, hframe, hport, hlog⟩ := h
  refine ⟨?_, hcp ▸ hframe, hcp ▸ hport, hout ▸ hlog⟩
  rw [← houtcome]
  exact congrArg (fun c : ControlPort => c.remembered.reverse.find? (fun r => r.tag == tag)) hcp

/-- A command that comes to start an operation, where s has at most drawn a free value. -/
theorem takeCommand_starts {s v : State} {c : Cmd} {tag code total n : Nat} {ps : List Nat} {targets : List OpTarget}
    {start : State → State} (hacc : accepts s tag = true) (hslot : (freeSlot s).isSome = true) (ht : c.tag = tag)
    (ho : c.opcode = 0x48) (hl : c.lengthOk = true) (hp : c.permitted = true) (ha : c.active = true → s.module.state = 4)
    (hd : c.dies = []) (hb : targetsBusy s targets = false) (hstart : StartsAside start { s with freeCtr := n } v)
    (hrun : ∀ r, c.run { s with cp := { s.cp with remembered := r } }
      = startOp { s with freeCtr := n, cp := { s.cp with remembered := r } } tag code total ps targets none start) :
    OpStarted s v (takeCommand s c) tag code total ps := by
  subst ht
  obtain ⟨k, hk⟩ := Option.isSome_iff_exists.1 hslot
  refine ⟨k, hk, _, rfl, ?_⟩
  obtain ⟨r, hr⟩ := noted_form s c.tag 0x48
  rw [takeCommand_runs hacc hl hp ha (hd ▸ List.forall_mem_nil _), ho, hr, hrun r,
    startOp_takes (s := { s with freeCtr := n, cp := { s.cp with remembered := r } }) hb hk]
  generalize hw : word (opHandle (slotTaken { s with freeCtr := n, cp := { s.cp with remembered := r } } k code total ps) k) = w
  have hreply := answer_replies (u := slotTaken { s with freeCtr := n, cp := { s.cp with remembered := r } } k code total ps)
    (accepts_iff hacc).2.2.2.1 (by rw [hr]; rfl) rfl stOk (wordsBytes [w])
  have hstarted := answer_eq (slotTaken { s with freeCtr := n, cp := { s.cp with remembered := r } } k code total ps) c.tag 0x48
    stOk (wordsBytes [w])
  unfold answerOk
  generalize answer _ c.tag 0x48 stOk (wordsBytes [w]) = a at hreply hstarted ⊢
  have hv : start a = { v with cp := a.cp, out := a.out, opUses := a.opUses, ops := a.ops } := by
    rw [hstarted]
    exact hstart ..
  subst hw
  refine ⟨hreply.of_eq (by rw [hv]) (by rw [hv]), ?_⟩
  rw [hv, hstarted]
  rfl

/-- An `op.start` command whose parameters its start has found legal. -/
theorem opCommand_starts {s v : State} {tag code total n : Nat} {ps : List Nat} {targets : List OpTarget}
    {run start : State → State} (hacc : accepts s tag = true) (hslot : (freeSlot s).isSome = true)
    (hb : targetsBusy s targets = false) (hstart : StartsAside start { s with freeCtr := n } v)
    (hrun : ∀ r, run { s with cp := { s.cp with remembered := r } }
      = startOp { s with freeCtr := n, cp := { s.cp with remembered := r } } tag code total ps targets none start) :
    OpStarted s v (takeCommand s (opCommand tag run)) tag code total ps :=
  takeCommand_starts hacc hslot rfl rfl rfl rfl (fun hf => absurd hf Bool.false_ne_true) rfl hb hstart hrun

/-- Most starts do nothing besides. -/
theorem StartsAside.nothing (s : State) : StartsAside id s s := fun _ _ _ _ => rfl

/-! ### TABLE_LOAD (R429) -/

section
variable {s : State} {tag buffer len arg : Nat}

theorem startLoad_route (hbuf : buffer ≤ 15) (hl : len = 4194816) (ha : arg ≤ 15) (hck : imageCheck s buffer arg = 0) :
    startLoad s tag 1 buffer len arg = startOp s tag 1 ((len + (if arg = 0xF then 0 else 2097216) + 4095) / 4096)
      [1, buffer, len, arg] (opTargets s 1 [1, buffer, len, arg]) none (beginRoute arg) := by
  have hlegal : loadLegal s 1 buffer len arg = true := by
    subst hl
    simp [loadLegal, hbuf, ha, routeBytes]
  simp only [startLoad, hlegal, hck, Bool.not_true, Bool.false_eq_true, if_false, ne_eq, not_true]
  rfl

/-- Where a table is placed does not depend on what is remembered. -/
theorem placeTable_cp {n u : Nat} {v : State} (h : placeTable s n = some (u, v)) (c : ControlPort) :
    placeTable { s with cp := c } n = some (u, { s with freeCtr := s.freeCtr + 1, cp := c }) := by
  unfold placeTable at h ⊢
  dsimp only at h
  split at h
  · cases h
  · next hroom =>
    cases h
    exact if_neg hroom

theorem startLoad_ranks {u : Nat} {v : State} (hbuf : buffer ≤ 15) (ha : arg < 4096) (h4 : len % 4 = 0) (hl : len ≤ 1048576)
    (hp : placeTable s ((len / 4 + 1023) / 1024) = some (u, v)) :
    startLoad s tag 2 buffer len arg = startOp v tag 1 ((len + 4095) / 4096) [2, buffer, len, arg, u]
      (opTargets v 1 [2, buffer, len, arg, u]) none id := by
  have hlegal : loadLegal s 2 buffer len arg = true := by
    simp [loadLegal, hbuf, ha, h4, hl]
    omega
  have hp' : placeTable s (rankUnits (len / 4)) = some (u, v) := hp
  simp only [startLoad, hlegal, hp', Bool.not_true, Bool.false_eq_true, if_false, List.cons_append, List.nil_append]

theorem startLoad_counters (hbuf : buffer ≤ 15) (hl : len ≤ 2 ^ 27) (h0 : 0 < len) (h64 : len % 64 = 0)
    (ha : arg + len / 64 ≤ 65536) :
    startLoad s tag 3 buffer len arg = startOp s tag 1 ((len + 4095) / 4096) [3, buffer, len, arg]
      (opTargets s 1 [3, buffer, len, arg]) none id := by
  have hlegal : loadLegal s 3 buffer len arg = true := by
    simp only [loadLegal, Bool.and_eq_true, decide_eq_true_eq, beq_iff_eq]
    omega
  have htotal : len / 4096 + b2n (len % 4096 != 0) = (len + 4095) / 4096 := by
    unfold b2n
    split
    · next h => simp at h; omega
    · next h => simp at h; omega
  simp only [startLoad, hlegal, htotal, Nat.ne_of_gt h0, Bool.not_true, Bool.false_eq_true, if_false]

theorem startLoad_erg (hbuf : buffer ≤ 15) (hl : len ≤ 2 ^ 27) (h0 : 0 < len) (hr : ergRange s arg len = true) :
    startLoad s tag 4 buffer len arg = startOp s tag 1 (pieces (hndOffset (word arg)) len).length [4, buffer, len, arg]
      (opTargets s 1 [4, buffer, len, arg]) none id := by
  have hlegal : loadLegal s 4 buffer len arg = true := by
    simp only [loadLegal, hr, hbuf, hl, decide_true, Bool.and_self]
  simp only [startLoad, hlegal, Nat.ne_of_gt h0, Bool.not_true, Bool.false_eq_true, if_false]

end

/-! ### ROUTE_SWAP and FW_STAGE (R87, R466) -/

section
variable {s : State} {tag : Nat}

theorem startSwap_legal (hs : shadowLoaded s = true) (hb : targetsBusy s (opTargets s 2 []) = false) :
    startSwap s tag = startOp s tag 2 1 [] (opTargets s 2 []) none id := by
  simp only [startSwap, hs, hb, Bool.not_true, Bool.false_eq_true, if_false]

theorem startStage_legal {die buffer len : Nat} (hbuf : buffer ≤ 15) (hd : die ≤ 31) (hlo : 385 ≤ len)
    (hhi : len ≤ 384 + 2 ^ 26) :
    startStage s tag die buffer len = startOp s tag 11 ((len + 4095) / 4096) [die, buffer, len]
      (opTargets s 11 [die, buffer, len]) none id := by
  have hlegal : stageLegal die buffer len = true := by
    simp only [stageLegal, hbuf, hd, hlo, hhi, decide_true, Bool.and_self]
  simp only [startStage, hlegal, Bool.not_true, Bool.false_eq_true, if_false]

/-! ### SCRUB, RETIRE and TIER_MIGRATE (R365, R371, R372) -/

/-- A SCRUB of one channel that has pages to read has it LIVE. -/
theorem scrubPages_live {ch first count mask : Nat} (hch : ch ≠ 255) (h : 0 < (scrubPages ch first count mask).length) :
    mask.testBit ch = true := by
  by_contra hdead
  rw [Bool.not_eq_true] at hdead
  simp [scrubPages, scrubChannels, hch, hdead] at h

theorem startScrub_legal {die ch first count : Nat} (hl : scrubLegal die ch first count = true)
    (h0 : 0 < (scrubPages ch first count (liveChannels s die)).length) :
    startScrub s tag die ch first count = startOp s tag 3 (scrubPages ch first count (liveChannels s die)).length
      [die, ch, first, count, liveChannels s die] (opTargets s 3 [die, ch, first, count, liveChannels s die]) none id := by
  have herg : ergDie die = true := (Bool.and_eq_true_iff.1 (Bool.and_eq_true_iff.1 hl).1).1
  have hlive : ¬ (count ≠ 0 ∧ ch ≠ 255 ∧ !(liveChannels s die).testBit ch) := by
    rintro ⟨-, hch, hdead⟩
    rw [scrubPages_live hch h0] at hdead
    cases hdead
  simp only [startScrub, herg, hl, if_true, Bool.not_true, Bool.false_eq_true, if_false, if_neg hlive, Nat.ne_of_gt h0]

theorem startRetire_legal {die kind number page : Nat} (hl : retireLegal die kind number page = true)
    (hs : (pagesToMove s die kind number page).length ≤ sparesOutside s die kind number page) :
    startRetire s tag die kind number page = startOp s tag 4 (pagesToMove s die kind number page).length
      [die, kind, number, page] (opTargets s 4 [die, kind, number, page]) none id := by
  simp only [startRetire, hl, Bool.not_true, Bool.false_eq_true, if_false, if_neg (Nat.not_lt.2 hs)]

theorem startMigrate_legal {src dst len mode : Nat} (h0 : 0 < len) (hl : migrateLegal s src dst len mode = true)
    (hdst : touchesReplica s (hndRegion (word dst)) (hndOffset (word dst)) len = false)
    (hsrc : mode = 1 → touchesReplica s (hndRegion (word src)) (hndOffset (word src)) len = false) :
    startMigrate s tag src dst len mode = startOp s tag 5 (len / 4096) [src, dst, len, mode]
      (opTargets s 5 [src, dst, len, mode]) none id := by
  have hfree : (mode == 1 && touchesReplica s (hndRegion (word src)) (hndOffset (word src)) len) = false := by
    rw [Bool.and_eq_false_imp]
    exact fun hm => hsrc (beq_iff_eq.1 hm)
  simp only [startMigrate, hl, hdst, hfree, Bool.not_true, Bool.or_self, Bool.false_eq_true, if_false, Nat.ne_of_gt h0]

/-! ### CONTEXT_SAVE and CONTEXT_RESTORE (R236, R238) -/

theorem startSave_legal {first count handle step : Nat} (hl : contextLegal s first count handle = true)
    (hstill : ∀ key ∈ namedSpindles s first count, contextStill s key = true) :
    startSave s tag first count handle step = startOp s tag 6 count [first, count, handle, step % 2 ^ 48]
      (opTargets s 6 [first, count, handle, step % 2 ^ 48]) none id := by
  have hmoving : (namedSpindles s first count).any (fun k => !contextStill s k) = false :=
    List.any_eq_false.2 (fun k hk => by simp [hstill k hk])
  simp only [startSave, hl, hmoving, Bool.not_true, Bool.false_eq_true, if_false]

theorem startRestore_legal {first count handle : Nat} (hl : contextLegal s first count handle = true)
    (hidle : ∀ key ∈ namedSpindles s first count, spindleActive s key = false) :
    startRestore s tag first count handle = startOp s tag 7 count [first, count, handle]
      (opTargets s 7 [first, count, handle]) none id := by
  have hactive : (namedSpindles s first count).any (spindleActive s) = false :=
    List.any_eq_false.2 (fun k hk => by simp [hidle k hk])
  simp only [startRestore, hl, hactive, Bool.not_true, Bool.false_eq_true, if_false]

/-! ### SPARE_SWAP, PORT_DRAIN and LANE_RECAL (R401, R499) -/

theorem startSpare_legal {die i : Nat} (h : swapCheck s die i = (stOk, 0)) :
    startSpare s tag die i = startOp s tag 8 1 [die, i] (opTargets s 8 [die, i]) none id := by
  simp only [startSpare, h, ne_eq, not_true, if_false]

/-- A drained port returns no further credit. -/
def beginDrain (p : Nat) (s : State) : State := setPort s p { getPort s p with draining := true }

theorem startDrain_legal {die port us : Nat} (hd : die < 8) (hp : port < 16) (hlo : 1 ≤ us) (hhi : us ≤ 1000000)
    (hup : portUp s (16 * die + port) = true) :
    startDrain s tag die port us = startOp s tag 9 1 [die, port, us] (opTargets s 9 [die, port, us]) none
      (beginDrain (16 * die + port)) := by
  have hlegal : ¬ (7 < die ∨ 15 < port ∨ us = 0 ∨ 1000000 < us) := by omega
  simp only [startDrain, if_neg hlegal, hup, Bool.not_true, Bool.false_eq_true, if_false]
  rfl

theorem startRecal_legal {die lane : Nat} (h : recalCheck s die lane = stOk) :
    startRecal s tag die lane = startOp s tag 10 1 [die, lane, 0] (opTargets s 10 [die, lane]) none id := by
  simp only [startRecal, h, ne_eq, not_true, if_false]

end

/-! ### O17 -/

/-- Settles O17: each start finds its parameters legal, whatever is remembered, and `startOp` takes the slot. -/
theorem operationsStart : Obligations.OperationsStart := by
  refine ⟨fun s tag buffer len arg hacc hslot hbuf hlen => ⟨?route, ?ranks, ?counters, ?erg, ?swap, ?stage⟩,
    fun s tag hacc hslot => ⟨?scrub, ?retire, ?migrate⟩, fun s tag hacc hslot => ⟨?save, ?restore, ?spare, ?drain, ?recal⟩⟩
  case route =>
    intro ha hl hck hb
    exact ⟨_, rfl, opCommand_starts hacc hslot hb (n := s.freeCtr) (fun _ _ _ _ => rfl) fun r =>
      startLoad_route (s := { s with cp := { s.cp with remembered := r } }) hbuf hl ha hck⟩
  case ranks =>
    intro ha h4 hl u v hp hb
    exact ⟨_, rfl, opCommand_starts hacc hslot hb (StartsAside.nothing _) fun r =>
      startLoad_ranks (s := { s with cp := { s.cp with remembered := r } }) hbuf ha h4 hl (placeTable_cp hp _)⟩
  case counters =>
    intro h0 h64 ha hb
    exact ⟨_, rfl, opCommand_starts hacc hslot hb (StartsAside.nothing _) fun r =>
      startLoad_counters (s := { s with cp := { s.cp with remembered := r } }) hbuf hlen h0 h64 ha⟩
  case erg =>
    intro h0 hr hb
    exact ⟨_, rfl, opCommand_starts hacc hslot hb (StartsAside.nothing _) fun r =>
      startLoad_erg (s := { s with cp := { s.cp with remembered := r } }) hbuf hlen h0 hr⟩
  case swap =>
    intro hs hb
    exact ⟨_, rfl, opCommand_starts hacc hslot hb (StartsAside.nothing _) fun r =>
      startSwap_legal (s := { s with cp := { s.cp with remembered := r } }) hs hb⟩
  case stage =>
    intro die hd hlo hhi hb
    exact ⟨_, rfl, opCommand_starts hacc hslot hb (StartsAside.nothing _) fun r =>
      startStage_legal (s := { s with cp := { s.cp with remembered := r } }) hbuf hd hlo hhi⟩
  case scrub =>
    intro die ch first count hl _ h0 hb
    exact ⟨_, rfl, opCommand_starts hacc hslot hb (StartsAside.nothing _) fun r =>
      startScrub_legal (s := { s with cp := { s.cp with remembered := r } }) hl h0⟩
  case retire =>
    intro die kind number page hl hs hb
    exact ⟨_, rfl, opCommand_starts hacc hslot hb (StartsAside.nothing _) fun r =>
      startRetire_legal (s := { s with cp := { s.cp with remembered := r } }) hl hs⟩
  case migrate =>
    intro src dst len mode h0 hl hdst hsrc hb
    exact ⟨_, rfl, opCommand_starts hacc hslot hb (StartsAside.nothing _) fun r =>
      startMigrate_legal (s := { s with cp := { s.cp with remembered := r } }) h0 hl hdst hsrc⟩
  case save =>
    intro first count handle step hl hb hstill
    exact ⟨_, rfl, opCommand_starts hacc hslot hb (StartsAside.nothing _) fun r =>
      startSave_legal (s := { s with cp := { s.cp with remembered := r } }) hl hstill⟩
  case restore =>
    intro first count handle hst hl hb hidle
    exact ⟨_, rfl, takeCommand_starts hacc hslot rfl rfl rfl rfl (fun _ => hst) rfl hb (StartsAside.nothing _) fun r =>
      startRestore_legal (s := { s with cp := { s.cp with remembered := r } }) hl hidle⟩
  case spare =>
    intro die i h hb
    exact ⟨_, rfl, opCommand_starts hacc hslot hb (StartsAside.nothing _) fun r =>
      startSpare_legal (s := { s with cp := { s.cp with remembered := r } }) h⟩
  case drain =>
    intro die port us hd hp hlo hhi hup hb
    exact ⟨_, rfl, opCommand_starts hacc hslot hb (n := s.freeCtr) (fun _ _ _ _ => rfl) fun r =>
      startDrain_legal (s := { s with cp := { s.cp with remembered := r } }) hd hp hlo hhi hup⟩
  case recal =>
    intro die lane h hb
    exact ⟨_, rfl, opCommand_starts hacc hslot hb (StartsAside.nothing _) fun r =>
      startRecal_legal (s := { s with cp := { s.cp with remembered := r } }) h⟩

end Sys2Proof.Machine
end

section
/-! SUPPORT. A packet's way into a core plane and the credits a plane returns, and O40 (R78, R93, R99, R112-R116, R133,
R526). -/

namespace Sys2Proof.Machine

/-! ### The packet at the head of its input (R53, R55, R102) -/

@[simp] theorem withEntry_vc (s : State) (k : Pkt) (e : BitVec 32) : (withEntry s k e).vc = k.vc := by
  unfold withEntry
  split <;> rfl

@[simp] theorem withEntry_uid (s : State) (k : Pkt) (e : BitVec 32) : (withEntry s k e).uid = k.uid := by
  unfold withEntry
  split <;> rfl

/-- A packet enters as it stood in line, or with an entry looked up here. -/
theorem entered_cases {s : State} {k k' : Pkt} (h : entered s k = some k') : k' = k ∨ ∃ e, k' = withEntry s k e := by
  unfold entered at h
  cases hin : k.inPort with
  | some p =>
    simp only [hin, Option.some.injEq] at h
    exact .inl h.symm
  | none =>
    simp only [hin] at h
    split at h
    · split at h
      · exact .inr ⟨_, (Option.some.inj h).symm⟩
      · cases h
    · split at h
      · cases h
      · exact .inr ⟨_, (Option.some.inj h).symm⟩

theorem entered_keeps {s : State} {k k' : Pkt} (h : entered s k = some k') :
    k'.link = k.link ∧ k'.vc = k.vc ∧ k'.uid = k.uid := by
  rcases entered_cases h with rfl | ⟨e, rfl⟩
  · exact ⟨rfl, rfl, rfl⟩
  · exact ⟨withEntry_link .., withEntry_vc .., withEntry_uid ..⟩

section
variable {s : State} {link vc : Nat} {k k' : Pkt}

theorem execPlaneRoute_next (hlink : link < 28) (hvc : vc < 14) :
    exec (.planeRoute link vc) s = .next (planeRoute s link vc) := if_pos ⟨hlink, hvc⟩

theorem planeRoute_nobody (h : (getReady s link).find? (fun k => k.vc == vc) = none) : planeRoute s link vc = s := by
  simp only [planeRoute, h, ite_self]

theorem planeRoute_off (hoff : dieOff s (inputDie link) = true) (hd : inputDie link < 26) : planeRoute s link vc = s :=
  if_pos ⟨hoff, hd⟩

/-- A die that is on sends, and for an Erg die the planes answer (R487). -/
theorem sends_of (hon : dieOff s (inputDie link) = false ∨ 26 ≤ inputDie link) :
    ¬ (dieOff s (inputDie link) = true ∧ inputDie link < 26) := by
  rintro ⟨hoff, hd⟩
  rcases hon with h | h
  · simp [h] at hoff
  · omega

section
variable (hon : dieOff s (inputDie link) = false ∨ 26 ≤ inputDie link)
  (hk : (getReady s link).find? (fun k => k.vc == vc) = some k)
include hon hk

theorem planeRoute_noPlane (ha : anyPlane s = false) : planeRoute s link vc = noPlane s k := by
  simp only [planeRoute, if_neg (sends_of hon), hk, ha, Bool.not_false, if_true]

theorem planeRoute_noEntry (ha : anyPlane s = true) (he : entered s k = none) :
    planeRoute s link vc = lostHeader (takeReady s k) k.hdr := by
  simp only [planeRoute, if_neg (sends_of hon), hk, ha, he, Bool.not_true, Bool.false_eq_true, if_false]

theorem planeRoute_crosses (ha : anyPlane s = true) (he : entered s k = some k') {pl : Nat} (hp : planeFor s k' = some pl) :
    planeRoute s link vc = cross s pl k' := by
  simp only [planeRoute, if_neg (sends_of hon), hk, ha, he, hp, Bool.not_true, Bool.false_eq_true, if_false]

end

theorem noPlane_discards {q : Nat} (hin : k.inPort = some q) : noPlane s k = discardPkt (takeReady s k) q 11 k := by
  simp only [noPlane, hin]

theorem noPlane_loses (hin : k.inPort = none) : noPlane s k = lostHeader (takeReady s k) k.hdr := by
  simp only [noPlane, hin]

end

/-! ### Crossing to a plane (R112-R115) -/

/-- The packet has left its input: its sample is settled and its receive buffer is free. -/
def leftInput (s : State) (k : Pkt) : State :=
  match k.inPort with
  | some q => releaseRx (settleSample (takeReady s k) k none) q k.uid
  | none => settleSample (takeReady s k) k none

/-- The packet's cells at a plane are no longer credit but held. -/
def chargedTo (s : State) (pl : Nat) (k : Pkt) : State :=
  noteFree (modPlane (leftInput s k) pl (fun p =>
    { p with credits := countSub p.credits (16 * k.link + k.vc) k.flits,
             held := countAdd p.held (16 * k.link + k.vc) k.flits })) pl

section
variable {s : State} {pl : Nat} {k : Pkt}

theorem cross_waits (h : mapGet (getPlane s pl).credits 0 (16 * k.link + k.vc) < k.flits ∨ mustWait s pl k = true) :
    cross s pl k = s := if_pos h

/-- A packet that has its cells and overtakes nothing is charged to the plane and routed there. -/
theorem cross_goes (hc : k.flits ≤ mapGet (getPlane s pl).credits 0 (16 * k.link + k.vc)) (hw : mustWait s pl k = false) :
    cross s pl k = if isGroup (hDst k.hdr) then routeMany (chargedTo s pl k) pl { k with ordPlane := pl, sample := false }
      else routeOne (chargedTo s pl k) pl { k with ordPlane := pl, sample := false } := by
  have hgo : ¬ (mapGet (getPlane s pl).credits 0 (16 * k.link + k.vc) < k.flits ∨ mustWait s pl k) := by
    rw [hw]
    simpa using hc
  unfold cross
  simp only [if_neg hgo]
  rfl

/-! ### The route of a unicast packet in a plane (R93) -/

theorem routeOne_local (h : entryAction k.entry = 3) : routeOne s pl k = enqueueOut s pl (consumerOutput s k.hdr) k :=
  if_pos h

theorem routeOne_out (h : entryAction k.entry ≠ 3) {p : Nat} {y : Pkt} {u : State}
    (hc : choosePort s pl { k with caravan := caravanOf s pl k } = (.out p y, u)) : routeOne s pl k = enqueueOut u pl p y := by
  simp only [routeOne, if_neg h, hc]

theorem routeOne_drop (h : entryAction k.entry ≠ 3) {n : Nat} {u : State}
    (hc : choosePort s pl { k with caravan := caravanOf s pl k } = (.drop n, u)) :
    routeOne s pl k = routeDrop (dropHeld u pl k) pl n k.hdr := by
  simp only [routeOne, if_neg h, hc]

theorem choosePort_down (h : entryAction k.entry = 1) (hup : portUp s (entryDown k.entry) = true) :
    choosePort s pl k = (.out (entryDown k.entry) k, s) := by
  simp only [choosePort, h, hup, if_true]

theorem choosePort_downLost (h : entryAction k.entry = 1) (hdown : portUp s (entryDown k.entry) = false)
    (hodd : k.vc % 2 = 1) : choosePort s pl k = (.drop 0, s) := by
  have heven : ¬ k.vc % 2 = 0 := by omega
  simp only [choosePort, h, hdown, heven, if_true, false_and, if_false, Bool.false_eq_true]

theorem choosePort_upLost (h : entryAction k.entry = 2) (hd : k.descends = true) (ht : k.vc % 2 = 1 ∨ k.detour = true) :
    choosePort s pl k = (.drop 1, s) := by
  have hdown : ¬ entryAction k.entry = 1 := by omega
  rw [choosePort, if_neg hdown, if_pos ⟨hd, ht⟩]

end

/-! ### Credits a plane returns (R116, R117) -/

/-- At most the credits asked for are returned, and none is taken back. -/
theorem giveCredits_bounds (adaptive : Bool) (alpha held n out free : Nat) :
    out ≤ giveCredits adaptive alpha held n out free ∧ giveCredits adaptive alpha held n out free ≤ out + n := by
  induction n generalizing out free with
  | zero => exact ⟨Nat.le_refl _, Nat.le_refl _⟩
  | succ n ih =>
    unfold giveCredits
    split
    · have := ih (out + 1) free
      omega
    · split
      · have := ih (out + 1) (free - 1)
        omega
      · omega

/-- A wadi VC gets the rest of its floor of 65 cells and no more (R117). -/
theorem giveCredits_wadi {alpha held n out free : Nat} (h : held + out ≤ 65) (hn : 65 ≤ held + out + n) :
    giveCredits false alpha held n out free = 65 - held := by
  induction n generalizing out with
  | zero =>
    unfold giveCredits
    omega
  | succ n ih =>
    unfold giveCredits
    split
    · exact ih (by omega) (by omega)
    · rw [if_neg (fun h => Bool.false_ne_true h.1)]
      omega

theorem execPlaneCredit_live {s : State} {pl link vc : Nat} (hpl : pl < 2) (hlink : link < 28) (hvc : vc < 14)
    (hlive : planeLive s pl = true) : exec (.planeCredit pl link vc) s = .next (planeCredit s pl link vc) := by
  show execPlaneCredit pl link vc s = _
  rw [execPlaneCredit, if_pos ⟨hpl, hlink, hvc⟩, if_pos hlive]

theorem execPlaneCredit_dead {s : State} {pl link vc : Nat} (hpl : pl < 2) (hlink : link < 28) (hvc : vc < 14)
    (hdead : planeLive s pl = false) : exec (.planeCredit pl link vc) s = .next s := by
  show execPlaneCredit pl link vc s = _
  rw [execPlaneCredit, if_pos ⟨hpl, hlink, hvc⟩, if_neg (Bool.not_eq_true _ ▸ hdead)]

/-! ### O40 -/

/-- Settles O40: the packet at the head of its VC crosses as `cross_goes` says, where `planeRoute_crosses` takes it there,
and goes on as R93 chooses. -/
theorem packetsCrossToAPlane : Obligations.PacketsCrossToAPlane := by
  intro s link vc hlink hvc
  rw [execPlaneRoute_next hlink hvc]
  refine ⟨fun h => congrArg _ (planeRoute_nobody h), fun hoff hd => congrArg _ (planeRoute_off hoff hd),
    fun k hk hl hon => ?route, fun pl hpl hlive => ?credit, fun pl hpl hdead => execPlaneCredit_dead hpl hlink hvc hdead⟩
  case credit =>
    refine ⟨execPlaneCredit_live hpl hlink hvc hlive, (giveCredits_bounds ..).1, (giveCredits_bounds ..).2, fun hodd hroom => ?_⟩
    have hwadi : (vc % 2 == 0) = false := by simp [hodd]
    rw [hwadi]
    exact giveCredits_wadi hroom (Nat.le_add_left ..)
  case route =>
    have hv : k.vc = vc := by simpa using List.find?_some hk
    subst hl hv
    refine ⟨fun q ha hin => ?_, fun ha hin => ?_, fun ha he => ?_, fun k' pl ha he hp => ?crosses⟩
    · rw [planeRoute_noPlane hon hk ha, noPlane_discards hin]
      rfl
    · rw [planeRoute_noPlane hon hk ha, noPlane_loses hin]
      rfl
    · rw [planeRoute_noEntry hon hk ha he]
      rfl
    case crosses =>
      obtain ⟨hlink', hvc', huid⟩ := entered_keeps he
      rw [planeRoute_crosses hon hk ha he hp, ← hlink', ← hvc', ← huid]
      intro key settled left charged x c lost
      have hcharged : charged = chargedTo s pl k' := rfl
      refine ⟨fun h => congrArg _ (cross_waits h), fun hc hw => ?_⟩
      rw [cross_goes hc hw, ← hcharged]
      refine ⟨fun hone => ?one, fun hmany => congrArg _ (if_pos hmany)⟩
      case one =>
        have hunicast : ∀ a, entryAction k'.entry = a → a ≠ 3 → entryAction x.entry ≠ 3 :=
          fun a ha h3 h => h3 (ha.symm.trans h)
        rw [if_neg (Bool.not_eq_true _ ▸ hone)]
        refine ⟨fun hact => congrArg _ (routeOne_local hact), fun hact hup => ?_, fun hact hdown hodd => ?_,
          fun hact hd ht => ?_, fun p y u hact hch => ?_, fun n u hact hch => ?_⟩
        · exact congrArg _ (routeOne_out (k := x) (hunicast _ hact (by decide))
            (choosePort_down (k := c) hact hup))
        · exact congrArg _ (routeOne_drop (k := x) (hunicast _ hact (by decide))
            (choosePort_downLost (k := c) hact hdown hodd))
        · exact congrArg _ (routeOne_drop (k := x) (hunicast _ hact (by decide))
            (choosePort_upLost (k := c) hact hd ht))
        · exact congrArg _ (routeOne_out (k := x) (hunicast _ hact (by decide)) hch)
        · exact congrArg _ (routeOne_drop (k := x) (hunicast _ hact (by decide)) hch)

end Sys2Proof.Machine
end

section
/-! SUPPORT. A plane's outputs: scheduling decisions, the move onto a wadi and the stall watchdog, and O41 (R94, R117, R120,
R477, R494). -/

namespace Sys2Proof.Machine

/-! ### A plane after it was set -/

theorem getPlane_setPlane (s : State) (pl : Nat) (v : Plane) : getPlane (setPlane s pl v) pl = v := by
  unfold getPlane setPlane
  split <;> rfl

theorem setPlane_setPlane (s : State) (pl : Nat) (v w : Plane) : setPlane (setPlane s pl v) pl w = setPlane s pl w := by
  unfold setPlane
  split <;> rfl

theorem modPlane_modPlane (s : State) (pl : Nat) (f g : Plane → Plane) :
    modPlane (modPlane s pl f) pl g = modPlane s pl (fun p => g (f p)) := by
  rw [modPlane, modPlane, getPlane_setPlane, setPlane_setPlane, modPlane]

/-! ### The choice of a scheduling decision (R120) -/

section
variable {s : State} {pl out : Nat} {k : Pkt}

/-- The packet stands at the head of a VC queue of the output, and its receiver has room. -/
def HeadFits (s : State) (pl out : Nat) (k : Pkt) : Prop :=
  ∃ vc, vc < 14 ∧ queueHead (getPlane s pl) out vc = some k ∧ roomAt s pl out vc k.flits = true

theorem headFits_of_ready {vc : Nat} (hvc : vc < 14) (h : ready s pl out vc = some k) : HeadFits s pl out k := by
  obtain ⟨hhead, hroom⟩ := Option.filter_eq_some_iff.1 h
  exact ⟨vc, hvc, hhead, hroom⟩

theorem headFits_of_findSome {l : List Nat} (hl : ∀ vc ∈ l, vc < 14) (h : l.findSome? (ready s pl out) = some k) :
    HeadFits s pl out k := by
  obtain ⟨vc, hvc, hk⟩ := List.exists_of_findSome?_eq_some h
  exact headFits_of_ready (hl vc hvc) hk

theorem rotate_mem {next vc : Nat} {l : List Nat} (h : vc ∈ rotate next l) : vc ∈ l := by
  rcases List.mem_append.1 h with h | h
  · exact List.mem_of_mem_filter h
  · exact List.mem_of_mem_filter h

/-- A head chosen in the round robin of a tier. -/
theorem headFits_of_roundRobin {next tier : Nat} {l : List Nat} (hl : ∀ vc ∈ l, vc < 14) {x : Pkt × Option Nat}
    (h : ((rotate next l).findSome? (ready s pl out)).map (fun k => (k, some tier)) = some x) : HeadFits s pl out x.1 := by
  obtain ⟨k, hk, rfl⟩ := Option.map_eq_some_iff.1 h
  exact headFits_of_findSome (fun vc hvc => hl vc (rotate_mem hvc)) hk

theorem scheduleChoice_fits {x : Pkt × Option Nat} (h : scheduleChoice s pl out = some x) : HeadFits s pl out x.1 := by
  unfold scheduleChoice at h
  dsimp only at h
  split at h
  · next k hcar =>
    cases h
    obtain ⟨vc, hvc, hk⟩ := List.exists_of_findSome?_eq_some hcar
    exact headFits_of_ready (by rcases List.mem_pair.1 hvc with rfl | rfl <;> decide) (Option.filter_eq_some_iff.1 hk).1
  · split at h
    · next r hwadi =>
      cases h
      exact headFits_of_roundRobin (by decide) hwadi
    · split at h
      · next k hsync =>
        cases h
        exact headFits_of_findSome (by decide) hsync
      · exact headFits_of_roundRobin (by decide) h

/-! ### A decision (R117, R120) -/

theorem atOutput_next (h : pl < 2 ∧ out < 148) (t : State) : atOutput pl out t = .next t := if_pos h

theorem moveAtOnce_waits (h : fget s .routeConfig (8 + pl) 0 0 31 16 ≠ 0) : moveAtOnce s pl out = s := if_neg h

/-- The calendar of an output moves on by one slot. -/
def slotPassed (s : State) (pl out : Nat) : State :=
  modPlane s pl (fun p => { p with slot := mapPut p.slot 0 out ((mapGet p.slot 0 out + 1) % 64) })

/-- The round-robin pointer of the tier that was served. -/
def tierServed (s : State) (pl vc : Nat) (r : Option Nat) : State :=
  match r with
  | some t => modPlane s pl (fun p => { p with rr := mapPut p.rr 0 t (vc + 1) })
  | none => s

theorem schedule_none (h : scheduleChoice (moveAtOnce s pl out) pl out = none) :
    schedule s pl out = slotPassed (moveAtOnce s pl out) pl out := by
  simp only [schedule, h, slotPassed]

theorem schedule_some {r : Option Nat} (h : scheduleChoice (moveAtOnce s pl out) pl out = some (k, r)) :
    schedule s pl out = dispatchOut (tierServed (slotPassed (moveAtOnce s pl out) pl out) pl k.vc r) pl out k := by
  simp only [schedule, h]
  rfl

/-- The chosen packet has left its queue, its cells are free, and no episode of the stall watchdog goes on. -/
def headSent (s : State) (pl out : Nat) (k : Pkt) : State :=
  modPlane s pl (fun p =>
    let q := 16 * out + k.vc
    let x := settleReserve (freeCells { p with queues := mapPut p.queues [] q ((mapGet p.queues [] q).drop 1) } out k) out k.vc
    { x with stalled := x.stalled.filter (· != out) })

theorem dispatchOut_port (h : out < 128) :
    dispatchOut s pl out k = modPort (headSent s pl out k) out (fun q => { q with stage := q.stage ++ [(pl, k)] }) := by
  unfold dispatchOut
  rw [if_pos h, modPlane_modPlane]
  rfl

theorem dispatchOut_die (h : 128 ≤ out) :
    dispatchOut s pl out k = setInbox (headSent s pl out k) (outputDie out)
      (getInbox (headSent s pl out k) (outputDie out) ++ [k]) := by
  unfold dispatchOut
  rw [if_neg (Nat.not_lt.2 h), modPlane_modPlane]
  rfl

/-! ### The move onto a wadi (R94) -/

/-- The head of an adaptive queue has left it for its wadi, and the move is counted. -/
def wadiMoved (s : State) (pl out vc : Nat) : State :=
  routeCount (modPlane s pl (fun p => { p with
    queues := mapPut p.queues [] (16 * out + vc) ((mapGet p.queues [] (16 * out + vc)).drop 1) })) pl 3

/-- A unicast packet towards a port is routed again as it moves. -/
theorem routesAgain (hout : out < 128) (hone : isGroup (hDst k.hdr) = false) : ¬ (isGroup (hDst k.hdr) ∨ 128 ≤ out) := by
  rw [hone]
  simpa using hout

section
variable {vc : Nat}

theorem wadiMove_empty (h : queueHead (getPlane s pl) out vc = none) : wadiMove s pl out vc = s := by
  simp only [wadiMove, h]

variable (hk : queueHead (getPlane s pl) out vc = some k)
include hk

theorem wadiMove_stays (h : roomAt s pl out vc k.flits = true ∨ roomAt s pl out (vc + 1) k.flits = false) :
    wadiMove s pl out vc = s := by
  have hstay : (roomAt s pl out vc k.flits || !roomAt s pl out (vc + 1) k.flits) = true := by
    rcases h with h | h <;> simp [h]
  simp only [wadiMove, hk, hstay, if_true]

variable (h0 : roomAt s pl out vc k.flits = false) (h1 : roomAt s pl out (vc + 1) k.flits = true)
include h0 h1

theorem wadiMove_onward (h : 128 ≤ out ∨ isGroup (hDst k.hdr) = true) :
    wadiMove s pl out vc = enqueueOut (wadiMoved s pl out vc) pl out { k with vc := vc + 1 } := by
  simp only [wadiMove, hk, h0, h1, Bool.not_true, Bool.or_self, Bool.false_eq_true, if_false, if_pos h.symm]
  rfl

section
variable (hout : out < 128) (hone : isGroup (hDst k.hdr) = false)
include hout hone

theorem wadiMove_routes {q : Nat} {y : Pkt} {u : State}
    (hc : choosePort (wadiMoved s pl out vc) pl { k with vc := vc + 1 } = (.out q y, u)) :
    wadiMove s pl out vc = enqueueOut u pl q y := by
  unfold wadiMoved at hc
  simp only [wadiMove, hk, h0, h1, Bool.not_true, Bool.or_self, Bool.false_eq_true, if_false, if_neg (routesAgain hout hone), hc]

theorem wadiMove_drops {n : Nat} {u : State}
    (hc : choosePort (wadiMoved s pl out vc) pl { k with vc := vc + 1 } = (.drop n, u)) :
    wadiMove s pl out vc = routeDrop (modPlane u pl (fun p => freeCells p out { k with vc := vc + 1 })) pl n k.hdr := by
  unfold wadiMoved at hc
  simp only [wadiMove, hk, h0, h1, Bool.not_true, Bool.or_self, Bool.false_eq_true, if_false, if_neg (routesAgain hout hone), hc]

end

end

/-! ### The stall watchdog (R494) -/

theorem outputStall_raises (hwd : fget s .outputWd (8 + pl) 0 0 15 0 ≠ 0) (hw : outputWaits (getPlane s pl) out = true)
    (hnew : (getPlane s pl).stalled.contains out = false) :
    outputStall s pl out = raiseFault (setPlane s pl { getPlane s pl with stalled := insNat (getPlane s pl).stalled out })
      (srcOutput pl out) := by
  have hstall : fget s .outputWd (8 + pl) 0 0 15 0 ≠ 0 ∧ outputWaits (getPlane s pl) out
      ∧ !(getPlane s pl).stalled.contains out := ⟨hwd, hw, by rw [hnew]; rfl⟩
  simp only [outputStall, if_pos hstall]

theorem outputStall_quiet (h : fget s .outputWd (8 + pl) 0 0 15 0 = 0 ∨ outputWaits (getPlane s pl) out = false
    ∨ (getPlane s pl).stalled.contains out = true) : outputStall s pl out = s := by
  have hquiet : ¬ (fget s .outputWd (8 + pl) 0 0 15 0 ≠ 0 ∧ outputWaits (getPlane s pl) out
      ∧ !(getPlane s pl).stalled.contains out) := by
    rintro ⟨hwd, hw, hnew⟩
    rcases h with h | h | h
    · exact hwd h
    · simp [h] at hw
    · rw [h] at hnew
      exact Bool.false_ne_true hnew
  simp only [outputStall, if_neg hquiet]

/-! ### The rows -/

theorem execSchedule_acts (h : pl < 2 ∧ out < 148) (hlive : planeLive s pl = true) (hscan : scanOpen s (8 + pl) = false) :
    exec (.schedule pl out) s = .next (schedule s pl out) := by
  show atOutput pl out (if planeLive s pl && !scanOpen s (8 + pl) then schedule s pl out else s) = _
  rw [hlive, hscan]
  exact atOutput_next h _

theorem execSchedule_idle (h : pl < 2 ∧ out < 148) (hidle : planeLive s pl = false ∨ scanOpen s (8 + pl) = true) :
    exec (.schedule pl out) s = .next s := by
  show atOutput pl out (if planeLive s pl && !scanOpen s (8 + pl) then schedule s pl out else s) = _
  rw [if_neg (by rcases hidle with h | h <;> simp [h])]
  exact atOutput_next h _

theorem execWadiMove_next {vc : Nat} (h : pl < 2 ∧ out < 148) (hvc : vc < 14) (heven : vc % 2 = 0) :
    exec (.wadiMove pl out vc) s = .next (if planeLive s pl then wadiMove s pl out vc else s) :=
  if_pos ⟨h.1, h.2, hvc, heven⟩

theorem execOutputStall_next (h : pl < 2 ∧ out < 148) :
    exec (.outputStall pl out) s = .next (if planeLive s pl then outputStall s pl out else s) := atOutput_next h _

end

/-! ### O41 -/

/-- Settles O41: a decision is `schedule_none` or `schedule_some`, a move is one of the `wadiMove` lemmas, and a plane that
is not LIVE does nothing. -/
theorem outputsAreScheduled : Obligations.OutputsAreScheduled := by
  refine ⟨fun s pl out hpl hout hlive => ?decision, fun s pl out hpl hout hlive => ⟨?empty, ?head, ?stalls, ?quiet⟩,
    fun s pl out hpl hout hdead => ?dead⟩
  case decision =>
    refine ⟨fun hscan => execSchedule_idle ⟨hpl, hout⟩ (.inr hscan), moveAtOnce_waits, fun hscan hn => ?_, fun k r hc => ?_⟩
    · rw [execSchedule_acts ⟨hpl, hout⟩ hlive hscan, schedule_none hn]
      rfl
    · refine ⟨scheduleChoice_fits hc, fun hscan hport => ?_, fun hscan hdie => ?_⟩
      · rw [execSchedule_acts ⟨hpl, hout⟩ hlive hscan, schedule_some hc, dispatchOut_port hport]
        rfl
      · rw [execSchedule_acts ⟨hpl, hout⟩ hlive hscan, schedule_some hc, dispatchOut_die hdie]
        rfl
  case empty =>
    intro vc hvc heven hn
    rw [execWadiMove_next ⟨hpl, hout⟩ hvc heven, if_pos hlive, wadiMove_empty hn]
  case head =>
    intro vc k hvc heven hk
    rw [execWadiMove_next ⟨hpl, hout⟩ hvc heven, if_pos hlive]
    refine ⟨fun h => congrArg _ (wadiMove_stays hk h), fun h0 h1 => ⟨fun h => congrArg _ (wadiMove_onward hk h0 h1 h),
      fun hport hone => ⟨fun q y u hc => congrArg _ (wadiMove_routes hk h0 h1 hport hone hc),
        fun n u hc => congrArg _ (wadiMove_drops hk h0 h1 hport hone hc), fun hact hup => ?_⟩⟩⟩
    exact congrArg _ (wadiMove_routes hk h0 h1 hport hone (choosePort_down (k := { k with vc := vc + 1 }) hact hup))
  case stalls =>
    intro hwd hw hnew
    rw [execOutputStall_next ⟨hpl, hout⟩, if_pos hlive, outputStall_raises hwd hw hnew]
  case quiet =>
    intro h
    rw [execOutputStall_next ⟨hpl, hout⟩, if_pos hlive, outputStall_quiet h]
  case dead =>
    refine ⟨execSchedule_idle ⟨hpl, hout⟩ (.inl hdead), ?_, fun vc hvc heven => ?_⟩
    · rw [execOutputStall_next ⟨hpl, hout⟩, if_neg (Bool.not_eq_true _ ▸ hdead)]
    · rw [execWadiMove_next ⟨hpl, hout⟩ hvc heven, if_neg (Bool.not_eq_true _ ▸ hdead)]

end Sys2Proof.Machine
end

section
/-! SUPPORT. Training of a port over a store of registers that is not in canonical form, and O37 (R393, R394). -/

namespace Sys2Proof.Machine

/-- What an ALIGN on lane l of a port in phase 2 notes: the lane's lock, whether the lanes are swapped, and that it came. -/
def alignNoted (s : State) (p l : Nat) (w : Word) : State :=
  modPort (pset (fset s .laneStatus (p / 16) (dieLane p l) 0 1 1 1) .portStatus p 0 17 17 (b2n (wbits w 4 4 != l))) p
    (fun q => { q with aligned := q.aligned ||| BitVec.ofNat 2 (2 ^ l) })

/-- Whether phase 2 ends is decided by the lanes usable once the ALIGN is noted. -/
theorem execAlign_advances {s : State} {p l : Nat} (hp : p < 128) (hl : l < 2) (hphase : (getPort s p).phase = 2)
    (hlane : (getPort s p).equalised.getLsbD l = true) (w : Word) :
    exec (.align p l w) s = .next (advanceTraining (alignNoted s p l w) p) :=
  (if_pos ⟨hp, hl⟩).trans (congrArg Host.Outcome.next (if_pos ⟨hphase, hlane⟩))

/-- Phase 3 begins once no lane that is equalised and usable is left to align. -/
theorem advanceTraining_aligned {s : State} {p : Nat} (hphase : (getPort s p).phase = 2)
    (hall : (getPort s p).aligned.toNat &&& ((getPort s p).equalised.toNat &&& usableLanes s p)
      = (getPort s p).equalised.toNat &&& usableLanes s p) : advanceTraining s p = toPhase3 s p := by
  simp [advanceTraining, hphase, hall]

/-- Port 0 in phase 2, both lanes equalised. Its PORT_STATUS stands before its PORT_CTRL, out of the order of their
addresses: PORT_CTRL reads its reset value, which enables both lanes, and behind it is hidden one that enables none. -/
def hiddenPortCtrl : State :=
  { State.reset with
    regs := [(regAddr .portStatus 0 0 0, word (2 ^ 17)), (regAddr .portCtrl 0 0 0, 0)],
    ports := [(0, { Port.init with phase := 2, equalised := 3 })] }

/-- That port once an ALIGN on lane 0 that shows no swap is noted. -/
def hiddenPortCtrlAligned : State := alignNoted hiddenPortCtrl 0 0 6

theorem usableLanes_hiddenPortCtrl : usableLanes hiddenPortCtrl 0 = 3 := by decide

/-- PORT_STATUS is back at its reset value, so its entry is gone and the hidden PORT_CTRL is read. -/
theorem usableLanes_hiddenPortCtrlAligned : usableLanes hiddenPortCtrlAligned 0 = 0 := by decide

/-- With no lane usable none is left to align: phase 3 begins. -/
theorem execAlign_hiddenPortCtrl : exec (.align 0 0 6) hiddenPortCtrl = .next (toPhase3 hiddenPortCtrlAligned 0) :=
  (execAlign_advances (by decide) (by decide) rfl rfl 6).trans (congrArg Host.Outcome.next
    (advanceTraining_aligned rfl (by rw [← hiddenPortCtrlAligned, usableLanes_hiddenPortCtrlAligned]; rfl)))

/-- Refutes O37: of an ALIGN that is not the last the statement says that phase 2 goes on, with no assumption that the store
of registers is in canonical form. At `hiddenPortCtrl` noting the ALIGN uncovers another PORT_CTRL, whose port has no lane
to wait for, and phase 3 begins; the clause on the registers of a port that comes UP has the assumption
(`mapRising 0 s.regs`). -/
theorem not_portsTrain : ¬ Obligations.PortsTrain := by
  intro h
  obtain ⟨-, -, haligns, -⟩ := h hiddenPortCtrl 0 0 (by decide) (by decide)
  obtain ⟨hwaits, -⟩ := haligns 6 rfl rfl
  have hstays : exec (.align 0 0 6) hiddenPortCtrl = .next hiddenPortCtrlAligned :=
    hwaits (by rw [usableLanes_hiddenPortCtrl]; decide)
  have hsame : toPhase3 hiddenPortCtrlAligned 0 = hiddenPortCtrlAligned :=
    Host.Outcome.next.inj (execAlign_hiddenPortCtrl.symm.trans hstays)
  exact absurd (congrArg (fun s => (getPort s 0).phase) hsame) (by decide)

end Sys2Proof.Machine
end

section
/-! SUPPORT. `step.commit` (R201), and O13: its three answers, and poison of a step already committed. -/

namespace Sys2Proof.Machine

section
variable {s : State} {tag job param attempt : Nat}

/-- A STEP below the committed one is refused (R201). -/
theorem stepCommit_below {step c : Nat} (hc : (getJob s job).committed = some c) (hlt : step < c) :
    stepCommit s job step attempt = (stBadParam, 1, s) :=
  if_pos ((Option.any_eq_true ..).2 ⟨c, hc, decide_eq_true hlt⟩)

/-- Any other waits for the rounds up to it (R201). -/
theorem stepCommit_notBelow {step : Nat} (hc : ∀ c, (getJob s job).committed = some c → c ≤ step) :
    stepCommit s job step attempt =
      if roundOpen s job step then (stBusy, 2, s)
      else (stOk, 0, setJob s job { getJob s job with committed := some step, attempt := attempt % 256 }) := by
  refine if_neg fun hany => ?_
  obtain ⟨c, hsome, hlt⟩ := (Option.any_eq_true ..).1 hany
  exact absurd (of_decide_eq_true hlt) (Nat.not_lt.2 (hc c hsome))

/-- A `step.commit` within its ranges settles as `stepCommit` decides. -/
theorem cmdStepCommit_run (hj : job < 4096) (ha : attempt < 256) (u : State) :
    (cmdStepCommit tag job param attempt).run u = settle tag 0x38 (stepCommit u job (param % 2 ^ 48) attempt) := by
  show settle tag 0x38 (if stepParams job attempt then _ else _) = _
  rw [stepParams_of hj ha, if_pos rfl]

/-- A `step.commit` that R201 refuses changes nothing. -/
theorem stepCommit_refused (hacc : accepts s tag = true) (hj : job < 4096) (ha : attempt < 256) {st check : Nat}
    (hst : st ≠ stOk) (hc : ∀ r, stepCommit { s with cp := { s.cp with remembered := r } } job (param % 2 ^ 48) attempt
      = (st, check, { s with cp := { s.cp with remembered := r } })) :
    Replies s (takeCommand s (cmdStepCommit tag job param attempt)) tag 0x38 st (failWord 8 check 0) ∧
      takeCommand s (cmdStepCommit tag job param attempt)
        = { s with cp := (takeCommand s (cmdStepCommit tag job param attempt)).cp,
                   out := (takeCommand s (cmdStepCommit tag job param attempt)).out } :=
  takeCommand_fails hacc rfl rfl rfl rfl (fun hf => absurd hf Bool.false_ne_true) (List.forall_mem_nil _) fun r => by
    rw [cmdStepCommit_run hj ha, hc r, settle_refused hst]

/-- Poison of a committed step is stale, whatever its attempt (R201). -/
theorem poison_committed {h : Hank} {hank a aux step reason origin c : Nat} {up : Bool} (hh : getHank s hank = some h)
    (hc : (getJob s h.d.job).committed = some c) (hle : step ≤ c) :
    poison s hank a aux step reason origin up = staleHank s hank := by
  have hany : (getJob s h.d.job).committed.any (fun c => decide (step ≤ c)) = true :=
    (Option.any_eq_true ..).2 ⟨c, hc, decide_eq_true hle⟩
  simp only [poison, hh, hany, or_true, if_true]

end

/-- Settles O13: `stepCommit` decides by the committed step (`stepCommit_below`, `stepCommit_notBelow`) and by the rounds
up to STEP; neither looks at what the control port remembers. -/
theorem stepCommits : Obligations.StepCommits := by
  intro s tag job param attempt hacc hj ha
  refine ⟨fun c hc hlt => ?below, fun hc hopen => ?busy, fun hc hopen => ?commits, ?poison⟩
  case below =>
    exact ⟨_, rfl, stepCommit_refused hacc hj ha (by decide) fun r =>
      stepCommit_below (s := { s with cp := { s.cp with remembered := r } }) hc hlt⟩
  case busy =>
    exact ⟨_, rfl, stepCommit_refused hacc hj ha (by decide) fun r =>
      (stepCommit_notBelow (s := { s with cp := { s.cp with remembered := r } }) hc).trans (if_pos hopen)⟩
  case commits =>
    refine ⟨_, rfl, takeCommand_done hacc rfl rfl rfl rfl (fun hf => absurd hf Bool.false_ne_true) (List.forall_mem_nil _)
      rfl fun r => ?_⟩
    rw [cmdStepCommit_run hj ha,
      (stepCommit_notBelow (s := { s with cp := { s.cp with remembered := r } }) hc).trans
        (if_neg (Bool.eq_false_iff.1 hopen)), Nat.mod_eq_of_lt ha]
    rfl
  case poison =>
    intro c hank h aux reason origin a up hc hle hh hjob
    exact poison_committed hh (hjob ▸ hc) hle

end Sys2Proof.Machine
end

section
/-! SUPPORT. Parts of a chunk at the hank machinery of a spindle die, and O48: CONTRIB and TALLY_UP (R185-R189, R203,
R204). -/

namespace Sys2Proof.Machine

/-! ### Stores read back, in any form -/

theorem mapGet_inserted {α : Type} (m : SMap α) (d : α) (k : Nat) (v : α) : mapGet (mapIns m k v) d k = v := by
  induction m with
  | nil => simp [mapIns, mapGet]
  | cons e r ih =>
    obtain ⟨j, w⟩ := e
    rcases Nat.lt_trichotomy k j with hk | rfl | hk
    · simp [mapIns, mapGet, hk, Nat.ne_of_lt hk]
    · simp [mapIns, mapGet]
    · simp [mapIns, mapGet, ih, Nat.not_lt.2 hk.le, Nat.ne_of_gt hk]

theorem getHank_setHank_same (s : State) (hank : Nat) (h : Hank) : getHank (setHank s hank h) hank = some h :=
  mapFind_inserted ..

/-- A slot that has started is stored, for it is not as it was claimed. -/
theorem hankSlot_putSlot_started {h : Hank} {j : Nat} {v : Slot} (hv : v.started = true) :
    hankSlot (putSlot h j v) j = v := by
  have hne : v ≠ slotInit j := fun he => Bool.false_ne_true ((congrArg Slot.started he).symm.trans hv)
  simp only [hankSlot, putSlot, mapPut, if_neg hne, mapFind_inserted, Option.getD_some]

theorem work_addWork (s : State) (key : Nat) (w : Work) :
    (getSp (addWork s key w) key).work = (getSp s key).work ++ [w] := by
  have hne : { getSp s key with work := (getSp s key).work ++ [w] } ≠ Spindle.init := fun he =>
    List.append_ne_nil_of_right_ne_nil _ (List.cons_ne_nil w []) (congrArg Spindle.work he)
  show (mapGet (mapPut s.spindles Spindle.init key { getSp s key with work := (getSp s key).work ++ [w] })
    Spindle.init key).work = _
  rw [mapPut, if_neg hne, mapGet_inserted]

/-! ### A round starts -/

section
variable (h : Hank) (r : Nat)

@[simp] theorem startRound_d : (startRound h r).d = h.d := by unfold startRound; split <;> rfl
@[simp] theorem startRound_slots : (startRound h r).slots = h.slots := by unfold startRound; split <;> rfl
@[simp] theorem startRound_exch : (startRound h r).exch = h.exch := by unfold startRound; split <;> rfl

theorem startRound_started : (mapFind (startRound h r).rounds r).isSome = true := by
  unfold startRound
  split
  · next hr => rw [hr]; rfl
  · exact congrArg Option.isSome (mapFind_inserted ..)

end

/-! ### A part stored in its slot -/

/-- Hank h is stored, its slot j's spindle is given work unless there is none, and the slot is completed if it is full. -/
def storePart (s : State) (hank j c : Nat) (h : Hank) (idle : Prop) [Decidable idle] (w : Work) : State :=
  let t := setHank s hank h
  completeSlot (if idle then t else addWork t (slotKey t h.d j) w) hank j c

/-- t has h' in place of hank `hank`: its slot j and its rounds are those of h, but that the slot may be complete, and the
slot has started. But for hanks and spindles t is s. -/
structure Stored (s t : State) (hank j : Nat) (h h' : Hank) : Prop where
  found : getHank t hank = some h'
  started : (hankSlot h' j).started = true
  parts : (hankSlot h' j).parts = (hankSlot h j).parts
  awaits : (hankSlot h' j).awaits = (hankSlot h j).awaits
  rounds : h'.rounds = h.rounds
  frame : t = { s with hanks := t.hanks, spindles := t.spindles }

theorem completeSlot_stored {s : State} {hank j : Nat} {h : Hank} (hh : getHank s hank = some h)
    (hs : (hankSlot h j).started = true) (c : Nat) :
    ∃ h', Stored s (completeSlot s hank j c) hank j h h' ∧
      (getSp s (slotKey s h.d j)).work <+: (getSp (completeSlot s hank j c) (slotKey s h.d j)).work := by
  simp only [completeSlot, hh]
  split
  · have hslot := hankSlot_putSlot_started (h := h) (j := j) (v := { hankSlot h j with complete := true }) hs
    refine ⟨_, ⟨getHank_setHank_same .., ?_, ?_, ?_, rfl, rfl⟩, ?_⟩
    · rw [hslot]; exact hs
    · rw [hslot]
    · rw [hslot]
    · exact ⟨_, (work_addWork (setHank s hank _) (slotKey s h.d j) _).symm⟩
  · exact ⟨h, ⟨hh, hs, rfl, rfl, rfl, rfl⟩, List.prefix_rfl⟩

theorem storePart_stored {h : Hank} {j : Nat} (hs : (hankSlot h j).started = true) (s : State) (hank c : Nat)
    (idle : Prop) [Decidable idle] (w : Work) :
    ∃ h', Stored s (storePart s hank j c h idle w) hank j h h' ∧
      (¬ idle → (getSp s (slotKey s h.d j)).work ++ [w]
        <+: (getSp (storePart s hank j c h idle w) (slotKey s h.d j)).work) := by
  by_cases hi : idle
  · have ht : storePart s hank j c h idle w = completeSlot (setHank s hank h) hank j c :=
      congrArg (completeSlot · hank j c) (if_pos hi)
    obtain ⟨h', ⟨hg, hst, hp, ha, hr, hf⟩, -⟩ := completeSlot_stored (getHank_setHank_same s hank h) hs c
    exact ⟨h', ht ▸ ⟨hg, hst, hp, ha, hr, hf⟩, fun hn => absurd hi hn⟩
  · have ht : storePart s hank j c h idle w
        = completeSlot (addWork (setHank s hank h) (slotKey s h.d j) w) hank j c :=
      congrArg (completeSlot · hank j c) (if_neg hi)
    obtain ⟨h', ⟨hg, hst, hp, ha, hr, hf⟩, hw⟩ := completeSlot_stored
      (s := addWork (setHank s hank h) (slotKey s h.d j) w) (getHank_setHank_same s hank h) hs c
    rw [ht]
    exact ⟨h', ⟨hg, hst, hp, ha, hr, hf⟩, fun _ => work_addWork (setHank s hank h) (slotKey s h.d j) w ▸ hw⟩

/-! ### An accepted CONTRIB part (R189, R192) -/

section
variable {s : State} {hank mi : Nat} {h : Hank} {m : Member} {hd : Header} {pl : List Byte}

/-- The elements of a part that are kept, as they enter the slot. -/
def keptEls (d : HankDesc) (m : Member) (hd : Header) (pl : List Byte) : List (Nat × Acc × Bool) :=
  ((partRaw d hd pl).map (fun e => (e.1, elementIn d pl e))).filter (fun e => kept d m (1024 * hAux hd + e.1))

/-- The hank once the part of member `mi` for sequence q is noted: its slot and its round have started. -/
def withPart (h : Hank) (mi : Nat) (m : Member) (q : Nat) (hd : Header) (pl : List Byte) : Hank :=
  let j := q % h.d.slotBudget
  let r := q / nchunks h.d
  let h1 := startRound (putSlot h j { hankSlot h j with
    started := true, parts := (hankSlot h j).parts ++ [2 * mi + cPart hd] }) r
  let dg := partDigest h1.d hd pl (hAux hd)
  let h2 := if h1.d.digestIn then putRound h1 r { getRound h1 r with
    inA := (getRound h1 r).inA + dg.a, inB := (getRound h1 r).inB + dg.b } else h1
  { h2 with
    dropped := satAdd 48 h2.dropped (((partRaw h.d hd pl).map (fun e => (e.1, elementIn h.d pl e))).length
      - (keptEls h.d m hd pl).length)
    windowOverflow := satAdd 48 h2.windowOverflow ((keptEls h.d m hd pl).filter (fun e => e.2.2)).length }

theorem withPart_d (q : Nat) : (withPart h mi m q hd pl).d = h.d := by
  unfold withPart
  dsimp only
  split <;> exact startRound_d ..

theorem withPart_slot (q : Nat) : hankSlot (withPart h mi m q hd pl) (q % h.d.slotBudget) =
    { hankSlot h (q % h.d.slotBudget) with
      started := true, parts := (hankSlot h (q % h.d.slotBudget)).parts ++ [2 * mi + cPart hd] } := by
  refine Eq.trans ?_ (hankSlot_putSlot_started (h := h) (j := q % h.d.slotBudget) rfl)
  unfold withPart
  dsimp only [hankSlot]
  split <;> exact congrArg (fun l => (mapFind l _).getD _) (startRound_slots ..)

theorem withPart_round (q : Nat) : (mapFind (withPart h mi m q hd pl).rounds (q / nchunks h.d)).isSome = true := by
  unfold withPart
  dsimp only
  split
  · exact congrArg Option.isSome (mapFind_inserted ..)
  · exact startRound_started ..

theorem acceptPart_stores (q : Nat) : acceptPart s hank h mi m q hd pl =
    storePart s hank (q % h.d.slotBudget) (hAux hd) (withPart h mi m q hd pl)
      ((partRaw h.d hd pl).map (fun e => (e.1, elementIn h.d pl e)) = [])
      (.merge hank (q % h.d.slotBudget) h.d.inFormat ((keptEls h.d m hd pl).map (fun e => (e.1, e.2.1)))) := by
  have hfmt : h.d.inFormat = (withPart h mi m q hd pl).d.inFormat := by rw [withPart_d]
  rw [hfmt]
  rfl

/-- A part without elements brings no work. -/
theorem elsIn_eq_nil (d : HankDesc) (hd : Header) (pl : List Byte) :
    (partRaw d hd pl).map (fun e => (e.1, elementIn d pl e)) = [] ↔ cCount hd = 0 := by
  rw [List.map_eq_nil_iff, partRaw, List.map_eq_nil_iff, ← List.length_eq_zero_iff, upTo_length]

/-- What an accepted part leaves (R189). -/
theorem acceptPart_stored (s : State) (hank : Nat) (h : Hank) (mi : Nat) (m : Member) (q : Nat) (hd : Header)
    (pl : List Byte) :
    ∃ h', Stored s (acceptPart s hank h mi m q hd pl) hank (q % h.d.slotBudget) (withPart h mi m q hd pl) h' ∧
      (cCount hd ≠ 0 → (getSp s (slotKey s h.d (q % h.d.slotBudget))).work ++
          [.merge hank (q % h.d.slotBudget) h.d.inFormat ((keptEls h.d m hd pl).map (fun e => (e.1, e.2.1)))]
        <+: (getSp (acceptPart s hank h mi m q hd pl) (slotKey s h.d (q % h.d.slotBudget))).work) := by
  rw [acceptPart_stores]
  obtain ⟨h', hst, hw⟩ := storePart_stored (h := withPart h mi m q hd pl) (j := q % h.d.slotBudget)
    (by rw [withPart_slot]) s hank (hAux hd) ((partRaw h.d hd pl).map (fun e => (e.1, elementIn h.d pl e)) = [])
    (.merge hank (q % h.d.slotBudget) h.d.inFormat ((keptEls h.d m hd pl).map (fun e => (e.1, e.2.1))))
  rw [withPart_d] at hw
  exact ⟨h', hst, fun hn => hw (mt (elsIn_eq_nil h.d hd pl).1 hn)⟩

end

/-! ### An accepted TALLY_UP (R189, R192) -/

/-- The hank once the groups of member `mi` for sequence q are noted: its slot and its round have started. -/
def withTally (h : Hank) (mi q first : Nat) (els : List Acc) : Hank :=
  startRound (putSlot h (q % h.d.slotBudget) { hankSlot h (q % h.d.slotBudget) with
    started := true,
    groups := mapPut (hankSlot h (q % h.d.slotBudget)).groups 0 mi (first + els.length / 16) }) (q / nchunks h.d)

section
variable (s : State) (hank : Nat) (h : Hank) (mi q first : Nat) (els : List Acc)

theorem withTally_slot : hankSlot (withTally h mi q first els) (q % h.d.slotBudget) =
    { hankSlot h (q % h.d.slotBudget) with
      started := true,
      groups := mapPut (hankSlot h (q % h.d.slotBudget)).groups 0 mi (first + els.length / 16) } :=
  (congrArg (fun l => (mapFind l _).getD _) (startRound_slots ..)).trans (hankSlot_putSlot_started rfl)

theorem withTally_round : (mapFind (withTally h mi q first els).rounds (q / nchunks h.d)).isSome = true :=
  startRound_started ..

/-- What an accepted TALLY_UP leaves. -/
theorem acceptTally_stored (c : Nat) :
    ∃ h', Stored s (acceptTally s hank h mi q c first els) hank (q % h.d.slotBudget) (withTally h mi q first els) h' ∧
      (els ≠ [] → (getSp s (slotKey s h.d (q % h.d.slotBudget))).work ++
          [.tally hank (q % h.d.slotBudget) ((upTo (16 * first) els.length).zip els)]
        <+: (getSp (acceptTally s hank h mi q c first els) (slotKey s h.d (q % h.d.slotBudget))).work) := by
  have hd : (withTally h mi q first els).d = h.d := startRound_d ..
  have hst := storePart_stored (h := withTally h mi q first els) (j := q % h.d.slotBudget) (by rw [withTally_slot]) s
    hank c (els = []) (.tally hank (q % h.d.slotBudget) ((upTo (16 * first) els.length).zip els))
  rw [hd] at hst
  exact hst

end

/-! ### Items of an EXCHANGE (R203, R204, R206) -/

/-- Items entering a hank change what is kept for each destination and the counts of items dropped and unrouted. -/
theorem takeItems_frame (rank : Nat) (l : List ((Nat × Bool × Nat × List Byte) × Nat)) (h : Hank) :
    l.foldl (takeItem rank) h = { h with
      exch := { h.exch with kept := (l.foldl (takeItem rank) h).exch.kept },
      xdropped := (l.foldl (takeItem rank) h).xdropped, unrouted := (l.foldl (takeItem rank) h).unrouted } := by
  have hone : ∀ (h : Hank) e, takeItem rank h e = { h with
      exch := { h.exch with kept := (takeItem rank h e).exch.kept },
      xdropped := (takeItem rank h e).xdropped, unrouted := (takeItem rank h e).unrouted } := by
    intro h e
    unfold takeItem
    dsimp only
    split <;> rfl
  induction l generalizing h with
  | nil => rfl
  | cons e l ih =>
    rw [List.foldl_cons, ih, hone h e]

/-- Going from s to t bytes of Erg memory have been stored, and nothing else. -/
def ErgStored (s t : State) : Prop := t = { s with erg := { s.erg with mem := t.erg.mem, bad := t.erg.bad } }

theorem ErgStored.refl (s : State) : ErgStored s s := rfl

theorem ErgStored.trans {s t u : State} (h : ErgStored s t) (k : ErgStored t u) : ErgStored s u := by
  unfold ErgStored at *
  rw [k, h]

theorem ergStore_ergStored (s : State) (tier o : Nat) (d : List Byte) : ErgStored s (ergStore s tier o d) := by
  unfold ergStore
  exact List.foldlRecOn (motive := fun x : State × List Byte => ErgStored s x.1) _ _ (.refl s)
    fun _ hx _ _ => hx.trans rfl

theorem stageItems_ergStored (s : State) (staging : List Word) :
    ErgStored { s with freeCtr := s.freeCtr + 1 } (stageItems s staging) := by
  unfold stageItems
  exact List.foldlRecOn (motive := ErgStored _) _ _ (.refl _) fun _ ht _ _ => ht.trans (ergStore_ergStored ..)

/-- The hank once the items of a packet of member `mi` are in it: its round has started. -/
def withItems (h : Hank) (mi : Nat) (m : Member) (hd : Header) (pl : List Byte) : Hank :=
  ((xItems h.d pl (xCount hd)).zip (upTo (xFirst hd) (xCount hd))).foldl (takeItem m.rank)
    (startRound { h with exch := { h.exch with
      accepted := mapPut h.exch.accepted 0 mi (mapGet h.exch.accepted 0 mi + xCount hd),
      expected := mapPut h.exch.expected 0 mi (xItemCount hd + 1) } } h.current)

section
variable (h : Hank) (mi : Nat) (m : Member) (hd : Header) (pl : List Byte)

theorem withItems_exch : (withItems h mi m hd pl).exch = { h.exch with
    accepted := mapPut h.exch.accepted 0 mi (mapGet h.exch.accepted 0 mi + xCount hd),
    expected := mapPut h.exch.expected 0 mi (xItemCount hd + 1), kept := (withItems h mi m hd pl).exch.kept } := by
  unfold withItems
  rw [takeItems_frame]
  simp only [startRound_exch]

theorem withItems_round : (mapFind (withItems h mi m hd pl).rounds h.current).isSome = true := by
  unfold withItems
  rw [takeItems_frame]
  exact startRound_started ..

/-- What an accepted packet of an EXCHANGE leaves: without items the hank alone, else also what the staging holds. -/
theorem acceptItems_stored (s : State) (hank : Nat) (hok : xCount hd = 0 ∨ stagingOk s h = true) :
    getHank (acceptItems s hank h mi m hd pl) hank = some (withItems h mi m hd pl) ∧
      (xCount hd = 0 → acceptItems s hank h mi m hd pl
        = { s with hanks := (acceptItems s hank h mi m hd pl).hanks }) ∧
      acceptItems s hank h mi m hd pl
        = { s with hanks := (acceptItems s hank h mi m hd pl).hanks,
                   freeCtr := (acceptItems s hank h mi m hd pl).freeCtr,
                   erg := { s.erg with mem := (acceptItems s hank h mi m hd pl).erg.mem,
                                       bad := (acceptItems s hank h mi m hd pl).erg.bad } } := by
  have hstaging : (withItems h mi m hd pl).exch.staging = h.exch.staging := by rw [withItems_exch]
  have hstage : stagingOk s (withItems h mi m hd pl) = stagingOk s h := by simp only [stagingOk, hstaging]
  have heq : acceptItems s hank h mi m hd pl =
      if xCount hd = 0 then setHank s hank (withItems h mi m hd pl)
      else if stagingOk s (withItems h mi m hd pl) then
        stageItems (setHank s hank (withItems h mi m hd pl)) (withItems h mi m hd pl).exch.staging
      else foundPoison (setHank s hank (withItems h mi m hd pl)) hank 0 (hankStep (withItems h mi m hd pl)) 12 := rfl
  by_cases h0 : xCount hd = 0
  · rw [heq, if_pos h0]
    exact ⟨getHank_setHank_same .., fun _ => rfl, rfl⟩
  · rw [heq, if_neg h0, hstage, if_pos (hok.resolve_left h0)]
    have hst := stageItems_ergStored (setHank s hank (withItems h mi m hd pl)) (withItems h mi m hd pl).exch.staging
    unfold ErgStored at hst
    refine ⟨?_, fun hz => absurd hz h0, ?_⟩
    · rw [hst]
      exact getHank_setHank_same ..
    · rw [hst]
      rfl

end

/-! ### Which part is accepted (R188) -/

/-- Orders 5 to 11 of R188, for a part that passes order 4. -/
def partDecided (up : Bool) (s : State) (h : Hank) (mi : Nat) (m : Member) (p : Pkt) : State :=
  let hd := p.hdr
  let pl := padTo (hPayloadLen hd) p.payload
  if up then
    if wbit hd.w4 8 then
      poison s h.d.hank (cAttempt hd) (hAux hd) (hStep hd) (wbits hd.w4 39 32) (wbits hd.w6 19 0) true
    else if wbits hd.w5 31 0 ≠ h.d.check.toNat then foundPoison s h.d.hank (hAux hd) (hStep hd) 9
    else decideTally s h.d.hank h mi hd pl
  else if h.d.type = 6 then decideItems s h.d.hank h mi m hd pl
  else decidePart s h.d.hank h mi m hd pl

/-- A CONTRIB, or where `up` a TALLY_UP, reaches the hank machinery. -/
def hankPart (up : Bool) (s : State) (p : Pkt) : State := if up then hankTally s p else hankContrib s p

section
variable {up : Bool} {s : State} {p : Pkt} {h : Hank} {mi : Nat} {m : Member}

theorem hankPart_unnamed (hn : namedHank s p.hdr = none) : hankPart up s p = notOpen s p := by
  cases up <;> simp only [hankPart, hankTally, hankContrib, hn, if_true, Bool.false_eq_true, if_false]

theorem hankPart_stranger (hn : namedHank s p.hdr = some h) (hm : senderOf h p = none) :
    hankPart up s p = notOpen s p := by
  cases up <;> simp only [hankPart, hankTally, hankContrib, hn, hm, if_true, Bool.false_eq_true, if_false]

/-- Orders 1 to 4 of R188; poison of a BARRIER round passes order 4. [53] -/
theorem hankPart_member (hn : namedHank s p.hdr = some h) (hm : senderOf h p = some (mi, m)) :
    hankPart up s p =
      if m.trunk ≠ up then notOpen s p
      else if cAttempt p.hdr ≠ (getJob s h.d.job).attempt ∨ hStep p.hdr < h.base then staleHank s h.d.hank
      else if h.d.type = 3 ∧ m.source = false then
        modHank s h.d.hank (fun h => { h with nonSource := satAdd 32 h.nonSource 1 })
      else if nchunks h.d ≤ hAux p.hdr ∧ (up = true → h.d.type ≠ 5 ∨ wbit p.hdr.w4 8 = false) then
        countDropped s h.d.hank (if up then 16 * tCount p.hdr else if h.d.type = 6 then xCount p.hdr else cCount p.hdr)
      else partDecided up s h mi m p := by
  cases up
  · simp only [hankPart, hankContrib, hn, hm, partDecided, countStale, Bool.false_eq_true, if_false, Bool.not_eq_true',
      ne_eq, Bool.not_eq_false, false_imp_iff, and_true]
  · simp only [hankPart, hankTally, hn, hm, partDecided, countStale, if_true, Bool.not_eq_true', decide_eq_false_iff_not,
      ne_eq, Bool.not_eq_true, not_and_or, true_imp_iff]

theorem hankPart_wrongSide (hn : namedHank s p.hdr = some h) (hm : senderOf h p = some (mi, m)) (ht : m.trunk ≠ up) :
    hankPart up s p = notOpen s p := (hankPart_member hn hm).trans (if_pos ht)

theorem hankPart_stale (hn : namedHank s p.hdr = some h) (hm : senderOf h p = some (mi, m)) (ht : m.trunk = up)
    (hst : cAttempt p.hdr ≠ (getJob s h.d.job).attempt ∨ hStep p.hdr < h.base) :
    hankPart up s p = staleHank s h.d.hank :=
  (hankPart_member hn hm).trans ((if_neg (not_not.2 ht)).trans (if_pos hst))

/-- A part of a member of its kind, of the current attempt and of a step the hank has. -/
structure InStep (up : Bool) (s : State) (p : Pkt) (h : Hank) (mi : Nat) (m : Member) : Prop where
  named : namedHank s p.hdr = some h
  sender : senderOf h p = some (mi, m)
  side : m.trunk = up
  attempt : cAttempt p.hdr = (getJob s h.d.job).attempt
  step : h.base ≤ hStep p.hdr

theorem InStep.hankPart_eq (hp : InStep up s p h mi m) :
    hankPart up s p =
      if h.d.type = 3 ∧ m.source = false then
        modHank s h.d.hank (fun h => { h with nonSource := satAdd 32 h.nonSource 1 })
      else if nchunks h.d ≤ hAux p.hdr ∧ (up = true → h.d.type ≠ 5 ∨ wbit p.hdr.w4 8 = false) then
        countDropped s h.d.hank (if up then 16 * tCount p.hdr else if h.d.type = 6 then xCount p.hdr else cCount p.hdr)
      else partDecided up s h mi m p := by
  obtain ⟨hn, hm, ht, hat, hstep⟩ := hp
  rw [hankPart_member hn hm, if_neg (not_not.2 ht), if_neg (not_or.2 ⟨not_not.2 hat, Nat.not_lt.2 hstep⟩)]

/-- Order 4, for a member that may send the part. -/
theorem InStep.hankPart_source (hp : InStep up s p h mi m) (hsrc : h.d.type = 3 → m.source = true) :
    hankPart up s p =
      if nchunks h.d ≤ hAux p.hdr ∧ (up = true → h.d.type ≠ 5 ∨ wbit p.hdr.w4 8 = false) then
        countDropped s h.d.hank (if up then 16 * tCount p.hdr else if h.d.type = 6 then xCount p.hdr else cCount p.hdr)
      else partDecided up s h mi m p :=
  hp.hankPart_eq.trans (if_neg fun hns => Bool.false_ne_true (hns.2.symm.trans (hsrc hns.1)))

/-- A part within the hank's capacity, or poison of a BARRIER round, passes order 4. -/
theorem InStep.hankPart_decided (hp : InStep up s p h mi m) (hsrc : h.d.type = 3 → m.source = true)
    (hin : hAux p.hdr < nchunks h.d ∨ (up = true ∧ h.d.type = 5 ∧ wbit p.hdr.w4 8 = true)) :
    hankPart up s p = partDecided up s h mi m p := by
  refine (hp.hankPart_source hsrc).trans (if_neg ?_)
  rintro ⟨hbeyond, hno⟩
  rcases hin with hin | ⟨hup, h5, hbad⟩
  · exact Nat.not_lt.2 hbeyond hin
  · exact (hno hup).elim (fun h => h h5) (fun h => Bool.false_ne_true (h.symm.trans hbad))

/-- A part at the front of a spindle die's consumers reaches the hank machinery. -/
theorem exec_hankPart {die : Nat} {rest : List Pkt} (hdie : 10 ≤ die ∧ die < 26) (hin : getInbox s die = p :: rest)
    (hc : p.complete = true) (hb : p.bad = false) (hoff : dieOff s die = false) (hrel : (getDie s die).relock = none)
    (hscan : scanOpen s die = false) {i : Instr}
    (hi : (i = .contrib die ∧ hKind p.hdr = kContrib ∧ up = false) ∨
      (i = .tallyUp die ∧ hKind p.hdr = kTallyUp ∧ up = true)) :
    exec i s = .next (hankPart up (setInbox s die rest) p) := by
  rcases hi with ⟨rfl, hk, rfl⟩ | ⟨rfl, hk, rfl⟩
  · show execContrib die s = _
    rw [execContrib, takeHank_takes hin hk rfl hc hb hoff hrel hscan, atSpindleDie_next hdie]
    rfl
  · show execTallyUp die s = _
    rw [execTallyUp, takeHank_takes hin hk rfl hc hb hoff hrel hscan, atSpindleDie_next hdie]
    rfl

end

/-! ### Orders 5 to 11 of R188 -/

section
variable {s : State} {hank : Nat} {h : Hank} {mi : Nat} {m : Member} {hd : Header} {pl : List Byte}

/-- A CONTRIB of sequence q at its slot. -/
theorem decidePart_slot {q : Nat} {sl : Slot} (hq : seqOf h (hStep hd) (hAux hd) = q)
    (hsl : hankSlot h (q % h.d.slotBudget) = sl) :
    decidePart s hank h mi m hd pl =
      if sl.awaits < q then foundPoison s hank (hAux hd) (hStep hd) 10
      else if q < sl.awaits then staleHank s hank
      else if sl.parts.contains (2 * mi + cPart hd) = true ∨ partForm h.d hd pl = false then
        foundPoison s hank (hAux hd) (hStep hd) 5
      else acceptPart s hank h mi m q hd pl := by
  subst hq hsl
  by_cases hform : partForm h.d hd pl = true <;> simp [decidePart, countStale, hform]

/-- An EXCHANGE packet of round q. -/
theorem decideItems_round {q : Nat} (hq : hStep hd - h.base = q) :
    decideItems s hank h mi m hd pl =
      if h.current < q then foundPoison s hank 0 (hStep hd) 10
      else if q < h.current then staleHank s hank
      else if xFirst hd ≠ mapGet h.exch.accepted 0 mi then foundPoison s hank 0 (hStep hd) 11
      else if xForm h mi hd pl = true then acceptItems s hank h mi m hd pl
      else foundPoison s hank 0 (hStep hd) 5 := hq ▸ rfl

/-- A well-formed TALLY_UP of the sequence its slot awaits. -/
theorem decideTally_accepts {q : Nat} {sl : Slot} (hq : seqOf h (hStep hd) (hAux hd) = q)
    (hsl : hankSlot h (q % h.d.slotBudget) = sl) (haw : q = sl.awaits) (hfirst : tFirst hd = mapGet sl.groups 0 mi)
    (hroom : tFirst hd + tCount hd ≤ chunkGroups h.d (hAux hd)) (hlen : groupsLen (tCount hd) pl = some pl.length)
    {els : List Acc} (hels : decodeGroups h.d.mode h.d.inFormat (tCount hd) pl = some els) :
    decideTally s hank h mi hd pl = acceptTally s hank h mi q (hAux hd) (tFirst hd) els := by
  subst hq hsl
  have hform : ¬ (tFirst hd ≠ mapGet (hankSlot h (seqOf h (hStep hd) (hAux hd) % h.d.slotBudget)).groups 0 mi ∨
      chunkGroups h.d (hAux hd) < tFirst hd + tCount hd ∨ groupsLen (tCount hd) pl ≠ some pl.length) :=
    fun hbad => hbad.elim (· hfirst) (·.elim (Nat.not_lt.2 hroom) (· hlen))
  simp only [decideTally, ← haw, Nat.lt_irrefl, if_false, if_neg hform, hels]

variable {p : Pkt}

theorem partDecided_contrib (h6 : h.d.type ≠ 6) : partDecided false s h mi m p =
    decidePart s h.d.hank h mi m p.hdr (padTo (hPayloadLen p.hdr) p.payload) := if_neg h6

theorem partDecided_items (h6 : h.d.type = 6) : partDecided false s h mi m p =
    decideItems s h.d.hank h mi m p.hdr (padTo (hPayloadLen p.hdr) p.payload) := if_pos h6

theorem partDecided_poison (hbad : wbit p.hdr.w4 8 = true) : partDecided true s h mi m p =
    poison s h.d.hank (cAttempt p.hdr) (hAux p.hdr) (hStep p.hdr) (wbits p.hdr.w4 39 32) (wbits p.hdr.w6 19 0) true :=
  if_pos hbad

theorem partDecided_tally (hok : wbit p.hdr.w4 8 = false) : partDecided true s h mi m p =
    if wbits p.hdr.w5 31 0 ≠ h.d.check.toNat then foundPoison s h.d.hank (hAux p.hdr) (hStep p.hdr) 9
    else decideTally s h.d.hank h mi p.hdr (padTo (hPayloadLen p.hdr) p.payload) := if_neg (Bool.eq_false_iff.1 hok)

end

/-! ### O48 -/

/-- Settles O48: orders 1 to 4 of R188 are the same for both kinds (`hankPart_member`); what an accepted part leaves is said
by `acceptPart_stored`, `acceptItems_stored` (the bytes of the staging are free values [27]) and `acceptTally_stored`. -/
theorem partsReachTheirSlots : Obligations.PartsReachTheirSlots := by
  intro s die p rest hlo hhi hin hc hb hoff hrel hscan hd u pl i up hi
  rw [exec_hankPart ⟨hlo, hhi⟩ hin hc hb hoff hrel hscan hi]
  refine ⟨fun hn => congrArg _ (hankPart_unnamed hn), fun h hn => ⟨fun hm => congrArg _ (hankPart_stranger hn hm),
    fun mi m hm => ⟨fun ht => congrArg _ (hankPart_wrongSide hn hm ht), fun ht =>
      ⟨fun hst => congrArg _ (hankPart_stale (s := u) hn hm ht hst), fun hat hstep => ?_⟩⟩⟩⟩
  have hp : InStep up u p h mi m := ⟨hn, hm, ht, hat, hstep⟩
  refine ⟨fun h3 hns => congrArg _ (hp.hankPart_eq.trans (if_pos ⟨h3, hns⟩)), fun hsrc => ?_⟩
  have dec := hp.hankPart_decided hsrc
  refine ⟨fun hbeyond hno => congrArg _ ((hp.hankPart_source hsrc).trans (if_pos ⟨hbeyond, hno⟩)), ?contrib, ?items,
    ?poison, ?check, ?tally⟩
  case contrib =>
    rintro hin rfl h6
    rw [(dec (.inl hin)).trans ((partDecided_contrib h6).trans (decidePart_slot rfl rfl))]
    refine ⟨fun hlt => congrArg _ (if_pos hlt), fun hlt => congrArg _ ((if_neg hlt.not_gt).trans (if_pos hlt)),
      fun heq hbad => congrArg _ ((if_neg heq.not_gt).trans ((if_neg heq.not_lt).trans (if_pos hbad))),
      fun heq hnew hform _ => ?_⟩
    rw [if_neg heq.not_gt, if_neg heq.not_lt, if_neg (by rw [hnew, hform]; decide)]
    obtain ⟨h', hst, hw⟩ := acceptPart_stored u h.d.hank h mi m (seqOf h (hStep hd) (hAux hd)) hd pl
    refine ⟨_, h', rfl, hst.found, ?_, hst.started, ?_, ?_, hw, hst.frame⟩
    · rw [hst.parts, withPart_slot]
    · rw [hst.awaits, withPart_slot]
    · rw [hst.rounds]; exact withPart_round _
  case items =>
    rintro hin rfl h6
    rw [(dec (.inl hin)).trans ((partDecided_items h6).trans (decideItems_round rfl))]
    refine ⟨fun hlt => congrArg _ (if_pos hlt), fun hlt => congrArg _ ((if_neg hlt.not_gt).trans (if_pos hlt)),
      fun heq hne => congrArg _ ((if_neg heq.not_gt).trans ((if_neg heq.not_lt).trans (if_pos hne))),
      fun heq hfirst hform => ?_, fun heq hfirst hform hok _ => ?_⟩
    · rw [if_neg heq.not_gt, if_neg heq.not_lt, if_neg (not_not.2 hfirst), if_neg (Bool.eq_false_iff.1 hform)]
    · rw [if_neg heq.not_gt, if_neg heq.not_lt, if_neg (not_not.2 hfirst), if_pos hform]
      obtain ⟨hfound, hnone, hframe⟩ := acceptItems_stored h mi m hd pl u h.d.hank hok
      refine ⟨_, _, rfl, hfound, ?_, ?_, withItems_round .., hnone, hframe⟩
      · rw [withItems_exch]
      · rw [withItems_exch]
  case poison =>
    rintro hin rfl hbad
    exact congrArg _ ((dec (hin.imp_right fun h5 => ⟨rfl, h5, hbad⟩)).trans (partDecided_poison hbad))
  case check =>
    rintro hin rfl hok hne
    exact congrArg _ ((dec (.inl hin)).trans ((partDecided_tally hok).trans (if_pos hne)))
  case tally =>
    rintro hin rfl hok hcheck _ q j sl haw hfirst hroom hlen els hels
    have act := (dec (.inl hin)).trans ((partDecided_tally hok).trans ((if_neg (not_not.2 hcheck)).trans
      (decideTally_accepts rfl rfl haw hfirst hroom hlen hels)))
    obtain ⟨h', hst, hw⟩ := acceptTally_stored u h.d.hank h mi q (tFirst hd) els (hAux hd)
    refine ⟨_, h', congrArg _ act, hst.found, hst.started, ?_, hw, hst.frame⟩
    rw [hst.rounds]; exact withTally_round ..

end Sys2Proof.Machine
end

section
/-! SUPPORT. The sequencer's bursts, the timers of a hank and the end of an EXCHANGE round, and O50 (R195, R197, R207,
R215, R228, R229, R232, R444). -/

namespace Sys2Proof.Machine

/-! ### Bursts (R228, R232) -/

section
variable {s : State} {l key : Nat}

/-- A sequencer whose unit is contained, whose die relocks or whose burst waits does nothing (R215, R229, R444). -/
theorem execHankBurst_waits (hl : l < 256) (hw : unitContained s (spindleOf s l / 32) 0x10 (spindleOf s l % 32) = true ∨
    (getDie s (spindleOf s l / 32)).relock ≠ none ∨ burstWaits s (spindleOf s l) = true) :
    exec (.hankBurst l) s = .next s := by
  refine (if_pos hl).trans (congrArg _ (if_pos ?_))
  simpa only [Bool.or_eq_true, or_assoc, Option.isSome_iff_ne_none] using hw

theorem execHankBurst_runs (hl : l < 256) (hc : unitContained s (spindleOf s l / 32) 0x10 (spindleOf s l % 32) = false)
    (hr : (getDie s (spindleOf s l / 32)).relock = none) (hw : burstWaits s (spindleOf s l) = false) :
    exec (.hankBurst l) s = .next (burst s (spindleOf s l)) := by
  refine (if_pos hl).trans (congrArg _ (if_neg ?_))
  rw [hc, hr, hw]
  exact Bool.false_ne_true

/-- An uncorrectable error found in the slot of the oldest work poisons its chunk (R197). -/
theorem burst_poisons {w : Work} {rest : List Work} {h : Hank} (hwork : (getSp s key).work = w :: rest)
    (hh : getHank s (workSlot w).1 = some h) (herr : (slotCheck s key).1 = true) :
    burst s key = poisonSlot (slotCheck s key).2 (getJob s h.d.job).attempt h (workSlot w).2 := by
  have hpair : slotCheck s key = (true, (slotCheck s key).2) := Prod.ext herr rfl
  simp only [burst, hwork]
  rw [hh, hpair]

/-- Without injections the local-store checker finds nothing (R492). -/
theorem slotCheck_quiet (h0 : noInjection s (srcSpindle key 0) = true) (h1 : noInjection s (srcSpindle key 1) = true) :
    slotCheck s key = (false, s) := by
  simp only [slotCheck, injected, takeInjection_quiet h0, takeInjection_quiet h1]

theorem burst_quiet (h0 : noInjection s (srcSpindle key 0) = true) (h1 : noInjection s (srcSpindle key 1) = true) :
    burst s key = burstWork s key := by
  unfold burst
  rw [slotCheck_quiet h0 h1]
  split
  · next hwork => simp only [burstWork, hwork]
  · rfl

/-- A burst merges what it holds of work into the slot and leaves the rest at the front. -/
theorem burstMerge_hank {hank j full : Nat} {els : List (Nat × Acc)} {rest : List Work} {left : List (Nat × Acc) → Work}
    {h : Hank} (hh : getHank s hank = some h) : burstMerge s key hank j full els rest left =
      modSp (setHank (countBurst s key (burstCycles (els.take full).length full)) hank
        (putSlot h j (mergeEls h.d.mode h.d.op (hankSlot h j) (els.take full)))) key
        (fun sp => { sp with work := if els.drop full = [] then rest else left (els.drop full) :: rest }) := by
  unfold burstMerge
  rw [hh]
  rfl

variable {hank j : Nat} {rest : List Work} {h : Hank}

theorem burstWork_idle (hwork : (getSp s key).work = []) : burstWork s key = s := by
  simp only [burstWork, hwork]

theorem burstWork_merge {fmt : Nat} {els : List (Nat × Acc)} (hwork : (getSp s key).work = .merge hank j fmt els :: rest)
    (hh : getHank s hank = some h) : burstWork s key =
      burstMerge s key hank j (convBurst h.d.mode fmt) els rest (.merge hank j fmt) := by
  simp only [burstWork, hwork, hh]

theorem burstWork_tally {els : List (Nat × Acc)} (hwork : (getSp s key).work = .tally hank j els :: rest)
    (hh : getHank s hank = some h) : burstWork s key =
      burstMerge s key hank j (mergeBurst h.d.mode) els rest (.tally hank j) := by
  simp only [burstWork, hwork, hh]

/-- The root rounds 512 elements of the slot's chunk a burst; after the last the chunk ends. -/
theorem burstWork_finish {done n : Nat} {u : State} (hwork : (getSp s key).work = .finish hank j done :: rest)
    (hh : getHank s hank = some h) (hn : chunkEls h.d ((hankSlot h j).awaits % nchunks h.d) = n)
    (hu : countBurst s key (burstCycles (min 512 (n - done)) 512) = u) : burstWork s key =
      if done + 512 < n then setWork u key (.finish hank j (done + 512) :: rest)
      else finishRoot (setWork u key rest) hank j := by
  subst hn hu
  simp only [burstWork, hwork, hh]

/-- Elsewhere whole groups are formed, as many as a burst holds; after the last the chunk goes up. -/
theorem burstWork_formUp {done full n : Nat} {u : State} (hwork : (getSp s key).work = .formUp hank j done :: rest)
    (hh : getHank s hank = some h) (hfull : mergeBurst h.d.mode / 16 = full)
    (hn : chunkGroups h.d ((hankSlot h j).awaits % nchunks h.d) = n)
    (hu : countBurst s key (burstCycles (min full (n - done)) full) = u) : burstWork s key =
      if done + full < n then setWork u key (.formUp hank j (done + full) :: rest)
      else sendUp (setWork u key rest) hank j := by
  subst hfull hn hu
  simp only [burstWork, hwork, hh]

end

/-! ### Timers (R195, R444) -/

section
variable {s : State} {hank : Nat} {h : Hank}

theorem chunkExpire_eq (hh : getHank s hank = some h) (h6 : h.d.type ≠ 6) (j : Nat) : chunkExpire s hank j =
    if (hankSlot h j).started = true ∧ (hankSlot h j).complete = false ∧
        (getDie s (slotKey s h.d j / 32)).relock = none then
      foundPoison s hank ((hankSlot h j).awaits % nchunks h.d) (roundStep h ((hankSlot h j).awaits / nchunks h.d)) 1
    else s := by
  simp only [chunkExpire, hh, if_neg h6, relocking, Bool.not_eq_true', Option.isSome_eq_false_iff,
    Option.isNone_iff_eq_none]

theorem chunkExpire_exchange (hh : getHank s hank = some h) (h6 : h.d.type = 6) (j : Nat) : chunkExpire s hank j =
    if j = 0 ∧ (mapFind h.rounds h.current).isSome = true ∧ exchCounted h = false ∧
        (getDie s (hankDie h.d)).relock = none then
      foundPoison s hank 0 (hankStep h) 1
    else s := by
  simp only [chunkExpire, hh, if_pos h6, relocking, Bool.not_eq_true', Option.isSome_eq_false_iff,
    Option.isNone_iff_eq_none]

theorem roundExpire_eq (hh : getHank s hank = some h) (r : Nat) : roundExpire s hank r =
    if (getRound h r).timer = true ∧ (getDie s (hankDie h.d)).relock = none then foundPoison s hank 0 (roundStep h r) 2
    else s := by
  simp only [roundExpire, hh, relocking, Bool.not_eq_true', Option.isSome_eq_false_iff, Option.isNone_iff_eq_none]

end

/-! ### The end of an EXCHANGE round (R207) -/

section
variable {s : State} {hank : Nat} {h : Hank}

theorem sendFrom_enqueued (hp : anyPlane s = true) (die : Nat) (f : Fields) : Enqueued s (sendFrom s die f) := by
  unfold sendFrom
  rw [if_pos hp]
  rfl

/-- With a plane LIVE what a unit sends is put in line, unless the attempt is over. -/
theorem sendOf_enqueued (hp : anyPlane s = true) (job attempt die : Nat) (f : Fields) :
    Enqueued s (sendOf s job attempt die f) := by
  unfold sendOf
  split
  · exact sendFrom_enqueued hp die f
  · exact .refl s

theorem sendItems_enqueued (h : Hank) (attempt : Nat) (s : State) (e : Member × Nat) (hp : anyPlane s = true) :
    Enqueued s (sendItems s h attempt e) :=
  foldl_enqueued (fun _ _ hp => sendOf_enqueued hp ..) _ hp (.refl s)

/-- The RESULT packets and the notice of an EXCHANGE round. -/
def exchangeSent (s : State) (h : Hank) (hank : Nat) : State :=
  let attempt := (getJob s h.d.job).attempt
  sendOf ((h.d.members.zipIdx).foldl (fun s e => sendItems s h attempt e) s) h.d.job attempt (hankDie h.d)
    { kind := kChunkNotice, dst := groupFeid h.d.noticeGroup, job := h.d.job, hank := hank, step := hankStep h,
      a6 := word attempt }

theorem exchangeSent_enqueued (hp : anyPlane s = true) (h : Hank) (hank : Nat) : Enqueued s (exchangeSent s h hank) := by
  have hitems : Enqueued s ((h.d.members.zipIdx).foldl (fun t e => sendItems t h (getJob s h.d.job).attempt e) s) :=
    foldl_enqueued (sendItems_enqueued h _) _ hp (.refl s)
  exact hitems.trans (sendOf_enqueued (hitems.anyPlane_eq.trans hp) ..)

/-- The end of the round of an EXCHANGE whose staging can be reached: unless a loss has ended the attempt, the hank moves
on. -/
def exchangeMoved (s : State) (h : Hank) (hank : Nat) : State :=
  if (getJob (exchangeSent s h hank) h.d.job).attempt ≠ (getJob s h.d.job).attempt then exchangeSent s h hank
  else
    modHank (exchangeSent s h hank) hank (fun k => { k with
      exch := exchInit k.exch.staging, rounds := mapDel k.rounds k.current, current := k.current + 1,
      roundsDone := satAdd 48 k.roundsDone 1, padded := satAdd 32 k.padded
        ((upTo 0 h.d.members.length).foldl (fun n k => n + (h.d.capacity - (mapGet h.exch.kept [] k).length)) 0) })

theorem exchangeEnd_eq (hh : getHank s hank = some h) : exchangeEnd s hank =
    if h.d.type ≠ 6 ∨ exchCounted h = false ∨ (getDie s (hankDie h.d)).relock ≠ none then s
    else if stagingOk s h = false then foundPoison s hank 0 (hankStep h) 12
    else exchangeMoved s h hank := by
  simp only [exchangeEnd, hh, relocking, Bool.not_eq_true', Option.isSome_iff_ne_none]
  rfl

theorem exchangeEnd_counted (hh : getHank s hank = some h) (h6 : h.d.type = 6) (hc : exchCounted h = true)
    (hr : (getDie s (hankDie h.d)).relock = none) : exchangeEnd s hank =
    if stagingOk s h = false then foundPoison s hank 0 (hankStep h) 12 else exchangeMoved s h hank :=
  (exchangeEnd_eq hh).trans (if_neg (by simp [h6, hc, hr]))

/-- A round whose members are all counted, with its staging in reach: packets are put in line and the hank moves on. -/
theorem exchangeEnd_sends (hh : getHank s hank = some h) (h6 : h.d.type = 6) (hc : exchCounted h = true)
    (hr : (getDie s (hankDie h.d)).relock = none) (hok : stagingOk s h = true) :
    ∃ h', getHank (exchangeEnd s hank) hank = some h' ∧ h'.current = h.current + 1 ∧
      h'.exch = exchInit h.exch.staging ∧
      exchangeEnd s hank = { s with hanks := (exchangeEnd s hank).hanks, ready := (exchangeEnd s hank).ready,
                                    nextUid := (exchangeEnd s hank).nextUid } := by
  have hp : anyPlane s = true := (Bool.and_eq_true_iff.1 hok).1
  have hq : Enqueued s (exchangeSent s h hank) := exchangeSent_enqueued hp h hank
  rw [exchangeEnd_counted hh h6 hc hr, if_neg (by rw [hok]; decide)]
  unfold exchangeMoved
  generalize exchangeSent s h hank = t at hq ⊢
  unfold Enqueued at hq
  have hj : getJob t h.d.job = getJob s h.d.job := by rw [hq]; rfl
  have hg : getHank t hank = some h := by rw [hq]; exact hh
  rw [hj, if_neg (not_not.2 rfl)]
  simp only [modHank, hg]
  refine ⟨_, getHank_setHank_same .., rfl, rfl, ?_⟩
  rw [hq]
  rfl

end

/-! ### A hank that is not open -/

theorem timers_closed {s : State} {hank : Nat} (hh : getHank s hank = none) (n : Nat) :
    exec (.chunkTimeout hank n) s = .next s ∧ exec (.roundTimeout hank n) s = .next s ∧
      exec (.exchangeSend hank) s = .next s := by
  have hc : chunkExpire s hank n = s := by simp only [chunkExpire, hh]
  have hr : roundExpire s hank n = s := by simp only [roundExpire, hh]
  have hx : exchangeEnd s hank = s := by simp only [exchangeEnd, hh]
  exact ⟨congrArg _ hc, congrArg _ hr, congrArg _ hx⟩

/-! ### O50 -/

/-- Settles O50: a burst that finds no error does the oldest work [55], kind by kind (`burstWork_merge` to
`burstWork_formUp`); the timers are decided by `chunkExpire_eq`, `chunkExpire_exchange` and `roundExpire_eq`, and an
EXCHANGE round that ends only puts packets in line before its hank moves on (`exchangeEnd_sends`). -/
theorem hanksBurstAndTimeOut : Obligations.HanksBurstAndTimeOut := by
  intro s
  refine ⟨fun l hl hw => execHankBurst_waits hl hw, ?error, ?burst, fun hank h hh =>
    ⟨fun j h6 => ?chunk, fun h6 => ?exchange, fun r => ?round, fun hw => ?waits, fun h6 hc hr => ?counted⟩,
    fun hank hh n => timers_closed hh n⟩
  case error =>
    intro l w rest h hl key hc hr hw hwork hh herr q
    exact (execHankBurst_runs hl hc hr hw).trans (congrArg _ (burst_poisons hwork hh herr))
  case burst =>
    intro l hl hc hr hw h0 h1 key work
    rw [(execHankBurst_runs hl hc hr hw).trans (congrArg _ (burst_quiet h0 h1))]
    refine ⟨fun hwork => congrArg _ (burstWork_idle hwork), ?merge, ?tally, ?finish, ?formUp⟩
    case merge =>
      intro hank j fmt els rest h hwork hh
      exact congrArg _ ((burstWork_merge hwork hh).trans (burstMerge_hank hh))
    case tally =>
      intro hank j els rest h hwork hh
      exact congrArg _ ((burstWork_tally hwork hh).trans (burstMerge_hank hh))
    case finish =>
      intro hank j done rest h hwork hh
      have hburst := burstWork_finish hwork hh rfl rfl
      exact ⟨fun hmore => congrArg _ (hburst.trans (if_pos hmore)),
        fun hlast => congrArg _ (hburst.trans (if_neg (Nat.not_lt.2 hlast)))⟩
    case formUp =>
      intro hank j done rest h hwork hh
      have hburst := burstWork_formUp hwork hh rfl rfl rfl
      exact ⟨fun hmore => congrArg _ (hburst.trans (if_pos hmore)),
        fun hlast => congrArg _ (hburst.trans (if_neg (Nat.not_lt.2 hlast)))⟩
  case chunk =>
    have act := chunkExpire_eq hh h6 j
    refine ⟨fun hst hcomp hr => congrArg _ (act.trans (if_pos ⟨hst, hcomp, hr⟩)),
      fun hno => congrArg _ (act.trans (if_neg ?_))⟩
    rintro ⟨hst, hcomp, hr⟩
    simp [hst, hcomp, hr] at hno
  case exchange =>
    have act := chunkExpire_exchange hh h6
    refine ⟨fun hrd hc hr => congrArg _ ((act 0).trans (if_pos ⟨rfl, hrd, hc, hr⟩)),
      fun j hno => congrArg _ ((act j).trans (if_neg ?_))⟩
    rintro ⟨rfl, hrd, hc, hr⟩
    simp [hc, hr, ← Option.not_isSome_iff_eq_none, hrd] at hno
  case round =>
    have act := roundExpire_eq hh r
    refine ⟨fun ht hr => congrArg _ (act.trans (if_pos ⟨ht, hr⟩)), fun hno => congrArg _ (act.trans (if_neg ?_))⟩
    rintro ⟨ht, hr⟩
    simp [ht, hr] at hno
  case waits => exact congrArg _ ((exchangeEnd_eq hh).trans (if_pos hw))
  case counted =>
    refine ⟨fun hbad => congrArg _ ((exchangeEnd_counted hh h6 hc hr).trans (if_pos hbad)), fun hok => ?_⟩
    obtain ⟨h', hfound, hcur, hexch, hframe⟩ := exchangeEnd_sends hh h6 hc hr hok
    exact ⟨_, h', rfl, hfound, hcur, hexch, hframe⟩

end Sys2Proof.Machine
end

section
/-! SUPPORT. Commands that issue by a plan which reads nothing the beginning of a cycle changes; and O53: an IN.GET's packet is
a GET (R224, R266). -/

namespace Sys2Proof.Machine

/-! ### What the beginning of a cycle leaves of what plans read -/

section
variable {s : State} (hs : Sound s) (key i : Nat)
include hs

theorem lsRead_beginCycle (a n : Nat) : lsRead (beginCycle s key i) key a n = lsRead s key a n := by
  obtain ⟨w, hw⟩ := getSp_beginCycle hs key i
  simp only [lsRead, hw]
  rfl

theorem getQueue_beginCycle (q : Nat) : getQueue (getSp (beginCycle s key i) key) q = getQueue (getSp s key) q := by
  obtain ⟨w, hw⟩ := getSp_beginCycle hs key i
  rw [hw]
  rfl

theorem queueFull_beginCycle (q : Nat) : queueFull (getSp (beginCycle s key i) key) i q = queueFull (getSp s key) i q := by
  obtain ⟨v, hv⟩ := getEng_beginCycle hs key i
  unfold queueFull
  rw [getQueue_beginCycle hs, show spEngine (getSp (beginCycle s key i) key) i = _ from hv]
  rfl

end

/-- A plan that reads nothing the beginning of a cycle changes. -/
def Settled (plan : Nat → Nat → Nat → State → Nat → Plan) : Prop :=
  ∀ ⦃s : State⦄, Sound s → ∀ key i c rep, plan key i c (beginCycle s key i) rep = plan key i c s rep

/-- A repeat of a command with a settled plan comes to issue unhindered and meets no exception: what the plan of the state
before the cycle says of results, steps, occupancy, effects and the way on is performed. -/
theorem execCmd_performs {s : State} (hs : Sound s) {die slot i op c rep n : Nat}
    (hr : 10 ≤ die ∧ die < 26 ∧ slot < 17 ∧ i < 4) {plan : Nat → Nat → Nat → State → Nat → Plan} (hp : Settled plan)
    (h : comesTo s (spKey die slot) i op c rep n = true) {p : Plan} (hpl : plan (spKey die slot) i c s rep = p)
    (hu : unhindered s (spKey die slot) i c p.reads p.lines p.touches p.steps = true) (he : p.errs = []) (hh : p.hold = 0)
    {q : Plan} (hres : p.results = q.results) (hsteps : p.steps = q.steps) (hocc : p.occ = q.occ) (hact : p.act = q.act)
    (hnext : p.next = q.next) :
    execCmd die slot i op plan s = .next (perform (beginCycle s (spKey die slot) i) (spKey die slot) i n q) :=
  (execCmd_issues hs hr ((hp hs _ _ _ _).trans hpl) h hu he hh).trans
    (congrArg _ (perform_congr _ _ _ _ hres hsteps hocc hact hnext))

/-! ### O53 -/

/-- The first spindle LIVE with engine `i` and one command, the engine's at 0, and the first core plane LIVE. -/
def oneCommand (i c : Nat) (e : Engine) : State :=
  setUnit (setUnit { State.reset with
    spindles := [(320, { Spindle.init with engines := [(i, e)], imem := [(8192 * i, BitVec.ofNat 128 c)] })] } 10 0x10 0 .live)
    8 0x08 0 .live

theorem oneCommand_sound (i c : Nat) {e : Engine} (h : e ≠ Engine.init) : Sound (oneCommand i c e) :=
  have hcanonical : Spindle.canonical
      { Spindle.init with engines := [(i, e)], imem := [(8192 * i, BitVec.ofNat 128 c)] } :=
    ⟨rfl, by simp [mapWf, mapRising, h]⟩
  { module := ⟨.inl rfl, (by decide : 1 ≤ 4), Nat.zero_le _, Nat.zero_le _⟩
    erg := rfl
    staging := rfl
    stores := ⟨by simp [oneCommand, setUnit, mapWf, mapRising, Spindle.init], List.forall_mem_singleton.2 hcanonical⟩
    records := Nat.zero_le _
    remembered := Nat.zero_le _ }

/-- A word of IN.GET: one repeat of one byte, its operands' registers all 0. -/
def getWord : Nat := 0x30 + 2 ^ 16

/-- The Intake of the first spindle comes to that IN.GET. -/
def atGet : State := oneCommand 0 getWord { Engine.init with state := .running }

/-- The kinds of the packets that wait to leave the first spindle die. -/
def kindsOut : Res → List Nat
  | .next t => (getReady t (linkOf 10)).map (fun k => hKind k.hdr)
  | _ => []

/-- The packet it sends is a GET. -/
theorem kindsOut_atGet : kindsOut (exec (.inGet 10 0 0) atGet) = [kGet] := by decide +kernel

/-- Refutes O53: the packet of an IN.GET is a GET, kind 0x11 (R51, R266; `kindsOut_atGet`), where the statement has it
leave as kind 0x10, a PUT. -/
theorem not_intakeAndVectorMovesIssue : ¬ Obligations.IntakeAndVectorMovesIssue := by
  intro h
  obtain ⟨hget, -⟩ := h atGet 10 0 0 getWord 0 1 (by decide) (by decide) (by decide) (by decide)
    (oneCommand_sound 0 getWord (by decide))
  have hissue := hget (by decide +kernel) 1 _ (by decide +kernel) rfl (by decide +kernel) (by decide +kernel) (by decide +kernel)
    (by decide +kernel)
  have hkinds := kindsOut_atGet.symm.trans (congrArg kindsOut hissue)
  exact absurd hkinds (by decide +kernel)

end Sys2Proof.Machine
end

section
/-! SUPPORT. Vector arithmetic, and O54 (R233, R257, R268). -/

namespace Sys2Proof.Machine

theorem planV2_settled (f : Nat → Nat → Nat → Nat) : Settled (planV2 f) := by
  intro s hs key i c rep
  obtain ⟨v, hv⟩ := getEng_beginCycle hs key i
  simp only [planV2, hv]
  rfl

theorem planVCvt_settled : Settled planVCvt := by
  intro s hs key i c rep
  obtain ⟨v, hv⟩ := getEng_beginCycle hs key i
  simp only [planVCvt, hv]
  rfl

theorem planVFma_settled : Settled planVFma := by
  intro s hs key i c rep
  obtain ⟨v, hv⟩ := getEng_beginCycle hs key i
  simp only [planVFma, hv]
  rfl

theorem planVFun_settled (g : FVal → FVal) : Settled (planVFun g) := by
  intro s hs key i c rep
  obtain ⟨v, hv⟩ := getEng_beginCycle hs key i
  simp only [planVFun, hv]
  rfl

theorem planVCard_settled : Settled planVCard := by
  intro s hs key i c rep
  obtain ⟨v, hv⟩ := getEng_beginCycle hs key i
  simp only [planVCard, hv]
  rfl

/-- Settles O54: each command issues by its plan (`execCmd_performs`), whose results are the statement's; a part of V.CVT ends
where the next begins, and the indices of V.CARD are counted on from the same one. -/
theorem vectorArithmeticIssues : Obligations.VectorArithmeticIssues := by
  intro s die slot i c rep n hlo hhi hslot hi hs
  have hr : 10 ≤ die ∧ die < 26 ∧ slot < 17 ∧ i < 4 := ⟨hlo, hhi, hslot, hi⟩
  intro key e b f w va vd x y z value two one slow
  refine ⟨?vAdd, ?vMul, ?pick, ?vCvt, ?vFma, ?functions, ?vCard⟩
  case vAdd =>
    intro hc hu
    exact execCmd_performs hs hr (planV2_settled elAdd) hc rfl hu rfl rfl rfl rfl rfl rfl rfl
  case vMul =>
    intro hc hu
    exact execCmd_performs hs hr (planV2_settled elMul) hc rfl hu rfl rfl rfl rfl rfl rfl rfl
  case pick =>
    intro row op greater hrow hc hu
    simp only [List.mem_cons, List.not_mem_nil, or_false, Prod.mk.injEq] at hrow
    obtain ⟨rfl, rfl, rfl⟩ | ⟨rfl, rfl, rfl⟩ := hrow
    · exact execCmd_performs hs hr (planV2_settled (elPick true)) hc rfl hu rfl rfl rfl rfl rfl rfl rfl
    · exact execCmd_performs hs hr (planV2_settled (elPick false)) hc rfl hu rfl rfl rfl rfl rfl rfl rfl
  case vCvt =>
    intro hc hu g m
    have hvalue : cvtValue c (vReg e va) (vReg e vd) = value (fun k =>
        if bits c 75 74 * m ≤ k ∧ k < (bits c 75 74 + 1) * m
        then roundRne f (decodeEl g 0 (vEl (fmtBits g) (vReg e va) (bits c 73 72 * m + (k - bits c 75 74 * m))))
        else vEl w (vReg e vd) k) := by
      simp only [Nat.succ_mul]
      rfl
    exact execCmd_performs hs hr planVCvt_settled hc rfl hu rfl rfl (by rw [← hvalue]; rfl) rfl rfl rfl rfl
  case vFma =>
    intro hc hu
    exact execCmd_performs hs hr planVFma_settled hc rfl hu rfl rfl rfl rfl rfl rfl rfl
  case functions =>
    intro row op g hrow hc hu
    simp only [List.mem_cons, List.not_mem_nil, or_false, Prod.mk.injEq] at hrow
    obtain ⟨rfl, rfl, rfl⟩ | ⟨rfl, rfl, rfl⟩ | ⟨rfl, rfl, rfl⟩ := hrow
    · exact execCmd_performs hs hr (planVFun_settled fExp) hc rfl hu rfl rfl rfl rfl rfl rfl rfl
    · exact execCmd_performs hs hr (planVFun_settled fRcp) hc rfl hu rfl rfl rfl rfl rfl rfl rfl
    · exact execCmd_performs hs hr (planVFun_settled fSqrt) hc rfl hu rfl rfl rfl rfl rfl rfl rfl
  case vCard =>
    intro hc hu idx at40
    have hwords : cardWords (sReg e (bits c 83 80)) (BitVec.ofNat 32 (sReg e (bits c 87 84)).toNat)
        ((sReg e (bits c 91 88)).toNat % 2 ^ 48) ((sReg e (bits c 95 92)).toNat % 2 ^ 40) rep (bit c 96)
        = (if bit c 96 then (upTo 0 16).flatMap (fun k =>
            let o := at40 (16 * rep + k)
            [o.1.toNat, o.2.1.toNat, o.2.2.1.toNat, o.2.2.2.toNat])
          else (upTo 0 64).map (fun k => (at40 (64 * rep + k)).1.toNat)) := by
      simp only [cardWords, Nat.add_assoc]
      rfl
    exact execCmd_performs hs hr planVCard_settled hc rfl hu rfl rfl (by rw [← hwords]; rfl) rfl rfl rfl rfl

end Sys2Proof.Machine
end

section
/-! SUPPORT. The tensor array and the exact lanes, and O55 (R230-R232, R269-R274). -/

namespace Sys2Proof.Machine

theorem accRead_beginCycle {s : State} (hs : Sound s) (key i mode a : Nat) :
    accRead (beginCycle s key i) key i mode a = accRead s key i mode a := by
  obtain ⟨v, hv⟩ := getEng_beginCycle hs key i
  simp only [accRead, lsRead_beginCycle hs, hv]
  rfl

theorem planMmT_settled : Settled planMmT := by
  intro s hs key i c rep
  obtain ⟨v, hv⟩ := getEng_beginCycle hs key i
  simp only [planMmT, lsRead_beginCycle hs, hv]
  rfl

theorem planMmSt_settled : Settled planMmSt := by
  intro s hs key i c rep
  obtain ⟨v, hv⟩ := getEng_beginCycle hs key i
  simp only [planMmSt, hv]
  rfl

theorem planAccX_settled : Settled planAccX := by
  intro s hs key i c rep
  obtain ⟨v, hv⟩ := getEng_beginCycle hs key i
  simp only [planAccX, lsRead_beginCycle hs, accRead_beginCycle hs, hv]
  rfl

theorem planAccC_settled : Settled planAccC := by
  intro s hs key i c rep
  obtain ⟨v, hv⟩ := getEng_beginCycle hs key i
  simp only [planAccC, accRead_beginCycle hs, hv]
  rfl

theorem planAccR_settled : Settled planAccR := by
  intro s hs key i c rep
  obtain ⟨v, hv⟩ := getEng_beginCycle hs key i
  simp only [planAccR, lsRead_beginCycle hs, hv]
  rfl

/-- The bytes of merged accumulators. -/
theorem accStore_accInto (mode op : Nat) (old new : List Acc) : accStore mode (accInto mode op old new).1
    = ((old.zip new).map (fun x => accMerge mode op x.1 x.2)).flatMap (fun x => natBytes (accBytes mode) (accWord mode x.1)) := by
  simp only [accStore, accInto, List.flatMap_map]

/-- The operand of a block's scale is checked in an MX format alone. -/
theorem scaleErrs_ok {s : State} {key n al : Nat} {a : AReg} {mx : Bool} (h : mx = true → fits s key (opdAddr a) n al = true) :
    (if mx then (localOpd (areaBytes s key) a n al).errs else []) = [] := by
  cases mx with
  | true => exact localOpd_ok (.inr (h rfl))
  | false => rfl

/-- Settles O55: each command issues by its plan (`execCmd_performs`), whose operands fit; the accumulators that ACC.X and ACC.C
read are those before the cycle (`accRead_beginCycle`). -/
theorem matrixAndExactCommandsIssue : Obligations.MatrixAndExactCommandsIssue := by
  intro s die slot i c rep n hlo hhi hslot hi hs
  have hr : 10 ≤ die ∧ die < 26 ∧ slot < 17 ∧ i < 4 := ⟨hlo, hhi, hslot, hi⟩
  intro key e b ls ad a1 a2 a3 tile mode op af m mx
  have hacc : ∀ a, accRead b key i mode a = accRead s key i mode a := accRead_beginCycle hs key i mode
  refine ⟨?mmClr, ?mmT, ?mmSt, ?accX, ?accC, ?accR⟩
  case mmClr =>
    intro hc hu
    exact execCmd_performs hs hr (plan := planMmClr) (fun _ _ _ _ _ _ => rfl) hc rfl hu rfl rfl rfl rfl rfl rfl rfl
  case mmT =>
    intro hc fa k sz p q sp sq first sa sb ranges steps hp hq hscales hu
    have herrs : (planMmT key i c s rep).errs = [] := by
      refine List.append_eq_nil_iff.2 ⟨List.append_eq_nil_iff.2 ⟨localOpd_ok (.inr hp), localOpd_ok (.inr hq)⟩, ?_⟩
      show (if first then _ else _) = _
      split
      next hf => exact List.append_eq_nil_iff.2 ⟨localOpd_ok (.inr (hscales hf).1), localOpd_ok (.inr (hscales hf).2)⟩
      next => rfl
    exact execCmd_performs hs hr planMmT_settled hc rfl hu herrs rfl rfl rfl rfl rfl rfl
  case mmSt =>
    intro hc f sz occ hdst hu
    exact execCmd_performs hs hr planMmSt_settled hc rfl hu (localOpd_ok (.inr hdst)) rfl rfl rfl rfl rfl rfl
  case accX =>
    intro hc k scale occ new r left hsrc hdst hsc hu
    have herrs : (planAccX key i c s rep).errs = [] := List.append_eq_nil_iff.2
      ⟨List.append_eq_nil_iff.2 ⟨localOpd_ok (.inr hsrc), localOpd_ok (.inr hdst)⟩, scaleErrs_ok hsc⟩
    have hnew : r = ((accRead s key i mode (ad a2)).zip new).map (fun x => accMerge mode op x.1 x.2) := by
      simp only [r, hacc]
    simp only [left, hnew, ← accStore_accInto]
    exact execCmd_performs hs hr planAccX_settled hc rfl hu herrs rfl rfl rfl rfl rfl rfl
  case accC =>
    intro hc occ r left hsrc hdst hu
    have herrs : (planAccC key i c s rep).errs = [] :=
      List.append_eq_nil_iff.2 ⟨localOpd_ok (.inr hsrc), localOpd_ok (.inr hdst)⟩
    have hmerged : r = ((accRead s key i mode (ad a2)).zip (accRead s key i mode (ad a1))).map
        (fun x => accMerge mode op x.1 x.2) := by
      simp only [r, hacc]
    simp only [left, hmerged, ← accStore_accInto]
    exact execCmd_performs hs hr planAccC_settled hc rfl hu herrs rfl rfl rfl rfl rfl rfl
  case accR =>
    intro hc k rnd sr bs els block hsrc hdst hsc hu
    have herrs : (planAccR key i c s rep).errs = [] := List.append_eq_nil_iff.2
      ⟨List.append_eq_nil_iff.2 ⟨localOpd_ok (.inr hsrc), localOpd_ok (.inr hdst)⟩, scaleErrs_ok hsc⟩
    exact execCmd_performs hs hr planAccR_settled hc rfl hu herrs rfl rfl rfl rfl rfl rfl

end Sys2Proof.Machine
end

section
/-! SUPPORT. What the issue of a repeat leaves and how results land, and O51 (R214-R217, R243, R248, R249, R260, R278). -/

namespace Sys2Proof.Machine

/-! ### Issue -/

/-- Results put in flight leave the rest of an engine. -/
theorem foldl_fly (c : Nat) (l : List (Nat × Target)) (e : Engine) :
    l.foldl (fly c) e = { e with flight := (l.foldl (fly c) e).flight, seq := e.seq + l.length } := by
  induction l generalizing e with
  | nil => rfl
  | cons r l ih =>
    rw [List.foldl_cons, ih]
    simp only [fly, List.length_cons, Nat.add_assoc, Nat.add_comm 1]

theorem followed_noWhorl {e : Engine} (h : activeWhorls e = []) (p fuel : Nat) : followed p fuel e = { e with pc := p + 1 } := by
  cases fuel with
  | zero => rfl
  | succ fuel => simp only [followed, innermost, h, List.find?_nil]

@[simp] theorem getSp_eadd (s : State) (r : Reg) (key i k hi lo n j : Nat) : getSp (eadd s r key i k hi lo n) j = getSp s j := rfl

@[simp] theorem getEng_eadd (s : State) (r : Reg) (key i k hi lo n j m : Nat) :
    getEng (eadd s r key i k hi lo n) j m = getEng s j m := rfl

theorem getSp_modEng_other {s : State} (hs : Sound s) (key i : Nat) (f : Engine → Engine) {k : Nat} (hk : k ≠ key) :
    getSp (modEng s key i f) k = getSp s k :=
  (getSp_setSp hs key k _).trans (if_neg hk)

/-- Engine `e` with the results of a repeat and the steps of its address registers in flight, repeat 0 noted in the PC trace at
cycle `c`. -/
def flown (e : Engine) (c : Nat) (results : List (Nat × Target)) (steps : List Nat) : Engine :=
  (results ++ steps.eraseDups.map (fun a => (1, Target.aStep a (nextCount (aReg e a))))).foldl (fly e.now)
    { e with trace := if e.rep = 0 then ((c, e.pc) :: e.trace).take 32 else e.trace }

/-- What putting results in flight leaves of an engine. -/
theorem flown_form (e : Engine) (c : Nat) (results : List (Nat × Target)) (steps : List Nat) : ∃ l t,
    flown e c results steps = { e with trace := t, flight := l, seq := e.seq + results.length + steps.eraseDups.length } := by
  have hlen : e.seq + results.length + steps.eraseDups.length = e.seq
      + (results ++ steps.eraseDups.map (fun a => (1, Target.aStep a (nextCount (aReg e a))))).length := by
    simp only [List.length_append, List.length_map, Nat.add_assoc]
  rw [hlen]
  exact ⟨_, _, foldl_fly e.now _ _⟩

/-- Engine `e`, as `g` after the cycles of an issue, at its next repeat, or after the last of `n` at the next command. -/
def atNextRepeat (e g : Engine) (n : Nat) : Engine :=
  if n ≤ e.rep + 1 then { followed e.pc 4 g with rep := 0, count := none, waitBegun := false, ended := none }
  else { g with rep := e.rep + 1, count := some n }

/-- The engine `f` that has issued in `occ` cycles. -/
def advancedBy (e f : Engine) (occ : Nat) : Engine :=
  { f with now := e.now + occ, state := .running, hold := 0, passed := false, wdRaised := false }

/-- The issue of a repeat is one change of its engine and of ADVANCE_CYCLES. -/
theorem perform_issues {s : State} (hs : Sound s) (key i n occ : Nat) (results : List (Nat × Target)) (steps : List Nat) :
    perform s key i n { occ := occ, results := results, steps := steps } =
      eadd (modEng s key i (fun e => atNextRepeat e
        (advancedBy e (flown e (eget s .advanceCycles key i 0 47 0) results steps) occ) n)) .advanceCycles key i 0 47 0 occ := by
  rw [perform_eq hs]
  obtain ⟨l, t, hf⟩ := flown_form (getEng s key i) (eget s .advanceCycles key i 0 47 0) results steps
  show eadd (setEng s key i _) _ _ _ _ _ _ _ = eadd (setEng s key i _) _ _ _ _ _ _ _
  congr 2
  unfold flown at hf ⊢
  simp only [hf]
  rfl

/-- Outside whorls the command after the last repeat is the next in the program. -/
theorem atNextRepeat_pc {e g : Engine} {n : Nat} (hw : activeWhorls g = []) (hn : n ≤ e.rep + 1) :
    (atNextRepeat e g n).pc = e.pc + 1 := by
  rw [atNextRepeat, if_pos hn]
  show (followed e.pc 4 g).pc = _
  rw [followed_noWhorl hw]

/-! ### Landing -/

/-- The result that lands next is the one due before every other, or issued before those due with it. -/
theorem firstDue_least {l : List Flight} {f : Flight} (hf : f ∈ l)
    (hleast : ∀ g ∈ l, g = f ∨ f.due < g.due ∨ (f.due = g.due ∧ f.seq < g.seq)) : firstDue l = some f := by
  induction l with
  | nil => exact absurd hf List.not_mem_nil
  | cons x r ih =>
    have hrest : ∀ g ∈ r, g = f ∨ f.due < g.due ∨ (f.due = g.due ∧ f.seq < g.seq) :=
      fun g hg => hleast g (List.mem_cons_of_mem _ hg)
    by_cases hx : x = f
    · subst hx
      simp only [firstDue]
      split
      · rfl
      next g hg =>
        split
        next hbefore =>
          rcases hrest g (firstDue_mem hg) with rfl | h
          · rfl
          · omega
        next => rfl
    · have hmem : f ∈ r := (List.mem_cons.1 hf).resolve_left (Ne.symm hx)
      simp only [firstDue, ih hmem hrest]
      rcases hleast x List.mem_cons_self with h | h | ⟨h, h'⟩
      · exact absurd h hx
      · rw [if_pos (.inl h)]
      · rw [if_pos (.inr ⟨h, h'⟩)]

theorem execLanding_next {s : State} {die slot i : Nat} (hr : 10 ≤ die ∧ die < 26 ∧ slot < 17 ∧ i < 4) {f : Flight}
    (hf : firstDue (getEng s (spKey die slot) i).flight = some f) (hc : engineClocked s (spKey die slot) = true)
    (hd : f.due < (getEng s (spKey die slot) i).now) :
    exec (.landing die slot i) s = .next (countHazards (modSp (modEng s (spKey die slot) i (fun e =>
        { e with flight := e.flight.filter (fun g => g.seq != f.seq) })) (spKey die slot) (fun sp => landTarget sp i f.tgt))
      (spKey die slot) i (lateHazard f)) := by
  show execLanding die slot i s = _
  simp only [execLanding, if_pos hr, hf, hc, Bool.not_true, Bool.false_or, decide_eq_true_eq, if_neg (Nat.not_le.2 hd)]

theorem execLanding_waits {s : State} {die slot i : Nat} (hr : 10 ≤ die ∧ die < 26 ∧ slot < 17 ∧ i < 4)
    (hd : ∀ f ∈ (getEng s (spKey die slot) i).flight, (getEng s (spKey die slot) i).now ≤ f.due) :
    exec (.landing die slot i) s = .next s := by
  show execLanding die slot i s = _
  simp only [execLanding, if_pos hr]
  split
  · rfl
  next f hf => rw [if_pos (by rw [decide_eq_true (hd f (firstDue_mem hf)), Bool.or_true])]

/-! ### O51 -/

/-- Settles O51: the issue of a repeat is one change of its engine and of ADVANCE_CYCLES (`perform_issues`), in which the results
put in flight leave the rest (`flown_form`); the result that lands is the least one (`firstDue_least`), and of the hazards it
meets there is one at most. -/
theorem repeatsIssueAndResultsLand : Obligations.RepeatsIssueAndResultsLand := by
  refine ⟨?issue, ?landing⟩
  case issue =>
    intro s key i n occ results steps hs e t f g
    have ht : t = _ := perform_issues hs key i n occ results steps
    have heng : getEng t key i = atNextRepeat e g n := by
      rw [ht, getEng_eadd, getEng_modEng hs]
      rfl
    obtain ⟨l, c, hf⟩ : ∃ l c, f = { e with trace := c, flight := l,
                                            seq := e.seq + results.length + steps.eraseDups.length } := flown_form e _ results steps
    refine ⟨heng, ?frame, ?goesOn, ?spindle, ?others, ?machine⟩
    case frame =>
      rw [hf]
      exact ⟨rfl, rfl, rfl, rfl, rfl, rfl, rfl, rfl, rfl⟩
    case goesOn =>
      intro hw hn
      rw [heng]
      refine atNextRepeat_pc ?_ hn
      have hl : f.lreg = e.lreg := by rw [hf]
      simp only [activeWhorls, lReg] at hw ⊢
      rw [show g.lreg = e.lreg from hl]
      exact hw
    case spindle =>
      rw [heng, ht, getSp_eadd, getSp_modEng hs]
      rfl
    case others =>
      intro k hk
      rw [ht, getSp_eadd, getSp_modEng_other hs key i _ hk]
    case machine =>
      rw [ht]
      rfl
  case landing =>
    intro s die slot i hlo hhi hslot hi hc key e
    have hr : 10 ≤ die ∧ die < 26 ∧ slot < 17 ∧ i < 4 := ⟨hlo, hhi, hslot, hi⟩
    refine ⟨execLanding_waits hr, ?_⟩
    intro f hf hd hleast u
    have hlands := execLanding_next hr (firstDue_least hf hleast) hc hd
    refine ⟨fun hlate => ?_, fun k m j hlate htgt => ?_⟩
    · have hnone : lateHazard f = [] := if_pos hlate
      exact hlands.trans (by rw [hnone]; rfl)
    · have hone : lateHazard f = [{ cycle := f.due, kind := 2, cls := k, num := m, early := f.late, pc := f.pc, line := 0,
                                    ea := 0 }] := by
        simp only [lateHazard, if_neg (Nat.pos_iff_ne_zero.1 hlate), htgt]
      exact hlands.trans (by rw [hone]; rfl)

end Sys2Proof.Machine
end

section
/-! SUPPORT. Drain points as they are come to and gone on from, and O58 (R218, R234, R277, R318-R332). -/

namespace Sys2Proof.Machine

section
variable {s : State} {die slot i op c : Nat} {k : Nat → Nat → Nat → State → State}

/-- What the beginning of a cycle leaves of an engine's readings. -/
theorem readHazards_beginCycle (hs : Sound s) (key i : Nat) (l : List (Nat × Nat)) :
    readHazards (getEng (beginCycle s key i) key i) (getEng (beginCycle s key i) key i).now (getEng (beginCycle s key i) key i).pc l
      = readHazards (getEng s key i) (getEng s key i).now (getEng s key i).pc l := by
  obtain ⟨v, hv⟩ := getEng_beginCycle hs key i
  rw [hv]
  rfl

theorem predicate_beginCycle (hs : Sound s) (key i c : Nat) :
    predicate (getEng (beginCycle s key i) key i) c = predicate (getEng s key i) c := by
  obtain ⟨v, hv⟩ := getEng_beginCycle hs key i
  rw [hv]
  rfl

theorem count_beginCycle (hs : Sound s) (key i : Nat) : (getEng (beginCycle s key i) key i).count = (getEng s key i).count := by
  obtain ⟨v, hv⟩ := getEng_beginCycle hs key i
  rw [hv]

/-- Where an engine stands at a command, nothing is due as its cycle begins. -/
theorem landed_beginCycle (hs : Sound s) {key : Nat} (h : standsAt s key i op c = true) :
    landed (beginCycle s key i) key i (getEng (beginCycle s key i) key i).now = (getSp (beginCycle s key i) key, []) := by
  simp only [standsAt, Bool.and_eq_true, List.all_eq_true, decide_eq_true_eq] at h
  obtain ⟨v, hv⟩ := getEng_beginCycle hs key i
  exact landed_nothing (by rw [hv]; exact h.2)

theorem execDrain_stands (hs : Sound s) (hr : 10 ≤ die ∧ die < 26 ∧ slot < 17 ∧ i < 4)
    (h : standsAt s (spKey die slot) i op c = true) :
    execDrain die slot i op k s
      = .next (drainCmd (beginCycle s (spKey die slot) i) (spKey die slot) i c (k (spKey die slot) i c)) := by
  rw [execDrain, if_pos hr]
  exact congrArg _ (atCommand_stands hs h _)

/-- A drain point that is come to for the first time acts once everything in flight has landed. -/
theorem execDrain_comes (hs : Sound s) (hr : 10 ≤ die ∧ die < 26 ∧ slot < 17 ∧ i < 4) {outlet : Bool}
    (h : comesToDrain s (spKey die slot) i op c outlet = true) :
    execDrain die slot i op k s = .next (k (spKey die slot) i c (drained s (spKey die slot) i)) := by
  simp only [comesToDrain, Bool.and_eq_true, Bool.not_eq_true', List.isEmpty_iff, Option.isNone_iff_eq_none] at h
  obtain ⟨⟨⟨⟨⟨hst, hcount⟩, hpred⟩, hreads⟩, -⟩, -⟩ := h
  rw [execDrain_stands hs hr hst]
  simp only [drainCmd, count_beginCycle hs, hcount, Option.isSome_none, Bool.false_eq_true, if_false, landed_beginCycle hs hst,
    setSp_self (beginCycle_sound hs _ i), readHazards_beginCycle hs, hreads, predicate_beginCycle hs, hpred, Bool.not_true,
    ne_eq, not_true_eq_false, and_false]
  rfl

/-- A drain point that has begun goes on in the cycle that begins. -/
theorem execDrain_resumes (hs : Sound s) (hr : 10 ≤ die ∧ die < 26 ∧ slot < 17 ∧ i < 4)
    (h : standsAt s (spKey die slot) i op c = true) (hcount : (getEng s (spKey die slot) i).count.isSome = true) :
    execDrain die slot i op k s
      = .next (resumeDrain (beginCycle s (spKey die slot) i) (spKey die slot) i (k (spKey die slot) i c)) := by
  rw [execDrain_stands hs hr h, drainCmd, count_beginCycle hs, if_pos hcount]

/-- What `comesToDrain` says of the engine after its drain. -/
theorem comesToDrain_drained {key : Nat} {outlet : Bool} (h : comesToDrain s key i op c outlet = true) :
    (getEng (drained s key i) key i).waitBegun = false ∧ drainErr (getEng (drained s key i) key i) outlet = none := by
  simp only [comesToDrain, Bool.and_eq_true, Bool.not_eq_true', Option.isNone_iff_eq_none] at h
  exact ⟨h.1.2, h.2⟩

end

theorem unlessErr_none {s : State} {key i : Nat} {outlet : Bool} (h : drainErr (getEng s key i) outlet = none)
    (k : State → State) : unlessErr s key i outlet k = k s := by
  rw [unlessErr, h]

/-! ### What each drain point does -/

theorem engineClocked_beginCycle (s : State) (key i : Nat) : engineClocked (beginCycle s key i) key = engineClocked s key := rfl

theorem standsAt_clocked {s : State} {key i op c : Nat} (h : standsAt s key i op c = true) : engineClocked s key = true := by
  simp only [standsAt, Bool.and_eq_true] at h
  obtain ⟨⟨⟨⟨⟨⟨⟨⟨hclocked, -⟩, -⟩, -⟩, -⟩, -⟩, -⟩, -⟩, -⟩ := h
  exact hclocked

section
variable {s : State} {key i c : Nat}

theorem syncWait_begins (hw : (getEng s key i).waitBegun = false) (he : drainErr (getEng s key i) false = none) :
    syncWait s key i c = waitFor (beginWait s key i) key i := by
  rw [syncWait, if_neg (Bool.eq_false_iff.1 hw), unlessErr_none he]

theorem syncWait_waits (hw : (getEng s key i).waitBegun = true) (hf : flagOf s key (bits c 45 40) = false) :
    syncWait s key i c = waitFor s key i := by
  rw [syncWait, if_pos hw, if_neg (Bool.eq_false_iff.1 hf)]

theorem syncWait_ends (hw : (getEng s key i).waitBegun = true) (hf : flagOf s key (bits c 45 40) = true) :
    syncWait s key i c = newCycle (settleFlag s key (bits c 45 40)) key := by
  rw [syncWait, if_pos hw, if_pos hf]

theorem barArrive_begins (hw : (getEng s key i).waitBegun = false) (he : drainErr (getEng s key i) false = none) :
    barArrive s key i c = waitFor (beginWait { s with sync := s.sync ++
      [.arrival (key / 32) (bits c 39 36) (bits c 35 32) (participant s key i)] } key i) key i := by
  rw [barArrive, if_neg (Bool.eq_false_iff.1 hw), unlessErr_none he]

/-- A BAR.WAIT that may wait goes on where its arrivals have been released, and waits otherwise. -/
def barWaitGoes (s : State) (key i c : Nat) : State :=
  if barDone (getBarchan (getSp s (localSpindle s (key / 32) (bits c 39 36))) (bits c 35 32)) (participant s key i)
  then finishDrain s key i else waitFor (beginWait s key i) key i

theorem barWait_begun (hw : (getEng s key i).waitBegun = true) : barWait s key i c = barWaitGoes s key i c := by
  rw [barWait, if_pos hw]
  rfl

theorem barWait_begins (hw : (getEng s key i).waitBegun = false) (he : drainErr (getEng s key i) false = none) :
    barWait s key i c =
      if logicalAvailable s (16 * (key / 32 - 10) + bits c 39 36) = false then
        fault s key i 14 0 (word (3 * 2 ^ 12 + bits c 43 32))
      else if wbit (getBarchan (getSp s (localSpindle s (key / 32) (bits c 39 36))) (bits c 35 32)).members
          (participant s key i) = false then
        fault s key i 14 0 (word (2 ^ 12 + bits c 43 32))
      else barWaitGoes s key i c := by
  rw [barWait, if_neg (Bool.eq_false_iff.1 hw), unlessErr_none he]
  simp only [Bool.not_eq_true']
  rfl

theorem networkWait_waits (k : State → State) : networkWait s key i true k = waitFor (beginWait s key i) key i := rfl

theorem networkWait_held (hd : (getEng s key i).debugHalt = true) (k : State → State) :
    networkWait s key i false k = modEng s key i (heldAfter none) := by
  rw [networkWait, if_neg Bool.false_ne_true, if_pos hd]

theorem networkWait_goesOn (hd : (getEng s key i).debugHalt = false) (he : drainErr (getEng s key i) true = none)
    (k : State → State) : networkWait s key i false k = k s := by
  rw [networkWait, if_neg Bool.false_ne_true, if_neg (Bool.eq_false_iff.1 hd), unlessErr_none he]

theorem barDone_iff {v : Barchan} {p : Nat} : barDone v p = true ↔ wbit v.cur p = false ∧ wbit v.next p = false := by
  simp only [barDone, Bool.and_eq_true, Bool.not_eq_true']

theorem barWaitGoes_released {v : Barchan} {p : Nat}
    (hv : getBarchan (getSp s (localSpindle s (key / 32) (bits c 39 36))) (bits c 35 32) = v) (hp : participant s key i = p)
    (h : wbit v.cur p = false ∧ wbit v.next p = false) : barWaitGoes s key i c = finishDrain s key i := by
  rw [barWaitGoes, hv, hp, if_pos (barDone_iff.2 h)]

theorem barWaitGoes_waits {v : Barchan} {p : Nat}
    (hv : getBarchan (getSp s (localSpindle s (key / 32) (bits c 39 36))) (bits c 35 32) = v) (hp : participant s key i = p)
    (h : wbit v.cur p = true ∨ wbit v.next p = true) : barWaitGoes s key i c = waitFor (beginWait s key i) key i := by
  rw [barWaitGoes, hv, hp, if_neg]
  rw [barDone_iff]
  rintro ⟨h1, h2⟩
  simp [h1, h2] at h

theorem resumeDrain_ended {a : Nat} (h : (getEng s key i).ended = some a) (k : State → State) :
    resumeDrain s key i k = afterWait s key i a := by
  rw [resumeDrain, h]

theorem resumeDrain_acts (h : (getEng s key i).ended = none) (k : State → State) : resumeDrain s key i k = k s := by
  rw [resumeDrain, h]

theorem ended_beginCycle (hs : Sound s) (key i : Nat) : (getEng (beginCycle s key i) key i).ended = (getEng s key i).ended := by
  obtain ⟨v, hv⟩ := getEng_beginCycle hs key i
  rw [hv]

theorem waitBegun_beginCycle (hs : Sound s) (key i : Nat) :
    (getEng (beginCycle s key i) key i).waitBegun = (getEng s key i).waitBegun := by
  obtain ⟨v, hv⟩ := getEng_beginCycle hs key i
  rw [hv]

theorem settleFlag_ends {n : Nat} (hf : flagOf s key n = true) (hc : engineClocked s key = true) : settleFlag s key n =
    let l := flagWaiters s key n
    let v := l.foldl (fun s w => endWait s key w.1 0) s
    if l.any (·.2) then modSp v key (fun sp => { sp with clearing := sp.clearing ||| BitVec.ofNat 64 (2 ^ n) }) else v :=
  if_pos ⟨hf, hc⟩

end

/-! ### O58 -/

/-- Settles O58: a drain point acts on the drained state (`execDrain_comes`), or, having begun, on the cycle that begins
(`execDrain_resumes`); there no error waits to be raised, so that what its own lemma above says is all that it does. -/
theorem drainPointsWaitAndGoOn : Obligations.DrainPointsWaitAndGoOn := by
  intro s die slot i c hlo hhi hslot hi hs
  have hr : 10 ≤ die ∧ die < 26 ∧ slot < 17 ∧ i < 4 := ⟨hlo, hhi, hslot, hi⟩
  have hkey : spKey die slot / 32 = die := by unfold spKey; omega
  intro key b u e go waiting wait n home able bar p far
  refine ⟨?raise, ?syncWait, ?arrive, ?barWait, ?halt, ?fence, ?later⟩
  case raise =>
    intro h
    obtain ⟨-, herr⟩ := comesToDrain_drained h
    have act : exec (.syncRaise die slot i) s = .next (unlessErr u key i false (fun s =>
        finishDrain (sendRaise s die (bits c 39 32) (bits c 45 40)) key i)) :=
      execDrain_comes (k := fun key i c s => unlessErr s key i false (fun s =>
        finishDrain (sendRaise s die (bits c 39 32) (bits c 45 40)) key i)) hs hr h
    rw [act, unlessErr_none herr]
    rfl
  case syncWait =>
    intro h
    obtain ⟨hbegun, herr⟩ := comesToDrain_drained h
    have act : exec (.syncWait die slot i) s = .next (syncWait u key i c) :=
      execDrain_comes (k := fun key i c s => syncWait s key i c) hs hr h
    rw [act, syncWait_begins hbegun herr]
    rfl
  case arrive =>
    intro h
    obtain ⟨hbegun, herr⟩ := comesToDrain_drained h
    have act : exec (.barArrive die slot i) s = .next (barArrive u key i c) :=
      execDrain_comes (k := fun key i c s => barArrive s key i c) hs hr h
    rw [act, barArrive_begins hbegun herr, hkey]
    rfl
  case barWait =>
    intro h
    obtain ⟨hbegun, herr⟩ := comesToDrain_drained h
    have act : exec (.barWait die slot i) s = .next (barWait u key i c) :=
      execDrain_comes (k := fun key i c s => barWait s key i c) hs hr h
    rw [act, barWait_begins hbegun herr, hkey]
    refine ⟨fun hable hmember => ?_, fun hable => ?_, fun hable hmember => ?_⟩
    · rw [if_neg (ne_of_eq_of_ne hable (by decide)), if_neg (ne_of_eq_of_ne hmember (by decide))]
      exact ⟨fun hdone => congrArg _ (barWaitGoes_released (by rw [hkey]) rfl hdone),
        fun hleft => congrArg _ (barWaitGoes_waits (by rw [hkey]) rfl hleft)⟩
    · rw [if_pos hable]
    · rw [if_neg (ne_of_eq_of_ne hable (by decide)), if_pos hmember]
  case halt =>
    intro h
    obtain ⟨-, herr⟩ := comesToDrain_drained h
    have act : exec (.halt die slot i) s = .next (haltEngine u key i) :=
      execDrain_comes (k := fun key i _ s => haltEngine s key i) hs hr h
    rw [act, haltEngine]
    refine ⟨fun hnone hd => ?_, fun hnone hd => ?_, fun hsome => ?_⟩
    · rw [hnone, networkWait_goesOn hd herr]
    · rw [hnone, networkWait_held hd]
      rfl
    · rw [hsome]
      rfl
  case fence =>
    intro _ h hd
    obtain ⟨-, herr⟩ := comesToDrain_drained h
    have act : exec (.outFence die slot i) s = .next (outFence u key i c) :=
      execDrain_comes (k := fun key i c s => outFence s key i c) hs hr h
    rw [act, outFence]
    refine ⟨fun hnone hflag => ?_, fun hnone hflag => ?_, fun hsome => ?_⟩
    · rw [bne_eq_false_iff_eq.2 hnone, networkWait_goesOn hd herr, hflag]
      rfl
    · rw [bne_eq_false_iff_eq.2 hnone, networkWait_goesOn hd herr, hflag]
      rfl
    · rw [bne_iff_ne.2 hsome]
      rfl
  case later =>
    intro row op hrow hst hcount
    have hended : ∀ {r : Res} {k : State → State}, r = .next (resumeDrain b key i k) →
        ∀ a, (getEng s key i).ended = some a → r = .next (if a = 0 then go b else fault b key i 14 0 (word a)) := by
      intro r k hact a ha
      rw [hact, resumeDrain_ended ((ended_beginCycle hs key i).trans ha)]
      rfl
    have hgoes : ∀ {r : Res} {k : State → State}, r = .next (resumeDrain b key i k) →
        (getEng s key i).ended = none → r = .next (k b) := by
      intro r k hact hnone
      rw [hact, resumeDrain_acts ((ended_beginCycle hs key i).trans hnone)]
    have hbegun : (getEng s key i).waitBegun = true → (getEng b key i).waitBegun = true := (waitBegun_beginCycle hs key i).trans
    simp only [List.mem_cons, List.not_mem_nil, or_false, Prod.mk.injEq] at hrow
    obtain ⟨rfl, rfl⟩ | ⟨rfl, rfl⟩ | ⟨rfl, rfl⟩ := hrow
    · have act : exec (.syncWait die slot i) s = .next (resumeDrain b key i (fun s => syncWait s key i c)) :=
        execDrain_resumes (k := fun key i c s => syncWait s key i c) hs hr hst hcount
      refine ⟨hended act, fun hnone hw => ⟨fun _ hf => ?_, fun _ hf => ?_, nofun, nofun, nofun⟩⟩
      · rw [hgoes act hnone, syncWait_waits (hbegun hw) hf]
        rfl
      · rw [hgoes act hnone, syncWait_ends (hbegun hw) hf, settleFlag_ends hf ((engineClocked_beginCycle s key i).trans (standsAt_clocked hst))]
    · have act : exec (.barArrive die slot i) s = .next (resumeDrain b key i (fun s => barArrive s key i c)) :=
        execDrain_resumes (k := fun key i c s => barArrive s key i c) hs hr hst hcount
      refine ⟨hended act, fun hnone hw => ⟨nofun, nofun, fun _ => ?_, nofun, nofun⟩⟩
      rw [hgoes act hnone, barArrive, if_pos (hbegun hw)]
      rfl
    · have act : exec (.barWait die slot i) s = .next (resumeDrain b key i (fun s => barWait s key i c)) :=
        execDrain_resumes (k := fun key i c s => barWait s key i c) hs hr hst hcount
      refine ⟨hended act, fun hnone hw => ⟨nofun, nofun, nofun, fun _ hdone => ?_, fun _ hleft => ?_⟩⟩
      · rw [hgoes act hnone, barWait_begun (hbegun hw)]
        exact congrArg _ (barWaitGoes_released (by rw [hkey]) rfl hdone)
      · rw [hgoes act hnone, barWait_begun (hbegun hw)]
        exact congrArg _ (barWaitGoes_waits (by rw [hkey]) rfl hleft)

end Sys2Proof.Machine
end

section
/-! SUPPORT. O60: the events of what lands while an engine stops can end a D3 session, which takes the power and with it the
IN.GETs the exception was to wait for (R281, R478, R487). -/

namespace Sys2Proof.Machine

/-- A result that lands in the engine's next cycle, after one issued later. -/
def lateResult : Flight := { due := 1, seq := 0, pc := 0, late := 1, tgt := .sreg 0 0 }

/-- An IN.GET that waits for its reply. -/
def openGet : GetOut := { number := 0, handle := 0, addr := 0, bytes := 1, group := 0, ord := 0, flag := none }

/-- A READY module in a D3 session of the first spindle die alone. The Intake of its first spindle has a late result in
flight and an IN.GET outstanding, and its SLUB source has severity 4, which contains the die. -/
def debuggedAlone : State :=
  modSec (modModule
    (fset (oneCommand 0 0 { Engine.init with state := .running, flight := [lateResult], gets := [openGet] })
      .faultSource 10 0 (srcEngine 320 0 1 % 2048) 2 0 4)
    (fun m => { m with state := 2 }))
    (fun c => { c with session := some { level := 3, dies := 2 ^ 10, lifetime := none } })

theorem debuggedAlone_sound : Sound debuggedAlone :=
  have sound := oneCommand_sound 0 0 (e := { Engine.init with state := .running, flight := [lateResult], gets := [openGet] })
    (by decide)
  { module := ⟨.inl rfl, (by decide : 2 ≤ 4), Nat.zero_le _, Nat.zero_le _⟩
    erg := sound.erg
    staging := sound.staging
    stores := sound.stores
    records := sound.records
    remembered := sound.remembered }

/-- As the late result lands, the die is contained, the session ends and the spindle loses its power: no IN.GET is
outstanding any more and the exception is taken at once. -/
theorem fault_debuggedAlone : (getEng (fault debuggedAlone 320 0 1 0 0) 320 0).state = .faulted := by decide +kernel

/-- Refutes O60: with an IN.GET outstanding when the engine stops, `fault` need not leave the exception waiting; where the
landing of what is in flight takes the power from the spindle, the exception is taken (`fault_debuggedAlone`). -/
theorem not_commandsAreSkippedHeldOrStopped : ¬ Obligations.CommandsAreSkippedHeldOrStopped := by
  intro h
  obtain ⟨-, -, -, -, -, -, -, hfault⟩ := h debuggedAlone 10 0 0 0 0 0 (by decide) (by decide) (by decide) (by decide)
    debuggedAlone_sound
  obtain ⟨hwaits, -⟩ := hfault 1 0
  have hstopped := hwaits (by decide +kernel)
  have hstates := fault_debuggedAlone.symm.trans (congrArg (fun t => (getEng t 320 0).state) hstopped)
  exact absurd hstates (by decide +kernel)

end Sys2Proof.Machine
end

section
/-! SUPPORT. O15: what a command does that does not look at the control port; and the memory of a loaded spindle above its
program area (R286). -/

namespace Sys2Proof.Machine

/-! ### Steps that neither look at the control port nor write the log -/

/-- The step is the same whatever the control port holds, and neither changes it nor logs anything. -/
def PortBlind (f : State → State) : Prop :=
  ∀ s, (f s).out = s.out ∧ ∀ c, f (modCp s (fun _ => c)) = modCp (f s) (fun _ => c)

theorem portBlind_id : PortBlind (fun s => s) := fun _ => ⟨rfl, fun _ => rfl⟩

theorem PortBlind.comp {f g : State → State} (hf : PortBlind f) (hg : PortBlind g) : PortBlind (fun s => f (g s)) :=
  fun s => ⟨(hf _).1.trans (hg s).1, fun c => (congrArg f ((hg s).2 c)).trans ((hf _).2 c)⟩

theorem PortBlind.foldl {β : Type} {f : State → β → State} (h : ∀ b, PortBlind (fun s => f s b)) (l : List β) :
    PortBlind (fun s => l.foldl f s) := by
  induction l with
  | nil => exact portBlind_id
  | cons b l ih => exact ih.comp (h b)

theorem portBlind_modSp (key : Nat) (f : Spindle → Spindle) : PortBlind (fun s => modSp s key f) := fun _ => ⟨rfl, fun _ => rfl⟩

theorem portBlind_rset (r : Reg) (die inst k v : Nat) : PortBlind (fun s => rset s r die inst k v) :=
  fun _ => ⟨rfl, fun _ => rfl⟩

/-- A command that is accepted and answers OK over a step of this kind leaves the step's state answered. -/
theorem takeCommand_steps {s : State} {f : State → State} (hf : PortBlind f) {c : Cmd} {tag opcode : Nat} {result : List Word}
    (h : accepts s tag = true) (ht : c.tag = tag) (ho : c.opcode = opcode) (hl : c.lengthOk = true) (hp : c.permitted = true)
    (ha : c.active = true → s.module.state = 4) (hd : ∀ d ∈ c.dies, d < 32)
    (hrun : ∀ p, c.run (modCp s (fun _ => p)) = answerOk (f (modCp s (fun _ => p))) tag opcode result) :
    Done s (f s) (takeCommand s c) tag opcode result :=
  takeCommand_done h ht ho hl hp ha hd (hf s).1 (fun r =>
    (hrun { s.cp with remembered := r }).trans (congrArg (answerOk · tag opcode result) ((hf s).2 _)))

/-! ### Splices -/

theorem mapRising_bound {α : Type} {lo : Nat} {m : SMap α} (h : mapRising lo m = true) : ∀ e ∈ m, lo ≤ e.1 := by
  induction m generalizing lo with
  | nil => exact List.forall_mem_nil _
  | cons e r ih =>
    simp only [mapRising, Bool.and_eq_true, decide_eq_true_eq] at h
    exact List.forall_mem_cons.2 ⟨h.1, fun x hx => by have := ih h.2 x hx; omega⟩

/-- Nothing put in the place of nothing. -/
theorem splice_none {α : Type} {lo : Nat} {m : SMap α} (h : mapRising lo m = true) (a : Nat) : splice m a 0 [] = m := by
  induction m generalizing lo with
  | nil => rfl
  | cons e r ih =>
    simp only [mapRising, Bool.and_eq_true, decide_eq_true_eq] at h
    have hr := ih h.2
    by_cases hlt : e.1 < a
    · simpa [splice, hlt, Nat.not_le.2 hlt] using hr
    · have habove : ∀ x ∈ r, a ≤ x.1 := fun x hx => by have := mapRising_bound h.2 x hx; omega
      have hnone : r.filter (fun x => decide (x.1 < a)) = [] :=
        List.filter_eq_nil_iff.2 fun x hx => by simpa using habove x hx
      have hall : r.filter (fun x => decide (a ≤ x.1)) = r := List.filter_eq_self.2 fun x hx => by simpa using habove x hx
      simp [splice, hlt, Nat.not_lt.1 hlt, hnone, hall]

/-- A read passes entries at lower keys. -/
theorem mapGet_append_above {α : Type} {x : SMap α} {k : Nat} (h : ∀ e ∈ x, e.1 < k) (y : SMap α) (d : α) :
    mapGet (x ++ y) d k = mapGet y d k := by
  induction x with
  | nil => rfl
  | cons e x ih =>
    have he := h e (List.mem_cons_self ..)
    rw [List.cons_append, mapGet, if_neg (by omega), if_neg (by omega), ih fun e he => h e (List.mem_cons_of_mem _ he)]

/-- Nor does it look at entries that lie below a lower key. -/
theorem mapGet_filter_above {α : Type} (m : SMap α) {c k : Nat} (h : c ≤ k) (d : α) :
    mapGet (m.filter (fun e => decide (c ≤ e.1))) d k = mapGet m d k := by
  induction m with
  | nil => rfl
  | cons e m ih =>
    by_cases he : c ≤ e.1
    · simp only [List.filter_cons, he, decide_true, if_true, mapGet, ih]
    · rw [List.filter_cons_of_neg (by simpa using he), ih, mapGet, if_neg (by omega), if_neg (by omega)]

/-- Above a run that is replaced by one that fits a memory is as before. -/
theorem memByte_splice_above {m w : List Host.Cell} {a n j : Nat} (hw : Run a (a + n) w) (hj : a + n ≤ j) :
    memByte (splice m a n w) j = memByte m j := by
  have hlow : ∀ e ∈ m.filter (fun e => decide (e.1 < a)) ++ w, e.1 < j := fun e he => by
    rcases List.mem_append.1 he with he | he
    · have := of_decide_eq_true (List.mem_filter.1 he).2
      omega
    · exact Nat.lt_of_lt_of_le (hw.2 e he).1 hj
  exact (mapGet_append_above hlow _ 0).trans (mapGet_filter_above m hj 0)

/-! ### A loaded spindle (R286) -/

/-- The sections of a well-formed image stand in the program area. -/
theorem imageOk_sections {m : List Host.Cell} {len area : Nat} (h : imageOk m len area = true) :
    ∀ x ∈ imgTable m, x.kind = 5 → x.len = 0 ∨ x.target + x.len ≤ area := by
  intro x hx hk
  simp only [imageOk, Bool.and_eq_true, List.all_eq_true] at h
  obtain ⟨⟨⟨⟨-, hall⟩, -⟩, -⟩, -⟩ := h
  have hsection := hall x hx
  simp only [sectionOk, Bool.and_eq_true, Bool.or_eq_true, decide_eq_true_eq, beq_iff_eq, bne_iff_ne] at hsection
  omega

/-- DATA sections leave what stands above the program area. -/
theorem memByte_sections {m : List Host.Cell} (hm : memWf m = true) {area a : Nat} (ha : area ≤ a) {l : List Section}
    (hl : ∀ x ∈ l, x.kind = 5 → x.len = 0 ∨ x.target + x.len ≤ area) {ls : List Host.Cell} (hls : memWf ls = true) :
    memByte (l.foldl (fun ls x =>
      if x.kind = 5 then splice ls x.target x.len (window m x.off x.len x.target) else ls) ls) a = memByte ls a := by
  induction l generalizing ls with
  | nil => rfl
  | cons x l ih =>
    have hl' := fun y hy => hl y (List.mem_cons_of_mem _ hy)
    rw [List.foldl_cons]
    by_cases hk : x.kind = 5
    · have hrun := window_run hm x.off x.len x.target
      rw [if_pos hk, ih hl' (splice_wf hls hrun)]
      rcases hl x (List.mem_cons_self ..) hk with hnone | hfits
      · rw [hnone, show window m x.off 0 x.target = [] by simp [window], splice_none (memWf_iff.1 hls).1]
      · exact memByte_splice_above hrun (by omega)
    · rw [if_neg hk, ih hl' hls]

theorem loadedSpindle_above {m : List Host.Cell} {len area a : Nat} {sp : Spindle} (hm : memWf m = true)
    (hls : memWf sp.ls = true) (hok : imageOk m len area = true) (ha : area ≤ a) :
    memByte (loadedSpindle m area sp).ls a = memByte sp.ls a :=
  (memByte_sections hm ha (imageOk_sections hok) (splice_wf hls (Run.nil _ _))).trans
    (memByte_splice_above (Run.nil _ _) (by omega))

theorem loadedSpindle_engine (m : List Host.Cell) (area : Nat) (sp : Spindle) {e : Nat} (he : e < 4) :
    spEngine (loadedSpindle m area sp) e = if bit (imgMask m) e then freshEngine (spEngine sp e) .halted (imgEntry m e)
      else freshEngine (spEngine sp e) .idle 0 :=
  (mapGet_foldl_put (fun k _ => if bit (imgMask m) k then freshEngine (spEngine sp k) .halted (imgEntry m k)
    else freshEngine (spEngine sp k) .idle 0) (l := upTo 0 4) (by decide) (m := []) rfl e).trans
      (if_pos ((mem_upTo 0 4).2 ⟨Nat.zero_le e, he⟩))

/-! ### Loading and starting -/

theorem spindleDies_lt {first count : Nat} (h : first + count ≤ 256) : ∀ d ∈ spindleDies first count, d < 32 := by
  intro d hd
  rw [spindleDies] at hd
  split at hd
  · obtain ⟨l, hl, rfl⟩ := List.mem_map.1 (List.mem_eraseDups.1 hd)
    have := (mem_upTo _ _).1 hl
    omega
  · cases hd

theorem spindleRange_of {first count : Nat} (h1 : 1 ≤ count) (h : first + count ≤ 256) : spindleRange first count = true := by
  simp [spindleRange, h1, h]

/-- An image loaded into one logical spindle. -/
def loadInto (m : List Host.Cell) (s : State) (l : Nat) : State :=
  clearChecks (modSp s (spindleOf s l) (loadedSpindle m (programBytes s l))) (spindleOf s l)

theorem portBlind_clearChecks (key : Nat) : PortBlind (fun s => clearChecks s key) :=
  PortBlind.foldl (fun e =>
    have clear (r : Reg) := portBlind_rset r (key / 32) (4 * (key % 32) + e) 0 0
    (clear .exactRangeCount).comp ((clear .slubCount).comp ((clear .slubCapture).comp (clear .excStatus)))) (upTo 0 4)

theorem portBlind_loadInto (m : List Host.Cell) (l : Nat) : PortBlind (fun s => loadInto m s l) := fun s =>
  (portBlind_clearChecks (spindleOf s l)).comp (portBlind_modSp (spindleOf s l) (loadedSpindle m (programBytes s l))) s

theorem staged_loadInto (m : List Host.Cell) (s : State) (l buffer o n : Nat) :
    staged (loadInto m s l) buffer o n = staged s buffer o n := by
  simp [staged, loadInto, clearChecks, modSp, upTo]

/-- No load changes the image that stands in its staging buffer. -/
theorem loadInto_staged (buffer len : Nat) (s : State) (ls : List Nat) :
    ls.foldl (loadInto (staged s buffer 0 len)) s = ls.foldl (fun s l => loadInto (staged s buffer 0 len) s l) s := by
  induction ls generalizing s with
  | nil => rfl
  | cons l ls ih => rw [List.foldl_cons, List.foldl_cons, ← ih, staged_loadInto]

section
variable {s : State} {first count : Nat}

theorem none_unavailable (h : ∀ l, first ≤ l → l < first + count → logicalAvailable s l = true) :
    (upTo first count).any (fun l => !logicalAvailable s l) = false := by
  rw [List.any_eq_false]
  intro l hl
  obtain ⟨hlo, hhi⟩ := (mem_upTo _ _).1 hl
  simp [h l hlo hhi]

theorem progLoad_loads {buffer len : Nat} (h1 : 1 ≤ count) (hr : first + count ≤ 256)
    (ha : ∀ l, first ≤ l → l < first + count → logicalAvailable s l = true) (hb : buffer ≤ 15) (hn : len ≤ 2 ^ 27)
    (hv : imgNum (staged s buffer 0 len) 4 1 = 0x10)
    (hok : imageOk (staged s buffer 0 len) len (((upTo first count).map (programBytes s)).foldl min 0x300000) = true)
    (hidle : ∀ l, first ≤ l → l < first + count → spindleActive s (spindleOf s l) = false) :
    progLoad s first count buffer len = (stOk, 0, (upTo first count).foldl (loadInto (staged s buffer 0 len)) s) := by
  have hkeys : (namedSpindles s first count).any (spindleActive s) = false := by
    rw [List.any_eq_false]
    intro k hk
    obtain ⟨l, hl, rfl⟩ := List.mem_map.1 hk
    obtain ⟨hlo, hhi⟩ := (mem_upTo _ _).1 hl
    simp [hidle l hlo hhi]
  simp only [progLoad, spindleRange_of h1 hr, hv, hok, none_unavailable ha, hkeys, Bool.not_true, Bool.false_eq_true,
    ne_eq, not_true_eq_false, if_false, Nat.not_lt.2 hb, Nat.not_lt.2 hn, or_self]
  rfl

theorem progStart_starts (h1 : 1 ≤ count) (hr : first + count ≤ 256)
    (ha : ∀ l, first ≤ l → l < first + count → logicalAvailable s l = true) :
    progStart s first count = (stOk, 0, (namedSpindles s first count).foldl (fun s k => modSp s k startSpindle) s) := by
  simp only [progStart, spindleRange_of h1 hr, none_unavailable ha, Bool.not_true, Bool.false_eq_true, if_false]

end

/-- Settles O15: both commands' checks and steps are the same whatever is remembered, and a loaded spindle is read field by
field. -/
theorem programsLoadAndStart : Obligations.ProgramsLoadAndStart := by
  refine ⟨fun s tag first count buffer len hacc hst h1 hr ha => ⟨fun hb hn hv hok hidle => ⟨_, rfl, ?_⟩, _, rfl, ?_⟩,
    fun m area sp => ⟨rfl, rfl, rfl, rfl, rfl, rfl, rfl, rfl, fun e he => loadedSpindle_engine m area sp he,
      fun hm hls hok a => loadedSpindle_above hm hls hok⟩⟩
  · have hdone := takeCommand_steps (c := cmdProgLoad tag first count buffer len) (opcode := 0x30)
      (PortBlind.foldl (portBlind_loadInto (staged s buffer 0 len)) (upTo first count)) hacc rfl rfl rfl rfl (fun _ => hst)
      (spindleDies_lt hr) (fun p => congrArg (settle tag 0x30)
        (progLoad_loads (s := modCp s (fun _ => p)) h1 hr ha hb hn hv hok hidle))
    rwa [loadInto_staged] at hdone
  · exact takeCommand_steps (c := cmdProgStart tag first count)
      (PortBlind.foldl (fun key => portBlind_modSp key startSpindle) (namedSpindles s first count)) hacc rfl rfl rfl rfl
      (fun _ => hst) (spindleDies_lt hr) (fun p => congrArg (settle tag 0x31)
        (progStart_starts (s := modCp s (fun _ => p)) h1 hr ha))

end Sys2Proof.Machine
end

section
/-! SUPPORT. O21: the steps of the debug commands do not look at the control port; and an Erg write changes the Erg alone
(R341, R475, R476). -/

namespace Sys2Proof.Machine

/-! ### Waits, flags and barchans do not look at the control port -/

/-- A step that depends on something read besides the control port. -/
theorem PortBlind.reading {β : Type} {g : State → β} (hg : ∀ s c, g (modCp s (fun _ => c)) = g s) {f : β → State → State}
    (hf : ∀ b, PortBlind (f b)) : PortBlind (fun s => f (g s) s) :=
  fun s => ⟨(hf (g s) s).1, fun c => (congrArg (f · (modCp s (fun _ => c))) (hg s c)).trans ((hf (g s) s).2 c)⟩

theorem PortBlind.ite {p : Prop} [Decidable p] {f g : State → State} (hf : PortBlind f) (hg : PortBlind g) :
    PortBlind (fun s => if p then f s else g s) := by
  by_cases h : p
  · simpa only [h, if_true] using hf
  · simpa only [h, if_false] using hg

theorem portBlind_modEng (key i : Nat) (f : Engine → Engine) : PortBlind (fun s => modEng s key i f) := fun _ => ⟨rfl, fun _ => rfl⟩

theorem portBlind_finishDrain (key i : Nat) : PortBlind (fun s => finishDrain s key i) := fun _ => ⟨rfl, fun _ => rfl⟩

theorem portBlind_endWait (key i : Nat) : PortBlind (fun s => endWait s key i 0) :=
  PortBlind.reading (g := fun s => (getEng s key i).debugHalt) (fun _ _ => rfl)
    (f := fun halt s => if halt then modEng s key i (heldAfter (some 0)) else finishDrain s key i)
    (fun _ => .ite (portBlind_modEng key i _) (portBlind_finishDrain key i))

theorem portBlind_settleFlag (key n : Nat) : PortBlind (fun s => settleFlag s key n) :=
  PortBlind.reading (g := fun s => (flagWaiters s key n, flagOf s key n, engineClocked s key)) (fun _ _ => rfl)
    (f := fun r s => if r.2.1 ∧ r.2.2 then
        let s := r.1.foldl (fun s (w : Nat × Bool) => endWait s key w.1 0) s
        if r.1.any (·.2) then modSp s key (fun sp => { sp with clearing := sp.clearing ||| BitVec.ofNat 64 (2 ^ n) }) else s
      else s)
    (fun r => .ite
      (.comp (f := fun s => if r.1.any (·.2) then
          modSp s key (fun sp => { sp with clearing := sp.clearing ||| BitVec.ofNat 64 (2 ^ n) }) else s)
        (.ite (portBlind_modSp key _) portBlind_id) (.foldl (fun w => portBlind_endWait key w.1) r.1))
      portBlind_id)

/-- The cycle in which a raise takes effect: a later one may begin where the flag is to be cleared. -/
def raiseCycle (s : State) (key n : Nat) : State :=
  let (later, s) := if flagClearing s key n then let (b, s) := freeBelow 2 s; (b == 1, s) else (false, s)
  if later then newCycle s key else s

theorem portBlind_raiseCycle (key n : Nat) : PortBlind (fun s => raiseCycle s key n) := by
  have htake : PortBlind (fun s => { s with freeCtr := s.freeCtr + 1 }) := fun _ => ⟨rfl, fun _ => rfl⟩
  have hshape : (fun s => raiseCycle s key n) = fun s => if flagClearing s key n then
      (if (Config.freeWord s.freeCtr).toNat % 2 == 1 then newCycle { s with freeCtr := s.freeCtr + 1 } key
        else { s with freeCtr := s.freeCtr + 1 }) else s := by
    funext s
    unfold raiseCycle
    cases flagClearing s key n with
    | false => rfl
    | true => rfl
  rw [hshape]
  exact PortBlind.reading (g := fun s => (flagClearing s key n, (Config.freeWord s.freeCtr).toNat % 2 == 1)) (fun _ _ => rfl)
    (f := fun r s => if r.1 then (if r.2 then newCycle { s with freeCtr := s.freeCtr + 1 } key
      else { s with freeCtr := s.freeCtr + 1 }) else s)
    (fun r => .ite (.ite (.comp (portBlind_modSp key _) htake) htake) portBlind_id)

theorem portBlind_raiseFlag (key n : Nat) : PortBlind (fun s => raiseFlag s key n) :=
  (portBlind_settleFlag key n).comp ((portBlind_modSp key _).comp (portBlind_raiseCycle key n))

theorem portBlind_settleBarWaits (die home b : Nat) : PortBlind (fun s => settleBarWaits s die home b) :=
  PortBlind.reading (g := fun s => getBarchan (getSp s (localSpindle s die home)) b) (fun _ _ => rfl)
    (f := fun v s => (upTo 0 64).foldl (fun s p =>
      let key := localSpindle s die (p / 4)
      match waitsAt (getSp s key) (p % 4) 0x23 with
      | some c => if bits c 43 32 = 16 * home + b ∧ barDone v p ∧ engineClocked s key then endWait s key (p % 4) 0 else s
      | none => s) s)
    (fun v => .foldl (fun p => .reading
      (g := fun s => (localSpindle s die (p / 4), waitsAt (getSp s (localSpindle s die (p / 4))) (p % 4) 0x23,
        engineClocked s (localSpindle s die (p / 4)))) (fun _ _ => rfl)
      (f := fun r s => match r.2.1 with
        | some c => if bits c 43 32 = 16 * home + b ∧ barDone v p ∧ r.2.2 then endWait s r.1 (p % 4) 0 else s
        | none => s)
      (fun r => by
        obtain ⟨key, _ | c, clocked⟩ := r
        · exact portBlind_id
        · exact .ite (portBlind_endWait key (p % 4)) portBlind_id)) (upTo 0 64))

theorem portBlind_setBarchan (key b : Nat) (v : Barchan) : PortBlind (fun s => setBarchan s key b v) :=
  portBlind_modSp key _

theorem portBlind_release (key b : Nat) : PortBlind (fun s => release s key b) :=
  PortBlind.reading (g := fun s => getBarchan (getSp s key) b) (fun _ _ => rfl)
    (f := fun v s => (fun s => match logicalOf s key with
        | some l => settleBarWaits s (key / 32) (l % 16) b
        | none => s)
      (setBarchan s key b { v with sense := !v.sense, cur := v.next, next := 0, releases := v.releases + 1 }))
    (fun v => .comp (.reading (g := fun s => logicalOf s key) (fun _ _ => rfl)
      (f := fun l s => match l with
        | some l => settleBarWaits s (key / 32) (l % 16) b
        | none => s)
      (fun l => by
        cases l with
        | none => exact portBlind_id
        | some l => exact portBlind_settleBarWaits (key / 32) (l % 16) b)) (portBlind_setBarchan key b _))

theorem portBlind_releaseDue (key b : Nat) : PortBlind (fun s => releaseDue s key b) :=
  PortBlind.reading (g := fun s => getBarchan (getSp s key) b) (fun _ _ => rfl)
    (f := fun v s => if v.members ≠ 0 ∧ popCount 64 v.cur.toNat = popCount 64 v.members.toNat then release s key b else s)
    (fun _ => .ite (portBlind_release key b) portBlind_id)

/-- An arrival at a barchan as it stands. -/
def arrivalAt (available : Bool) (key b p : Nat) (v : Barchan) (s : State) : Nat × State :=
  if !available then (3, s)
  else if !(wbit v.members p) then (1, s)
  else if !(wbit v.cur p) then (0, setBarchan s key b { v with cur := v.cur ||| word (2 ^ p) })
  else if !(wbit v.next p) then (0, setBarchan s key b { v with next := v.next ||| word (2 ^ p) })
  else (2, s)

theorem applyArrival_eq (s : State) (die home b p : Nat) :
    applyArrival s die home b p = arrivalAt (logicalAvailable s (16 * (die - 10) + home)) (localSpindle s die home) b p
      (getBarchan (getSp s (localSpindle s die home)) b) s := rfl

theorem applyArrival_out (s : State) (die home b p : Nat) : (applyArrival s die home b p).2.out = s.out := by
  rw [applyArrival_eq]
  unfold arrivalAt
  split_ifs <;> rfl

theorem applyArrival_port (s : State) (die home b p : Nat) (c : ControlPort) :
    applyArrival (modCp s (fun _ => c)) die home b p
      = ((applyArrival s die home b p).1, modCp (applyArrival s die home b p).2 (fun _ => c)) := by
  show arrivalAt (logicalAvailable s (16 * (die - 10) + home)) (localSpindle s die home) b p
    (getBarchan (getSp s (localSpindle s die home)) b) (modCp s (fun _ => c)) = _
  rw [applyArrival_eq]
  unfold arrivalAt
  split_ifs <;> rfl

/-- A refused arrival changes nothing. -/
theorem applyArrival_refused {s x : State} {die home b p cause : Nat} (h : applyArrival s die home b p = (cause, x))
    (hc : cause ≠ 0) : x = s := by
  rw [applyArrival_eq, arrivalAt] at h
  split_ifs at h <;> simp_all

/-! ### `debug.sync` (R341) -/

theorem spindleNamed_iff {die slot : Nat} (h : spindleNamed die slot = true) : 10 ≤ die ∧ die < 26 ∧ slot < 17 := by
  simpa [spindleNamed, and_assoc] using h

theorem spindleNamed_die {die slot : Nat} (h : spindleNamed die slot = true) : ∀ d ∈ [die], d < 32 := by
  obtain ⟨-, hdie, -⟩ := spindleNamed_iff h
  exact List.forall_mem_singleton.2 (by omega)

theorem spKey_die {die slot : Nat} (h : spindleNamed die slot = true) : spKey die slot / 32 = die := by
  obtain ⟨-, -, hslot⟩ := spindleNamed_iff h
  unfold spKey
  omega

section
variable {s : State} {tag die slot : Nat} (hacc : accepts s tag = true) (hreach : debugReaches s 2 die = true)
  (hnamed : spindleNamed die slot = true) (hlive : spindleLive s (32 * die + slot) = true)

include hnamed hlive in
/-- An operation of legal parameters is carried out and its word answered. -/
theorem debugSync_legal {op n p : Nat} (hop : 1 ≤ op ∧ op ≤ 5) (hn : n ≤ if op ≤ 2 then 63 else 15) (hp : op = 3 → p ≤ 63) :
    debugSync s tag die slot op n p = answerOk (syncOperation s (spKey die slot) op n p).2 tag 0x55
      [word (syncOperation s (spKey die slot) op n p).1] := by
  have hlegal : ¬ (!spindleNamed die slot ∨ op = 0 ∨ 5 < op ∨ (if op ≤ 2 then 63 else 15) < n ∨ (op = 3 ∧ 63 < p)) := by
    simp only [hnamed, Bool.not_true, Bool.false_eq_true, false_or]
    omega
  have hup : spindleLive s (spKey die slot) = true := hlive
  simp only [debugSync, if_neg hlegal, hup, Bool.not_true, Bool.false_eq_true, if_false]

include hacc hreach hnamed hlive in
/-- What an operation of `debug.sync` does is done, whatever the control port holds. -/
theorem syncs {op n p w : Nat} {f : State → State} (hf : PortBlind f) (hop : 1 ≤ op ∧ op ≤ 5)
    (hn : n ≤ if op ≤ 2 then 63 else 15) (hp : op = 3 → p ≤ 63)
    (hdo : ∀ c, syncOperation (modCp s (fun _ => c)) (spKey die slot) op n p = (w, f (modCp s (fun _ => c)))) :
    Done s (f s) (takeCommand s (cmdDebugSync s tag die slot op n p)) tag 0x55 [word w] :=
  takeCommand_steps (c := cmdDebugSync s tag die slot op n p) hf hacc rfl rfl rfl hreach (fun h => absurd h Bool.false_ne_true)
    (spindleNamed_die hnamed) (fun c =>
      (debugSync_legal (s := modCp s (fun _ => c)) hnamed hlive hop hn hp).trans (by rw [hdo]))

include hnamed in
/-- BARCHAN_ARRIVE, by what becomes of the arrival. -/
theorem syncOperation_arrive {n p cause : Nat} {x : State}
    (hx : applyArrival s die (localIndex s (spKey die slot)) n p = (cause, x)) (c : ControlPort) :
    syncOperation (modCp s (fun _ => c)) (spKey die slot) 3 n p
      = (cause, if cause = 0 then releaseDue (modCp x (fun _ => c)) (spKey die slot) n else modCp x (fun _ => c)) := by
  have harrive : applyArrival (modCp s (fun _ => c)) (spKey die slot / 32) (localIndex s (spKey die slot)) n p
      = (cause, modCp x (fun _ => c)) := by
    rw [spKey_die hnamed, applyArrival_port, hx]
  show (let (cause, s) := applyArrival (modCp s (fun _ => c)) (spKey die slot / 32) (localIndex s (spKey die slot)) n p
    (cause, if cause = 0 then releaseDue s (spKey die slot) n else s)) = _
  rw [harrive]

include hacc hreach hnamed hlive in
theorem flagClears {n : Nat} (hn : n < 64) :
    Done s (putFlag s (spKey die slot) n false) (takeCommand s (cmdDebugSync s tag die slot 2 n 0)) tag 0x55 [0] :=
  syncs hacc hreach hnamed hlive (f := fun s => putFlag s (spKey die slot) n false) (portBlind_modSp _ _) (by decide)
    (show n ≤ 63 by omega) (fun h => absurd h (by decide)) (fun _ => rfl)

include hacc hreach hnamed hlive in
theorem barchanClears {n : Nat} (hn : n < 16) :
    Done s (settleBarWaits (setBarchan s (spKey die slot) n
        { getBarchan (getSp s (spKey die slot)) n with cur := 0, next := 0 }) die (localIndex s (spKey die slot)) n)
      (takeCommand s (cmdDebugSync s tag die slot 5 n 0)) tag 0x55 [0] := by
  have hclear := (portBlind_settleBarWaits die (localIndex s (spKey die slot)) n).comp (portBlind_setBarchan (spKey die slot) n
    { getBarchan (getSp s (spKey die slot)) n with cur := 0, next := 0 })
  have hdone := syncs (tag := tag) hacc hreach hnamed hlive hclear (op := 5) (p := 0) (w := 0) (by decide)
    (show n ≤ 15 by omega) (fun h => absurd h (by decide)) (fun c => by
      show (0, settleBarWaits _ (spKey die slot / 32) _ n) = _
      rw [spKey_die hnamed]
      rfl)
  exact hdone

include hacc hreach hnamed hlive in
theorem arrive_accepted {n p : Nat} (hn : n < 16) (hp : p < 64) {x : State}
    (hx : applyArrival s die (localIndex s (spKey die slot)) n p = (0, x)) :
    Done s (releaseDue x (spKey die slot) n) (takeCommand s (cmdDebugSync s tag die slot 3 n p)) tag 0x55 [0] := by
  have harrive : PortBlind (fun t => (applyArrival t die (localIndex s (spKey die slot)) n p).2) := fun t =>
    ⟨applyArrival_out .., fun c => congrArg (·.2) (applyArrival_port t die _ n p c)⟩
  have hdone := syncs (tag := tag) hacc hreach hnamed hlive ((portBlind_releaseDue (spKey die slot) n).comp harrive)
    (op := 3) (p := p) (w := 0) (by decide) (show n ≤ 15 by omega) (fun _ => by omega)
    (fun c => (syncOperation_arrive hnamed hx c).trans (by rw [applyArrival_port, hx]; rfl))
  rwa [hx] at hdone

include hacc hreach hnamed hlive in
theorem arrive_refused {n p cause : Nat} (hn : n < 16) (hp : p < 64) {x : State}
    (hx : applyArrival s die (localIndex s (spKey die slot)) n p = (cause, x)) (hc : cause ≠ 0) :
    Done s s (takeCommand s (cmdDebugSync s tag die slot 3 n p)) tag 0x55 [word cause] :=
  syncs hacc hreach hnamed hlive portBlind_id (by decide) (show n ≤ 15 by omega) (fun _ => by omega)
    (fun c => (syncOperation_arrive hnamed hx c).trans (by rw [if_neg hc, applyArrival_refused hx hc]))

end

/-! ### `debug.engine` (R475) -/

section
variable {s : State} {tag die slot engine : Nat} (hacc : accepts s tag = true) (hreach : debugReaches s 2 die = true)
  (hnamed : spindleNamed die slot = true) (hengine : engine < 4) (hlive : spindleLive s (spKey die slot) = true)
include hacc hreach hnamed hengine hlive

theorem engineActs {action : Nat} (haction : action ≤ 1) :
    Done s (modEng s (spKey die slot) engine (if action = 0 then haltByDebug
        else releaseByDebug (eget s .excStatus (spKey die slot) engine 0 12 0)))
      (takeCommand s (cmdDebugEngine s tag die slot engine action)) tag 0x52 [] := by
  have hlegal : ¬ (!spindleNamed die slot ∨ 3 < engine ∨ 1 < action) := by
    simp only [hnamed, Bool.not_true, Bool.false_eq_true, false_or]
    omega
  refine takeCommand_steps (c := cmdDebugEngine s tag die slot engine action) (opcode := 0x52) (portBlind_modEng _ _ _) hacc rfl
    rfl rfl hreach (fun h => absurd h Bool.false_ne_true) (spindleNamed_die hnamed) (fun c => ?_)
  have hup : spindleLive (modCp s (fun _ => c)) (spKey die slot) = true := hlive
  show debugEngine (modCp s (fun _ => c)) tag die slot engine action = _
  simp only [debugEngine, if_neg hlegal, hup, Bool.not_true, Bool.false_eq_true, if_false]
  rfl

end

/-! ### `debug.read` and `debug.write` (R476) -/

section
variable {s : State} {tag die slot addr len : Nat} {data : List Byte}

/-- A session of level 2 or 3 is open where it reaches a die. -/
theorem debugLevel_of_reaches (h : debugReaches s 2 die = true) : 2 ≤ debugLevel s := by
  unfold debugReaches at h
  unfold debugLevel
  split at h
  · cases h
  · next hs =>
    rw [hs]
    simp only [Bool.and_eq_true, decide_eq_true_eq] at h
    exact h.1

theorem localPermitted (h : debugReaches s 2 die = true) : accessPermitted s 0 die addr len = true := by
  simp [accessPermitted, accessDies, debugLevel_of_reaches h, h]

theorem accessLegal_local (h1 : 1 ≤ len) (h : len ≤ 8192) : accessLegal 0 die slot addr len = true := by
  simp [accessLegal, h1, h]

theorem accessLegal_erg (h1 : 1 ≤ len) (h : len ≤ 8192) (hn : ergNamed addr = true) : accessLegal 1 0 0 addr len = true := by
  simp [accessLegal, h1, h, hn]

theorem ergDies_lt : ∀ d ∈ accessDies 1 0 addr len, d < 32 := by
  intro d hd
  simp only [accessDies, if_true] at hd
  split at hd
  · obtain ⟨q, -, rfl⟩ := List.mem_map.1 (List.mem_eraseDups.1 hd)
    have hbits : bits q.1 13 12 < 4 := Nat.mod_lt _ (by decide)
    omega
  · cases hd

theorem localAccess_reads (hn : spindleNamed die slot = true) (ha : addr + len ≤ 0x300000)
    (hl : spindleLive s (spKey die slot) = true) (hm : spindleMoves s (spKey die slot) = false) :
    localAccess s die slot addr len false = stOk := by
  simp [localAccess, hn, hl, hm, Nat.not_lt.2 ha]

theorem localAccess_writes (hn : spindleNamed die slot = true) (ha : addr + len ≤ 0x300000)
    (hl : spindleLive s (spKey die slot) = true) (hm : spindleMoves s (spKey die slot) = false)
    (hc : (getSp s (spKey die slot)).claims = [] ∨ addr + len ≤ 0x300000 - 4096 * fget s .slotLimit die slot 0 11 0) :
    localAccess s die slot addr len true = stOk := by
  have hbusy : ¬ ((getSp s (spKey die slot)).claims ≠ []
      ∧ 0x300000 - 4096 * fget s .slotLimit die slot 0 11 0 < addr + len) := by
    rintro ⟨hne, hlt⟩
    rcases hc with h | h
    · exact hne h
    · omega
  simp only [localAccess, hn, hl, hm, Nat.not_lt.2 ha, hbusy, Bool.not_true, Bool.false_eq_true, or_self, if_false, and_false]

/-- A status that is not replaced. -/
theorem debugStatus_ok (region o : Nat) : debugStatus s region o stOk = stOk := if_neg (fun h => absurd h.1 (by decide))

theorem firstOf_eq_ok {l : List Nat} : firstOf l = stOk ↔ ∀ a ∈ l, a = stOk := by
  induction l with
  | nil => simp [firstOf]
  | cons a l ih =>
    rw [firstOf]
    split
    · next h => simp [h, ih]
    · next h => simp [h]

/-- Where every granule can be read as R352 says, debug can. -/
theorem debugStatuses_ok {region : Nat} {ps : List (Nat × Nat)} (h : readStatus s region ps = stOk) :
    firstOf (ps.map (fun p => debugStatus s region p.1 (pieceStatus s region p.1 p.2 true))) = stOk := by
  refine firstOf_eq_ok.2 (List.forall_mem_map.2 fun p hp => ?_)
  rw [firstOf_eq_ok.1 h _ (List.mem_map_of_mem hp), debugStatus_ok]

/-- A write of granules changes the Erg alone, whatever the control port holds. -/
theorem writePieces_port {region o : Nat} {src : List Host.Cell} {ps : List (Nat × Nat)} {n m st : Nat} {s x : State}
    (h : writePieces region o src ps n s = (st, m, x)) (c : ControlPort) :
    writePieces region o src ps n (modCp s (fun _ => c)) = (st, m, { modCp s (fun _ => c) with erg := x.erg }) := by
  induction ps generalizing n s with
  | nil =>
    cases h
    rfl
  | cons p ps ih =>
    have hstatus : pieceStatus (modCp s (fun _ => c)) region p.1 p.2 false = pieceStatus s region p.1 p.2 false := rfl
    rw [writePieces] at h ⊢
    rw [hstatus]
    split at h
    · next hst =>
      cases h
      rw [if_pos hst]
      rfl
    · next hst =>
      rw [if_neg hst]
      exact ih h

variable (hacc : accepts s tag = true) (h1 : 1 ≤ len) (hlen : len ≤ 8192)
include hacc h1 hlen

theorem readsLocal (hreach : debugReaches s 2 die = true) (hn : spindleNamed die slot = true) (ha : addr + len ≤ 0x300000)
    (hl : spindleLive s (spKey die slot) = true) (hm : spindleMoves s (spKey die slot) = false) :
    Replies s (takeCommand s (cmdDebugRead s tag 0 die slot addr len)) tag 0x53 stOk
        (memRead (localStore s (spKey die slot)) addr len) ∧
      takeCommand s (cmdDebugRead s tag 0 die slot addr len) = { s with
        cp := (takeCommand s (cmdDebugRead s tag 0 die slot addr len)).cp,
        out := (takeCommand s (cmdDebugRead s tag 0 die slot addr len)).out } := by
  refine takeCommand_fails hacc rfl rfl rfl (localPermitted hreach) (fun h => absurd h Bool.false_ne_true)
    (spindleNamed_die hn) (fun r => ?_)
  have haccess := localAccess_reads (s := { s with cp := { s.cp with remembered := r } }) hn ha hl hm
  show debugRead _ tag 0 die slot addr len = _
  simp only [debugRead, accessLegal_local h1 hlen, haccess, Bool.not_true, Bool.false_eq_true, if_false, if_true, ne_eq,
    not_true_eq_false]
  rfl

theorem writesLocal (hd : data.length = len) (hreach : debugReaches s 2 die = true) (hn : spindleNamed die slot = true)
    (ha : addr + len ≤ 0x300000) (hl : spindleLive s (spKey die slot) = true)
    (hm : spindleMoves s (spKey die slot) = false)
    (hc : (getSp s (spKey die slot)).claims = [] ∨ addr + len ≤ 0x300000 - 4096 * fget s .slotLimit die slot 0 11 0) :
    Done s (modSp s (spKey die slot) (fun sp => spWrite sp addr data))
      (takeCommand s (cmdDebugWrite s tag 0 die slot addr len data)) tag 0x54 [] := by
  refine takeCommand_steps (c := cmdDebugWrite s tag 0 die slot addr len data) (opcode := 0x54) (portBlind_modSp _ _) hacc rfl rfl
    (beq_iff_eq.2 hd) (localPermitted hreach) (fun h => absurd h Bool.false_ne_true) (spindleNamed_die hn) (fun c => ?_)
  have haccess := localAccess_writes (s := modCp s (fun _ => c)) hn ha hl hm hc
  show debugWrite _ tag 0 die slot addr len data = _
  simp only [debugWrite, accessLegal_local h1 hlen, haccess, Bool.not_true, Bool.false_eq_true, if_false, if_true, ne_eq,
    not_true_eq_false]

variable (hn : ergNamed addr = true) (hp : accessPermitted s 1 0 addr len = true)
include hn hp

theorem readsErg (hok : readStatus s (hndRegion (word addr)) (ergPieces addr len) = stOk) :
    Replies s (takeCommand s (cmdDebugRead s tag 1 0 0 addr len)) tag 0x53 stOk
        (ergRead s (hndRegion (word addr) - 1) (hndOffset (word addr)) len) ∧
      takeCommand s (cmdDebugRead s tag 1 0 0 addr len) = { s with
        cp := (takeCommand s (cmdDebugRead s tag 1 0 0 addr len)).cp,
        out := (takeCommand s (cmdDebugRead s tag 1 0 0 addr len)).out } := by
  refine takeCommand_fails hacc rfl rfl rfl hp (fun h => absurd h Bool.false_ne_true) ergDies_lt (fun r => ?_)
  have hstatus := debugStatuses_ok (s := { s with cp := { s.cp with remembered := r } }) hok
  show debugRead _ tag 1 0 0 addr len = _
  simp only [debugRead, accessLegal_erg h1 hlen hn, hstatus, Bool.not_true, Bool.false_eq_true, if_false, ne_eq,
    not_true_eq_false, one_ne_zero]
  rfl

theorem writesErg (hd : data.length = len) {m : Nat} {x : State}
    (hx : writePieces (hndRegion (word addr)) (hndOffset (word addr)) (memWrite [] 0 data) (ergPieces addr len) 0 s
      = (stOk, m, x)) :
    Done s { s with erg := x.erg } (takeCommand s (cmdDebugWrite s tag 1 0 0 addr len data)) tag 0x54 [] := by
  refine takeCommand_steps (c := cmdDebugWrite s tag 1 0 0 addr len data) (opcode := 0x54) (f := fun s => { s with erg := x.erg })
    (fun _ => ⟨rfl, fun _ => rfl⟩) hacc rfl rfl (beq_iff_eq.2 hd) hp (fun h => absurd h Bool.false_ne_true) ergDies_lt
    (fun c => ?_)
  show debugWrite _ tag 1 0 0 addr len data = _
  simp only [debugWrite, accessLegal_erg h1 hlen hn, writePieces_port hx, debugStatus_ok, Bool.not_true, Bool.false_eq_true,
    if_false, ne_eq, not_true_eq_false, one_ne_zero]

end

/-- Settles O21: every step is made whatever the control port holds; an arrival is taken by what becomes of it, and a write of
the Erg granule by granule. -/
theorem debugCommandsAct : Obligations.DebugCommandsAct := by
  refine ⟨fun s tag die slot engine hacc hreach hnamed hengine hlive =>
      ⟨⟨_, rfl, engineActs hacc hreach hnamed hengine hlive (action := 0) (by decide)⟩,
        ⟨_, rfl, engineActs hacc hreach hnamed hengine hlive (action := 1) (by decide)⟩⟩,
    fun s tag die slot addr len data hacc h1 hlen hd => ⟨fun hreach hn ha hl hm =>
        ⟨⟨_, rfl, readsLocal hacc h1 hlen hreach hn ha hl hm⟩,
          fun hc => ⟨_, rfl, writesLocal hacc h1 hlen hd hreach hn ha hl hm hc⟩⟩,
      fun hn hp => ⟨fun hok => ⟨_, rfl, readsErg hacc h1 hlen hn hp hok⟩,
        fun m x hx => ⟨_, rfl, writesErg hacc h1 hlen hn hp hd hx⟩⟩⟩,
    fun s tag die slot n p hacc hreach hnamed hlive => ⟨fun hn => ⟨⟨_, rfl, ?_⟩, ⟨_, rfl, ?_⟩⟩,
      fun hn => ⟨fun hp x hx => ⟨_, rfl, arrive_accepted hacc hreach hnamed hlive hn hp hx⟩,
        fun hp cause x hx hc => ⟨_, rfl, arrive_refused hacc hreach hnamed hlive hn hp hx hc⟩, ⟨_, rfl, ?_⟩, ⟨_, rfl, ?_⟩⟩⟩⟩
  · exact syncs hacc hreach hnamed hlive (portBlind_raiseFlag (spKey die slot) n) (by decide) (show n ≤ 63 by omega)
      (fun h => absurd h (by decide)) (fun _ => rfl)
  · exact flagClears hacc hreach hnamed hlive hn
  · exact syncs hacc hreach hnamed hlive (portBlind_release (spKey die slot) n) (by decide) (show n ≤ 15 by omega)
      (fun h => absurd h (by decide)) (fun _ => rfl)
  · exact barchanClears hacc hreach hnamed hlive hn

end Sys2Proof.Machine
end

section
/-! SUPPORT. The control and scalar commands, and O52 (R254, R255, R258-R264). -/

namespace Sys2Proof.Machine

theorem planWhorl_settled : Settled planWhorl := by
  intro s hs key i c rep
  obtain ⟨v, hv⟩ := getEng_beginCycle hs key i
  simp only [planWhorl, hv]
  rfl

theorem planSOp_settled : Settled planSOp := by
  intro s hs key i c rep
  obtain ⟨v, hv⟩ := getEng_beginCycle hs key i
  simp only [planSOp, hv]
  rfl

theorem planASet_settled : Settled planASet := by
  intro s hs key i c rep
  obtain ⟨v, hv⟩ := getEng_beginCycle hs key i
  simp only [planASet, hv]
  rfl

/-- A command that has not begun and whose predicate is false is skipped (R255), where its predicate register is not read early. -/
theorem execCmd_skips {s : State} (hs : Sound s) {die slot i op c : Nat} (hr : 10 ≤ die ∧ die < 26 ∧ slot < 17 ∧ i < 4)
    (plan : Nat → Nat → Nat → State → Nat → Plan) (h : standsAt s (spKey die slot) i op c = true)
    (hcount : (getEng s (spKey die slot) i).count = none) (hpred : predicate (getEng s (spKey die slot) i) c = false)
    (hreads : (readHazards (getEng s (spKey die slot) i) (getEng s (spKey die slot) i).now (getEng s (spKey die slot) i).pc
      (predReads c)).isEmpty = true) :
    execCmd die slot i op plan s = .next (skip (beginCycle s (spKey die slot) i) (spKey die slot) i) := by
  rw [List.isEmpty_iff] at hreads
  rw [execCmd, if_pos hr]
  simp only [atCommand_stands hs h, issueCmd, landed_beginCycle hs h, setSp_self (beginCycle_sound hs _ i), count_beginCycle hs,
    hcount, predicate_beginCycle hs, hpred, readHazards_beginCycle hs, hreads, Bool.not_false, if_true]
  rfl

/-- A WHORL meets no exception (R259): its count is below 2^32, its whorl is free and a level is left, and its body ends within
the program and within every active whorl. -/
theorem planWhorl_ok {s : State} {key i c rep : Nat} (hcount : whorlCount (getEng s key i) c < 2 ^ 32)
    (hfree : (lReg (getEng s key i) (bits c 33 32)).active = false) (hdepth : (activeWhorls (getEng s key i)).length < 4)
    (hend : (getEng s key i).pc + bits c 52 40 ≤ 8191)
    (hbound : ∀ m ∈ activeWhorls (getEng s key i), (getEng s key i).pc + bits c 52 40 ≤ (lReg (getEng s key i) m).last.toNat) :
    (planWhorl key i c s rep).errs = [] := by
  have hlevel : ¬ ((lReg (getEng s key i) (bits c 33 32)).active = true ∨ (activeWhorls (getEng s key i)).length = 4) :=
    not_or.2 ⟨Bool.eq_false_iff.1 hfree, hdepth.ne⟩
  have hbody : ¬ (8191 < (getEng s key i).pc + bits c 52 40 ∨ (activeWhorls (getEng s key i)).any
      (fun m => decide ((lReg (getEng s key i) m).last.toNat < (getEng s key i).pc + bits c 52 40)) = true) := by
    simpa only [List.any_eq_true, decide_eq_true_eq, not_or, not_lt, not_exists, not_and] using And.intro hend hbound
  simp only [planWhorl, if_neg (Nat.not_le.2 hcount), if_neg hlevel, if_neg hbody, List.append_nil]

theorem word_b2n (b : Bool) : word (b2n b) = if b then 1 else 0 := by
  cases b <;> rfl

/-- Settles O52: each command issues by its plan (`execCmd_performs`), or is skipped (`execCmd_skips`); a WHORL's checks pass
(`planWhorl_ok`), and a comparison of S.OP is 1 or 0 (`word_b2n`). -/
theorem controlAndScalarCommandsIssue : Obligations.ControlAndScalarCommandsIssue := by
  intro s die slot i c rep n hlo hhi hslot hi hs
  have hr : 10 ≤ die ∧ die < 26 ∧ slot < 17 ∧ i < 4 := ⟨hlo, hhi, hslot, hi⟩
  intro key e b l len imm cnt cntReads
  refine ⟨?nop, ?jTaken, ?jSkipped, ?whorl, ?sLi, ?sOp, ?aSet⟩
  case nop =>
    intro hc hu
    exact execCmd_performs (plan := planNop) hs hr (fun _ _ _ _ _ _ => rfl) hc rfl hu rfl rfl rfl rfl rfl rfl rfl
  case jTaken =>
    intro hc hu
    exact execCmd_performs (plan := planJ) hs hr (fun _ _ _ _ _ _ => rfl) hc rfl hu rfl rfl rfl rfl rfl rfl rfl
  case jSkipped =>
    intro hst hcount hpred hreads
    exact execCmd_skips hs hr planJ hst hcount hpred hreads
  case whorl =>
    intro hc hu hcnt hfree hdepth hend hbound
    exact execCmd_performs hs hr planWhorl_settled hc rfl hu (planWhorl_ok hcnt hfree hdepth hend hbound) rfl rfl rfl rfl rfl rfl
  case sLi =>
    intro hc hu
    exact execCmd_performs (plan := planSLi) hs hr (fun _ _ _ _ _ _ => rfl) hc rfl hu rfl rfl rfl rfl rfl rfl rfl
  case sOp =>
    intro hc y x hu v hv
    have hvalue : scalarOp (bits c 52 48) x y = v := by
      simp only [List.mem_cons, List.not_mem_nil, or_false, Prod.mk.injEq] at hv
      obtain ⟨hop, rfl⟩ | ⟨hop, rfl⟩ | ⟨hop, rfl⟩ | ⟨hop, rfl⟩ | ⟨hop, rfl⟩ | ⟨hop, rfl⟩ | ⟨hop, rfl⟩ | ⟨hop, rfl⟩ | ⟨hop, rfl⟩
        | ⟨hop, rfl⟩ | ⟨hop, rfl⟩ | ⟨hop, rfl⟩ | ⟨hop, rfl⟩ | ⟨hop, rfl⟩ | ⟨hop, rfl⟩ | ⟨hop, rfl⟩ | ⟨hop, rfl⟩ | ⟨hop, rfl⟩ := hv
      all_goals simp only [hop, scalarOp, word_b2n, beq_iff_eq, bne_iff_ne, ne_eq, ite_not, decide_eq_true_eq, BitVec.lt_def,
        BitVec.le_def]
    exact execCmd_performs hs hr planSOp_settled hc rfl hu rfl rfl (by rw [← hvalue]; rfl) rfl rfl rfl rfl
  case aSet =>
    intro hc v hu
    exact execCmd_performs hs hr planASet_settled hc rfl hu rfl rfl rfl rfl rfl rfl rfl

end Sys2Proof.Machine
end

section
/-! SUPPORT. The Sift commands: their counts, their plans' exceptions and results, and O56 (R288-R297, R302-R309, R313). -/

namespace Sys2Proof.Machine

/-! ### What the plans read does not change as the cycle begins -/

section
variable {s : State} (key i : Nat)

theorem areaBytes_beginCycle : areaBytes (beginCycle s key i) key = areaBytes s key := rfl

theorem aReg_beginCycle (hs : Sound s) (n : Nat) : aReg (getEng (beginCycle s key i) key i) n = aReg (getEng s key i) n := by
  obtain ⟨v, hv⟩ := getEng_beginCycle hs key i
  rw [hv]
  rfl

end

theorem localOpd_addr (area n align : Nat) (a : AReg) : (localOpd area a n align).addr = opdAddr a := rfl

theorem planPairs_beginCycle {s : State} (hs : Sound s) (key i c n k cyc : Nat) (errs : List (Nat × Word)) :
    planPairs key i c (beginCycle s key i) n k cyc errs = planPairs key i c s n k cyc errs := by
  obtain ⟨v, hv⟩ := getEng_beginCycle hs key i
  simp only [planPairs, pairsAt, lsRead_beginCycle hs, hv]
  rfl

theorem planSortK_settled : Settled planSortK := by
  intro s hs key i c rep
  obtain ⟨v, hv⟩ := getEng_beginCycle hs key i
  simp only [planSortK, planPairs_beginCycle hs, hv]
  rfl

theorem planTopkK_settled : Settled planTopkK := by
  intro s hs key i c rep
  obtain ⟨v, hv⟩ := getEng_beginCycle hs key i
  simp only [planTopkK, planPairs_beginCycle hs, hv]
  rfl

theorem planSelect_beginCycle {s : State} (hs : Sound s) (key i c n : Nat) (errs : List (Nat × Word)) (more : List (Nat × Nat))
    (steps : List Nat) (reads : List (Nat × Nat)) (keep : Nat → Nat → Bool) :
    planSelect key i c (beginCycle s key i) n errs more steps reads keep
      = planSelect key i c s n errs more steps reads keep := by
  obtain ⟨v, hv⟩ := getEng_beginCycle hs key i
  simp only [planSelect, elementsAt, lsRead_beginCycle hs, hv]
  rfl

theorem planFilt_settled : Settled planFilt := by
  intro s hs key i c rep
  obtain ⟨v, hv⟩ := getEng_beginCycle hs key i
  simp only [planFilt, planSelect_beginCycle hs, hv]
  rfl

theorem planCompact_settled : Settled planCompact := by
  intro s hs key i c rep
  obtain ⟨v, hv⟩ := getEng_beginCycle hs key i
  simp only [planCompact, planSelect_beginCycle hs, lsRead_beginCycle hs, hv]
  rfl

theorem planPadC_settled : Settled planPadC := by
  intro s hs key i c rep
  obtain ⟨v, hv⟩ := getEng_beginCycle hs key i
  simp only [planPadC, hv]
  rfl

theorem planTileExp_settled : Settled planTileExp := by
  intro s hs key i c rep
  simp only [planTileExp, planTile, planRecord, areaBytes_beginCycle, aReg_beginCycle key i hs, lsRead_beginCycle hs]

theorem planTileCmp_settled : Settled planTileCmp := by
  intro s hs key i c rep
  simp only [planTileCmp, areaBytes_beginCycle, aReg_beginCycle key i hs, lsRead_beginCycle hs]

/-! ### Operands in range -/

/-- Three operands meet no exception. -/
theorem errs_three {l₁ l₂ l₃ : List (Nat × Word)} (h₁ : l₁ = []) (h₂ : l₂ = []) (h₃ : l₃ = []) : l₁ ++ l₂ ++ l₃ = [] := by
  rw [h₁, h₂, h₃]; rfl

/-! ### COUNT (R288) -/

/-- COUNT as the command gives it, in its field or in the register that CREG names. -/
def siftLength (e : Engine) (c : Nat) : Nat := if bit c 60 then (sReg e (bits c 47 44)).toNat else bits c 59 44

theorem siftCount_within {e : Engine} {c limit : Nat} (h : siftLength e c ≤ limit) :
    siftCount e c limit = (siftLength e c, []) := if_neg (Nat.not_lt.2 h)

section
variable {s : State} {key i c rep : Nat}

/-! ### Sorting (R291-R293) -/

theorem planSortK_within (h : siftLength (getEng s key i) c ≤ 4096) :
    planSortK key i c s rep = planPairs key i c s (siftLength (getEng s key i) c) (siftLength (getEng s key i) c)
      (if siftLength (getEng s key i) c ≤ 1 then 1
        else 8 + cyclesOf (siftLength (getEng s key i) c) 32 * clog2 (siftLength (getEng s key i) c)) [] := by
  simp only [planSortK, siftCount_within h]

theorem planTopkK_within (h : siftLength (getEng s key i) c ≤ 4096) (hk : bits c 108 96 ≤ 4096) :
    planTopkK key i c s rep = planPairs key i c s (siftLength (getEng s key i) c)
      (min (bits c 108 96) (siftLength (getEng s key i) c))
      (if siftLength (getEng s key i) c ≤ 1 then 1
        else 8 + cyclesOf (siftLength (getEng s key i) c) 32 * clog2 (bits c 108 96 + 1)) [] := by
  simp only [planTopkK, siftCount_within h, if_neg (Nat.not_lt.2 hk), List.append_nil]

theorem planPairs_errs {n k : Nat} (cyc : Nat)
    (hsrc : n = 0 ∨ fits s key (opdAddr (aReg (getEng s key i) (bits c 35 32))) (8 * n) 8 = true)
    (hdst : k = 0 ∨ fits s key (opdAddr (aReg (getEng s key i) (bits c 39 36))) (8 * k) 8 = true) :
    (planPairs key i c s n k cyc []).errs = [] := by
  have hbytes : ∀ {m : Nat}, m = 0 → 8 * m = 0 := fun h => by rw [h]
  exact errs_three (localOpd_ok (hsrc.imp_left hbytes)) (localOpd_ok (hdst.imp_left hbytes)) rfl

/-! ### Selection (R294-R296) -/

theorem planSelect_errs {n : Nat} {errs : List (Nat × Word)} (more : List (Nat × Nat)) (steps : List Nat)
    (reads : List (Nat × Nat)) (keep : Nat → Nat → Bool)
    (hsrc : n = 0 ∨ fits s key (opdAddr (aReg (getEng s key i) (bits c 35 32))) n 8 = true)
    (hdst : n = 0 ∨ fits s key (opdAddr (aReg (getEng s key i) (bits c 39 36))) n 8 = true)
    (hodd : n % max 1 (fmtBits (bits c 79 72) / 8) = 0) (herrs : errs = []) :
    (planSelect key i c s n errs more steps reads keep).errs = [] := by
  subst herrs
  simp only [planSelect, localOpd_ok hsrc, localOpd_ok hdst, hodd, ne_eq, not_true_eq_false, if_false, List.append_nil]

/-- The elements kept are stored together, and their number is a second result where the command asks for it. -/
theorem planSelect_results (n : Nat) (errs : List (Nat × Word)) (more : List (Nat × Nat)) (steps : List Nat)
    (reads : List (Nat × Nat)) (keep : Nat → Nat → Bool) {kept : List (Nat × Nat)}
    (hkept : kept = (elementsAt s key (opdAddr (aReg (getEng s key i) (bits c 35 32))) n
      (max 1 (fmtBits (bits c 79 72) / 8))).zipIdx.filter (fun x => keep x.1 x.2)) :
    (planSelect key i c s n errs more steps reads keep).results =
      (max 1 (cyclesOf n 128) + 6, .store (opdAddr (aReg (getEng s key i) (bits c 39 36)))
        ((kept.map (·.1)).flatMap (natBytes (max 1 (fmtBits (bits c 79 72) / 8)))) false)
        :: (if bit c 68 then [(max 1 (cyclesOf n 128) + 6, .sreg (bits c 67 64) (word kept.length))] else []) := by
  subst hkept
  rw [← List.length_map (·.1)]
  rfl

theorem planFilt_within (h : siftLength (getEng s key i) c ≤ 65535) :
    planFilt key i c s rep = planSelect key i c s (siftLength (getEng s key i) c) [] [] []
      (if bits c 83 80 ≤ 5 then [(0, bits c 87 84)] else []) (fun x _ => filtKeeps (bits c 79 72) (bits c 83 80) x
        ((sReg (getEng s key i) (bits c 87 84)).toNat % 2 ^ fmtBits (bits c 79 72))) := by
  simp only [planFilt, siftCount_within h]

theorem planCompact_within (h : siftLength (getEng s key i) c ≤ 65535) {k : Nat}
    (hk : k = (siftLength (getEng s key i) c / max 1 (fmtBits (bits c 79 72) / 8) + 7) / 8) :
    let mask := localOpd (areaBytes s key) (aReg (getEng s key i) (bits c 43 40)) k 8
    planCompact key i c s rep = planSelect key i c s (siftLength (getEng s key i) c) mask.errs [(mask.addr, k)]
      [bits c 43 40] [] (fun _ x => ((lsRead s key mask.addr k).getD (x / 8) 0).toNat.testBit (x % 8)) := by
  subst hk
  simp only [planCompact, siftCount_within h, List.nil_append]

/-! ### Padding (R297) -/

theorem planPadC_within (h : siftLength (getEng s key i) c ≤ 65535) :
    let m := siftLength (getEng s key i) c
    let dst := localOpd (areaBytes s key) (aReg (getEng s key i) (bits c 39 36)) m 8
    let v := min m (sReg (getEng s key i) (bits c 43 40)).toNat
    let occ := max 1 (cyclesOf m 256)
    planPadC key i c s rep = {
      touches := [(dst.addr, m)], errs := dst.errs, occ := occ, reads := (0, bits c 43 40) :: countReg c,
      steps := [bits c 39 36],
      results := [(occ + 4, .store (dst.addr + v) (patternBytes (word (bits c 127 64)) v (m - v)) false)] } := by
  simp only [planPadC, siftCount_within h, List.append_nil]

/-! ### Tiles (R303, R307-R309, R313) -/

theorem planTile_expands {out : Option (List Byte)} :
    let f := bits c 79 72
    let hdr := localOpd (areaBytes s key) (aReg (getEng s key i) (bits c 43 40)) 8 8
    let head := bytesNat (lsRead s key hdr.addr 8)
    let k := if headerOk f head then hdrBytes head else 0
    let src := localOpd (areaBytes s key) (aReg (getEng s key i) (bits c 35 32)) k 8
    let dst := localOpd (areaBytes s key) (aReg (getEng s key i) (bits c 39 36)) (denseBytes f) 8
    expandTile f head (lsRead s key src.addr k) = out →
    planTile key i c s = {
      touches := [(hdr.addr, 8), (src.addr, k), (dst.addr, denseBytes f)], errs := src.errs ++ dst.errs ++ hdr.errs,
      occ := tileCycles f, lines := [(hdr.addr, 8, false), (src.addr, k, false)],
      steps := [bits c 35 32, bits c 39 36, bits c 43 40],
      results := out.elim [] (fun bs => [(tileCycles f + 8, .store dst.addr bs false)]),
      act := out.elim (badTile key i src.addr) (fun _ => id) } := by
  rintro _ _ _ _ _ _ rfl
  simp only [planTile]
  generalize expandTile _ _ _ = out
  cases out <;> rfl

/-- Where a stream's present-mask tells whether it has a record for the tile (R313). -/
def presentByte (s : State) (key i c : Nat) : Opd :=
  let ha := aReg (getEng s key i) (bits c 43 40)
  localAt (areaBytes s key) (unsigned 64 ((ha.base.toNat : Int) + (ha.count.toNat / 8 : Nat))) 1 1

/-- The bit of the present-mask for the tile. -/
def recordPresent (s : State) (key i c : Nat) : Bool :=
  ((lsRead s key (presentByte s key i c).addr 1).headD 0).toNat.testBit
    ((aReg (getEng s key i) (bits c 43 40)).count.toNat % 8)

theorem planRecord_absent (h : recordPresent s key i c = false) :
    let f := bits c 79 72
    let hdr := presentByte s key i c
    let dst := localOpd (areaBytes s key) (aReg (getEng s key i) (bits c 39 36)) (denseBytes f) 8
    planRecord key i c s = {
      touches := [(hdr.addr, 1), (dst.addr, denseBytes f)], errs := dst.errs ++ hdr.errs, occ := tileCycles f,
      lines := [(hdr.addr, 1, false)], steps := [bits c 39 36, bits c 43 40],
      results := [(tileCycles f + 8, .store dst.addr (List.replicate (denseBytes f) 0) false)] } := by
  simp only [recordPresent, presentByte] at h
  simp only [planRecord, presentByte, h, Bool.false_eq_true, if_false, List.append_nil, List.nil_append, Bool.false_and]

theorem planRecord_present (h : recordPresent s key i c = true) {out : Option (List Byte)} :
    let ra := aReg (getEng s key i) (bits c 35 32)
    let f := bits c 79 72
    let hdr := presentByte s key i c
    let a := (localOpd (areaBytes s key) ra 8 8).addr
    let head := bytesNat (lsRead s key a 8)
    let k := if headerOk f head then hdrBytes head else 0
    let src := localOpd (areaBytes s key) ra (8 + k) 8
    let dst := localOpd (areaBytes s key) (aReg (getEng s key i) (bits c 39 36)) (denseBytes f) 8
    expandTile f head (lsRead s key (a + 8) k) = out →
    planRecord key i c s = {
      touches := [(hdr.addr, 1), (dst.addr, denseBytes f), (src.addr, 8 + k)], errs := src.errs ++ dst.errs ++ hdr.errs,
      occ := tileCycles f, reads := [(1, bits c 35 32)], lines := [(hdr.addr, 1, false), (src.addr, 8 + k, false)],
      steps := [bits c 39 36, bits c 43 40],
      results := out.elim [] (fun bs => [(tileCycles f + 8, .store dst.addr bs false),
        (1, .aBase (bits c 35 32) (ra.base + word (64 * ((8 + hdrBytes head + 63) / 64))))]),
      act := out.elim (badTile key i a) (fun _ => id) } := by
  rintro _ _ _ _ _ _ _ _ rfl
  simp only [recordPresent, presentByte] at h
  simp only [planRecord, h, if_true, Bool.true_and]
  generalize expandTile _ _ _ = out
  cases out <;> rfl

theorem planTileCmp_compressed {enc fall : Nat} {data : List Byte}
    (h : compressTile (bits c 79 72)
      (validCols (bytesNat (lsRead s key (opdAddr (aReg (getEng s key i) (bits c 43 40))) 8))) (bit c 61)
      (lsRead s key (opdAddr (aReg (getEng s key i) (bits c 35 32))) (denseBytes (bits c 79 72))) = (enc, fall, data)) :
    let f := bits c 79 72
    let src := localOpd (areaBytes s key) (aReg (getEng s key i) (bits c 35 32)) (denseBytes f) 8
    let dst := localOpd (areaBytes s key) (aReg (getEng s key i) (bits c 39 36)) (denseBytes f) 8
    let hdr := localOpd (areaBytes s key) (aReg (getEng s key i) (bits c 43 40)) 8 8
    let head := bytesNat (lsRead s key hdr.addr 8)
    planTileCmp key i c s rep = {
      touches := [(src.addr, denseBytes f), (dst.addr, denseBytes f), (hdr.addr, 8)],
      errs := src.errs ++ dst.errs ++ hdr.errs, occ := tileCycles f,
      lines := [(src.addr, denseBytes f, false), (hdr.addr, 8, false)], steps := [bits c 35 32, bits c 39 36, bits c 43 40],
      results := [(tileCycles f + 8, .store dst.addr data false),
        (tileCycles f + 8, .store hdr.addr (natBytes 8 (0x10 + enc * 2 ^ 8 + fall * 2 ^ 10 + f * 2 ^ 16
          + bits head 28 24 * 2 ^ 24 + data.length * 2 ^ 32)) false)],
      act := fun s =>
        if fall = 1 then fadd s .siftFallback (key / 32) (key % 32) 0 31 0 1
        else if fall = 2 then fadd s .siftFallback (key / 32) (key % 32) 0 63 32 1
        else s } := by
  simp only [planTileCmp, localOpd_addr, h]

end

/-- What a repeat of TILE.EXP does with what its tile expands to: a malformed tile leaves it no result (R309). -/
def expandPlan (key i a occ : Nat) (steps : List Nat) (good : List Byte → List (Nat × Target)) : Option (List Byte) → Plan
  | some bs => { occ := occ, steps := steps, results := good bs }
  | none => { occ := occ, steps := steps, act := badTile key i a }

/-- A command issues by what its tile expands to, when its plan's results and its mark of a malformed tile depend on that. -/
theorem execCmd_expands {s : State} (hs : Sound s) {die slot i op c rep n : Nat}
    (hr : 10 ≤ die ∧ die < 26 ∧ slot < 17 ∧ i < 4) {plan : Nat → Nat → Nat → State → Nat → Plan} (hp : Settled plan)
    (h : comesTo s (spKey die slot) i op c rep n = true) {touches : List (Nat × Nat)} {errs : List (Nat × Word)}
    {reads : List (Nat × Nat)} {lines : List (Nat × Nat × Bool)} {a occ : Nat} {steps : List Nat}
    {good : List Byte → List (Nat × Target)} {out : Option (List Byte)}
    (hpl : plan (spKey die slot) i c s rep = {
      touches := touches, errs := errs, occ := occ, reads := reads, lines := lines, steps := steps,
      results := out.elim [] good, act := out.elim (badTile (spKey die slot) i a) (fun _ => id) })
    (hu : unhindered s (spKey die slot) i c reads lines touches steps = true) (he : errs = []) :
    execCmd die slot i op plan s = .next (perform (beginCycle s (spKey die slot) i) (spKey die slot) i n
      (expandPlan (spKey die slot) i a occ steps good out)) := by
  cases out with
  | some bs => exact execCmd_performs hs hr hp h hpl hu he rfl rfl rfl rfl rfl rfl
  | none => exact execCmd_performs hs hr hp h hpl hu he rfl rfl rfl rfl rfl rfl

/-! ### The unit of an engine's key -/

theorem spKey_unit {die slot : Nat} (h : slot < 17) : spKey die slot / 32 = die ∧ spKey die slot % 32 = slot := by
  unfold spKey; omega

/-! ### O56 -/

/-- Settles O56: each command issues by its plan (`execCmd_performs`), whose operands fit and whose count is within its limit
(`siftCount_within`); TILE.EXP's plan is that of a tile or of a record, and goes on by what the tile expands to
(`execCmd_expands`). -/
theorem siftCommandsIssue : Obligations.SiftCommandsIssue := by
  intro s die slot i c rep n hlo hhi hslot hi hs
  have hr : 10 ≤ die ∧ die < 26 ∧ slot < 17 ∧ i < 4 := ⟨hlo, hhi, hslot, hi⟩
  intro key e b ls a1 a2 a3 src dst aux m mreg f sz sorted els select
  refine ⟨?sorts, ?filt, ?compact, ?padC, ?tile, ?record, ?tileCmp⟩
  case sorts =>
    intro row op k cyc hrow hc hm hk hsrc hdst hu occ
    simp only [List.mem_cons, List.not_mem_nil, or_false, Prod.mk.injEq] at hrow
    obtain ⟨rfl, rfl, rfl, rfl⟩ | ⟨rfl, rfl, rfl, rfl⟩ := hrow
    · exact execCmd_performs hs hr planSortK_settled hc (planSortK_within hm) hu (planPairs_errs _ hsrc hdst) rfl
        rfl rfl rfl rfl rfl
    · exact execCmd_performs hs hr planTopkK_settled hc (planTopkK_within hm (hk rfl)) hu (planPairs_errs _ hsrc hdst) rfl
        rfl rfl rfl rfl rfl
  case filt =>
    intro hc hm hodd hsrc hdst hu
    exact execCmd_performs hs hr planFilt_settled hc (planFilt_within (Nat.le_of_lt_succ hm)) hu
      (planSelect_errs _ _ _ _ hsrc hdst hodd rfl) rfl (planSelect_results _ _ _ _ _ _ rfl) rfl rfl rfl rfl
  case compact =>
    intro hc hm hodd k hk hsrc hdst haux hu
    rw [← List.append_nil mreg] at hu
    exact execCmd_performs hs hr planCompact_settled hc (planCompact_within (Nat.le_of_lt_succ hm) hk) hu
      (planSelect_errs _ _ _ _ hsrc hdst hodd (localOpd_ok haux)) rfl (planSelect_results _ _ _ _ _ _ rfl) rfl rfl rfl rfl
  case padC =>
    intro hc hm hdst hu v occ
    exact execCmd_performs hs hr planPadC_settled hc (planPadC_within (Nat.le_of_lt_succ hm)) hu (localOpd_ok hdst) rfl
      rfl rfl rfl rfl rfl
  case tile =>
    intro hc hbit h k occ out hsrc hdst haux hu
    have hplan : planTileExp key i c s rep = planTile key i c s := if_neg (Bool.eq_false_iff.1 hbit)
    generalize hout : out = o
    refine (execCmd_expands hs hr planTileExp_settled hc (hplan.trans (planTile_expands hout)) hu
      (errs_three (localOpd_ok hsrc) (localOpd_ok (.inr hdst)) (localOpd_ok (.inr haux)))).trans ?_
    cases o <;> rfl
  case record =>
    intro hc hbit ha hb present h k occ hhdr hdst
    have hplan : planTileExp key i c s rep = planRecord key i c s := if_pos hbit
    constructor
    · intro habsent hu
      exact execCmd_performs hs hr planTileExp_settled hc (hplan.trans (planRecord_absent habsent)) hu
        (List.append_eq_nil_iff.2 ⟨localOpd_ok (.inr hdst), localAt_ok (.inr hhdr)⟩) rfl rfl rfl rfl rfl rfl
    · intro hpresent hsrc hu
      generalize hout : expandTile f h (memRead ls (src + 8) k) = out
      refine (execCmd_expands hs hr planTileExp_settled hc (hplan.trans (planRecord_present hpresent hout)) hu
        (errs_three (localOpd_ok (.inr hsrc)) (localOpd_ok (.inr hdst)) (localAt_ok (.inr hhdr)))).trans ?_
      cases out <;> rfl
  case tileCmp =>
    intro hc enc fall data hout occ hsrc hdst haux hu
    obtain ⟨hdie, hunit⟩ := spKey_unit (die := die) hslot
    exact execCmd_performs hs hr planTileCmp_settled hc (planTileCmp_compressed hout) hu
      (errs_three (localOpd_ok (.inr hsrc)) (localOpd_ok (.inr hdst)) (localOpd_ok (.inr haux))) rfl rfl rfl rfl
      (by simp only [hdie, hunit]) rfl

end Sys2Proof.Machine
end

section
/-! SUPPORT. Signal counters: the signal that arms one, the bytes that reach it, its firing and its timer, and O46 (R324-R327,
R355). -/

namespace Sys2Proof.Machine

/-! ### SIGNAL and BULK_SIGNAL -/

section
variable {s : State} {die : Nat} {h : Header}

/-- The handle of a counter passes the checks before the counter's own. -/
theorem handleStatus_counter {w : Word} (hw : counterHandle w = true) : handleStatus w (hndRegion w == 3) = stOk := by
  simp only [counterHandle, Bool.and_eq_true, beq_iff_eq] at hw
  obtain ⟨⟨⟨hfeid, hregion⟩, -⟩, -⟩ := hw
  rw [handleStatus, if_neg (by omega), hregion]
  rfl

variable (hw : counterHandle h.w4 = true)
include hw

/-- What a signal with a counter's handle meets there. -/
theorem ergSignal_at : ergSignal s die h =
    if firstOf [if counterReady (getCounter s (counterOf h.w4)) then stOk else stBadParam,
        if (getCounter s (counterOf h.w4)).armed then stBusy else stOk] = stOk then
      setCounter s (counterOf h.w4) { getCounter s (counterOf h.w4) with
        armed := true, expected := wbits h.w5 47 0, feid := hSrc h, ord := hOrd h, isBulk := hKind h == kBulkSignal,
        tag := BitVec.ofNat 32 (hTag h) }
    else ergRespond s die h (firstOf [if counterReady (getCounter s (counterOf h.w4)) then stOk else stBadParam,
        if (getCounter s (counterOf h.w4)).armed then stBusy else stOk]) 0 := by
  rw [ergSignal, handleStatus_counter hw, hw]
  rfl

theorem ergSignal_arms (hr : counterReady (getCounter s (counterOf h.w4)) = true)
    (ha : (getCounter s (counterOf h.w4)).armed = false) :
    ergSignal s die h = setCounter s (counterOf h.w4) { getCounter s (counterOf h.w4) with
      armed := true, expected := wbits h.w5 47 0, feid := hSrc h, ord := hOrd h, isBulk := hKind h == kBulkSignal,
      tag := BitVec.ofNat 32 (hTag h) } := by
  rw [ergSignal_at hw, hr, ha]
  rfl

theorem ergSignal_notReady (hr : counterReady (getCounter s (counterOf h.w4)) = false) :
    ergSignal s die h = ergRespond s die h stBadParam 0 := by
  rw [ergSignal_at hw, hr]
  rfl

theorem ergSignal_busy (hr : counterReady (getCounter s (counterOf h.w4)) = true)
    (ha : (getCounter s (counterOf h.w4)).armed = true) : ergSignal s die h = ergRespond s die h stBusy 0 := by
  rw [ergSignal_at hw, hr, ha]
  rfl

end

/-! ### Counted writes -/

section
variable {s : State} {n : Nat}

theorem atCounter_next (hn : n < 65536) (t : State) : atCounter n t = .next t := if_pos hn

/-- The first of a list that a test takes goes. -/
theorem removeFirst_append {α : Type} {t : α → Bool} {pre post : List α} {x : α} (hpre : ∀ y ∈ pre, t y = false) (hx : t x = true) :
    removeFirst t (pre ++ x :: post) = pre ++ post := by
  induction pre with
  | nil => exact if_pos hx
  | cons y l ih =>
    rw [List.cons_append, removeFirst, hpre y (List.mem_cons_self ..), if_neg Bool.false_ne_true,
      ih fun z hz => hpre z (List.mem_cons_of_mem _ hz), List.cons_append]

/-- The write that bytes on their way to a counter are of is answered. -/
def writeAnswered (s : State) (m : CountMsg) (status : Nat) : State :=
  match m.reply with
  | some (h, _) => ergRespond s m.die h status 0
  | none => s

/-- The state once the oldest bytes on their way to a counter have come. -/
def countTaken (s : State) (pre post : List CountMsg) : State := { s with erg := { s.erg with counting := pre ++ post } }

section
variable {pre post : List CountMsg} {m : CountMsg} (hc : s.erg.counting = pre ++ m :: post)
  (hpre : ∀ x ∈ pre, x.counter ≠ n) (hm : m.counter = n)
include hc hpre hm

/-- They are counted at a LIVE die, and the write they are of is answered. -/
theorem deliverCount_oldest :
    deliverCount s n =
      let u := countTaken s pre post
      writeAnswered (if ergLive u (counterDie n) then countBytes u n m.bytes else u) m
        (if ergLive u (counterDie n) then stOk else stFaulted) := by
  have hothers : ∀ x ∈ pre, (x.counter == n) = false := fun x hx => beq_eq_false_iff_ne.2 (hpre x hx)
  have hfirst : s.erg.counting.find? (fun m => m.counter == n) = some m := by
    rw [hc, List.find?_append, List.find?_eq_none.2 (fun x hx => Bool.eq_false_iff.1 (hothers x hx)), Option.none_or]
    exact List.find?_cons_of_pos (p := fun m : CountMsg => m.counter == n) (beq_iff_eq.2 hm)
  have hrest : modErg s (fun e => { e with counting := removeFirst (fun m => m.counter == n) e.counting })
      = countTaken s pre post := by
    rw [countTaken, ← removeFirst_append hothers (t := fun m => m.counter == n) (beq_iff_eq.2 hm), ← hc]
    rfl
  rw [deliverCount, hfirst]
  dsimp only
  rw [hrest]
  rfl

theorem deliverCount_live (hl : ergLive s (counterDie n) = true) :
    deliverCount s n = writeAnswered (countBytes (countTaken s pre post) n m.bytes) m stOk := by
  have hu : ergLive (countTaken s pre post) (counterDie n) = true := hl
  rw [deliverCount_oldest hc hpre hm]
  simp only [hu, if_true]

theorem deliverCount_dead (hl : ergLive s (counterDie n) = false) :
    deliverCount s n = writeAnswered (countTaken s pre post) m stFaulted := by
  have hu : ergLive (countTaken s pre post) (counterDie n) = false := hl
  rw [deliverCount_oldest hc hpre hm]
  simp only [hu, Bool.false_eq_true, if_false]

end

theorem countBytes_ready (hr : counterReady (getCounter s n) = true) (k : Nat) :
    countBytes s n k = setCounter s n { getCounter s n with count := min ((getCounter s n).count + k) (2 ^ 48 - 1) } :=
  if_pos hr

/-! ### Firing -/

/-- The counter after it fired with a status, its signal answered. -/
def counterAnswered (s : State) (n status : Nat) : State :=
  let c := getCounter s n
  sendFrom (countAnswer (setCounter s n { c with
      count := 0, armed := false,
      fires := if status = stTimeout then c.fires else c.fires + 1,
      timeouts := if status = stTimeout then c.timeouts + 1 else c.timeouts }) (counterDie n) status) (counterDie n)
    { kind := kAck, ord := c.ord, dst := c.feid, tag := c.tag.toNat,
      a4 := word (status + (if c.isBulk then kBulkSignal else kSignal) * 2 ^ 8), a5 := ownHandle 3 (64 * n) }

/-- An answer that is lost is of no hank. -/
theorem lostHeader_ack {f : Fields} (hk : f.kind = kAck) : lostHeader s (mkHeader f) = s := by
  have hkind : hKind (mkHeader f) = kAck := (hKind_mkHeader (by rw [hk]; decide)).trans hk
  simp only [lostHeader, hkind]
  split
  · rfl
  · split <;> rfl

/-- Whether or not it can be sent, an answer leaves the planes as they are. -/
theorem anyPlane_sendFrom_ack {die : Nat} {f : Fields} (hk : f.kind = kAck) : anyPlane (sendFrom s die f) = anyPlane s := by
  cases hp : anyPlane s with
  | true => exact (sendFrom_enqueued hp die f).anyPlane_eq.trans hp
  | false => rw [sendFrom, hp, if_neg Bool.false_ne_true, lostHeader_ack hk, hp]

/-- A firing answers the signal, and raises the counter's flag where it is OK and the raise has a way to its spindle. -/
theorem fireCounter_eq (s : State) (n status : Nat) :
    fireCounter s n status =
      let c := getCounter s n
      let t := counterAnswered s n status
      if c.fireEn ∧ status = stOk ∧ (10 + c.fireSpindle / 16 = counterDie n ∨ anyPlane s) then
        { t with sync := t.sync ++ [.raise c.fireSpindle c.fireFlag] }
      else t := by
  have hplane : anyPlane (counterAnswered s n status) = anyPlane s := anyPlane_sendFrom_ack rfl
  by_cases hf : (getCounter s n).fireEn = true ∧ status = stOk
  · have hraise : fireCounter s n status
        = sendRaise (counterAnswered s n status) (counterDie n) (getCounter s n).fireSpindle (getCounter s n).fireFlag := if_pos hf
    rw [hraise, sendRaise, hplane]
    simp only [hf.1, hf.2, true_and]
  · rw [if_neg fun h => hf ⟨h.1, h.2.1⟩]
    exact if_neg hf

/-- What an armed counter of a LIVE die does at each count. -/
theorem checkCounter_armed (ha : (getCounter s n).armed = true) (hl : ergLive s (counterDie n) = true) :
    checkCounter s n =
      if (getCounter s n).count = (getCounter s n).expected then fireCounter s n stOk
      else if (getCounter s n).expected < (getCounter s n).count then fireCounter s n stBadParam else s := if_pos ⟨ha, hl⟩

/-- And when its timer ends. -/
theorem expireCounter_armed (ha : (getCounter s n).armed = true) (ht : (getCounter s n).timeoutUs ≠ 0)
    (hl : ergLive s (counterDie n) = true) :
    expireCounter s n =
      if (getCounter s n).expected ≤ (getCounter s n).count then checkCounter s n else fireCounter s n stTimeout :=
  if_pos ⟨ha, ht, hl⟩

theorem checkCounter_unarmed (ha : (getCounter s n).armed = false) : checkCounter s n = s :=
  if_neg fun h => Bool.false_ne_true (ha.symm.trans h.1)

theorem expireCounter_unarmed (ha : (getCounter s n).armed = false) : expireCounter s n = s :=
  if_neg fun h => Bool.false_ne_true (ha.symm.trans h.1)

end

/-! ### O46 -/

/-- Settles O46: a signal is taken (`takeRequest_ofKind`) and meets its counter's record and mark (`ergSignal_at`); the oldest
bytes are counted (`deliverCount_oldest`); an armed counter fires by its count (`checkCounter_armed`) or its timer
(`expireCounter_armed`), and `fireCounter_eq` says what a firing does. -/
theorem signalCountersCountAndFire : Obligations.SignalCountersCountAndFire := by
  refine fun s => ⟨fun die p rest i hlo hhi hin hc hb hlive hscan hrow hw => ?signal, fun n hn => ⟨?counted, ?armed, ?unarmed⟩⟩
  case signal =>
    have hdie : 26 ≤ die ∧ die < 30 := ⟨hlo, hhi⟩
    have act : exec i s = .next (ergSignal (setInbox s die rest) die p.hdr) := by
      rcases hrow with ⟨rfl, hk⟩ | ⟨rfl, hk⟩
      · show execSignal die s = _
        rw [execSignal, takeRequest_ofKind hin (lacksReplay_of_kind s die (by rw [hk]; decide)) hc hscan hlo _ hk hb hlive,
          atErg_next hdie]
      · show execBulkSignal die s = _
        rw [execBulkSignal, takeRequest_ofKind hin (lacksReplay_of_kind s die (by rw [hk]; decide)) hc hscan hlo _ hk hb hlive,
          atErg_next hdie]
    rw [act]
    exact ⟨fun hr ha => congrArg _ (ergSignal_arms hw hr ha), fun hr => congrArg _ (ergSignal_notReady hw hr),
      fun hr ha => congrArg _ (ergSignal_busy hw hr ha)⟩
  case counted =>
    intro pre m post hcount hpre hm
    have act : exec (.countedWrite n) s = .next (deliverCount s n) := atCounter_next hn _
    rw [act]
    refine ⟨fun hlive hready => congrArg _ ((deliverCount_live hcount hpre hm hlive).trans ?_),
      fun hdead => congrArg _ ((deliverCount_dead hcount hpre hm hdead).trans ?_)⟩
    · rw [countBytes_ready (s := countTaken s pre post) hready, writeAnswered]
      cases m.reply <;> rfl
    · rw [writeAnswered]
      cases m.reply <;> rfl
  case armed =>
    intro ha hlive
    have fire : exec (.fire n) s = .next (checkCounter s n) := atCounter_next hn _
    have expire : exec (.signalTimeout n) s = .next (expireCounter s n) := atCounter_next hn _
    rw [fire, expire, checkCounter_armed ha hlive]
    refine ⟨fun heq => ?_, fun hlt => ?_, fun hlt => ?_, fun ht hlt => ?_, fun ht hle => ?_⟩
    · rw [if_pos heq, fireCounter_eq]
      rfl
    · rw [if_neg (by omega), if_pos hlt, fireCounter_eq]
      rfl
    · rw [if_neg (by omega), if_neg (by omega)]
    · rw [expireCounter_armed ha ht hlive, if_neg (by omega), fireCounter_eq]
      rfl
    · rw [expireCounter_armed ha ht hlive, if_pos hle, checkCounter_armed ha hlive]
  case unarmed =>
    intro ha
    exact ⟨(atCounter_next hn _).trans (congrArg _ (checkCounter_unarmed ha)),
      (atCounter_next hn _).trans (congrArg _ (expireCounter_unarmed ha))⟩

end Sys2Proof.Machine
end

section
/-! SUPPORT. Raises and barchan arrivals as they come off the sync lanes, releases, and O59 (R318-R321, R329-R332, R340, R444,
R475). -/

namespace Sys2Proof.Machine

/-! ### A raise arrives -/

section
variable {s : State} {l n : Nat} {rest : List SyncMsg}

theorem arriveRaise_none (h : takeSync (isRaise l) s.sync = none) : arriveRaise s l = s := by
  rw [arriveRaise, h]

/-- It waits while a clock is relocked or a context restored. -/
theorem arriveRaise_waits (h : (getDie s (10 + l / 16)).relock ≠ none ∨ restoring s l = true) : arriveRaise s l = s := by
  have hwaits : ((getDie s (10 + l / 16)).relock.isSome || restoring s l) = true := by
    rcases h with h | h
    · rw [Option.isSome_iff_ne_none.2 h, Bool.true_or]
    · rw [h, Bool.or_true]
  unfold arriveRaise
  split
  · exact if_pos hwaits
  · rfl

theorem arriveRaise_takes (hrel : (getDie s (10 + l / 16)).relock = none) (hres : restoring s l = false)
    (h : takeSync (isRaise l) s.sync = some (.raise l n, rest)) :
    arriveRaise s l =
      if logicalAvailable s l = false then fadd { s with sync := rest } .syncDrops (10 + l / 16) 0 0 31 0 1
      else raiseFlag { s with sync := rest } (spindleOf s l) n := by
  rw [arriveRaise, h]
  simp only [hrel, hres, Option.isSome_none, Bool.or_self, Bool.false_eq_true, if_false, Bool.not_eq_true']

end

section
variable {s : State} {key n : Nat}

/-- Where a raise finds its flag about to be cleared, it is free whether it comes in that cycle or in a later one [99]. -/
def clearedOrNot (s : State) (key n : Nat) : State :=
  if flagClearing s key n then
    if (freeBelow 2 s).1 = 1 then newCycle (freeBelow 2 s).2 key else (freeBelow 2 s).2
  else s

theorem raiseFlag_eq (s : State) (key n : Nat) :
    raiseFlag s key n = settleFlag (putFlag (clearedOrNot s key n) key n true) key n := by
  unfold raiseFlag clearedOrNot
  cases hc : flagClearing s key n with
  | false => rfl
  | true => by_cases hb : (freeBelow 2 s).1 = 1 <;> simp [hb]

theorem clearedOrNot_sound (hs : Sound s) : Sound (clearedOrNot s key n) := by
  have hfree : Sound (freeBelow 2 s).2 := freeBelow_sound 2 s hs
  unfold clearedOrNot
  split
  · split
    · exact newCycle_sound hfree key
    · exact hfree
  · exact hs

/-- A flag that is set reads as 1. -/
theorem flagOf_putFlag (hs : Sound s) (hn : n < 64) : flagOf (putFlag s key n true) key n = true := by
  have hsp : getSp (putFlag s key n true) key
      = { getSp s key with flags := (getSp s key).flags ||| BitVec.ofNat 64 (2 ^ n) } := by
    show getSp (setSp s key _) key = _
    rw [getSp_setSp hs, if_pos rfl]
    rfl
  have hbit : (2 ^ n % 2 ^ 64).testBit n = true := by rw [Nat.testBit_mod_two_pow, Nat.testBit_two_pow_self]; simpa using hn
  rw [flagOf, hsp, BitVec.toNat_or, Nat.testBit_or, BitVec.toNat_ofNat, hbit, Bool.or_true]

/-- Setting flags moves no unit and no clock. -/
theorem engineClocked_putFlag (s : State) (key n j : Nat) :
    engineClocked (putFlag (clearedOrNot s key n) key n true) j = engineClocked s j := by
  show engineClocked (clearedOrNot s key n) j = _
  unfold clearedOrNot
  split
  · split <;> rfl
  · rfl

/-- Where none waits, or the engines have no clock, nothing follows from a flag. -/
theorem settleFlag_rests (h : flagWaiters s key n = [] ∨ engineClocked s key = false) : settleFlag s key n = s := by
  unfold settleFlag
  rcases h with h | h
  · simp only [h, List.foldl_nil, List.any_nil, Bool.false_eq_true, if_false, ite_self]
  · exact if_neg fun hc => Bool.false_ne_true (h.symm.trans hc.2)

end

/-! ### A barchan set, and what the end of a wait leaves -/

section
variable {s : State} {key b : Nat} {v : Barchan}

theorem getSp_setBarchan (hs : Sound s) (j : Nat) :
    getSp (setBarchan s key b v) j =
      if j = key then { getSp s key with barchans := mapPut (getSp s key).barchans Barchan.init b v } else getSp s j :=
  getSp_setSp hs key j _

/-- Which engines wait, and at what, is as it was. -/
theorem waitsAt_setBarchan (hs : Sound s) (j i op : Nat) :
    waitsAt (getSp (setBarchan s key b v) j) i op = waitsAt (getSp s j) i op := by
  rw [getSp_setBarchan hs]
  split
  next h => subst h; rfl
  next => rfl

/-- A barchan with members reads back as it was set. -/
theorem getBarchan_setBarchan (hs : Sound s) (hv : v.members ≠ 0) : getBarchan (getSp (setBarchan s key b v) key) b = v := by
  have hinit : v ≠ Barchan.init := fun h => hv (by rw [h]; rfl)
  rw [getSp_setBarchan hs, if_pos rfl, getBarchan, mapPut, if_neg hinit, mapGet_inserted]

theorem barchans_modEng (hs : Sound s) (i : Nat) (f : Engine → Engine) (j : Nat) :
    (getSp (modEng s key i f) j).barchans = (getSp s j).barchans := by
  by_cases h : j = key
  · rw [h, getSp_modEng hs]
    rfl
  · rw [getSp_modEng_other hs key i f h]

/-- The barchans are as they were when a wait ends. -/
theorem barchans_endWait (hs : Sound s) (i j : Nat) : (getSp (endWait s key i 0) j).barchans = (getSp s j).barchans := by
  have hadd : Sound (eadd s .advanceCycles key i 0 47 0 1) := eadd_sound s _ _ _ _ _ _ _ hs
  unfold endWait
  split
  · exact barchans_modEng hs i _ j
  · show (getSp (modEng (modEng (eadd s .advanceCycles key i 0 47 0 1) key i _) key i advancePc) j).barchans = _
    rw [barchans_modEng (modEng_sound _ key i _ hadd), barchans_modEng hadd, getSp_eadd]

/-- A cycle that an engine counts moves no spindle. -/
theorem spindleOf_eadd (s : State) (key : Nat) {i : Nat} (hi : i < 4) (l : Nat) :
    spindleOf (eadd s .advanceCycles key i 0 47 0 1) l = spindleOf s l := by
  have hne : regAddr .spindleMap (10 + l / 16) 0 (l % 16 / 8) ≠ regAddr .advanceCycles (key / 32) (4 * (key % 32) + i) 0 := by
    show (10 + l / 16) * 2 ^ 43 + 0x12 * 2 ^ 36 + 0 * 2 ^ 24 + 0 + 8 * (l % 16 / 8)
      ≠ key / 32 * 2 ^ 43 + 0x11 * 2 ^ 36 + (4 * (key % 32) + i) * 2 ^ 24 + 8 + 8 * 0
    omega
  simp only [spindleOf, fget, eadd]
  rw [rget_fadd_other s .advanceCycles _ _ _ (by decide) (by decide) rfl hne]

/-- The spindles stay where they are when a wait ends. -/
theorem spindleOf_endWait (s : State) (key : Nat) {i : Nat} (hi : i < 4) (l : Nat) :
    spindleOf (endWait s key i 0) l = spindleOf s l := by
  unfold endWait
  split
  · rfl
  · exact spindleOf_eadd s key hi l

end

/-! ### An arrival at its home (R330, R331) -/

section
variable {s : State} {die home b p : Nat} {v : Barchan}

theorem homeArrival_rests (h : takeSync (isArrival die) s.sync = none ∨ (getDie s die).relock ≠ none) :
    homeArrival s die = s := by
  unfold homeArrival
  split
  next m hm =>
    rcases h with h | h
    · rw [h] at hm; cases hm
    · exact if_pos (Option.isSome_iff_ne_none.2 h)
  next => rfl

/-- An arrival is accepted or refused; the answer reaches its engine; a barchan that accepted it may release. -/
theorem homeArrival_takes {rest : List SyncMsg} (hrel : (getDie s die).relock = none)
    (h : takeSync (isArrival die) s.sync = some (.arrival die home b p, rest)) :
    homeArrival s die =
      let x := applyArrival { s with sync := rest } die home b p
      let u := arrivalAnswer x.2 die home b p x.1
      if x.1 = 0 then releaseDue u (localSpindle u die home) b else u := by
  rw [homeArrival, h]
  simp only [hrel, Option.isSome_none, Bool.false_eq_true, if_false]

/-- A barchan with one more arrival, in NEXT where CUR holds the participant. -/
def withParticipant (v : Barchan) (p : Nat) : Barchan :=
  if wbit v.cur p then { v with next := v.next ||| word (2 ^ p) } else { v with cur := v.cur ||| word (2 ^ p) }

theorem withParticipant_members (v : Barchan) (p : Nat) : (withParticipant v p).members = v.members := by
  unfold withParticipant
  split <;> rfl

theorem applyArrival_unavailable (ha : logicalAvailable s (16 * (die - 10) + home) = false) :
    applyArrival s die home b p = (3, s) := by
  simp only [applyArrival, ha, Bool.not_false, if_true]

section
variable (ha : logicalAvailable s (16 * (die - 10) + home) = true)
  (hv : getBarchan (getSp s (localSpindle s die home)) b = v)
include ha hv

theorem applyArrival_stranger (hm : wbit v.members p = false) : applyArrival s die home b p = (1, s) := by
  simp only [applyArrival, ha, hv, hm, Bool.not_true, Bool.not_false, Bool.false_eq_true, if_false, if_true]

theorem applyArrival_twice (hm : wbit v.members p = true) (hc : wbit v.cur p = true) (hn : wbit v.next p = true) :
    applyArrival s die home b p = (2, s) := by
  simp only [applyArrival, ha, hv, hm, hc, hn, Bool.not_true, Bool.false_eq_true, if_false]

theorem applyArrival_accepts (hm : wbit v.members p = true) (hroom : wbit v.cur p = false ∨ wbit v.next p = false) :
    applyArrival s die home b p = (0, setBarchan s (localSpindle s die home) b (withParticipant v p)) := by
  cases hc : wbit v.cur p with
  | false =>
    simp only [applyArrival, withParticipant, ha, hv, hm, hc, Bool.not_true, Bool.not_false, Bool.false_eq_true, if_false, if_true]
  | true =>
    have hn : wbit v.next p = false := hroom.resolve_left (by rw [hc]; decide)
    simp only [applyArrival, withParticipant, ha, hv, hm, hc, hn, Bool.not_true, Bool.not_false, Bool.false_eq_true, if_false,
      if_true]

end

/-- The engine of a participant waits for the answer to its arrival, and its clock runs. -/
def awaitsAnswer (s : State) (die p : Nat) : Bool :=
  (waitsAt (getSp s (localSpindle s die (p / 4))) (p % 4) 0x22).isSome && engineClocked s (localSpindle s die (p / 4))

theorem arrivalAnswer_eq (s : State) (die home b p cause : Nat) :
    arrivalAnswer s die home b p cause =
      if awaitsAnswer s die p then
        endWait s (localSpindle s die (p / 4)) (p % 4) (if cause = 0 then 0 else cause * 2 ^ 12 + 16 * home + b)
      else s := by
  have hnot : ((waitsAt (getSp s (localSpindle s die (p / 4))) (p % 4) 0x22).isNone
      || !engineClocked s (localSpindle s die (p / 4))) = !awaitsAnswer s die p := by
    rw [awaitsAnswer, Bool.not_and, Option.not_isSome]
  simp only [arrivalAnswer, hnot]
  cases awaitsAnswer s die p <;> rfl

theorem awaitsAnswer_setBarchan (hs : Sound s) (key : Nat) :
    awaitsAnswer (setBarchan s key b v) die p = awaitsAnswer s die p :=
  congrArg (fun w : Option Nat => w.isSome && engineClocked s (localSpindle s die (p / 4))) (waitsAt_setBarchan hs _ _ _)

/-- The answer leaves the barchans and the spindles' places. -/
theorem arrivalAnswer_accepted_leaves (hs : Sound s) (j : Nat) :
    (getSp (arrivalAnswer s die home b p 0) j).barchans = (getSp s j).barchans ∧
      localSpindle (arrivalAnswer s die home b p 0) die home = localSpindle s die home := by
  rw [arrivalAnswer_eq]
  split
  · exact ⟨barchans_endWait hs _ j, spindleOf_endWait s _ (Nat.mod_lt p (by decide)) _⟩
  · exact ⟨rfl, rfl⟩

/-- A barchan with members releases once as many have arrived. -/
theorem releaseDue_members {key : Nat} (hv : getBarchan (getSp s key) b = v) (hm : v.members ≠ 0) :
    releaseDue s key b = if popCount 64 v.cur.toNat = popCount 64 v.members.toNat then release s key b else s := by
  simp only [releaseDue, hv, ne_eq, hm, not_false_eq_true, true_and]

theorem releaseDue_rests {key : Nat} (hv : getBarchan (getSp s key) b = v)
    (h : v.members = 0 ∨ popCount 64 v.cur.toNat ≠ popCount 64 v.members.toNat) : releaseDue s key b = s := by
  subst hv
  exact if_neg fun hc => h.elim hc.1 (fun hne => hne hc.2)

/-- An arrival that a barchan accepts: it is in CUR or NEXT, its engine goes on, and the barchan may release. -/
theorem homeArrival_accepts {rest : List SyncMsg} (hs : Sound s) (hrel : (getDie s die).relock = none)
    (h : takeSync (isArrival die) s.sync = some (.arrival die home b p, rest))
    (ha : logicalAvailable s (16 * (die - 10) + home) = true)
    (hv : getBarchan (getSp s (localSpindle s die home)) b = v) (hm : wbit v.members p = true)
    (hroom : wbit v.cur p = false ∨ wbit v.next p = false) :
    ∃ u, u = arrivalAnswer (setBarchan { s with sync := rest } (localSpindle s die home) b (withParticipant v p)) die home b p 0 ∧
      getBarchan (getSp u (localSpindle s die home)) b = withParticipant v p ∧
      homeArrival s die = if popCount 64 (withParticipant v p).cur.toNat = popCount 64 v.members.toNat
        then release u (localSpindle s die home) b else u := by
  have hrest : Sound { s with sync := rest } := ⟨hs.module, hs.erg, hs.staging, hs.stores, hs.records, hs.remembered⟩
  have happ := applyArrival_accepts (s := { s with sync := rest }) ha hv hm hroom
  have hmem : (withParticipant v p).members ≠ 0 := by
    rw [withParticipant_members]
    intro h0
    rw [h0] at hm
    exact absurd hm (by simp [wbit])
  have hset : Sound (setBarchan { s with sync := rest } (localSpindle s die home) b (withParticipant v p)) :=
    setBarchan_sound _ _ _ _ hrest
  obtain ⟨hbars, hplace⟩ := arrivalAnswer_accepted_leaves (die := die) (home := home) (b := b) (p := p) hset
    (localSpindle s die home)
  have hread : getBarchan (getSp (arrivalAnswer (setBarchan { s with sync := rest } (localSpindle s die home) b
      (withParticipant v p)) die home b p 0) (localSpindle s die home)) b = withParticipant v p := by
    rw [getBarchan, hbars]
    exact getBarchan_setBarchan hrest hmem
  refine ⟨_, rfl, hread, ?_⟩
  have hdue := releaseDue_members hread hmem
  rw [withParticipant_members] at hdue
  rw [homeArrival_takes hrel h, happ]
  exact (congrArg (releaseDue _ · b) hplace).trans hdue

/-- One that a barchan refuses: its engine raises BARCHAN. -/
theorem homeArrival_refuses {rest : List SyncMsg} (hrel : (getDie s die).relock = none)
    (h : takeSync (isArrival die) s.sync = some (.arrival die home b p, rest)) {cause : Nat}
    (happ : applyArrival { s with sync := rest } die home b p = (cause, { s with sync := rest })) (hc : cause ≠ 0) :
    homeArrival s die =
      if awaitsAnswer s die p then endWait { s with sync := rest } (localSpindle s die (p / 4)) (p % 4)
        (cause * 2 ^ 12 + 16 * home + b)
      else { s with sync := rest } := by
  rw [homeArrival_takes hrel h, happ]
  simp only [if_neg hc, arrivalAnswer_eq]
  rfl

end

/-! ### O59 -/

/-- Settles O59: a raise is taken (`arriveRaise_takes`) and sets its flag as `raiseFlag_eq` says, which ends the waits for it
(`settleFlag_ends`); an arrival is accepted (`homeArrival_accepts`) or refused for its cause (`homeArrival_refuses`); a barchan
that is complete releases (`releaseDue_members`). -/
theorem raisesAndArrivalsTakeEffect : Obligations.RaisesAndArrivalsTakeEffect := by
  unfold Obligations.RaisesAndArrivalsTakeEffect
  intro ended released
  have hended (s : State) (key i a : Nat) : endWait s key i a = ended s key i a := rfl
  have hreleased {s : State} {key b : Nat} {v : Barchan} (hv : getBarchan (getSp s key) b = v) :
      release s key b = released s key b v := by rw [← hv]; rfl
  refine ⟨fun s l hl => ?noRaise, fun s l n rest hs hl hrel hres htake => ?raise, fun s die hlo hhi hrest => ?noArrival,
    fun s die home b p rest hs hlo hhi hrel htake => ?arrival, fun s die slot b hlo hhi hslot hb hcont hrel => ?further⟩
  case noRaise =>
    have act : exec (.raise l) s = .next (arriveRaise s l) := if_pos hl
    rw [act]
    exact ⟨fun h => congrArg _ (arriveRaise_none h), fun h => congrArg _ (arriveRaise_waits h)⟩
  case raise =>
    have act : exec (.raise l) s = .next (arriveRaise s l) := if_pos hl
    rw [act, arriveRaise_takes hrel hres htake]
    intro key r f w u ws
    have hr : Sound r := ⟨hs.module, hs.erg, hs.staging, hs.stores, hs.records, hs.remembered⟩
    have hraise : raiseFlag r key n = settleFlag u key n := raiseFlag_eq r key n
    have hclock : engineClocked u key = engineClocked s key := engineClocked_putFlag r key n key
    refine ⟨fun ha => congrArg _ (if_pos ha), fun ha hnone => ?_, fun ha hn hclocked => ?_⟩
    · rw [if_neg (ne_of_eq_of_ne ha (by decide))]
      exact congrArg _ (hraise.trans (settleFlag_rests (hclock ▸ hnone)))
    · rw [if_neg (ne_of_eq_of_ne ha (by decide))]
      exact congrArg _ (hraise.trans
        (settleFlag_ends (flagOf_putFlag (clearedOrNot_sound hr) hn) (hclock.trans hclocked)))
  case noArrival =>
    have act : exec (.barchanArrival die) s = .next (homeArrival s die) := if_pos ⟨hlo, hhi⟩
    rw [act, homeArrival_rests hrest]
  case arrival =>
    have act : exec (.barchanArrival die) s = .next (homeArrival s die) := if_pos ⟨hlo, hhi⟩
    have hrest : Sound { s with sync := rest } := ⟨hs.module, hs.erg, hs.staging, hs.stores, hs.records, hs.remembered⟩
    rw [act]
    intro key from_ waits able v w set u
    refine ⟨fun ha hm _ hroom => ?_, fun cause hcause => congrArg _ ?_⟩
    · obtain ⟨x, hx, hread, hhome⟩ := homeArrival_accepts hs hrel htake ha (v := v) rfl hm hroom
      have hu : x = u := by
        rw [hx, arrivalAnswer_eq, awaitsAnswer_setBarchan hrest]
        rfl
      rw [hhome, ← hu]
      exact ⟨fun hne => congrArg _ (if_neg hne), fun heq => congrArg _ ((if_pos heq).trans (hreleased hread))⟩
    · rcases hcause with ⟨ha, rfl⟩ | ⟨ha, hm, rfl⟩ | ⟨ha, hm, hc, hn, rfl⟩
      · exact homeArrival_refuses hrel htake (applyArrival_unavailable ha) (by decide)
      · exact homeArrival_refuses hrel htake (applyArrival_stranger (v := v) ha rfl hm) (by decide)
      · exact homeArrival_refuses hrel htake (applyArrival_twice (v := v) ha rfl hm hc hn) (by decide)
  case further =>
    have act : exec (.furtherRelease die slot b) s = .next (releaseDue s (spKey die slot) b) := by
      show execFurtherRelease die slot b s = _
      rw [execFurtherRelease, if_pos ⟨hlo, hhi, hslot, hb⟩, hcont, hrel]
      rfl
    rw [act]
    refine ⟨fun hm hall => congrArg _ ?_, fun h => congrArg _ (releaseDue_rests rfl h)⟩
    rw [releaseDue_members rfl hm, if_pos hall]
    exact hreleased rfl

end Sys2Proof.Machine
end

section
/-! SUPPORT. Registers of pools, barchans, page queries and replication ranges, and O25 (R333, R368, R374, R422, [64]). -/

namespace Sys2Proof.Machine

/-! ### Rows at any offset of a unit, and how their writes are answered -/

/-- The register that a unit has at an offset. -/
theorem decodeAddr_offset {die cls inst off : Nat} (hd : die < 32) (hc : cls < 128) (hi : inst < 4096) (ho : off < 2 ^ 24)
    (hu : unitExists die cls inst = true) : decodeAddr (unitAddr die cls inst + off) = findReg die cls off (classRegs cls) := by
  have hdie : addrDie (unitAddr die cls inst + off) = die := by rw [addrDie, unitAddr, bits_eq]; omega
  have hcls : addrCls (unitAddr die cls inst + off) = cls := by rw [addrCls, unitAddr, bits_eq]; omega
  have hinst : addrInst (unitAddr die cls inst + off) = inst := by rw [addrInst, unitAddr, bits_eq]; omega
  have hoff : addrOff (unitAddr die cls inst + off) = off := by rw [addrOff, unitAddr, bits_eq]; omega
  rw [decodeAddr, hdie, hcls, hinst, hoff, if_pos hu]

/-- A register that its unit has at its own offset is the one its row names. -/
theorem namesRegister_offset {r : Reg} {die inst k : Nat} (hd : die < 32) (hc : (regRow r).cls < 128) (hi : inst < 4096)
    (ho : (regRow r).base + (regRow r).stride * k < 2 ^ 24) (hu : unitExists die (regRow r).cls inst = true)
    (hfind : findReg die (regRow r).cls ((regRow r).base + (regRow r).stride * k) (classRegs (regRow r).cls) = some (r, k)) :
    NamesRegister r die inst k (unitAddr die (regRow r).cls inst + ((regRow r).base + (regRow r).stride * k)) where
  form := ⟨hd, hi, ho⟩
  addr := by rw [Nat.add_assoc, unitAddr]; omega
  decode := by rw [decodeAddr_offset hd hc hi ho hu, hfind]
  die := by rw [addrDie, unitAddr, bits_eq]; omega
  inst := by rw [addrInst, unitAddr, bits_eq]; omega

section
variable {s : State} {tag die inst k a : Nat} {r : Reg} {value mask : Word} (hacc : accepts s tag = true)
  (hn : NamesRegister r die inst k a) (hf : r ≠ .faultSource) (hfo : r ≠ .failoverCtrl)
include hacc hn hf hfo

/-- A write that does not look at the control port is answered OK. -/
theorem writeAt_done {u : State} (hout : u.out = s.out)
    (hw : ∀ c, writeReg { s with cp := c } r die inst k value.toNat mask.toNat = written { u with cp := c }) :
    ∃ t, writeAt tag r die inst k value mask s = .next t ∧ Done s u t tag 0x11 [] := by
  obtain ⟨c, hc⟩ := noted_modCp s tag 0x11
  refine ⟨_, writeAt_settles hacc hn hf hfo value mask, ?_⟩
  rw [hc, hw c, settle_written]
  exact answerOk_done (accepts_iff hacc).2.2.2.1 (by rw [hc]) hout []

/-- One that is refused is answered with its status, and nothing is written. -/
theorem writeAt_refused {st : Nat} (hst : st ≠ stOk)
    (hw : ∀ c, writeReg { s with cp := c } r die inst k value.toNat mask.toNat = (st, 0, { s with cp := c })) :
    ∃ t, writeAt tag r die inst k value mask s = .next t ∧ Replies s t tag 0x11 st (failWord 8 0 0) ∧
      t = { s with cp := t.cp, out := t.out } := by
  obtain ⟨c, hc⟩ := noted_modCp s tag 0x11
  refine ⟨_, writeAt_settles hacc hn hf hfo value mask, ?_⟩
  have hsettle : settle tag 0x11 (st, 0, { s with cp := c }) = answer { s with cp := c } tag 0x11 st (failWord 8 0 0) :=
    if_neg hst
  rw [hc, hw c, hsettle]
  refine ⟨answer_replies (u := { s with cp := c }) (accepts_iff hacc).2.2.2.1 (by rw [hc]) rfl _ _, ?_⟩
  conv_lhs => rw [answer_eq]

end

theorem dieKind_erg {die : Nat} (hlo : 26 ≤ die) (hhi : die < 30) : dieKind die = 3 := by
  rw [dieKind, if_neg (by omega), if_neg (by omega), if_neg (by omega), if_pos hhi]

theorem dieKind_spindles {die : Nat} (hlo : 10 ≤ die) (hhi : die < 26) : dieKind die = 2 := by
  rw [dieKind, if_neg (by omega), if_neg (by omega), if_pos hhi]

/-! ### POOL_CONFIG and POOL_COUNT (R368) -/

section
variable {s : State} {p : Nat} {r : Reg}

/-- The row's register of a pool. -/
def poolReg (reg : Nat) : Reg := if reg = 0 then .poolConfig else .poolCount

theorem poolReg_cases (reg : Nat) : poolReg reg = .poolConfig ∨ poolReg reg = .poolCount := by
  unfold poolReg
  split
  · exact .inl rfl
  · exact .inr rfl

/-- What POOL_CONFIG and POOL_COUNT hold is a pool that its tier has room for. -/
def PoolFits (u : State) (p : Nat) : Prop :=
  fget u .poolConfig (poolDie p) p 0 62 61 ≠ 3 ∧ poolBase u p % poolSize u p = 0 ∧
    poolBase u p + poolCount u p * poolSize u p ≤ tierLimit u (fget u .poolConfig (poolDie p) p 0 60 60) ∧
    poolCount u p ≤ 2 ^ 20

theorem namesRegister_pool (hp : p < 256) (hr : r = .poolConfig ∨ r = .poolCount) :
    ∃ a, NamesRegister r (poolDie p) p 0 a := by
  have hd : poolDie p < 32 := by unfold poolDie; omega
  have hown : p % 4 = poolDie p - 26 := by unfold poolDie; omega
  have hu : unitExists (poolDie p) 0x1c p = true := by
    simp only [unitExists, classCount, dieKind_erg (die := poolDie p) (by unfold poolDie; omega) (by unfold poolDie; omega)]
    simp [hd, hp, hown]
  rcases hr with rfl | rfl
  · exact ⟨_, namesRegister_offset hd (by decide) (by omega) (by decide) hu rfl⟩
  · exact ⟨_, namesRegister_offset hd (by decide) (by omega) (by decide) hu rfl⟩

theorem writeReg_pool (hr : r = .poolConfig ∨ r = .poolCount) {die value mask : Nat} (hm : writable r &&& mask ≠ 0) :
    writeReg s r die p 0 value mask = writePool s r die p (mergeWrite r (rget s r die p 0) value mask) := by
  rcases hr with rfl | rfl <;> rw [writeReg, if_neg hm]

theorem writePool_bad {new : Nat} (h : ¬ PoolFits (rset s r (poolDie p) p 0 new) p) :
    writePool s r (poolDie p) p new = badWrite s := by
  refine if_pos ?_
  by_contra hc
  simp only [not_or, not_lt] at hc
  obtain ⟨hsize, hbase, hlimit, hcount⟩ := hc
  exact h ⟨hsize, not_not.1 hbase, hlimit, hcount⟩

/-- A legal one is BUSY while a bobbin of the enabled pool is allocated; otherwise it is stored, every bobbin free. -/
theorem writePool_fits {new : Nat} (h : PoolFits (rset s r (poolDie p) p 0 new) p) :
    writePool s r (poolDie p) p new = if poolEnabled s p = true ∧ poolFree s p < poolCount s p then busyWrite s
      else written (noteLow (setPool (rset s r (poolDie p) p 0 new) p []) p) := by
  obtain ⟨hsize, hbase, hlimit, hcount⟩ := h
  refine if_neg ?_
  rintro (hc | hc | hc | hc)
  · exact hsize hc
  · exact hc hbase
  · exact absurd hlimit (not_le.2 hc)
  · exact absurd hcount (not_le.2 hc)

/-- FREE is counted from POOL_CONFIG, POOL_COUNT and what is allocated. -/
theorem poolFree_congr {t : State} (hcfg : rget t .poolConfig (poolDie p) p 0 = rget s .poolConfig (poolDie p) p 0)
    (hcount : rget t .poolCount (poolDie p) p 0 = rget s .poolCount (poolDie p) p 0) (hpools : t.erg.pools = s.erg.pools) :
    poolFree t p = poolFree s p := by
  have hen : poolEnabled t p = poolEnabled s p := by rw [poolEnabled, fget, hcfg, poolEnabled, fget]
  have hsize : poolCount t p = poolCount s p := by rw [poolCount, fget, hcount, poolCount, fget]
  have hused : poolUsed t p = poolUsed s p := by rw [poolUsed, hpools, poolUsed]
  rw [poolFree, hen, hsize, hused, poolFree]

theorem poolConfig_addr (d p : Nat) : regAddr .poolConfig d p 0 = d * 2 ^ 43 + 0x1c * 2 ^ 36 + p * 2 ^ 24 := by
  simp [regAddr, regHome, regRow, unitAddr]

theorem poolCount_addr (d p : Nat) : regAddr .poolCount d p 0 = d * 2 ^ 43 + 0x1c * 2 ^ 36 + p * 2 ^ 24 + 8 := by
  simp [regAddr, regHome, regRow, unitAddr]

theorem poolStatus_addr (d p : Nat) : regAddr .poolStatus d p 0 = d * 2 ^ 43 + 0x1c * 2 ^ 36 + p * 2 ^ 24 + 0x10 := by
  simp [regAddr, regHome, regRow, unitAddr]

/-- LOW_FREE is no part of what FREE is counted from. -/
theorem poolFree_noteLow (hrise : mapRising 0 s.regs = true) : poolFree (noteLow s p) p = poolFree s p := by
  unfold noteLow
  split
  · have hcfg : regAddr .poolConfig (poolDie p) p 0 ≠ regAddr .poolStatus (poolDie p) p 0 := by
      rw [poolConfig_addr, poolStatus_addr]
      omega
    have hcount : regAddr .poolCount (poolDie p) p 0 ≠ regAddr .poolStatus (poolDie p) p 0 := by
      rw [poolCount_addr, poolStatus_addr]
      omega
    exact poolFree_congr (rget_rset_other hrise hcfg _) (rget_rset_other hrise hcount _) (by rw [fset_erg])
  · rfl

theorem poolUsed_setPool (hrise : mapRising 0 s.erg.pools = true) (u : SMap Unit) : poolUsed (setPool s p u) p = u :=
  (mapGet_mapPut hrise [] u p p).trans (if_pos rfl)

/-- A pool with every bobbin free. -/
theorem poolFree_emptied (hp : mapRising 0 s.erg.pools = true) (hr : mapRising 0 s.regs = true) :
    poolFree (noteLow (setPool s p []) p) p = if poolEnabled s p = true then poolCount s p else 0 := by
  have hen : poolEnabled (setPool s p []) p = poolEnabled s p := rfl
  have hcount : poolCount (setPool s p []) p = poolCount s p := rfl
  rw [poolFree_noteLow (s := setPool s p []) hr, poolFree, poolUsed_setPool hp, hen, hcount, List.length_nil, Nat.sub_zero]

theorem rset_rising (h : mapRising 0 s.regs = true) (r : Reg) (d i k v : Nat) : mapRising 0 (rset s r d i k v).regs = true := by
  rw [rset_regs, mapPut]
  split
  · exact mapDel_rising h
  · exact mapIns_rising h (Nat.zero_le _)

end

/-! ### BARCHAN_MEMBERS (R333) -/

section
variable {s : State} {die slot b : Nat}

theorem setBarchan_out (key : Nat) (v : Barchan) : (setBarchan s key b v).out = s.out := setSp_out ..

theorem namesRegister_barchanMembers (hlo : 10 ≤ die) (hhi : die < 26) (hslot : slot < 17) (hb : b < 16) :
    ∃ a, NamesRegister .barchanMembers die slot b a := by
  have hu : unitExists die 0x10 slot = true := by
    simp only [unitExists, classCount, dieKind_spindles hlo hhi]
    simp [hslot]
    omega
  refine ⟨_, namesRegister_offset (by omega) (by decide) (by omega) ?_ hu ?_⟩
  · show 0x400 + 32 * b < 2 ^ 24
    omega
  · show findReg die 0x10 (0x400 + 32 * b) (classRegs 0x10) = _
    interval_cases b <;> rfl

/-- Every bit of BARCHAN_MEMBERS is written under the mask. -/
theorem mergeWrite_barchanMembers (old value mask : Word) :
    word (mergeWrite .barchanMembers old.toNat value.toNat mask.toNat) = (old &&& ~~~mask) ||| (value &&& mask) := by
  apply BitVec.eq_of_getLsbD_eq
  intro i hi
  have hall : (0xffffffffffffffff : Nat).testBit i = true := by
    rw [show (0xffffffffffffffff : Nat) = 2 ^ 64 - 1 by decide, Nat.testBit_two_pow_sub_one]
    exact decide_eq_true hi
  have hbit (x : Word) : x.toNat.testBit i = x.getLsbD i := rfl
  simp only [word, mergeWrite, regRow, BitVec.getLsbD_ofNat, Nat.testBit_xor, Nat.testBit_or, Nat.testBit_and, hall, hbit,
    Nat.zero_testBit, hi, BitVec.getLsbD_or, BitVec.getLsbD_and, BitVec.getLsbD_not]
  cases old.getLsbD i <;> cases value.getLsbD i <;> cases mask.getLsbD i <;> rfl

theorem writeReg_barchanMembers {value mask : Word} (hm : mask ≠ 0) :
    writeReg s .barchanMembers die slot b value.toNat mask.toNat =
      let v := getBarchan (getSp s (32 * die + slot)) b
      if v.cur ≠ 0 ∨ v.next ≠ 0 then busyWrite s
      else written (setBarchan s (32 * die + slot) b { v with members := (v.members &&& ~~~mask) ||| (value &&& mask) }) := by
  have hw : ¬ writable .barchanMembers &&& mask.toNat = 0 := by
    show ¬ (2 ^ 64 - 1) &&& mask.toNat = 0
    rw [Nat.and_comm, Nat.and_two_pow_sub_one_eq_mod, Nat.mod_eq_of_lt mask.isLt]
    exact fun h => hm (BitVec.eq_of_toNat_eq h)
  rw [writeReg, if_neg hw]
  simp only [writeMembers, mergeWrite_barchanMembers]

end

/-! ### PAGE_QUERY -/

section
variable {s : State} {die : Nat}

theorem unitExists_erg (hlo : 26 ≤ die) (hhi : die < 30) : unitExists die 0x18 0 = true := by
  simp only [unitExists, classCount, dieKind_erg hlo hhi]
  simp
  omega

theorem namesRegister_pageQuery (hlo : 26 ≤ die) (hhi : die < 30) : ∃ a, NamesRegister .pageQuery die 0 0 a :=
  ⟨_, namesRegister_offset (by omega) (by decide) (by omega) (by decide) (unitExists_erg hlo hhi) rfl⟩

theorem writeReg_pageQuery {value mask : Nat} (hm : 0x1ffff &&& mask ≠ 0) :
    writeReg s .pageQuery die 0 0 value mask =
      let new := mergeWrite .pageQuery (rget s .pageQuery die 0 0) value mask
      if 49152 ≤ bits new 15 0 then badWrite s else written (rset s .pageQuery die 0 0 new) := by
  have hw : ¬ writable .pageQuery &&& mask = 0 := hm
  rw [writeReg, if_neg hw]

end

/-! ### Replication ranges (R374) -/

section
variable {s : State} {die n reg : Nat}

/-- The row's register of a replication range. -/
def rangeReg (reg : Nat) : Reg := if reg = 0 then .replRangeCtrl else if reg = 1 then .replRangeBase else .replRangeLen

/-- A REGION or PARTNER written, or a BASE or LENGTH, that no range has. -/
def rangeBad (reg new mask : Nat) : Bool :=
  if reg = 0 then
    (bits mask 55 52 != 0 && bits new 55 52 != 1 && bits new 55 52 != 2) || (bits mask 19 0 != 0 && bits new 19 0 == ownFeid)
  else bits new 39 0 % 4096 != 0

theorem rangeBad_iff (reg new mask : Nat) : rangeBad reg new mask = true ↔
    if reg = 0 then
      (bits mask 55 52 ≠ 0 ∧ bits new 55 52 ≠ 1 ∧ bits new 55 52 ≠ 2) ∨ (bits mask 19 0 ≠ 0 ∧ bits new 19 0 = ownFeid)
    else bits new 39 0 % 4096 ≠ 0 := by
  unfold rangeBad
  split <;> simp only [Bool.or_eq_true, Bool.and_eq_true, bne_iff_ne, beq_iff_eq, and_assoc]

theorem rangeReg_cases (reg : Nat) : (reg = 0 ∧ rangeReg reg = .replRangeCtrl) ∨
    (reg ≠ 0 ∧ (rangeReg reg = .replRangeBase ∨ rangeReg reg = .replRangeLen)) := by
  by_cases h0 : reg = 0
  · exact .inl ⟨h0, if_pos h0⟩
  · refine .inr ⟨h0, ?_⟩
    rw [rangeReg, if_neg h0]
    split
    · exact .inl rfl
    · exact .inr rfl

theorem findReg_range (die : Nat) (hn : n < 16) :
    findReg die 0x18 (0x1000 + 32 * n) (classRegs 0x18) = some (.replRangeCtrl, n) ∧
      findReg die 0x18 (0x1008 + 32 * n) (classRegs 0x18) = some (.replRangeBase, n) ∧
      findReg die 0x18 (0x1010 + 32 * n) (classRegs 0x18) = some (.replRangeLen, n) := by
  interval_cases n <;> exact ⟨rfl, rfl, rfl⟩

theorem namesRegister_range (hlo : 26 ≤ die) (hhi : die < 30) (hn : n < 16) : ∃ a, NamesRegister (rangeReg reg) die 0 n a := by
  have hd : die < 32 := by omega
  have hu := unitExists_erg hlo hhi
  obtain ⟨hctrl, hbase, hlen⟩ := findReg_range die hn
  rcases rangeReg_cases reg with ⟨-, hr⟩ | ⟨-, hr | hr⟩ <;> rw [hr]
  · exact ⟨_, namesRegister_offset hd (by decide) (by decide) (by show 0x1000 + 32 * n < 2 ^ 24; omega) hu hctrl⟩
  · exact ⟨_, namesRegister_offset hd (by decide) (by decide) (by show 0x1008 + 32 * n < 2 ^ 24; omega) hu hbase⟩
  · exact ⟨_, namesRegister_offset hd (by decide) (by decide) (by show 0x1010 + 32 * n < 2 ^ 24; omega) hu hlen⟩

/-- A range enabled anew: nothing is pending, and nothing is kept for resending. -/
def rangeStarted (u : State) (die n : Nat) : State :=
  setRepl (fset (rset u .replRangeSeq die 0 n 0) .replRangeCtrl die 0 n 61 60 0) die n { copies := [], resends := 0 }

theorem rangeStarted_out (u : State) (die n : Nat) : (rangeStarted u die n).out = u.out :=
  (modErg_out ..).trans ((fset_out ..).trans (rset_out ..))

/-- Starting a range does not look at the control port. -/
theorem rangeStarted_cp (u : State) (c : ControlPort) (die n : Nat) :
    rangeStarted { u with cp := c } die n = { rangeStarted u die n with cp := c } := by
  have hrset (t : State) (r : Reg) (d i k v : Nat) : rset { t with cp := c } r d i k v = { rset t r d i k v with cp := c } := rfl
  have hfset (t : State) (r : Reg) (d i k hi lo v : Nat) :
      fset { t with cp := c } r d i k hi lo v = { fset t r d i k hi lo v with cp := c } := rfl
  have hrepl (t : State) (r : Repl) : setRepl { t with cp := c } die n r = { setRepl t die n r with cp := c } := rfl
  rw [rangeStarted, hrset, hfset, hrepl, rangeStarted]

/-- A write to a range: BAD_PARAM before BUSY, and a write of ENABLE 1 starts the range. -/
theorem writeReg_range {value mask : Nat} (hm : writable (rangeReg reg) &&& mask ≠ 0) :
    writeReg s (rangeReg reg) die 0 n value mask =
      let new := mergeWrite (rangeReg reg) (rget s (rangeReg reg) die 0 n) value mask
      let u := rset s (rangeReg reg) die 0 n new
      if rangeBad reg new mask || rangeOverlaps u die n then badWrite s
      else if fget s .replRangeSeq die 0 n 31 0 ≠ 0 then busyWrite s
      else if reg = 0 ∧ bit (value &&& mask) 63 = true then written (rangeStarted u die n)
      else written u := by
  rcases rangeReg_cases reg with ⟨h0, hr⟩ | ⟨h0, hr | hr⟩ <;> rw [hr] at hm ⊢ <;> rw [writeReg, if_neg hm]
  · simp only [rangeBad, h0, if_true, true_and]
    rfl
  · simp only [rangeBad, h0, if_false, false_and]
    rfl
  · simp only [rangeBad, h0, if_false, false_and]
    rfl

end

/-! ### O25 -/

/-- Settles O25: each row names its register, whose write (`writeReg_pool`, `writeReg_barchanMembers`, `writeReg_pageQuery`,
`writeReg_range`) is answered OK (`writeAt_done`) or refused (`writeAt_refused`) whatever the control port holds. That POOL SIZE 3
is BAD_PARAM and that a range is checked on the fields the mask selects are the model's reading [64]. -/
theorem ergAndBarchanRegistersAreWritten : Obligations.ErgAndBarchanRegistersAreWritten := by
  refine ⟨?pool, ?members, fun s tag die n reg value mask hacc hlo hhi hn => ⟨fun hm => ?query, fun r hr hm => ?range⟩⟩
  case pool =>
    intro s tag pool reg value mask hacc hpool die r hm u fits
    have hr : r = .poolConfig ∨ r = .poolCount := poolReg_cases reg
    have hf : r ≠ .faultSource := by rcases hr with h | h <;> rw [h] <;> decide
    have hfo : r ≠ .failoverCtrl := by rcases hr with h | h <;> rw [h] <;> decide
    obtain ⟨a, hn⟩ := namesRegister_pool hpool hr
    have hwrite (c : ControlPort) := writeReg_pool (s := { s with cp := c }) (p := pool) (die := die) (value := value.toNat) hr hm
    refine ⟨fun hfits hfree => ?_, fun hfits => ?_, fun hfits hen hlt => ?_⟩
    · have hidle : ¬ (poolEnabled s pool = true ∧ poolFree s pool < poolCount s pool) := fun h => by
        rw [hfree h.1] at h
        exact lt_irrefl _ h.2
      obtain ⟨t, act, hdone⟩ := writeAt_done (value := value) (mask := mask) (u := noteLow (setPool u pool []) pool) hacc hn hf hfo
        (noteLow_out _ _) fun c => by
          rw [hwrite c]
          exact (writePool_fits (s := { s with cp := c }) hfits).trans ((if_neg hidle).trans
            (congrArg written (noteLow_cp (setPool u pool []) c pool)))
      refine ⟨t, act, hdone, fun hp hg => ?_⟩
      rw [hdone.frame]
      exact poolFree_emptied (s := u) hp (rset_rising hg _ _ _ _ _)
    · exact writeAt_refused (value := value) (mask := mask) hacc hn hf hfo (by decide) fun c => by
        rw [hwrite c]
        exact writePool_bad (s := { s with cp := c }) hfits
    · exact writeAt_refused (value := value) (mask := mask) hacc hn hf hfo (by decide) fun c => by
        rw [hwrite c]
        exact (writePool_fits (s := { s with cp := c }) hfits).trans (if_pos ⟨hen, hlt⟩)
  case members =>
    intro s tag die slot b value mask hacc hlo hhi hslot hb hm v
    obtain ⟨a, hn⟩ := namesRegister_barchanMembers hlo hhi hslot hb
    have hwrite (c : ControlPort) :=
      writeReg_barchanMembers (s := { s with cp := c }) (die := die) (slot := slot) (b := b) (value := value) hm
    refine ⟨fun hcur hnext => ?_, fun hheld => ?_⟩
    · exact writeAt_done hacc hn nofun nofun (setBarchan_out ..) fun c =>
        (hwrite c).trans (if_neg fun h => h.elim (fun h => h hcur) (fun h => h hnext))
    · exact writeAt_refused hacc hn nofun nofun (by decide) fun c => (hwrite c).trans (if_pos hheld)
  case query =>
    obtain ⟨a, hn⟩ := namesRegister_pageQuery hlo hhi
    have hwrite (c : ControlPort) := writeReg_pageQuery (s := { s with cp := c }) (die := die) (value := value.toNat) hm
    exact ⟨fun hlt => writeAt_done hacc hn nofun nofun (rset_out ..) fun c => (hwrite c).trans (if_neg (not_le.2 hlt)),
      fun hle => writeAt_refused hacc hn nofun nofun (by decide) fun c => (hwrite c).trans (if_pos hle)⟩
  case range =>
    have hreg : r = rangeReg reg := hr
    subst hreg
    clear hr
    intro new u bad
    obtain ⟨a, hn⟩ := namesRegister_range (reg := reg) hlo hhi hn
    have hf : rangeReg reg ≠ .faultSource := by rcases rangeReg_cases reg with ⟨-, h⟩ | ⟨-, h | h⟩ <;> rw [h] <;> decide
    have hfo : rangeReg reg ≠ .failoverCtrl := by rcases rangeReg_cases reg with ⟨-, h⟩ | ⟨-, h | h⟩ <;> rw [h] <;> decide
    have hwrite (c : ControlPort) := writeReg_range (s := { s with cp := c }) (die := die) (n := n) (value := value.toNat) hm
    have hillegal : (rangeBad reg new mask.toNat || rangeOverlaps u die n) = true ↔ bad ∨ rangeOverlaps u die n = true := by
      rw [Bool.or_eq_true, rangeBad_iff]
    have hlegal (hbad : ¬ bad) (hover : rangeOverlaps u die n = false) :
        ¬ (rangeBad reg new mask.toNat || rangeOverlaps u die n) = true := by
      rw [hillegal, hover]
      simpa using hbad
    refine ⟨fun hbad hover hseq => ⟨fun hkeep => ?_, fun h0 hen => ?_⟩, fun hbad => ?_, fun hbad hover hseq => ?_⟩
    · have hplain : ¬ (reg = 0 ∧ bit (value.toNat &&& mask.toNat) 63 = true) := by
        rintro ⟨h0, hen⟩
        exact hkeep.elim (fun h => h h0) (fun h => Bool.false_ne_true (h.symm.trans hen))
      exact writeAt_done hacc hn hf hfo (rset_out ..) fun c =>
        (hwrite c).trans ((if_neg (hlegal hbad hover)).trans ((if_neg (not_not.2 hseq)).trans (if_neg hplain)))
    · exact writeAt_done hacc hn hf hfo ((rangeStarted_out ..).trans (rset_out ..)) fun c =>
        (hwrite c).trans ((if_neg (hlegal hbad hover)).trans ((if_neg (not_not.2 hseq)).trans ((if_pos ⟨h0, hen⟩).trans
          (congrArg written (rangeStarted_cp u c die n)))))
    · exact writeAt_refused hacc hn hf hfo (by decide) fun c => (hwrite c).trans (if_pos (hillegal.2 hbad))
    · exact writeAt_refused hacc hn hf hfo (by decide) fun c =>
        (hwrite c).trans ((if_neg (hlegal hbad hover)).trans (if_pos hseq))

end Sys2Proof.Machine
end

section
/-! SUPPORT. Atomics at their Erg die (R352, R356, R357), and O43. -/

namespace Sys2Proof.Machine

/-- What passes order 3 lies within its region, its die's exposed pages and one granule. -/
theorem inRange_of_rangeStatus {s : State} {die : Nat} {w : Word} {n : Nat} (h : rangeStatus s die w n = stOk) :
    InRange s die w n := by
  have legal : ¬ (n = 0 ∨ tierLimit s (hndRegion w - 1) < hndOffset w + n ∨
      exposed s die (hndRegion w - 1) ≤ pageOf (hndOffset w) ∨ hndOffset w / 4096 ≠ (hndOffset w + n - 1) / 4096) :=
    fun hc => absurd ((if_pos hc).symm.trans h) (by decide)
  refine ⟨?_, ?_, ?_, ?_, ?_⟩ <;> omega

section
variable {s : State} {die : Nat} {h : Header}

/-! ### An atomic's checks -/

/-- Orders 1 to 4 of an atomic. -/
def atomEarly (s : State) (die : Nat) (h : Header) : Nat :=
  firstOf [handleStatus h.w4 (dataHandle h.w4 && decide (1 ≤ atop h) && decide (atop h ≤ 5)),
    if atomForm h then rangeStatus s die h.w4 (atomBytes h) else stBadParam, replicaStatus s die h.w4]

/-- An atomic: `t` is the state after the checker has read where orders 1 to 4 and the channel let it, `st` the status. -/
theorem ergAtomic_at {t : State} {st : Nat}
    (ht : (if atomEarly s die h = stOk ∧ backed s (ergAddr s (hndRegion h.w4 - 1) (hndOffset h.w4)) = true
      then eccChecks s (ergAddr s (hndRegion h.w4 - 1) (hndOffset h.w4)) (atomBytes h) else s) = t)
    (hst : firstOf [atomEarly s die h, backStatus t h.w4 (atomBytes h) true] = st) :
    ergAtomic s die h =
      if st = stOk then
        applied (atomApply t h).2 die h.w4 (some h) (atomicFwdFields (atomApply t h).2 die h) (atomApply t h).1 none
      else ergRespond t die h st 0 := by
  subst ht hst
  rfl

theorem handleStatus_atomic (hn : NamesData h.w4) (h1 : 1 ≤ atop h) (h5 : atop h ≤ 5) :
    handleStatus h.w4 (dataHandle h.w4 && decide (1 ≤ atop h) && decide (atop h ≤ 5)) = stOk := by
  rw [decide_eq_true h1, decide_eq_true h5, Bool.and_true, Bool.and_true, handleStatus_data hn]

theorem atomEarly_malformed (hn : NamesData h.w4) (h1 : 1 ≤ atop h) (h5 : atop h ≤ 5) (hf : atomForm h = false) :
    atomEarly s die h = stBadParam := by
  rw [atomEarly, handleStatus_atomic hn h1 h5, hf]
  rfl

theorem atomEarly_ok (hn : NamesData h.w4) (h1 : 1 ≤ atop h) (h5 : atop h ≤ 5) (hf : atomForm h = true)
    (hr : rangeStatus s die h.w4 (atomBytes h) = stOk)
    (hrep : replFind s die 1 (hndRegion h.w4) (hndOffset h.w4) = none) : atomEarly s die h = stOk := by
  rw [atomEarly, handleStatus_atomic hn h1 h5, hf, if_pos rfl, hr, replicaStatus, hrep]
  rfl

/-- An error of orders 1 to 4 is answered. -/
theorem ergAtomic_refused {st : Nat} (he : atomEarly s die h = st) (hst : st ≠ stOk) :
    ergAtomic s die h = ergRespond s die h st 0 := by
  have unread : ¬ (atomEarly s die h = stOk ∧ backed s (ergAddr s (hndRegion h.w4 - 1) (hndOffset h.w4)) = true) :=
    fun hc => hst (he ▸ hc.1)
  exact (ergAtomic_at (if_neg unread) (he ▸ firstOf_error (he ▸ hst) _)).trans (if_neg (he ▸ hst))

/-- An atomic on readable bytes in no PRIMARY range, its channel's checker quiet, is applied and answered. -/
theorem ergAtomic_applies (he : atomEarly s die h = stOk)
    (hb : backed s (ergAddr s (hndRegion h.w4 - 1) (hndOffset h.w4)) = true)
    (hq : eccChecks s (ergAddr s (hndRegion h.w4 - 1) (hndOffset h.w4)) (atomBytes h) = s)
    (hgood : anyBad s (ergAddr s (hndRegion h.w4 - 1) (hndOffset h.w4)) (atomBytes h) = false)
    (hp : replFind s die 0 (hndRegion h.w4) (hndOffset h.w4) = none) :
    ergAtomic s die h = ergRespond (atomApply s h).2 die h stOk (atomApply s h).1 := by
  have hst : firstOf [atomEarly s die h, backStatus s h.w4 (atomBytes h) true] = stOk := by
    rw [he, firstOf_ok, backStatus_read hb, if_neg (Bool.eq_false_iff.1 hgood)]
    rfl
  rw [ergAtomic_at ((if_pos ⟨he, hb⟩).trans hq) hst, if_pos rfl]
  exact applied_plain (s := (atomApply s h).2) hp _ _ _

/-- An atomic's bytes are written as many as it names. -/
theorem atomApply_stores (s : State) (h : Header) :
    let a := ergAddr s (hndRegion h.w4 - 1) (hndOffset h.w4)
    let n := atomBytes h
    let old := bytesNat (memRead s.erg.mem a n)
    (atomApply s h).2 = { s with erg := { s.erg with
      mem := memWrite s.erg.mem a (natBytes n (atomNew h old)), bad := s.erg.bad.filter (fun b => !blockInside a n b.1) } } := by
  simp only [atomApply, ergPut, natBytes_length]
  rfl

end

/-! ### The rows of the atomics -/

/-- Operations 1 to 5, each with the row that takes it. -/
def atomRows (die : Nat) : List (Nat × Instr) :=
  [(1, .addExact die), (2, .fetchAdd die), (3, .atomMax die), (4, .atomMin die), (5, .cas die)]

theorem atomRows_operation {die : Nat} {e : Nat × Instr} (he : e ∈ atomRows die) : 1 ≤ e.1 ∧ e.1 ≤ 5 := by
  simp only [atomRows, List.mem_cons, List.not_mem_nil, or_false] at he
  rcases he with rfl | rfl | rfl | rfl | rfl <;> simp

section
variable {s : State} {die : Nat} {p : Pkt} {rest : List Pkt} (hin : getInbox s die = p :: rest)
  (hl : lacksReplay s die p = false) (hc : p.complete = true) (hk : hKind p.hdr = kAtomic) (hscan : scanOpen s die = false)
  (hdie : 26 ≤ die ∧ die < 30) (hb : p.bad = false) (hlive : ergLive s die = true)
include hin hl hc hk hscan hdie hb hlive

/-- An ATOMIC of an operation the row takes is carried out. -/
theorem takeAtomic_acts {want : Nat → Bool} (hw : want (atop p.hdr) = true) (f : Header → State → State) :
    atErg die (takeAtomic s die want f) = .next (f p.hdr (setInbox s die rest)) := by
  have taken : (hKind p.hdr == kAtomic && want (atop p.hdr)) = true := by rw [hw, Bool.and_true, beq_iff_eq, hk]
  rw [atErg_next hdie, takeAtomic,
    takeRequest_acts hin hl hc (want := fun h => hKind h == kAtomic && want (atop h)) taken hscan hdie.1 _ hb hlive]

/-- The five rows act alike. -/
theorem exec_atomic {e : Nat × Instr} (he : e ∈ atomRows die) (ha : atop p.hdr = e.1) :
    exec e.2 s = .next (ergAtomic (setInbox s die rest) die p.hdr) := by
  simp only [atomRows, List.mem_cons, List.not_mem_nil, or_false] at he
  rcases he with rfl | rfl | rfl | rfl | rfl <;>
    exact takeAtomic_acts hin hl hc hk hscan hdie hb hlive (by simp [ha]) fun h s => ergAtomic s die h

end

/-! ### O43 -/

/-- Settles O43: an atomic that passes its checks is applied (`ergAtomic_applies`), and `atomNew` gives each operation's
value; a malformed one fails order 3 (`atomEarly_malformed`). -/
theorem atomicsChangeTheirBytes : Obligations.AtomicsChangeTheirBytes := by
  intro s die p rest hlo hhi hin hc hb hlive hk hscan hl h w u a n old bitsOf x bad stored hfeid hregion
  have named : NamesData h.w4 := ⟨hfeid, hregion⟩
  have act {e : Nat × Instr} := exec_atomic (e := e) hin hl hc hk hscan ⟨hlo, hhi⟩ hb hlive
  refine ⟨fun hform hrange hpri hrep hback hgood hq0 hq1 => ?wellFormed, fun hform h1 h5 e he ha => ?malformed⟩
  case wellFormed =>
    have quiet : eccChecks u a n = u := eccChecks_inRange (inRange_of_rangeStatus hrange) ⟨hq0, hq1⟩
    have applies (e : Nat × Instr) (he : e ∈ atomRows die) (ha : atop h = e.1) :
        exec e.2 s = .next (ergRespond (stored (atomNew h old)) die h stOk (atomResult h old)) := by
      obtain ⟨h1, h5⟩ := ha ▸ atomRows_operation he
      rw [act he ha, ergAtomic_applies (s := u) (atomEarly_ok named h1 h5 hform hrange hrep) hback quiet hgood hpri,
        atomApply_stores]
      rfl
    refine ⟨fun ha => (applies (1, .addExact die) (by simp [atomRows]) ha).trans ?_,
      fun ha => (applies (2, .fetchAdd die) (by simp [atomRows]) ha).trans ?_,
      fun ha => (applies (3, .atomMax die) (by simp [atomRows]) ha).trans ?_,
      fun ha => (applies (4, .atomMin die) (by simp [atomRows]) ha).trans ?_,
      fun ha => (applies (5, .cas die) (by simp [atomRows]) ha).trans ?_⟩
    all_goals
      simp only [atomNew, atomResult, ha]
      rfl
  case malformed =>
    rw [act he ha]
    exact congrArg _ (ergAtomic_refused (atomEarly_malformed named h1 h5 hform) (by decide))

end Sys2Proof.Machine
end

section
/-! SUPPORT. ALLOC and FREE of a bobbin pool at its die (R366, R367), and O44. -/

namespace Sys2Proof.Machine

section
variable {s : State} {n : Nat}

/-! ### ALLOC -/

theorem poolAlloc_disabled (he : poolEnabled s n = false) : poolAlloc s n = (stBadParam, 0, s) := by
  rw [poolAlloc, he]
  rfl

theorem poolAlloc_empty (he : poolEnabled s n = true) (hf : poolFree s n = 0) :
    poolAlloc s n = (stEmpty, 0, fadd s .poolEvents (poolDie n) n 0 63 32 1) := by
  rw [poolAlloc, he]
  exact if_pos hf

/-- The lowest free bobbin is allocated. -/
theorem poolAlloc_lowest (he : poolEnabled s n = true) (hf : poolFree s n ≠ 0) :
    let i := lowestFree 0 (poolUsed s n)
    poolAlloc s n = (stOk, bobbin s n i, noteLow (setPool s n (mapIns (poolUsed s n) i ())) n) := by
  intro i
  rw [poolAlloc, he]
  exact if_neg hf

theorem ergAlloc_asks {die : Nat} {h : Header} (hst : poolStatusOf s h = stOk) :
    let x := poolAlloc s (poolOf h.w4)
    ergAlloc s die h = ergRespond x.2.2 die h x.1 x.2.1 := if_pos hst

/-! ### FREE -/

/-- A bobbin is marked where the pool's store finds it. -/
theorem mapGet_marked {α : Type} (m : SMap α) (k : Nat) :
    mapGet (m.map (fun e => (e.1, true))) false k = (mapFind m k).isSome := by
  induction m with
  | nil => rfl
  | cons e r ih =>
    simp only [List.map_cons, mapGet, mapFind, ih]
    split
    · rfl
    · split <;> rfl

section
variable {w : Word} {src : Nat}

/-- The bobbin a handle of the pool's region would name. -/
def bobbinAt (s : State) (n : Nat) (w : Word) : Nat := (hndOffset w - poolBase s n) / poolSize s n

theorem poolRelease_unnamed (h : poolEnabled s n = false ∨ poolCount s n ≤ bobbinAt s n w ∨ hndOffset w < poolBase s n ∨
    w ≠ bobbin s n (bobbinAt s n w)) : poolRelease s n w src = (stBadParam, s) :=
  if_pos (h.imp_left (Bool.not_eq_true' _).mpr)

variable (he : poolEnabled s n = true) (hi : bobbinAt s n w < poolCount s n) (ho : poolBase s n ≤ hndOffset w)
  (hw : w = bobbin s n (bobbinAt s n w))
include he hi ho hw

/-- A handle of one of the pool's bobbins frees it where it is allocated. -/
theorem poolRelease_named : poolRelease s n w src =
    if (mapFind (poolUsed s n) (bobbinAt s n w)).isSome = true then
      (stOk, setPool s n (mapDel (poolUsed s n) (bobbinAt s n w)))
    else (stBadParam, raiseDetail (fadd s .poolEvents (poolDie n) n 0 31 0 1) (srcPool n 0) [w, word src]) := by
  have named : ¬ ((!poolEnabled s n) = true ∨ poolCount s n ≤ bobbinAt s n w ∨ hndOffset w < poolBase s n ∨
      w ≠ bobbin s n (bobbinAt s n w)) := by
    rintro (h | h | h | h)
    · exact Bool.false_ne_true (((Bool.not_eq_true' _).mp h).symm.trans he)
    · exact Nat.not_le.2 hi h
    · exact Nat.not_lt.2 ho h
    · exact h hw
  rw [← mapGet_marked]
  exact if_neg named

theorem poolRelease_allocated (hf : mapFind (poolUsed s n) (bobbinAt s n w) = some ()) :
    poolRelease s n w src = (stOk, setPool s n (mapDel (poolUsed s n) (bobbinAt s n w))) := by
  rw [poolRelease_named he hi ho hw, hf]
  rfl

theorem poolRelease_free (hf : mapFind (poolUsed s n) (bobbinAt s n w) = none) :
    poolRelease s n w src
      = (stBadParam, raiseDetail (fadd s .poolEvents (poolDie n) n 0 31 0 1) (srcPool n 0) [w, word src]) := by
  rw [poolRelease_named he hi ho hw, hf]
  rfl

end

theorem ergFree_asks {die : Nat} {h : Header} (hst : poolStatusOf s h = stOk) :
    let x := poolRelease s (poolOf h.w4) h.w5 (hSrc h)
    ergFree s die h = ergRespond x.2 die h x.1 0 := if_pos hst

end

/-! ### O44 -/

/-- Settles O44: a request whose handle passes asks its pool (`ergAlloc_asks`, `ergFree_asks`), which allocates or releases as
the lemmas of `poolAlloc` and `poolRelease` say. -/
theorem poolsAllocateAndFree : Obligations.PoolsAllocateAndFree := by
  intro s die p rest hlo hhi hin hc hb hlive hk hscan hl h u n hst
  have taken {want : Nat → Bool} (hw : want (atop h) = true) (f : Header → State → State) :
      atErg die (takeAtomic s die want f) = .next (f h u) := takeAtomic_acts hin hl hc hk hscan ⟨hlo, hhi⟩ hb hlive hw f
  refine ⟨fun ha => ?alloc, fun ha => ?free⟩
  case alloc =>
    have act {st : Nat} {r : Word} {t : State} (hp : poolAlloc u n = (st, r, t)) :
        exec (.alloc die) s = .next (ergRespond t die h st r) := by
      refine (taken (want := (· == 6)) (beq_iff_eq.2 ha) _).trans ?_
      rw [ergAlloc_asks (s := u) hst, hp]
    exact ⟨fun he => act (poolAlloc_disabled he), fun he hf => act (poolAlloc_empty he hf),
      fun he hf => act (poolAlloc_lowest he hf)⟩
  case free =>
    intro i
    have act {st : Nat} {t : State} (hp : poolRelease u n h.w5 (hSrc h) = (st, t)) :
        exec (.free die) s = .next (ergRespond t die h st 0) := by
      refine (taken (want := (· == 7)) (beq_iff_eq.2 ha) _).trans ?_
      rw [ergFree_asks (s := u) hst, hp]
    exact ⟨fun hbad => act (poolRelease_unnamed hbad), fun he hi ho hw =>
      ⟨fun hf => act (poolRelease_allocated he hi ho hw hf), fun hf => act (poolRelease_free he hi ho hw hf)⟩⟩

end Sys2Proof.Machine
end

section
/-! SUPPORT. Forwarded requests at the replica and the resend timer of a range (R361-R363, R441), and O45. -/

namespace Sys2Proof.Machine

section
variable {s : State} {die : Nat} {h : Header}

/-! ### A forwarded request by its sequence number (R361, R362) -/

theorem forwardStatus_ok (hr : replHas s die (wbits h.w7 51 48) 1 (hndRegion h.w4) (hndOffset h.w4) = true)
    (hp : replPartner s die (wbits h.w7 51 48) = hSrc h) : forwardStatus s die h = stOk := if_pos ⟨hr, hp⟩

theorem forwardStatus_denied (hd : replHas s die (wbits h.w7 51 48) 1 (hndRegion h.w4) (hndOffset h.w4) = false ∨
    replPartner s die (wbits h.w7 51 48) ≠ hSrc h) : forwardStatus s die h = stDenied := by
  refine if_neg fun hc => ?_
  rcases hd with hd | hd
  · exact Bool.false_ne_true (hd.symm.trans hc.1)
  · exact hd hc.2

variable {n : Nat} {reads : Bool} {run : State → State}

/-- One from elsewhere. -/
theorem ergForwarded_denied (hf : forwardStatus s die h = stDenied) :
    ergForwarded s die h stOk n reads run = ergRespond s die h stDenied 0 := by
  have hst : firstOf [stOk, forwardStatus s die h] = stDenied := by rw [hf]; rfl
  rw [ergForwarded, hst]
  exact if_pos (by decide)

section
variable (hf : forwardStatus s die h = stOk)
include hf

/-- What passes orders 1 to 4 is told by its distance. -/
theorem ergForwarded_passes : ergForwarded s die h stOk n reads run =
    if 2 ^ 31 ≤ fwdDistance s die h then ergRespond s die h stOk 0
    else if 1 ≤ fwdDistance s die h then ergRespond s die h stBusy 0
    else
      let t := if reads && backed s (ergAddr s (hndRegion h.w4 - 1) (hndOffset h.w4)) then
        eccChecks s (ergAddr s (hndRegion h.w4 - 1) (hndOffset h.w4)) n else s
      if backStatus t h.w4 n reads ≠ stOk then ergRespond t die h (backStatus t h.w4 n reads) 0
      else ergRespond (fset (run t) .replRangeSeq die 0 (wbits h.w7 51 48) 63 32 (replSeq t die (wbits h.w7 51 48) + 1)) die h
        stOk 0 := by
  have hst : firstOf [stOk, forwardStatus s die h] = stOk := by rw [hf]; rfl
  rw [ergForwarded, hst]
  exact if_neg (not_not.2 rfl)

theorem ergForwarded_old (hd : 2 ^ 31 ≤ fwdDistance s die h) :
    ergForwarded s die h stOk n reads run = ergRespond s die h stOk 0 := (ergForwarded_passes hf).trans (if_pos hd)

theorem ergForwarded_early (h1 : 1 ≤ fwdDistance s die h) (hd : fwdDistance s die h < 2 ^ 31) :
    ergForwarded s die h stOk n reads run = ergRespond s die h stBusy 0 :=
  (ergForwarded_passes hf).trans ((if_neg (Nat.not_le.2 hd)).trans (if_pos h1))

/-- The one expected is applied to usable bytes, and the next is expected then. -/
theorem ergForwarded_inSequence (hq : hAux h = replSeq s die (wbits h.w7 51 48))
    (hecc : reads = true → eccChecks s (ergAddr s (hndRegion h.w4 - 1) (hndOffset h.w4)) n = s)
    (hb : backStatus s h.w4 n reads = stOk) :
    ergForwarded s die h stOk n reads run
      = ergRespond (fset (run s) .replRangeSeq die 0 (wbits h.w7 51 48) 63 32 (replSeq s die (wbits h.w7 51 48) + 1)) die h
        stOk 0 := by
  have hd : fwdDistance s die h = 0 := by rw [fwdDistance, hq, Nat.add_sub_cancel_left, Nat.mod_self]
  have ht : (if reads && backed s (ergAddr s (hndRegion h.w4 - 1) (hndOffset h.w4)) then
      eccChecks s (ergAddr s (hndRegion h.w4 - 1) (hndOffset h.w4)) n else s) = s := by
    split
    next hr => exact hecc (Bool.and_eq_true_iff.1 hr).1
    next => rfl
  rw [ergForwarded_passes hf, hd, if_neg (by decide), if_neg (by decide)]
  dsimp only
  rw [ht, if_neg (not_not.2 hb)]

end

/-! ### PUT_FWD and ATOMIC_FWD -/

/-- Orders 1 to 3 of a write of `n` bytes. -/
theorem dataStatus_ok {n : Nat} (hn : NamesData h.w4) (hr : rangeStatus s die h.w4 n = stOk) :
    firstOf [handleStatus h.w4 (dataHandle h.w4), rangeStatus s die h.w4 n] = stOk := by
  rw [handleStatus_data hn, firstOf_ok, hr]
  rfl

/-- Bytes that a forwarded request with data `d` names. -/
def fwdBytes (h : Header) (d : List Byte) : Nat := if hKind h = kPutFwd then d.length else atomBytes h

/-- Bytes that it writes at an address. -/
def fwdData (s : State) (h : Header) (a : Nat) (d : List Byte) : List Byte :=
  if hKind h = kPutFwd then d else natBytes (fwdBytes h d) (atomNew h (bytesNat (memRead s.erg.mem a (fwdBytes h d))))

/-- Its effect on memory. -/
def fwdApply (h : Header) (d : List Byte) (s : State) : State :=
  let a := ergAddr s (hndRegion h.w4 - 1) (hndOffset h.w4)
  ergPut s a (fwdData s h a d)

theorem fwdApply_put (hk : hKind h = kPutFwd) (d : List Byte) :
    fwdApply h d = fun s => ergPut s (ergAddr s (hndRegion h.w4 - 1) (hndOffset h.w4)) d :=
  funext fun s => congrArg (ergPut s _) (if_pos hk)

theorem fwdApply_atomic (hk : hKind h ≠ kPutFwd) (d : List Byte) : fwdApply h d = fun s => (atomApply s h).2 := by
  funext s
  simp only [fwdApply, fwdData, fwdBytes, if_neg hk]
  rfl

end

section
variable {s : State} {die : Nat} {p : Pkt} {rest : List Pkt} (hin : getInbox s die = p :: rest) (hc : p.complete = true)
  (hscan : scanOpen s die = false) (hdie : 26 ≤ die ∧ die < 30) (hb : p.bad = false) (hlive : ergLive s die = true)
  (hn : NamesData p.hdr.w4)
include hin hc hscan hdie hb hlive hn

/-- Either kind within range acts by its sequence number; an atomic reads the bytes first. -/
theorem exec_forwarded {i : Instr} (hi : (i = .putFwd die ∧ hKind p.hdr = kPutFwd) ∨
      (i = .atomicFwd die ∧ hKind p.hdr = kAtomicFwd ∧ atomForm p.hdr = true)) {d : List Byte}
    (hd : padTo (hPayloadLen p.hdr) p.payload = d) (hr : rangeStatus s die p.hdr.w4 (fwdBytes p.hdr d) = stOk) :
    exec i s = .next (ergForwarded (setInbox s die rest) die p.hdr stOk (fwdBytes p.hdr d) (hKind p.hdr != kPutFwd)
      (fwdApply p.hdr d)) := by
  have early := dataStatus_ok (s := setInbox s die rest) hn hr
  rcases hi with ⟨rfl, hk⟩ | ⟨rfl, hk, hform⟩
  · have hl : lacksReplay s die p = false := lacksReplay_of_kind s die (by rw [hk]; decide)
    have len : fwdBytes p.hdr d = d.length := if_pos hk
    rw [len] at early ⊢
    show execPutFwd die s = _
    rw [execPutFwd, takeRequest_ofKind hin hl hc hscan hdie.1 _ hk hb hlive, atErg_next hdie, hd, early, fwdApply_put hk, hk]
    rfl
  · have hl : lacksReplay s die p = false := lacksReplay_of_kind s die (by rw [hk]; decide)
    have hne : hKind p.hdr ≠ kPutFwd := by rw [hk]; decide
    have len : fwdBytes p.hdr d = atomBytes p.hdr := if_neg hne
    rw [len] at early ⊢
    show execAtomicFwd die s = _
    rw [execAtomicFwd, takeRequest_ofKind hin hl hc hscan hdie.1 _ hk hb hlive, atErg_next hdie, if_pos hform, early,
      fwdApply_atomic hne, bne_iff_ne.2 hne]

end

/-! ### The resend timer (R363, R441) -/

section
variable {s : State} {die n : Nat}

theorem replTimeout_expires (hdie : 26 ≤ die ∧ die < 30) (hn : n < 16) :
    exec (.replTimeout die n) s = .next (if ergLive s die then replResend s die n else s) :=
  (if_pos hn).trans (atErg_next hdie _)

theorem replResend_idle (h0 : (getRepl s die n).copies = []) : replResend s die n = s := if_pos h0

theorem replResend_again (hne : (getRepl s die n).copies ≠ []) (h8 : (getRepl s die n).resends < 8) :
    replResend s die n = (getRepl s die n).copies.foldl (fun s c => sendKept s die c.pkt)
      (setRepl s die n { getRepl s die n with resends := (getRepl s die n).resends + 1 }) :=
  (if_neg hne).trans (if_pos h8)

end

/-! ### O45 -/

/-- Settles O45: a forwarded request acts by its sequence number (`exec_forwarded`, `ergForwarded_passes`), and the timer of a
LIVE primary resends until the eighth time (`replTimeout_expires`). -/
theorem replicasFollowTheirPrimary : Obligations.ReplicasFollowTheirPrimary := by
  intro s die hlo hhi
  have hdie : 26 ≤ die ∧ die < 30 := ⟨hlo, hhi⟩
  refine ⟨fun p rest i hin hc hb hlive hscan => ?replica, fun n hn => ?primary⟩
  case replica =>
    intro h w u a n q d len wrote hi hfeid hregion hrange
    rw [exec_forwarded hin hc hscan hdie hb hlive ⟨hfeid, hregion⟩ hi rfl hrange]
    refine ⟨fun hhas hpartner => ?_, fun hd => congrArg _ (ergForwarded_denied (forwardStatus_denied hd))⟩
    have hf : forwardStatus u die h = stOk := forwardStatus_ok hhas hpartner
    refine ⟨fun hq hback hquiet hgood => ?inSequence, fun hold => congrArg _ (ergForwarded_old hf hold),
      fun h1 hlate => congrArg _ (ergForwarded_early hf h1 hlate)⟩
    case inSequence =>
      have hecc : (hKind h != kPutFwd) = true → eccChecks u a len = u := fun hne =>
        eccChecks_inRange (inRange_of_rangeStatus hrange) (hquiet.resolve_left (bne_iff_ne.1 hne))
      have hst : backStatus u w len (hKind h != kPutFwd) = stOk := by
        by_cases hk : hKind h = kPutFwd
        · rw [if_pos hk] at hgood
          rw [bne_eq_false_iff_eq.2 hk, backStatus_write (s := u) hback hgood]
        · rw [if_neg hk] at hgood
          rw [bne_iff_ne.2 hk, backStatus_read (s := u) hback]
          exact if_neg (Bool.eq_false_iff.1 hgood)
      exact congrArg _ (ergForwarded_inSequence hf hq hecc hst)
  case primary =>
    intro r
    rw [replTimeout_expires hdie hn]
    refine ⟨fun hidle => ?_, fun hne hlive h8 => ?_, fun hne hlive h8 => ?_⟩
    · rcases hidle with h0 | hdead
      · rw [replResend_idle h0, ite_self]
      · rw [hdead]; rfl
    · rw [if_pos hlive, replResend_again hne h8]
    · rw [if_pos hlive]
      exact congrArg _ ((if_neg hne).trans (if_neg (Nat.not_lt.2 h8)))

end Sys2Proof.Machine
end

section
/-! SUPPORT. The step of the block and the machine after reset, O1 and O3; commands that are turned away, O6; what is read,
O7 and O9; and registers that a write only stores in, O8 and O10. -/

namespace Sys2Proof.Machine

/-! ### O1 and O3 -/

/-- Settles O1: `step` is the front command by definition. -/
theorem stepRunsTheFrontCommand : Obligations.StepRunsTheFrontCommand :=
  ⟨fun s c rest h => by rw [step, h], fun s h => by rw [step, h]⟩

/-- Settles O3: at reset KD0 is active, and every store and list is empty. -/
theorem resetStateIsSound : Obligations.ResetStateIsSound where
  module := ⟨.inl rfl, by decide, by decide, by decide⟩
  erg := rfl
  staging := rfl
  stores := ⟨rfl, List.forall_mem_nil _⟩
  records := Nat.zero_le _
  remembered := Nat.zero_le _

/-! ### Orders 2, 5 and 6 of R416 -/

/-- Every command row takes a command of its TAG and OPCODE. -/
theorem commandRow_takes {s : State} {i : Instr} {tag opcode : Nat} (h : commandRow i = some (tag, opcode)) :
    ∃ c, exec i s = .next (takeCommand s c) ∧ c.tag = tag ∧ c.opcode = opcode := by
  cases i with
  | regRead | regWrite | hankOpen | hankClose | hankQuery | caravanOpen | caravanClose | progLoad | progStart
  | stepCommit | stepAbort | powerSet | tableLoad | routeSwap | scrub | retire | tierMigrate | contextSave
  | contextRestore | spareSwap | portDrain | laneRecal | fwStage | opPoll | opCancel | debugOpen | debugClose
  | debugEngineHalt | debugEngineRelease | debugRead | debugWrite | flagSet | flagClear | barchanArrive | barchanRelease
  | barchanClear | faultRead | attestReport | infoRead =>
    cases h
    exact ⟨_, rfl, rfl, rfl⟩
  | _ => cases h

/-- A RESPONSE without an effect turns a command away. -/
theorem respond_turnedAway (s : State) (tag opcode status : Nat) (payload : List Byte) :
    TurnedAway s (respond s tag opcode status payload) tag opcode status payload where
  reply := pump_mem _ _ (List.mem_append_right _ (List.mem_singleton_self _))
  port := pump_cp _
  frame := pump_eq _

section
variable {s : State} {c : Cmd}

theorem takeCommand_deaf (h : listens s = false) : takeCommand s c = s := by
  rw [takeCommand, h]
  rfl

theorem takeCommand_bringup (h : listens s = true) (hp : s.module.phase < 6) :
    takeCommand s c = respond s c.tag c.opcode stBringup (failWord 2 0 s.module.phase) := by
  rw [takeCommand, if_pos h, takeKnown, if_pos hp]

/-- From B6 on a command goes through orders 5 to 8. -/
theorem takeCommand_new (h : listens s = true) (hp : 6 ≤ s.module.phase) : takeCommand s c = takeNew s false c := by
  rw [takeCommand, if_pos h, takeKnown, if_neg (Nat.not_lt.2 hp)]
  rfl

theorem takeNew_full (h : 64 ≤ awaitingCount s) :
    takeNew s false c = respond s c.tag c.opcode stBusy (failWord 5 0 0) := if_pos h

theorem takeNew_known (h : awaitingCount s < 64) (hk : (findRemembered s c.tag).isSome = true) :
    takeNew s false c = respond s c.tag c.opcode stBadParam (failWord 6 0 0) := by
  rw [takeNew, if_neg (Nat.not_le.2 h), if_pos ⟨rfl, hk⟩]

end

/-- Settles O6: each row takes its command (`commandRow_takes`), and each order answers without an effect. -/
theorem commandsAreTurnedAwayInOrder : Obligations.CommandsAreTurnedAwayInOrder := by
  intro s i tag opcode hrow
  obtain ⟨c, hexec, rfl, rfl⟩ := commandRow_takes (s := s) hrow
  rw [hexec]
  refine ⟨fun hl => by rw [takeCommand_deaf hl], fun hl hp => ⟨_, rfl, ?_⟩, fun hl hp hf => ⟨_, rfl, ?_⟩,
    fun hl hp hf hk => ⟨_, rfl, ?_⟩⟩
  · rw [takeCommand_bringup hl hp]
    exact respond_turnedAway ..
  · rw [takeCommand_new hl hp, takeNew_full hf]
    exact respond_turnedAway ..
  · rw [takeCommand_new hl hp, takeNew_known hf hk]
    exact respond_turnedAway ..

/-! ### Information, fault records and reports (R419, R469, R491) -/

/-- Settles O7: none of the three looks at what is remembered. -/
theorem informationIsRead : Obligations.InformationIsRead := by
  intro s tag hacc
  refine ⟨⟨_, rfl, ?info⟩, fun param count h1 h64 => ⟨_, rfl, ?records⟩, fun nonce key hlen hkey => ⟨_, rfl, ?report⟩⟩
  case info =>
    exact takeCommand_done hacc rfl rfl rfl rfl (fun h => absurd h Bool.false_ne_true) (List.forall_mem_nil _) rfl
      (fun _ => rfl)
  case records =>
    refine takeCommand_done hacc rfl rfl rfl rfl (fun h => absurd h Bool.false_ne_true) (List.forall_mem_nil _) rfl
      (fun r => if_neg ?_)
    omega
  case report =>
    refine takeCommand_fails hacc rfl rfl (beq_iff_eq.2 hlen) rfl (fun h => absurd h Bool.false_ne_true)
      (List.forall_mem_nil _) (fun r => ?_)
    show attest { s with cp := { s.cp with remembered := r } } tag nonce = _
    simp only [attest, hkey]
    rfl

/-! ### Writes by access code (R422) -/

/-- No bit of a register is both RW and W1C. -/
theorem access_disjoint (r : Reg) : (regRow r).rw &&& (regRow r).w1c = 0 := by
  cases r <;> rfl

/-- Settles O8: bit by bit, an RW bit being no W1C bit. -/
theorem writeActsOnMaskedBitsByAccessCode : Obligations.WriteActsOnMaskedBitsByAccessCode := by
  intro r old value mask i
  have hdisj : ((regRow r).rw.testBit i && (regRow r).w1c.testBit i) = false := by
    rw [← Nat.testBit_and, access_disjoint, Nat.zero_testBit]
  simp only [mergeWrite, Nat.testBit_xor, Nat.testBit_or, Nat.testBit_and]
  generalize (regRow r).rw.testBit i = rw, (regRow r).w1c.testBit i = w1c, mask.testBit i = m, value.testBit i = v,
    old.testBit i = o at hdisj ⊢
  revert rw w1c m v o
  decide

/-! ### Reads (R420, R421, R474) -/

/-- A register read does not look at what is remembered, and takes nothing but free values. -/
theorem readReg_remembered (s : State) (l : List Remembered) (r : Reg) (die inst k : Nat) :
    readReg { s with cp := { s.cp with remembered := l } } r die inst k
      = ((readReg s r die inst k).1, { s with freeCtr := (readReg s r die inst k).2.freeCtr,
                                              cp := { s.cp with remembered := l } }) := by
  cases r with
  | debugRemaining => unfold readReg; dsimp only; split <;> rfl
  | watchdogStatus =>
    show (if (getEng s (32 * die + inst / 4) (inst % 4)).state = .waiting
        ∨ (getEng s (32 * die + inst / 4) (inst % 4)).state = .held then _ else _) = _
    unfold readReg
    dsimp only
    split <;> rfl
  | _ => rfl

theorem readReg_state (s : State) (r : Reg) (die inst k : Nat) :
    (readReg s r die inst k).2 = { s with freeCtr := (readReg s r die inst k).2.freeCtr } :=
  congrArg Prod.snd (readReg_remembered s s.cp.remembered r die inst k)

theorem readRegs_remembered (s : State) (n : Nat) (l : List Remembered) (rs : List (Reg × Nat)) (die inst : Nat) :
    readRegs { s with freeCtr := n, cp := { s.cp with remembered := l } } rs die inst
      = ((readRegs { s with freeCtr := n } rs die inst).1,
         { s with freeCtr := (readRegs { s with freeCtr := n } rs die inst).2.freeCtr,
                  cp := { s.cp with remembered := l } }) := by
  induction rs generalizing n with
  | nil => rfl
  | cons x rs ih =>
    obtain ⟨r, k⟩ := x
    obtain ⟨w, m, hread⟩ : ∃ w m, readReg { s with freeCtr := n } r die inst k = (w, { s with freeCtr := m }) :=
      ⟨_, _, Prod.ext rfl (readReg_state ..)⟩
    have hnoted := readReg_remembered { s with freeCtr := n } l r die inst k
    rw [hread] at hnoted
    rw [readRegs, readRegs, hread]
    dsimp only at hnoted ⊢
    rw [hnoted]
    dsimp only
    rw [ih m]

theorem addrDie_lt (a : Nat) : addrDie a < 32 := Nat.mod_lt _ (by decide)

/-- Settles O9: the read passes its checks, and the registers read alike whatever is remembered. -/
theorem registerReadAnswersTheValues : Obligations.RegisterReadAnswersTheValues := by
  intro s tag addr count l hacc h1 h64 hregs hview hbusy
  refine ⟨_, rfl, takeCommand_done hacc rfl rfl rfl ?permitted (fun h => absurd h Bool.false_ne_true) ?die rfl
    (fun r => ?run)⟩
  case permitted =>
    show (!(decide (count ≤ 64) && ((regsAt (addr % 2 ^ 48) count).getD []).any (fun r => d1View r.1))
      || debugReaches s 1 (addrDie (addr % 2 ^ 48))) = true
    rw [hregs, Option.getD_some]
    cases hd : l.any (fun r => d1View r.1) with
    | false => simp
    | true => rw [hview hd, Bool.or_true]
  case die =>
    intro d hd
    rw [List.mem_singleton.1 hd]
    exact addrDie_lt _
  case run =>
    have hb : viewBusy { s with cp := { s.cp with remembered := r } } (addr % 2 ^ 48) l = false := hbusy
    show regRead { s with cp := { s.cp with remembered := r } } tag (addr % 2 ^ 48) count = _
    rw [regRead, if_neg (by omega)]
    simp only [hregs, hb, Bool.false_eq_true, if_false, readRegs_remembered s s.freeCtr r]

/-! ### Writes (R420, R422) -/

/-- A write that gives no source checks to inject passes order 7. -/
theorem regWrite_permitted {s : State} {tag addr : Nat} {value mask : Word} {r : Reg} {k : Nat}
    (hdec : decodeAddr (addr % 2 ^ 48) = some (r, k)) (h : r ≠ .faultSource ∨ bits mask.toNat 31 16 = 0) :
    (cmdRegWrite s tag addr value mask).permitted = true := by
  have hinj : injects s (addr % 2 ^ 48) value.toNat mask.toNat = false := by
    rcases h with hr | hm
    · exact injects_other hdec hr _ _
    · unfold injects
      split
      · rw [hm]; rfl
      · rfl
  show (!(injects s (addr % 2 ^ 48) value.toNat mask.toNat && s.sec.lifecycle == 2) || _) = true
  rw [hinj]
  rfl

theorem findReg_some {die cls off : Nat} {l : List Reg} {r : Reg} {k : Nat} (h : findReg die cls off l = some (r, k)) :
    r ∈ l ∧ k < regCount r die := by
  induction l with
  | nil => cases h
  | cons x l ih =>
    unfold findReg at h
    dsimp only at h
    split at h
    next hx => cases h; exact ⟨List.mem_cons_self .., hx.2.2⟩
    next => exact (ih h).imp_left (List.mem_cons_of_mem _)

/-- An address names a register of its unit's class, and the unit exists. -/
theorem decodeAddr_some {a : Nat} {r : Reg} {k : Nat} (h : decodeAddr a = some (r, k)) :
    unitExists (addrDie a) (addrCls a) (addrInst a) = true ∧ r ∈ classRegs (addrCls a) ∧ k < regCount r (addrDie a) := by
  unfold decodeAddr at h
  split at h
  next hu => exact ⟨hu, findReg_some h⟩
  next => cases h

/-- SLOT_LIMIT is one register of its unit. -/
theorem decodeAddr_slotLimit {a k : Nat} (h : decodeAddr a = some (.slotLimit, k)) : k = 0 :=
  Nat.lt_one_iff.1 (decodeAddr_some h).2.2

theorem classRegs_cls {c : Nat} {r : Reg} (h : r ∈ classRegs c) : (regRow r).cls = c := by
  unfold classRegs at h
  split at h <;> fin_cases h <;> rfl

/-- The fault sources stand in the one STEWARD unit of their die. -/
theorem decodeAddr_faultSource {a k : Nat} (h : decodeAddr a = some (.faultSource, k)) : addrInst a = 0 := by
  obtain ⟨hu, hreg, -⟩ := decodeAddr_some h
  rw [← classRegs_cls hreg] at hu
  simp only [unitExists, Bool.and_eq_true, decide_eq_true_eq] at hu
  exact Nat.lt_one_iff.1 (hu.1.2.trans_le (Nat.le_of_eq rfl))

/-- A write that only stores is the merged value put in its register. -/
theorem writeReg_stores {s : State} {r : Reg} {a k value mask : Nat} (hdec : decodeAddr a = some (r, k)) {die inst : Nat}
    (hi : addrInst a = inst) (hm : writable r &&& mask ≠ 0)
    (hs : storesOnly s r die inst (rget s r die inst k) (mergeWrite r (rget s r die inst k) value mask) mask = true) :
    writeReg s r die inst k value mask = written (rset s r die inst k (mergeWrite r (rget s r die inst k) value mask)) := by
  have ranges {b c : Nat} : (decide (b ≤ 40000) && decide (c ≤ 40000)) = true → ¬(40000 < b ∨ 40000 < c) := by
    simp only [Bool.and_eq_true, decide_eq_true_eq]; omega
  cases r with
  | shapeRate => exact (if_neg hm).trans (if_neg (ranges hs))
  | bufferAlpha =>
    refine (if_neg hm).trans (if_neg (Bool.not_eq_true _ ▸ ?_))
    simp only [storesOnly, List.all_eq_true, decide_eq_true_eq] at hs
    simpa only [alphaBad, List.any_eq_false, decide_eq_true_eq, not_lt] using hs
  | slotLimit =>
    simp only [storesOnly, Bool.and_eq_true, decide_eq_true_eq, beq_iff_eq, Bool.not_eq_true'] at hs
    obtain ⟨⟨hlimit, hclaims⟩, hidle⟩ := hs
    obtain rfl := decodeAddr_slotLimit hdec
    refine Eq.trans (b := writeSlotLimit s die inst _) (if_neg hm) ?_
    rw [writeSlotLimit, if_neg (Nat.not_lt.2 hlimit), if_neg (by simp [hclaims, hidle])]
  | pageQuery =>
    simp only [storesOnly, decide_eq_true_eq] at hs
    refine (if_neg hm).trans (if_neg ?_)
    omega
  | watchdogLimits => exact (if_neg hm).trans (if_pos hs)
  | faultSource =>
    simp only [storesOnly, Bool.and_eq_true, Bool.or_eq_true, decide_eq_true_eq, beq_iff_eq, Bool.not_eq_true'] at hs
    obtain ⟨⟨hsev, hlock⟩, hinj⟩ := hs
    obtain rfl := hi.symm.trans (decodeAddr_faultSource hdec)
    refine Eq.trans (b := writeSource s die k _ _ mask) (if_neg hm) ?_
    rw [writeSource, if_neg]
    rintro (h | ⟨hl, hne⟩ | ⟨h, -⟩)
    · omega
    · exact hlock.elim (fun hf => absurd (hl.symm.trans hf) nofun) hne
    · exact h hinj
  | edgeRole | portCtrl | sampleCtrl | barchanMembers | ergConfig | replRangeCtrl | replRangeBase | replRangeLen
  | poolConfig | poolCount | moduleState | unitRelease | failoverCtrl | dieReboot | secRequest | errCtrl =>
    exact absurd hs Bool.false_ne_true
  | _ => exact if_neg hm

/-- Settles O10: the write is permitted and carried out (`regWrite_permitted`), and stores (`writeReg_stores`) or finds no
bit to write. -/
theorem registerWriteStoresTheMergedValue : Obligations.RegisterWriteStoresTheMergedValue := by
  intro s tag addr value mask r k hacc hdec hsource
  have hdies : ∀ d ∈ (cmdRegWrite s tag addr value mask).dies, d < 32 := fun d hd => by
    rw [List.mem_singleton.1 hd]
    exact addrDie_lt _
  have hrun (l : List Remembered) : (cmdRegWrite s tag addr value mask).run { s with cp := { s.cp with remembered := l } }
      = regWriteAt { s with cp := { s.cp with remembered := l } } tag (addr % 2 ^ 48) r k value.toNat mask.toNat := by
    show regWrite _ tag (addr % 2 ^ 48) value.toNat mask.toNat = _
    rw [regWrite, hdec]
  refine ⟨fun hm hs => ⟨_, rfl, ?stored⟩, fun hm => ⟨_, rfl, ?refused⟩⟩
  case stored =>
    refine takeCommand_done hacc rfl rfl rfl (regWrite_permitted hdec hsource) (fun h => absurd h Bool.false_ne_true) hdies
      rfl (fun l => ?_)
    have hr : r ≠ .failoverCtrl := by
      rintro rfl
      exact absurd hs Bool.false_ne_true
    rw [hrun l, regWriteAt, writeReg_stores (s := { s with cp := { s.cp with remembered := l } }) hdec rfl hm hs,
      if_neg (fun h => hr h.2.1)]
    rfl
  case refused =>
    refine takeCommand_fails hacc rfl rfl rfl (regWrite_permitted hdec hsource) (fun h => absurd h Bool.false_ne_true) hdies
      (fun l => ?_)
    have hbad : writeReg { s with cp := { s.cp with remembered := l } } r (addrDie (addr % 2 ^ 48)) (addrInst (addr % 2 ^ 48))
        k value.toNat mask.toNat = badWrite { s with cp := { s.cp with remembered := l } } := if_pos hm
    rw [hrun l, regWriteAt, hbad, if_neg (fun h => absurd (h.1 : stBadParam = stOk) (by decide)), settle_badWrite]

end Sys2Proof.Machine
end

section
/-! SUPPORT. `power.set` of the module and of units, and O16 (R439-R444). -/

namespace Sys2Proof.Machine

/-! ### The module (R442, R443) -/

section
variable {s : State} {tag : Nat}

theorem powerSet_module {st : Nat} (h : st ≤ 4) : powerSet s tag moduleTarget st 0 = powerModule s tag st := by
  have ht : moduleTarget % 2 ^ 48 = moduleTarget := by decide
  have hl : powerLegal moduleTarget st 0 = true := by simp [powerLegal, h]
  simp only [powerSet, ht, hl, Bool.not_true, Bool.false_eq_true, if_false, if_true]

theorem moduleMove_park (hst : s.module.state = 4) :
    moduleMove s 3 = modModule (parkSpindles s) (fun m => { m with state := 3 }) := by
  unfold moduleMove
  rw [hst]
  rfl

theorem moduleMove_live (hst : s.module.state = 3) :
    moduleMove s 4 = modModule (liveSpindles s) (fun m => { m with state := 4 }) := by
  unfold moduleMove
  rw [hst]
  rfl

theorem moduleMove_off (hses : s.sec.session = none) :
    moduleMove s 0 = modModule s (fun m => { m with offPending := true }) := by
  have hend : endSession raiseFault s = s := by rw [endSession, hses]
  unfold moduleMove
  rw [hend]
  rfl

theorem powerModule_moves {st : Nat} (hne : st ≠ s.module.state) (hr : moduleRefused s st = false) :
    powerModule s tag st = answerOk (moduleMove s st) tag 0x40 [] := by
  rw [powerModule, if_neg hne, hr, if_neg Bool.false_ne_true]

theorem moduleRefused_park (hst : s.module.state = 4) (hstop : s.module.stopHeld = false) (hh : s.hanks = [])
    (he : enginesRun s = false) : moduleRefused s 3 = false := by
  simp [moduleRefused, hst, hstop, hh, he]

theorem moduleRefused_live (hst : s.module.state = 3) (hstop : s.module.stopHeld = false) :
    moduleRefused s 4 = false := by
  simp [moduleRefused, hst, hstop]

theorem powerModule_park (hst : s.module.state = 4) (hstop : s.module.stopHeld = false) (hh : s.hanks = [])
    (he : enginesRun s = false) :
    powerModule s tag 3 = answerOk (modModule (parkSpindles s) (fun m => { m with state := 3 })) tag 0x40 [] := by
  rw [powerModule_moves (by simp [hst]) (moduleRefused_park hst hstop hh he), moduleMove_park hst]

theorem powerModule_live (hst : s.module.state = 3) (hstop : s.module.stopHeld = false) :
    powerModule s tag 4 = answerOk (modModule (liveSpindles s) (fun m => { m with state := 4 })) tag 0x40 [] := by
  rw [powerModule_moves (by simp [hst]) (moduleRefused_live hst hstop), moduleMove_live hst]

theorem powerModule_off (hst : s.module.state ≠ 0) (hses : s.sec.session = none) :
    powerModule s tag 0 = answerOk (modModule s (fun m => { m with offPending := true })) tag 0x40 [] := by
  rw [powerModule_moves hst.symm rfl, moduleMove_off hses]

theorem powerModule_there : powerModule s tag s.module.state = answerOk s tag 0x40 [] := if_pos rfl

theorem powerModule_refused {st : Nat} (hne : st ≠ s.module.state) (hr : moduleRefused s st = true) :
    powerModule s tag st = answer s tag 0x40 stBusy (failWord 8 3 0) := by
  rw [powerModule, if_neg hne, if_pos hr]
  rfl

/-- One spindle of the map becomes LIVE. -/
def liveSpindle (s : State) (k : Nat) : State :=
  if unitContained s (k / 32) 0x10 (k % 32) then s else setUnit s (k / 32) 0x10 (k % 32) .live

theorem liveSpindle_cp (s : State) (k : Nat) (c : ControlPort) :
    liveSpindle { s with cp := c } k = { liveSpindle s k with cp := c } := by
  unfold liveSpindle
  by_cases h : unitContained s (k / 32) 0x10 (k % 32) = true
  · rw [if_pos h]
    exact if_pos h
  · rw [if_neg h]
    exact if_neg h

theorem liveSpindle_units (s : State) (k : Nat) : liveSpindle s k = { s with units := (liveSpindle s k).units } := by
  unfold liveSpindle
  split <;> rfl

theorem foldl_liveSpindle_cp (l : List Nat) (s : State) (c : ControlPort) :
    l.foldl liveSpindle { s with cp := c } = { l.foldl liveSpindle s with cp := c } := by
  induction l generalizing s with
  | nil => rfl
  | cons k l ih => rw [List.foldl_cons, List.foldl_cons, liveSpindle_cp, ih]

theorem foldl_liveSpindle_units (l : List Nat) (s : State) :
    l.foldl liveSpindle s = { s with units := (l.foldl liveSpindle s).units } := by
  induction l generalizing s with
  | nil => rfl
  | cons k l ih =>
    rw [List.foldl_cons, ih, liveSpindle_units s k]

theorem liveSpindles_foldl (s : State) : liveSpindles s = (mappedSpindles s).foldl liveSpindle s := by
  unfold liveSpindles liveSpindle
  rfl

theorem mappedSpindles_cp (s : State) (c : ControlPort) : mappedSpindles { s with cp := c } = mappedSpindles s := by
  unfold mappedSpindles
  rfl

theorem liveSpindles_cp (s : State) (c : ControlPort) :
    liveSpindles { s with cp := c } = { s with units := (liveSpindles s).units, cp := c } := by
  rw [liveSpindles_foldl, liveSpindles_foldl, mappedSpindles_cp, foldl_liveSpindle_cp, foldl_liveSpindle_units]

theorem moveUnits_cp (die cls : Nat) (old new : UnitState) (l : List Nat) (s : State) (c : ControlPort) :
    moveUnits { s with cp := c } die cls old new l = { moveUnits s die cls old new l with cp := c } := by
  induction l generalizing s with
  | nil => rfl
  | cons k l ih =>
    rw [moveUnits, moveUnits]
    by_cases h : unitState s die cls k = old
    · rw [if_pos h, if_pos (show unitState { s with cp := c } die cls k = old from h)]
      exact ih (setUnit s die cls k new)
    · rw [if_neg h, if_neg (show ¬unitState { s with cp := c } die cls k = old from h)]
      exact ih s

theorem moveUnits_out (die cls : Nat) (old new : UnitState) (l : List Nat) (s : State) :
    (moveUnits s die cls old new l).out = s.out := by
  induction l generalizing s with
  | nil => rfl
  | cons k l ih =>
    rw [moveUnits, ih]
    split <;> rfl

end

/-! ### Units (R439-R441, R444) -/

section
variable {s : State} {tag die cls inst st freq : Nat}

theorem unitAddr_form (hd : die < 32) (hc : cls < 128) (hi : inst < 4096) :
    unitAddr die cls inst % 2 ^ 48 = unitAddr die cls inst ∧ unitAddr die cls inst ≠ moduleTarget := by
  rw [unitAddr, moduleTarget]
  omega

theorem clockTarget_unitAddr (hd : die < 32) (hc : cls < 128) (hi : inst < 4096) :
    clockTarget (unitAddr die cls inst) = (cls == 0x00 && dieKind die == 2) := by
  rw [clockTarget, addrCls_unitAddr hc hi, addrDie_unitAddr hd hc hi]

/-- Rows 1 to 3 of R440 passed by a unit. -/
theorem powerSet_unit (hd : die < 32) (hc : cls < 128) (hi : inst < 4096)
    (hlegal : powerLegal (unitAddr die cls inst) st freq = true) (hgood : powerFaulted s die cls inst = false)
    (hthere : powerThere s (unitAddr die cls inst) st freq = false) (hfree : powerBusy s (unitAddr die cls inst) st = false) :
    powerSet s tag (unitAddr die cls inst) st freq =
      if cls == 0x00 && dieKind die == 2 then startRelock s tag die freq
      else if powerHeld s die cls inst st then fail8 s tag 0x40 stBusy 4
      else answerOk (if st = 1 then liveUnit s die cls inst else parkNamed s die cls inst) tag 0x40 [] := by
  obtain ⟨hmod, hne⟩ := unitAddr_form hd hc hi
  simp only [powerSet, hmod, hlegal, hne, addrDie_unitAddr hd hc hi, addrCls_unitAddr hc hi, addrInst_unitAddr hi, hgood,
    hthere, hfree, clockTarget_unitAddr hd hc hi, Bool.not_true, Bool.false_eq_true, if_false]

theorem unitExists_spindle (hlo : 10 ≤ die) (hhi : die < 26) (hi : inst < 17) : unitExists die 0x10 inst = true := by
  unfold unitExists classCount
  rw [dieKind_spindles hlo hhi]
  simp [hi, show die < 32 by omega]

theorem unitExists_steward (hd : die < 32) : unitExists die 0x00 0 = true := by
  rw [unitExists, classCount]
  simp [hd]

theorem unitExists_device (hlo : 26 ≤ die) (hhi : die < 30) (h : (cls = 0x1A ∧ inst < 2) ∨ (cls = 0x1B ∧ inst < 3)) :
    unitExists die cls inst = true := by
  unfold unitExists classCount
  rcases h with ⟨rfl, hi⟩ | ⟨rfl, hi⟩ <;> rw [dieKind_erg hlo hhi] <;> simp [hi, show die < 32 by omega]

/-- Row 1 of R440 for a unit that is no spindle die. -/
theorem powerLegal_unit (hd : die < 32) (hc : cls < 128) (hi : inst < 4096) (hu : unitExists die cls inst = true)
    (h0 : cls ≠ 0x00) (hp : powerClass die cls = true) (hst : st ≤ 1) : powerLegal (unitAddr die cls inst) st 0 = true := by
  have h0' : (cls == 0x00) = false := beq_eq_false_iff_ne.2 h0
  rw [powerLegal, if_neg (unitAddr_form hd hc hi).2, addrOff_unitAddr, addrDie_unitAddr hd hc hi, addrCls_unitAddr hc hi,
    addrInst_unitAddr hi, clockTarget_unitAddr hd hc hi, hu, hp, h0']
  simp [hst]

/-- Row 1 of R440 for a spindle die's frequency. -/
theorem powerLegal_clock (hlo : 10 ≤ die) (hhi : die < 26) (h1 : 800 ≤ freq) (h2 : freq ≤ 1700) (h3 : freq % 25 = 0) :
    powerLegal (unitAddr die 0x00 0) 1 freq = true := by
  have hd : die < 32 := by omega
  rw [powerLegal, if_neg (unitAddr_form hd (by decide) (by decide)).2, addrOff_unitAddr, addrDie_unitAddr hd (by decide) (by decide),
    addrCls_unitAddr (by decide) (by decide), addrInst_unitAddr (by decide), clockTarget_unitAddr hd (by decide) (by decide),
    unitExists_steward hd, dieKind_spindles hlo hhi]
  simp [h1, h2, h3]

/-- Row 3 of R440: a unit that is no spindle die is in another state than the named one. -/
theorem powerThere_unit (hd : die < 32) (hc : cls < 128) (hi : inst < 4096) (h0 : cls ≠ 0x00)
    (hne : unitState s die cls inst ≠ if st = 1 then .live else .parked) :
    powerThere s (unitAddr die cls inst) st freq = false := by
  have h0' : (cls == 0x00) = false := beq_eq_false_iff_ne.2 h0
  rw [powerThere, clockTarget_unitAddr hd hc hi, h0', addrDie_unitAddr hd hc hi, addrCls_unitAddr hc hi, addrInst_unitAddr hi]
  exact beq_eq_false_iff_ne.2 hne

theorem powerCmd_dies (hd : die < 32) (hc : cls < 128) (hi : inst < 4096) :
    ∀ d ∈ (cmdPowerSet tag (unitAddr die cls inst) st freq).dies, d < 32 := by
  obtain ⟨hmod, hne⟩ := unitAddr_form hd hc hi
  intro d h
  rw [cmdPowerSet, hmod] at h
  have hd' : d = addrDie (unitAddr die cls inst) := by simpa [plainCmd, hne] using h
  rw [hd', addrDie_unitAddr hd hc hi]
  exact hd

theorem powerFaulted_cp (s : State) (c : ControlPort) :
    powerFaulted { s with cp := c } die cls inst = powerFaulted s die cls inst := by
  unfold powerFaulted
  rfl

theorem powerThere_cp (s : State) (c : ControlPort) {t : Nat} :
    powerThere { s with cp := c } t st freq = powerThere s t st freq := by
  unfold powerThere
  rfl

theorem powerBusy_cp (s : State) (c : ControlPort) {t : Nat} : powerBusy { s with cp := c } t st = powerBusy s t st := by
  unfold powerBusy
  rfl

theorem powerHeld_cp (s : State) (c : ControlPort) :
    powerHeld { s with cp := c } die cls inst st = powerHeld s die cls inst st := by
  unfold powerHeld
  rfl

/-- A unit that is no spindle die moves: rows 1 to 4 of R440 passed. -/
theorem powerUnit_done (hacc : accepts s tag = true) (hd : die < 32) (hc : cls < 128) (hi : inst < 4096)
    (hu : unitExists die cls inst = true) (h0 : cls ≠ 0x00) (hp : powerClass die cls = true) (hst : st ≤ 1)
    (hgood : powerFaulted s die cls inst = false) (hne : unitState s die cls inst ≠ if st = 1 then .live else .parked)
    (hfree : powerBusy s (unitAddr die cls inst) st = false) (hheld : powerHeld s die cls inst st = false) {u : State}
    (hout : u.out = s.out)
    (hmove : ∀ c, (if st = 1 then liveUnit { s with cp := c } die cls inst else parkNamed { s with cp := c } die cls inst)
      = { u with cp := c }) :
    ∃ t, exec (.powerSet tag (unitAddr die cls inst) st 0) s = .next t ∧ Done s u t tag 0x40 [] := by
  have h0' : (cls == 0x00) = false := beq_eq_false_iff_ne.2 h0
  refine ⟨_, rfl, takeCommand_done hacc rfl rfl rfl rfl nofun (powerCmd_dies hd hc hi) hout fun r => ?_⟩
  have hset := powerSet_unit (s := { s with cp := { s.cp with remembered := r } }) (tag := tag) hd hc hi
    (powerLegal_unit hd hc hi hu h0 hp hst) ((powerFaulted_cp _ _).trans hgood) (powerThere_unit hd hc hi h0 hne)
    ((powerBusy_cp _ _).trans hfree)
  rw [powerHeld_cp, h0', Bool.false_and, if_neg Bool.false_ne_true, if_neg (ne_true_of_eq_false hheld), hmove] at hset
  exact hset

end

/-! ### O16 -/

section
variable {s : State} {tag : Nat}

theorem powerModule_done (hacc : accepts s tag = true) {st : Nat} (hst : st ≤ 4) {u : State} (hout : u.out = s.out)
    (hmove : ∀ r, powerModule { s with cp := { s.cp with remembered := r } } tag st
      = answerOk { u with cp := { s.cp with remembered := r } } tag 0x40 []) :
    ∃ t, exec (.powerSet tag moduleTarget st 0) s = .next t ∧ Done s u t tag 0x40 [] :=
  ⟨_, rfl, takeCommand_done hacc rfl rfl rfl rfl nofun (List.forall_mem_nil _) hout
    fun r => (powerSet_module hst).trans (hmove r)⟩

theorem moduleTransitions (hacc : accepts s tag = true) :
    (s.module.state = 4 → s.module.stopHeld = false → s.hanks = [] → enginesRun s = false →
       ∃ t, exec (.powerSet tag moduleTarget 3 0) s = .next t ∧
         Done s { s with units := mapAll s.units .parked (fun k u => if keyCls k = 0x10 ∧ u = .live then .parked else u),
                         module := { s.module with state := 3 } } t tag 0x40 []) ∧
     (s.module.state = 3 → s.module.stopHeld = false →
       ∃ t, exec (.powerSet tag moduleTarget 4 0) s = .next t ∧
         Done s { s with units := (liveSpindles s).units, module := { s.module with state := 4 } } t tag 0x40 []) ∧
     (s.module.state ≤ 4 → s.sec.session = none →
       ∃ t, exec (.powerSet tag moduleTarget 0 0) s = .next t ∧
         Done s { s with module := { s.module with offPending := true } } t tag 0x40 []) ∧
     (s.module.state ≤ 4 →
       ∃ t, exec (.powerSet tag moduleTarget s.module.state 0) s = .next t ∧ Done s s t tag 0x40 []) ∧
     (∀ st, 1 ≤ st → st ≤ 4 → st ≠ s.module.state → moduleRefused s st = true →
       ∃ t, exec (.powerSet tag moduleTarget st 0) s = .next t ∧ Replies s t tag 0x40 stBusy (failWord 8 3 0) ∧
         t = { s with cp := t.cp, out := t.out }) := by
  obtain ⟨-, -, -, -, -, hstate, -, -⟩ := accepts_iff hacc
  refine ⟨fun hst hstop hh he => ?_, fun hst hstop => ?_, fun _ hses => ?_, fun hle => ?_, fun st _ hle hne hr => ?_⟩
  · refine powerModule_done hacc (by decide) ?_ fun r => ?_
    · rfl
    exact powerModule_park hst hstop hh he
  · refine powerModule_done hacc (by decide) ?_ fun r => ?_
    · rfl
    have hlive := powerModule_live (s := { s with cp := { s.cp with remembered := r } }) (tag := tag) hst hstop
    rw [liveSpindles_cp] at hlive
    exact hlive
  · refine powerModule_done hacc (by decide) ?_ fun r => ?_
    · rfl
    exact powerModule_off (show s.module.state ≠ 0 by omega) hses
  · exact powerModule_done hacc hle rfl fun r => powerModule_there
  · exact ⟨_, rfl, takeCommand_fails hacc rfl rfl rfl rfl nofun (List.forall_mem_nil _) fun r =>
      (powerSet_module hle).trans (powerModule_refused hne hr)⟩

theorem unitContained_false {die cls inst : Nat} (hu : unitState s die cls inst ≠ .contained)
    (hd : (getDie s die).contained = false) : unitContained s die cls inst = false := by
  rw [unitContained, hd, Bool.or_false]
  exact beq_eq_false_iff_ne.2 hu

theorem powerFaulted_spindle {die slot : Nat} (hu : unitState s die 0x10 slot ≠ .contained)
    (hd : (getDie s die).contained = false) (hl : (logicalOf s (32 * die + slot)).isSome = true) :
    powerFaulted s die 0x10 slot = false := by
  have hn : (logicalOf s (32 * die + slot)).isNone = false := by
    rw [Option.isNone_eq_false_iff]
    exact hl
  rw [powerFaulted, hn, unitContained_false hu hd]
  rfl

theorem powerBusy_unit {die cls inst st : Nat} (hd : die < 32) (hc : cls < 128) (hi : inst < 4096)
    (hop : opOnUnit s die cls inst = false) (hst : st = 0 ∨ s.module.state = 4) :
    powerBusy s (unitAddr die cls inst) st = false := by
  rw [powerBusy, addrDie_unitAddr hd hc hi, addrCls_unitAddr hc hi, addrInst_unitAddr hi, hop]
  rcases hst with rfl | h
  · simp
  · simp [h]

theorem spindleParks (hacc : accepts s tag = true) {die slot : Nat} (hlo : 10 ≤ die) (hhi : die < 26) (hslot : slot < 17)
    (hst : unitState s die 0x10 slot = .live) (hdie : (getDie s die).contained = false)
    (hlog : (logicalOf s (32 * die + slot)).isSome = true) (hop : opOnUnit s die 0x10 slot = false)
    (hrun : spindleRuns s (32 * die + slot) = false) (hcl : (getSp s (32 * die + slot)).claims = []) :
    ∃ t, exec (.powerSet tag (unitAddr die 0x10 slot) 0 0) s = .next t ∧
      Done s (setUnit s die 0x10 slot .parked) t tag 0x40 [] := by
  have hd : die < 32 := by omega
  have hi : slot < 4096 := by omega
  have hheld : powerHeld s die 0x10 slot 0 = false := by
    rw [powerHeld]
    simp [hrun, hcl]
  exact powerUnit_done hacc hd (by decide) hi (unitExists_spindle hlo hhi hslot) (by decide) rfl (by decide)
    (powerFaulted_spindle (by simp [hst]) hdie hlog) (by simp [hst]) (powerBusy_unit hd (by decide) hi hop (.inl rfl))
    hheld rfl fun c => rfl

theorem spindleLives (hacc : accepts s tag = true) {die slot : Nat} (hlo : 10 ≤ die) (hhi : die < 26) (hslot : slot < 17)
    (hst : unitState s die 0x10 slot = .parked) (hdie : (getDie s die).contained = false)
    (hlog : (logicalOf s (32 * die + slot)).isSome = true) (hop : opOnUnit s die 0x10 slot = false)
    (hact : s.module.state = 4) :
    ∃ t, exec (.powerSet tag (unitAddr die 0x10 slot) 1 0) s = .next t ∧
      Done s (setUnit s die 0x10 slot .live) t tag 0x40 [] := by
  have hd : die < 32 := by omega
  have hi : slot < 4096 := by omega
  have hheld : powerHeld s die 0x10 slot 1 = false := Bool.false_and _
  have hlive (c : ControlPort) : liveUnit { s with cp := c } die 0x10 slot = { setUnit s die 0x10 slot .live with cp := c } := by
    unfold liveUnit
    rfl
  have hne : unitState s die 0x10 slot ≠ if 1 = 1 then .live else .parked := by simp [hst]
  have hgood : powerFaulted s die 0x10 slot = false := powerFaulted_spindle (by simp [hst]) hdie hlog
  have hfree : powerBusy s (unitAddr die 0x10 slot) 1 = false := powerBusy_unit hd (by decide) hi hop (.inr hact)
  refine powerUnit_done (st := 1) hacc hd (by decide) hi (unitExists_spindle hlo hhi hslot) (by decide) rfl (by decide)
    hgood hne hfree hheld rfl fun c => ?_
  exact (if_pos rfl).trans (hlive c)

theorem parkNamed_device {die cls k : Nat} (h : cls = 0x1A ∨ cls = 0x1B) (t : State) :
    parkNamed t die cls k = parkDevice t die cls k := by
  have hne : ¬cls = 0x00 := by omega
  simp only [parkNamed, if_neg hne]
  unfold parkUnit
  rcases h with rfl | rfl
  · rfl
  · rfl

theorem powerHeld_device {die cls k : Nat} (h : cls = 0x1A ∨ cls = 0x1B) : powerHeld s die cls k 0 = false := by
  rcases h with rfl | rfl
  · rfl
  · rfl

theorem powerClass_device {die cls : Nat} (h : cls = 0x1A ∨ cls = 0x1B) : powerClass die cls = true := by
  rcases h with rfl | rfl
  · rfl
  · rfl

theorem deviceParks (hacc : accepts s tag = true) {die cls k : Nat} (hlo : 26 ≤ die) (hhi : die < 30)
    (hk : (cls = 0x1A ∧ k < 2) ∨ (cls = 0x1B ∧ k < 3)) (hst : unitState s die cls k = .live)
    (hdie : (getDie s die).contained = false) (hret : deviceRetired s die cls k = false) (hop : opOnUnit s die cls k = false) :
    ∃ t, exec (.powerSet tag (unitAddr die cls k) 0 0) s = .next t ∧
      Done s (moveUnits (setUnit s die cls k .parked) die 0x19 .live .parked (deviceChannels cls k)) t tag 0x40 [] := by
  have hd : die < 32 := by omega
  have hi : k < 4096 := by omega
  have hcls : cls = 0x1A ∨ cls = 0x1B := by omega
  have hc : cls < 128 := by omega
  have hgood : powerFaulted s die cls k = false := by
    rw [powerFaulted, hret, unitContained_false (by simp [hst]) hdie, beq_eq_false_iff_ne.2 (show cls ≠ 0x10 by omega)]
    rfl
  refine powerUnit_done hacc hd hc hi (unitExists_device hlo hhi hk) (by omega) (powerClass_device hcls) (by decide) hgood
    (by simp [hst]) (powerBusy_unit hd hc hi hop (.inl rfl)) (powerHeld_device hcls) (moveUnits_out ..) fun c => ?_
  rw [if_neg (by decide), parkNamed_device hcls]
  exact moveUnits_cp _ _ _ _ _ (setUnit s die cls k .parked) c

theorem clockRelocks (hacc : accepts s tag = true) {die freq : Nat} (hlo : 10 ≤ die) (hhi : die < 26) (h1 : 800 ≤ freq)
    (h2 : freq ≤ 1700) (h3 : freq % 25 = 0) (hdie : (getDie s die).contained = false)
    (hst : unitState s die 0x00 0 ≠ .contained) (hne : fget s .dieClock die 0 0 15 0 ≠ freq)
    (hop : opOnUnit s die 0x00 0 = false) :
    exec (.powerSet tag (unitAddr die 0x00 0) 1 freq) s =
      .next { noted s tag 0x40 with
        dies := mapPut s.dies Die.init die { getDie s die with relock := some freq },
        cp := { (noted s tag 0x40).cp with awaiting := s.cp.awaiting ++ [.relock tag die] } } := by
  have hd : die < 32 := by omega
  have hclock : clockTarget (unitAddr die 0x00 0) = true := by
    rw [clockTarget_unitAddr hd (by decide) (by decide), dieKind_spindles hlo hhi]
    rfl
  have hgood : powerFaulted s die 0x00 0 = false := by
    rw [powerFaulted, unitContained_false hst hdie]
    rfl
  have hthere : powerThere s (unitAddr die 0x00 0) 1 freq = false := by
    rw [powerThere, hclock, if_pos rfl, addrDie_unitAddr hd (by decide) (by decide), beq_eq_false_iff_ne.2 (by omega),
      beq_eq_false_iff_ne.2 hne.symm]
    rfl
  have hfree : powerBusy s (unitAddr die 0x00 0) 1 = false := by
    rw [powerBusy, addrDie_unitAddr hd (by decide) (by decide), addrCls_unitAddr (by decide) (by decide),
      addrInst_unitAddr (by decide), hop, hclock]
    rfl
  have hruns : takeCommand s (cmdPowerSet tag (unitAddr die 0x00 0) 1 freq)
      = powerSet (noted s tag 0x40) tag (unitAddr die 0x00 0) 1 freq :=
    takeCommand_runs (c := cmdPowerSet tag (unitAddr die 0x00 0) 1 freq) hacc rfl rfl
      (fun h => absurd h Bool.false_ne_true) (powerCmd_dies hd (by decide) (by decide))
  obtain ⟨r, hr⟩ := noted_form s tag 0x40
  have hset := powerSet_unit (s := { s with cp := { s.cp with remembered := r } }) (tag := tag) hd (by decide) (by decide)
    (powerLegal_clock hlo hhi h1 h2 h3) ((powerFaulted_cp s _).trans hgood) ((powerThere_cp s _).trans hthere)
    ((powerBusy_cp s _).trans hfree)
  rw [dieKind_spindles hlo hhi, if_pos rfl, startRelock] at hset
  show Host.Outcome.next (takeCommand s (cmdPowerSet tag (unitAddr die 0x00 0) 1 freq)) = _
  rw [hruns, hr, hset]
  rfl

end

/-- Settles O16: the transitions of the module, the units that move and the die that relocks. -/
theorem powerStatesChange : Obligations.PowerStatesChange :=
  ⟨fun _ _ hacc => moduleTransitions hacc, fun _ _ hacc =>
    ⟨fun _ _ hlo hhi hslot hst hdie hlog hop hrun hcl => spindleParks hacc hlo hhi hslot hst hdie hlog hop hrun hcl,
      fun _ _ hlo hhi hslot hst hdie hlog hop hact => spindleLives hacc hlo hhi hslot hst hdie hlog hop hact,
      fun _ _ _ hlo hhi hk hst hdie hret hop => deviceParks hacc hlo hhi hk hst hdie hret hop,
      fun _ _ hlo hhi h1 h2 h3 hdie hst hne hop => clockRelocks hacc hlo hhi h1 h2 h3 hdie hst hne hop⟩⟩

end Sys2Proof.Machine
end

section
/-! SUPPORT. UNIT_RELEASE and ERR_CTRL, and O24 (R420, R488, R493, R503). -/

namespace Sys2Proof.Machine

/-! ### Fields under a mask, and a register read back -/

/-- A field that a mask holds whole is left by the mask. -/
theorem bits_and_mask {m hi lo : Nat} (hm : bits m hi lo = 2 ^ (hi + 1 - lo) - 1) (x : Nat) :
    bits (x &&& m) hi lo = bits x hi lo := by
  rw [bits_eq] at hm
  rw [bits_eq, bits_eq, Nat.and_div_two_pow, Nat.and_mod_two_pow, hm, Nat.and_two_pow_sub_one_eq_mod, Nat.mod_mod]

theorem bits_one (x i : Nat) : (bits x i i == 1) = bit x i := by
  rw [bits_eq, bit, Nat.testBit_eq_decide_div_mod_eq, Nat.add_sub_cancel_left]
  rfl

theorem mapFind_deleted {α : Type} {lo : Nat} {m : SMap α} (h : mapRising lo m = true) (k : Nat) :
    mapFind (mapDel m k) k = none := by
  induction m generalizing lo with
  | nil => rfl
  | cons e r ih =>
    obtain ⟨j, v⟩ := e
    simp only [mapRising, Bool.and_eq_true, decide_eq_true_eq] at h
    obtain ⟨-, hr⟩ := h
    rw [mapDel]
    rcases Nat.lt_trichotomy k j with hk | rfl | hk
    · rw [if_neg (by omega), if_pos hk, mapFind, if_neg (by omega), if_pos hk]
    · rw [if_pos rfl]
      exact mapFind_low hr (Nat.lt_succ_self k)
    · rw [if_neg (by omega), if_neg (by omega), mapFind, if_neg (by omega), if_neg (by omega), ih hr]

/-- A register reads back what was written, by any die that shares it. -/
theorem rget_rset_same {s : State} (h : mapRising 0 s.regs = true) {r : Reg} {d d' i k : Nat}
    (haddr : regAddr r d' i k = regAddr r d i k) (hreset : regReset r d' k = regReset r d k) (hlt : regReset r d k < 2 ^ 64)
    (v : Nat) : rget (rset s r d i k v) r d' i k = v % 2 ^ 64 := by
  rw [rget, haddr, rset_regs, mapPut]
  by_cases hv : word v = word (regReset r d k)
  · have hnat : v % 2 ^ 64 = regReset r d k := by
      have := congrArg BitVec.toNat hv
      rwa [word, word, BitVec.toNat_ofNat, BitVec.toNat_ofNat, Nat.mod_eq_of_lt hlt] at this
    rw [if_pos hv, mapFind_deleted h, hnat]
    exact hreset
  · rw [if_neg hv, mapFind_inserted]
    rfl

/-! ### UNIT_RELEASE (R488) -/

section
variable {s : State} {die : Nat}

theorem namesRegister_unitRelease (hd : die < 32) : ∃ a, NamesRegister .unitRelease die 0 0 a := by
  refine ⟨_, namesRegister_offset hd (by decide) (by decide) (by decide) (unitExists_steward hd) ?_⟩
  have hcount : sourceCount die ≤ 522 := by
    unfold sourceCount
    split <;> decide
  show findReg die 0x00 0x200 (classRegs 0x00) = _
  simp [findReg, classRegs, regRow, regCount]

/-- What a write of UNIT_RELEASE names is released. -/
theorem writeReg_unitRelease {value mask : Nat} (hm : 0x7ffff000000 &&& mask ≠ 0) :
    writeReg s .unitRelease die 0 0 value mask
      = releaseUnit s die (bits (value &&& mask) 42 36) (bits (value &&& mask) 35 24) := by
  have hw : ¬ writable .unitRelease &&& mask = 0 := hm
  have hcls : bits (value &&& mask &&& (regRow .unitRelease).wo) 42 36 = bits (value &&& mask) 42 36 :=
    bits_and_mask (m := 0x7ffff000000) (by decide) _
  have hinst : bits (value &&& mask &&& (regRow .unitRelease).wo) 35 24 = bits (value &&& mask) 35 24 :=
    bits_and_mask (m := 0x7ffff000000) (by decide) _
  rw [writeReg, if_neg hw]
  simp only [hcls, hinst]

variable {cls inst : Nat}

theorem releaseUnit_bad (h : unitExists die cls inst = false ∨ (getDie s die).contained = true ∨
    unitState s die cls inst ≠ .contained ∨ (cls = 0x10 ∧ bit (fget s .spindleMapStatus die 0 0 16 0) inst = true)) :
    releaseUnit s die cls inst = badWrite s := by
  rw [← Bool.not_eq_true'] at h
  exact if_pos h

/-- The state after a unit is released. -/
def released (s : State) (die cls inst : Nat) : State :=
  if cls = 0x1C then noteLow (setPool (fset (setUnit s die cls inst .parked) .poolConfig die inst 0 63 63 0) inst []) inst
  else setUnit s die cls inst .parked

theorem releaseUnit_good (hu : unitExists die cls inst = true) (hd : (getDie s die).contained = false)
    (hst : unitState s die cls inst = .contained)
    (hmap : cls = 0x10 → bit (fget s .spindleMapStatus die 0 0 16 0) inst = false) :
    releaseUnit s die cls inst = written (released s die cls inst) := by
  refine if_neg ?_
  rintro (h | h | h | ⟨h10, h⟩)
  · rw [hu] at h
    exact Bool.false_ne_true h
  · exact Bool.false_ne_true (hd.symm.trans h)
  · exact h hst
  · exact Bool.false_ne_true ((hmap h10).symm.trans h)

theorem released_cp (c : ControlPort) : released { s with cp := c } die cls inst = { released s die cls inst with cp := c } := by
  have hunit : setUnit { s with cp := c } die cls inst .parked = { setUnit s die cls inst .parked with cp := c } := rfl
  have hset (t : State) (r : Reg) (d i k hi lo v : Nat) :
      fset { t with cp := c } r d i k hi lo v = { fset t r d i k hi lo v with cp := c } := rfl
  have hpool (t : State) (p : Nat) : setPool { t with cp := c } p [] = { setPool t p [] with cp := c } := rfl
  rw [released, hunit, hset, hpool, noteLow_cp, released]
  by_cases h : cls = 0x1C
  · rw [if_pos h, if_pos h]
  · rw [if_neg h, if_neg h]

theorem released_out : (released s die cls inst).out = s.out := by
  have hunit : (setUnit s die cls inst .parked).out = s.out := rfl
  unfold released
  split
  · exact (noteLow_out ..).trans ((modErg_out ..).trans ((fset_out ..).trans hunit))
  · exact hunit

end

/-! ### ERR_CTRL (R493) -/

section
variable {s : State} {die : Nat}

theorem namesRegister_errCtrl (hlo : 30 ≤ die) (hhi : die < 32) : ∃ a, NamesRegister .errCtrl die 0 0 a := by
  have hu : unitExists die 0x23 0 = true := by
    interval_cases die <;> decide
  exact ⟨_, namesRegister_offset hhi (by decide) (by decide) (by decide) hu rfl⟩

theorem writeReg_errCtrl {value mask : Nat} (hm : 0x100ffffff &&& mask ≠ 0) :
    writeReg s .errCtrl die 0 0 value mask =
      let new := mergeWrite .errCtrl (rget s .errCtrl die 0 0) value mask
      if bits new 23 0 < 10 ∨ 10000 < bits new 23 0 then badWrite s else written (settleErr (rset s .errCtrl die 0 0 new)) := by
  have hw : ¬ writable .errCtrl &&& mask = 0 := hm
  rw [writeReg, if_neg hw]

theorem errCtrl_home (die : Nat) : regAddr .errCtrl 30 0 0 = regAddr .errCtrl die 0 0 := by
  simp [regAddr, regHome, regRow]

/-- HOLD reads back as it was written. -/
theorem errCtrl_hold (h : mapRising 0 s.regs = true) (new : Nat) :
    (fget (rset s .errCtrl die 0 0 new) .errCtrl 30 0 0 32 32 == 1) = bit new 32 := by
  have hreset : regReset .errCtrl die 0 = 0x2000003e8 := rfl
  rw [fget, rget_rset_same h (errCtrl_home die) rfl (by rw [hreset]; decide), bits_one, bit, bit, Nat.testBit_mod_two_pow]
  rfl

/-- The pin is driven, or it stands already. -/
theorem setErr_frame (s : State) (low : Bool) :
    setErr s low = { s with module := { s.module with errLow := low }, out := (setErr s low).out } ∧ s.out <+: (setErr s low).out := by
  unfold setErr
  split
  next h => exact ⟨by rw [← h], List.prefix_refl _⟩
  next => exact ⟨rfl, List.prefix_append _ _⟩

/-- After a write of ERR_CTRL the pin follows the pulse, the collector and HOLD. -/
theorem settleErr_written (h : mapRising 0 s.regs = true) (hp : 6 ≤ s.module.phase) (new : Nat) :
    settleErr (rset s .errCtrl die 0 0 new)
      = setErr (rset s .errCtrl die 0 0 new) (s.module.pulse || s.module.errHeld || bit new 32) := by
  have hphase : (s.module.phase == 0) = false := beq_eq_false_iff_ne.2 (by omega)
  rw [settleErr, errCtrl_hold h]
  show setErr _ (s.module.pulse || s.module.errHeld || bit new 32 || (s.module.phase == 0)) = _
  rw [hphase, Bool.or_false]

end

theorem setErr_cp (s : State) (c : ControlPort) (low : Bool) : setErr { s with cp := c } low = { setErr s low with cp := c } := by
  by_cases h : s.module.errLow = low
  · rw [setErr, if_pos h, setErr, if_pos h]
  · rw [setErr, if_neg h, setErr, if_neg h]
    rfl

/-- A write that logs what it drives is answered OK. -/
theorem writeAt_drives {s : State} {tag die inst k a : Nat} {r : Reg} {value mask : Word} (hacc : accepts s tag = true)
    (hn : NamesRegister r die inst k a) (hf : r ≠ .faultSource) (hfo : r ≠ .failoverCtrl) {u v : State}
    (hframe : v = { u with out := v.out }) (hout : s.out <+: v.out)
    (hw : ∀ c, writeReg { s with cp := c } r die inst k value.toNat mask.toNat = written { v with cp := c }) :
    ∃ t, writeAt tag r die inst k value mask s = .next t ∧ Done s u t tag 0x11 [] := by
  obtain ⟨c, hc⟩ := noted_modCp s tag 0x11
  have hcp : c = (noted s tag 0x11).cp := by rw [hc]
  refine ⟨_, writeAt_settles hacc hn hf hfo value mask, ?_⟩
  rw [hc, hw c, settle_written]
  refine ⟨answer_replies_of (u := { v with cp := c }) (accepts_iff hacc).2.2.2.1 ?_ ?_ hout _ _, ?_⟩
  · exact congrArg ControlPort.remembered hcp
  · show c = _
    rw [hcp, noted_eq]
  · refine (answer_eq ..).trans ?_
    rw [answerOk]
    generalize answer _ tag 0x11 _ _ = t
    rw [hframe]

/-! ### O24 -/

/-- Settles O24: a named unit is released (`releaseUnit_good`) or refused, and ERR_CTRL sets the pin (`settleErr_written`). -/
theorem unitsAreReleasedAndErrNFollowsHold : Obligations.UnitsAreReleasedAndErrNFollowsHold := by
  refine ⟨fun s tag die value mask hacc hd hm => ?_, fun s tag die value mask hacc hlo hhi hm hrise => ?_⟩
  · obtain ⟨a, hn⟩ := namesRegister_unitRelease hd
    have hw (c : ControlPort) := writeReg_unitRelease (s := { s with cp := c }) (die := die) (value := value.toNat) hm
    refine ⟨fun hu hdie hst hmap => ?_, fun hbad => ?_⟩
    · have hdone := writeAt_done hacc hn (by decide) (by decide) released_out fun c => by
        rw [hw c, releaseUnit_good (s := { s with cp := c }) hu hdie hst hmap, released_cp]
      refine ⟨fun hne => ?_, fun heq => ?_⟩
      · rwa [released, if_neg hne] at hdone
      · rwa [released, if_pos heq] at hdone
    · exact writeAt_refused hacc hn (by decide) (by decide) (by decide) fun c => by
        rw [hw c, releaseUnit_bad (s := { s with cp := c }) hbad]
        rfl
  · obtain ⟨a, hn⟩ := namesRegister_errCtrl hlo hhi
    have hw (c : ControlPort) := writeReg_errCtrl (s := { s with cp := c }) (die := die) (value := value.toNat) hm
    have hphase := (accepts_iff hacc).2.1
    refine ⟨fun h10 hmax => ?_, fun hbad => ?_⟩
    · obtain ⟨hframe, hout⟩ := setErr_frame (rset s .errCtrl die 0 0 (mergeWrite .errCtrl (rget s .errCtrl die 0 0) value.toNat mask.toNat))
        (s.module.pulse || s.module.errHeld || bit (mergeWrite .errCtrl (rget s .errCtrl die 0 0) value.toNat mask.toNat) 32)
      refine writeAt_drives hacc hn (by decide) (by decide) hframe hout fun c => ?_
      rw [hw c, ← setErr_cp]
      refine (if_neg (fun h => h.elim (not_lt.2 h10) (not_lt.2 hmax))).trans (congrArg written ?_)
      exact settleErr_written (s := { s with cp := c }) hrise hphase _
    · exact writeAt_refused hacc hn (by decide) (by decide) (by decide) fun c => by
        rw [hw c]
        exact if_pos hbad

end Sys2Proof.Machine
end

section
/-! SUPPORT. The security requests, and O22 (R456-R460). -/

namespace Sys2Proof.Machine

/-! ### A command of any module state that takes it -/

/-- A command that no order refuses runs on the state that has it noted. -/
theorem takeCommand_unrefused {s : State} {c : Cmd} (hl : listens s = true) (hp : 6 ≤ s.module.phase) (hw : awaitingCount s < 64)
    (hn : (findRemembered s c.tag).isNone = true) (hlen : c.lengthOk = true) (hperm : c.permitted = true)
    (hs : stateRefuses (noted s c.tag c.opcode) c = false) (hd : ∀ d ∈ c.dies, (getDie s d).hung = false) :
    takeCommand s c = c.run (noted s c.tag c.opcode) := by
  have hi : (findRemembered s c.tag).isSome = false := by
    rw [← Option.not_isNone, hn]
    rfl
  have hfind : c.dies.find? (fun d => (getDie (noted s c.tag c.opcode) d).hung) = none := by
    rw [List.find?_eq_none]
    intro d hmem
    obtain ⟨p, hnoted⟩ := noted_modCp s c.tag c.opcode
    rw [hnoted]
    exact ne_true_of_eq_false (hd d hmem)
  rw [takeCommand_new hl hp]
  unfold takeNew
  rw [if_neg (Nat.not_le.2 hw)]
  simp only [hi, hlen, hperm, Bool.false_eq_true, if_false, and_false, Bool.not_true]
  rw [noted] at hs hfind
  rw [hs, if_neg Bool.false_ne_true, carryOut, hfind, noted]

theorem answerOk_answersOk (s : State) (tag opcode : Nat) (result : List Word) :
    AnswersOk (answerOk s tag opcode result) tag opcode result := by
  rw [AnswersOk, answerOk, answer_pump]
  refine pump_mem _ _ ?_
  simp [answering, modCp, stOk]

/-! ### SEC_REQUEST (R456, R459) -/

section
variable {s : State} {tag kind : Nat}

theorem namesRegister_secRequest {die : Nat} (h : die = 30 ∨ die = 31) : ∃ a, NamesRegister .secRequest die 0 0 a := by
  have hu : unitExists die 0x22 0 = true := by
    rcases h with rfl | rfl
    · decide
    · decide
  exact ⟨_, namesRegister_offset (by omega) (by decide) (by decide) (by decide) hu rfl⟩

theorem writeReg_execute (s : State) (die : Nat) : writeReg s .secRequest die 0 0 1 1 = writeRequest s := by
  have hw : ¬ writable .secRequest &&& 1 = 0 := by decide
  have he : bit (1 &&& 1 &&& (regRow .secRequest).wo) 0 = true := by decide
  rw [writeReg, if_neg hw]
  simp only [he, if_true]

/-- A request whose kind is the row's is a write of EXECUTE. -/
theorem secRequest_write (hd : activeDie s < 32) (hkind : objKind (secObject s) = kind) :
    (.next (secRequest s tag kind) : Res) = writeAt tag .secRequest (activeDie s) 0 0 1 1 s := by
  have haddr : unitAddr (activeDie s) (regRow .secRequest).cls 0 + (regRow .secRequest).base + (regRow .secRequest).stride * 0
      = unitAddr (activeDie s) 0x22 0 + 0x100 := by simp [regRow]
  rw [writeAt, if_pos ⟨hd, by decide, by decide⟩, haddr, secRequest, if_pos hkind]

theorem requestCheck_cp (s : State) (c : ControlPort) (o : List Byte) : requestCheck { s with cp := c } o = requestCheck s o := by
  unfold requestCheck
  rfl

theorem secObject_cp (s : State) (c : ControlPort) : secObject { s with cp := c } = secObject s := rfl

theorem writeRequest_good (hc : requestCheck s (secObject s) = (stOk, 0)) (c : ControlPort) :
    writeRequest { s with cp := c } = written (requestEffect { s with cp := c } (secObject s)) := by
  simp only [writeRequest, secObject_cp, requestCheck_cp, hc, if_true]

theorem writeRequest_bad {st ck : Nat} (hc : requestCheck s (secObject s) = (st, ck)) (hst : st ≠ stOk) (c : ControlPort) :
    writeRequest { s with cp := c } = (st, ck, { s with cp := c }) := by
  simp only [writeRequest, secObject_cp, requestCheck_cp, hc, hst, if_false]

/-- An object's request whose rows all pass. -/
theorem secRequest_done (hacc : accepts s tag = true) (hkd : s.module.activeKd = 30 ∨ s.module.activeKd = 31)
    (hc : requestCheck s (secObject s) = (stOk, 0)) (hkind : objKind (secObject s) = kind) {u : State} (hout : u.out = s.out)
    (heff : ∀ c, requestEffect { s with cp := c } (secObject s) = { u with cp := c }) :
    ∃ t, (.next (secRequest s tag kind) : Res) = .next t ∧ Done s u t tag 0x11 [] := by
  have hdie : activeDie s = 30 ∨ activeDie s = 31 := hkd
  obtain ⟨a, hn⟩ := namesRegister_secRequest hdie
  rw [secRequest_write (by omega) hkind]
  exact writeAt_done hacc hn (by decide) (by decide) hout fun c =>
    (writeReg_execute _ _).trans ((writeRequest_good hc c).trans (congrArg written (heff c)))

/-- One that fails a row. -/
theorem secRequest_refused (hacc : accepts s tag = true) (hkd : s.module.activeKd = 30 ∨ s.module.activeKd = 31) {st ck : Nat}
    (hc : requestCheck s (secObject s) = (st, ck)) (hst : st ≠ stOk) (hkind : objKind (secObject s) = kind) :
    ∃ t, (.next (secRequest s tag kind) : Res) = .next t ∧ Replies s t tag 0x11 st (failWord 8 ck 0) ∧
      t = { s with cp := t.cp, out := t.out } := by
  have hdie : activeDie s = 30 ∨ activeDie s = 31 := hkd
  obtain ⟨a, hn⟩ := namesRegister_secRequest hdie
  rw [secRequest_write (by omega) hkind]
  obtain ⟨c, hnoted⟩ := noted_modCp s tag 0x11
  have hrun : writeReg (noted s tag 0x11) .secRequest (activeDie s) 0 0 (1 : Word).toNat (1 : Word).toNat = (st, ck, noted s tag 0x11) := by
    rw [hnoted]
    exact (writeReg_execute _ _).trans (writeRequest_bad hc hst c)
  refine ⟨_, writeAt_settles hacc hn (by decide) (by decide) 1 1, ?_⟩
  have hsettle : settle tag 0x11 (st, ck, noted s tag 0x11) = answer (noted s tag 0x11) tag 0x11 st (failWord 8 ck 0) := if_neg hst
  rw [hrun, hsettle]
  refine ⟨answer_replies (accepts_iff hacc).2.2.2.1 rfl (by rw [hnoted]) _ _, ?_⟩
  rw [hnoted]
  conv_lhs => rw [answer_eq]

/-! ### What each kind does (R460) -/

variable {o : List Byte} (c : ControlPort)

theorem requestEffect_add (hk : objKind o = 2) : requestEffect { s with cp := c } o =
    { s with freeCtr := s.freeCtr + 1, cp := c, sec := { s.sec with
      nonce := padTo 32 (Config.noise s.freeCtr), keys := listMod s.sec.keys (objArg o) (fun _ => (.active, hash64 (objSubject o))),
      lifecycle := if s.sec.lifecycle = 0 then 1 else s.sec.lifecycle } } := by
  rw [requestEffect, hk]
  show newNonce (addKey { s with cp := c } o) = _
  unfold addKey
  by_cases hl : s.sec.lifecycle = 0
  · rw [if_pos hl, if_pos (show (setKey { s with cp := c } (objArg o) (.active, hash64 (objSubject o))).sec.lifecycle = 0 from hl)]
    rfl
  · rw [if_neg hl, if_neg (show ¬(setKey { s with cp := c } (objArg o) (.active, hash64 (objSubject o))).sec.lifecycle = 0 from hl)]
    rfl

theorem requestEffect_revoke (hk : objKind o = 3) : requestEffect { s with cp := c } o =
    { s with freeCtr := s.freeCtr + 1, cp := c, sec := { s.sec with
      nonce := padTo 32 (Config.noise s.freeCtr),
      keys := listMod s.sec.keys (objArg o) (fun _ => (.revoked, (keySlot s (objArg o)).2)) } } := by
  rw [requestEffect, hk]
  rfl

theorem requestEffect_deploy (hk : objKind o = 4) : requestEffect { s with cp := c } o =
    { s with freeCtr := s.freeCtr + 1, cp := c,
             sec := { s.sec with nonce := padTo 32 (Config.noise s.freeCtr), lifecycle := 2 } } := by
  rw [requestEffect, hk]
  rfl

theorem requestEffect_raise (hk : objKind o = 6) : requestEffect { s with cp := c } o =
    { s with freeCtr := s.freeCtr + 1, cp := c, sec := { s.sec with
      nonce := padTo 32 (Config.noise s.freeCtr),
      minSvn := listMod s.sec.minSvn (bits (objArg o) 2 0) (fun _ => bits (objArg o) 31 16) } } := by
  rw [requestEffect, hk]
  rfl

theorem requestEffect_return (hk : objKind o = 5) : requestEffect s o = newNonce (returnModule s) := by
  rw [requestEffect, hk]
  rfl

/-! ### RETURN (R460) -/

/-- SEC_OBJECT and the rest of the request registers are no longer stored. -/
def objectErased (regs : SMap Word) : SMap Word :=
  regs.filter (fun e => !(addrCls e.1 == 0x22 && decide (0x200 ≤ addrOff e.1) && decide (addrOff e.1 < 0x340)))

theorem mapFind_filtered {α : Type} (m : SMap α) (p : Nat × α → Bool) {k : Nat} (hp : ∀ v, p (k, v) = false) :
    mapFind (m.filter p) k = none := by
  induction m with
  | nil => rfl
  | cons e r ih =>
    obtain ⟨j, v⟩ := e
    rw [List.filter_cons]
    split
    next hkeep =>
      have hne : k ≠ j := fun h => by
        rw [← h, hp v] at hkeep
        exact Bool.false_ne_true hkeep
      rw [mapFind, if_neg hne, ih]
      exact ite_self _
    next => exact ih

theorem rget_objectErased {k : Nat} (hk : k < 40) {m : SMap Word} (h : s.regs = objectErased m) : rget s .secObject 30 0 k = 0 := by
  have haddr : regAddr .secObject 30 0 k = 30 * 2 ^ 43 + 0x22 * 2 ^ 36 + 0x200 + 8 * k := by
    simp [regAddr, regHome, regRow, unitAddr]
  have hfind : mapFind s.regs (regAddr .secObject 30 0 k) = none := by
    rw [h]
    refine mapFind_filtered _ _ fun v => ?_
    have hcls : addrCls (regAddr .secObject 30 0 k) = 0x22 := by rw [haddr, addrCls, bits_eq]; omega
    have hoff : addrOff (regAddr .secObject 30 0 k) = 0x200 + 8 * k := by rw [haddr, addrOff, bits_eq]; omega
    simp only [hcls, hoff]
    simp
    omega
  rw [rget, hfind]
  rfl

theorem flatMap_zeros (l : List Nat) : l.flatMap (fun _ => natBytes 8 0) = List.replicate (8 * l.length) 0 := by
  have hzero : natBytes 8 0 = List.replicate 8 0 := rfl
  induction l with
  | nil => rfl
  | cons a l ih => rw [List.flatMap_cons, ih, hzero, List.replicate_append_replicate, List.length_cons, Nat.mul_succ, Nat.add_comm]

theorem secObject_erased {m : SMap Word} (h : s.regs = objectErased m) : secObject s = List.replicate 320 0 := by
  have hzero : secObject s = (upTo 0 40).flatMap (fun _ => natBytes 8 0) := by
    rw [secObject]
    refine List.flatMap_congr fun k hk => ?_
    rw [rget_objectErased (by have := (mem_upTo 0 40).1 hk; omega) h]
  rw [hzero, flatMap_zeros, upTo_length]

end

/-! ### O22 -/

section
variable {s : State} {tag : Nat}

/-- In STANDBY a control die's register is written as in any other state. -/
theorem takeCommand_standbyWrite (hacc : acceptsStandby s tag = true) {addr a : Nat} (ha : addr % 2 ^ 48 = a)
    (hlo : 30 ≤ addrDie a) (hdie : addrDie a < 32) {r : Reg} {k : Nat} (hdec : decodeAddr a = some (r, k)) (hf : r ≠ .faultSource)
    (hfo : r ≠ .failoverCtrl) (value mask : Word) :
    takeCommand s (cmdRegWrite s tag addr value mask)
      = settle tag 0x11 (writeReg (noted s tag 0x11) r (addrDie a) (addrInst a) k value.toNat mask.toNat) := by
  simp only [acceptsStandby, Bool.and_eq_true, decide_eq_true_eq, beq_iff_eq, Bool.not_eq_true', List.all_eq_true] at hacc
  obtain ⟨⟨⟨⟨⟨⟨⟨hl, hp⟩, hw⟩, hn⟩, hz⟩, -⟩, hd3⟩, hhung⟩ := hacc
  obtain ⟨c, hnoted⟩ := noted_modCp s tag 0x11
  have hperm : (cmdRegWrite s tag addr value mask).permitted = true := by
    simp only [cmdRegWrite, ha, injects_other hdec hf, Bool.false_and, Bool.not_false, Bool.true_or]
  have hdies : ∀ d ∈ (cmdRegWrite s tag addr value mask).dies, (getDie s d).hung = false := by
    simp only [cmdRegWrite, plainCmd, ha, List.mem_singleton, forall_eq]
    exact hhung _ ((mem_upTo 0 32).2 ⟨Nat.zero_le _, by omega⟩)
  have hstand : (cmdRegWrite s tag addr value mask).standby = true := by
    simp only [cmdRegWrite, ha, controlDie, hlo, decide_true]
  have hstate : stateRefuses (noted s tag 0x11) (cmdRegWrite s tag addr value mask) = false := by
    rw [hnoted, stateRefuses, hstand, show d3Open { s with cp := c } = false from hd3,
      show ({ s with cp := c } : State).sec.zeroising = false from hz]
    simp [cmdRegWrite, plainCmd]
  have hrun : (cmdRegWrite s tag addr value mask).run (noted s tag 0x11) = regWrite (noted s tag 0x11) tag a value.toNat mask.toNat := by
    simp only [cmdRegWrite, plainCmd, ha]
  refine (takeCommand_unrefused (c := cmdRegWrite s tag addr value mask) hl hp hw hn rfl hperm hstate hdies).trans (hrun.trans ?_)
  simp only [regWrite, hdec, regWriteAt, hfo, false_and, and_false, if_false]

/-- In STANDBY an accepted RETURN whose rows pass runs. -/
theorem secReturn_standby (hacc : acceptsStandby s tag = true) (hkd : s.module.activeKd = 30 ∨ s.module.activeKd = 31)
    (hc : requestCheck s (secObject s) = (stOk, 0)) (hkind : objKind (secObject s) = 5) :
    ∃ c, secRequest s tag 5 = answerOk (newNonce (returnModule { s with cp := c })) tag 0x11 [] := by
  have hdie : activeDie s = 30 ∨ activeDie s = 31 := hkd
  have hlo : 30 ≤ activeDie s := by omega
  have hd : activeDie s < 32 := by omega
  obtain ⟨a, hn⟩ := namesRegister_secRequest hdie
  obtain ⟨c, hnoted⟩ := noted_modCp s tag 0x11
  have hwrite := secRequest_write (tag := tag) hd hkind
  rw [writeAt, if_pos hn.form, takeCommand_standbyWrite hacc hn.addr (by rwa [hn.die]) (by rwa [hn.die]) hn.decode (by decide)
    (by decide), hn.die, hn.inst, hnoted] at hwrite
  refine ⟨c, (Host.Outcome.next.inj hwrite).trans ?_⟩
  have hrun : writeReg { s with cp := c } .secRequest (activeDie s) 0 0 (1 : Word).toNat (1 : Word).toNat
      = written (newNonce (returnModule { s with cp := c })) := by
    rw [← requestEffect_return hkind]
    exact (writeReg_execute _ _).trans (writeRequest_good hc c)
  rw [hrun, settle_written]

/-- What RETURN leaves, answered. -/
theorem returnAnswered (c : ControlPort) :
    let t := answerOk (newNonce (returnModule { s with cp := c })) tag 0x11 []
    t.cp.remembered = [] ∧
      t = { s with
        freeCtr := s.freeCtr + 1, ops := [], cp := t.cp, out := t.out, regs := objectErased s.regs,
        sec := { s.sec with
          lifecycle := 3, attestKey := none, nonce := padTo 32 (Config.noise s.freeCtr),
          keys := s.sec.keys.map (fun e => if e.1 = .active then (.revoked, e.2) else e) } } := by
  intro t
  refine ⟨?_, answer_eq ..⟩
  show (answer _ _ _ _ _).cp.remembered = []
  rw [answer_pump, pump_cp]
  rfl

end

/-- Settles O22: a request is a write of EXECUTE, whose object decides (`requestCheck`); RETURN leaves no byte of the object. -/
theorem securityRequestsTakeEffect : Obligations.SecurityRequestsTakeEffect := by
  intro s tag hkd o fresh nonce
  refine ⟨fun hacc hc => ⟨fun hk => ?_, fun hk => ?_, fun hk => ?_, fun hk => ?_⟩, fun hacc st ck hc hst e he hk => ?_,
    fun hacc hc hk => ?_⟩
  · exact secRequest_done hacc hkd hc hk rfl fun c => requestEffect_add c hk
  · exact secRequest_done hacc hkd hc hk rfl fun c => requestEffect_revoke c hk
  · exact secRequest_done hacc hkd hc hk rfl fun c => requestEffect_deploy c hk
  · exact secRequest_done hacc hkd hc hk rfl fun c => requestEffect_raise c hk
  · have hrow : exec e.2 s = .next (secRequest s tag e.1) := by
      simp only [List.mem_cons, List.not_mem_nil, or_false] at he
      rcases he with rfl | rfl | rfl | rfl | rfl <;> rfl
    rw [hrow]
    exact secRequest_refused hacc hkd hc hst hk
  · obtain ⟨c, hrun⟩ := secReturn_standby hacc hkd hc hk
    obtain ⟨hrem, hframe⟩ := returnAnswered (s := s) (tag := tag) c
    refine ⟨secRequest s tag 5, rfl, ?_⟩
    rw [hrun]
    refine ⟨answerOk_answersOk .., congrArg State.sec hframe, hrem, ?_, secObject_erased (congrArg State.regs hframe)⟩
    rw [congrArg State.sec hframe]
    exact hframe

end Sys2Proof.Machine
end

section
/-! SUPPORT. Power, RST_N and cold resets, and O32 (R436, R443, R445, R448, R513, R516, R517). -/

namespace Sys2Proof.Machine

section
variable {s : State} {m : Module}

/-- The always-on logic of a module whose dies have lost power. -/
def offModule (m : Module) : Module :=
  { Module.init with state := 0, pwrEn := m.pwrEn, rstN := m.rstN, inputOk := m.inputOk, resetCause := m.resetCause,
                     tripFlag := m.tripFlag, errLow := false }

theorem unpowered_dies : ∀ die, die < 32 → (getDie (unpowered s) die).powered = false := by
  have h : ∀ die < 32, (mapGet ((upTo 0 32).map (fun d => (d, { Die.init with powered := false }))) Die.init die).powered = false := by
    decide
  exact h

/-- What `setErr` makes of an unpowered module. -/
theorem powerGone_setErr {low : Bool} (f : Module → Module) :
    PowerGone s (setErr (modModule (unpowered { s with module := m }) f) low)
      { f { offModule m with errLow := m.errLow } with errLow := low } := by
  obtain ⟨hframe, hlog⟩ := setErr_frame (modModule (unpowered { s with module := m }) f) low
  generalize ht : setErr (modModule (unpowered { s with module := m }) f) low = t at hframe hlog ⊢
  refine ⟨?_, fun die hd => ?_, hlog⟩
  · have hdies : t.dies = (unpowered s).dies := by rw [hframe]; rfl
    rw [hdies]
    exact hframe
  · have hget : getDie t die = getDie (unpowered s) die := by rw [hframe]; rfl
    rw [hget]
    exact unpowered_dies die hd

theorem powerOff_gone : PowerGone s (powerOff { s with module := m }) (offModule m) :=
  powerGone_setErr (s := s) (m := m) (low := false) (fun x => x)

theorem holdReset_gone (cause : Nat) :
    PowerGone s (holdReset { s with module := m } cause) { offModule m with held := true, resetCause := cause, errLow := true } :=
  powerGone_setErr (s := s) (m := m) (low := true) (fun x => { x with held := true, resetCause := cause })

/-! ### Cold resets (R445) -/

theorem noteHigh_regs (s : State) : noteHigh s = { s with regs := (noteHigh s).regs } := by
  unfold noteHigh
  dsimp only
  split <;> rfl

/-- The frame of an event that a die issues now. -/
def eventMsg (s : State) (die ty : Nat) (body : List Byte) : CpMsg :=
  { type := 3, tag := 0, opcode := 0, status := 0,
    payload := wordsBytes [eventWord die ty (getDie s die).eventSeq, Config.freeCycle s.freeCtr] ++ body }

/-- The state in which that frame waits. -/
def eventWaits (s : State) (die ty : Nat) (body : List Byte) : State :=
  { modDie s die (fun d => { d with eventSeq := d.eventSeq + 1 }) with
    freeCtr := s.freeCtr + 1, cp := { s.cp with queue := s.cp.queue ++ [eventMsg s die ty body] } }

/-- An event that finds room waits, and is sent if it can be. -/
theorem sendEvent_queued {die ty : Nat} {body : List Byte} (hty : ty ≠ 2)
    (hroom : eventBytes s.cp + cpFrameBytes (eventMsg s die ty body) ≤ 8 * 2 ^ 20) :
    sendEvent s die ty body = pump (noteHigh (eventWaits s die ty body)) := by
  unfold sendEvent
  dsimp only
  rw [if_neg (fun h => hty h.1)]
  exact if_neg (Nat.not_lt.2 hroom)

/-- While the link is not UP nothing is sent. -/
theorem pump_waits (h : cpUp s = false) : pump s = s := if_neg (ne_true_of_eq_false h)

/-- The first event of a control port at its start waits. -/
theorem sendBringup_first (hcp : s.cp = ControlPort.init) (phase st detail : Nat) :
    sendBringup s phase st detail = noteHigh (eventWaits s (activeDie s) 1 (wordsBytes ([phase, st, detail].map word))) := by
  have hroom : eventBytes s.cp + cpFrameBytes (eventMsg s (activeDie s) 1 (wordsBytes ([phase, st, detail].map word)))
      ≤ 8 * 2 ^ 20 := by
    rw [hcp]
    simp [eventBytes, ControlPort.init, cpFrameBytes, eventMsg]
  have hdown : cpUp (noteHigh (eventWaits s (activeDie s) 1 (wordsBytes ([phase, st, detail].map word)))) = false := by
    rw [noteHigh_regs]
    show (s.cp.step == 4) = false
    rw [hcp]
    rfl
  rw [sendBringup, sendEventW, sendEvent_queued (by decide) hroom, pump_waits hdown]

/-- The machine that a cold reset finds, before ERR_N, the security root and the first event. -/
def coldStart (s : State) (m : Module) (cause : Nat) : State :=
  { unpowered { s with module := m } with
    dies := [],
    module := { Module.init with pwrEn := m.pwrEn, rstN := m.rstN, inputOk := m.inputOk, errLow := m.errLow,
                                 resetCause := if m.tripFlag then 3 else cause } }

theorem coldReset_cold (cause : Nat) :
    ColdReset s (coldReset { s with module := m } cause) m.pwrEn m.rstN m.inputOk (if m.tripFlag then 3 else cause) := by
  obtain ⟨hframe, hlog⟩ := setErr_frame (coldStart s m cause) true
  have hcold : coldReset { s with module := m } cause = noteHigh (eventWaits (securityReset (setErr (coldStart s m cause) true)) 30 1
      (wordsBytes ([0, 0, 0].map word))) := by
    have hcp : (securityReset (setErr (coldStart s m cause) true)).cp = ControlPort.init := by
      rw [hframe]
      rfl
    have hkd : activeDie (securityReset (setErr (coldStart s m cause) true)) = 30 := by
      rw [hframe]
      rfl
    have h := sendBringup_first hcp 0 0 0
    rw [hkd] at h
    exact h
  rw [hcold, noteHigh_regs]
  generalize setErr (coldStart s m cause) true = w at hframe hlog
  generalize (noteHigh _).regs = r
  have hseq : (getDie (securityReset w) 30).eventSeq = 0 := by
    rw [hframe]
    rfl
  refine ⟨?_, ⟨eventMsg (securityReset w) 30 1 (wordsBytes ([0, 0, 0].map word)), ?_, rfl, ?_⟩, ?_⟩
  · rw [hframe]
    rfl
  · rw [hframe]
    rfl
  · rw [eventMsg, hseq, hframe]
    rfl
  · exact hlog

end

/-! ### What each pin does -/

section
variable {s : State}

theorem exec_pwrEnLow (hin : s.module.inputOk = true) :
    exec .pwrEnLow s = .next (powerOff { s with module := { s.module with pwrEn := false } }) :=
  congrArg Host.Outcome.next (if_pos hin)

theorem exec_inputLoss (hin : s.module.inputOk = true) : exec .inputLoss s =
    .next (powerOff { s with module := { s.module with inputOk := false, tripFlag := false, resetCause := 0 } }) :=
  congrArg Host.Outcome.next (if_pos hin)

theorem exec_powerRemoval : exec .powerRemoval s = .next (if s.module.offPending then powerOff s else s) := rfl

theorem exec_rstNLow (hin : s.module.inputOk = true) (hpwr : s.module.pwrEn = true) (htrip : s.module.tripFlag = false)
    (hheld : s.module.held = false) :
    exec .rstNLow s = .next (holdReset { s with module := { s.module with rstN := false } } 2) := by
  have htrip' : (!s.module.tripFlag) = true := by rw [htrip]; rfl
  have hheld' : (!s.module.held) = true := by rw [hheld]; rfl
  exact congrArg Host.Outcome.next (if_pos ⟨hin, hpwr, htrip', hheld'⟩)

theorem exec_rstNRising : exec .rstNRising s =
    .next (if s.module.held then coldReset { s with module := { s.module with rstN := true } } s.module.resetCause
      else { s with module := { s.module with rstN := true } }) := rfl

theorem exec_pwrEnRising (hpwr : s.module.pwrEn = false) (hin : s.module.inputOk = true) : exec .pwrEnRising s =
    .next (if s.module.rstN then coldReset { s with module := { s.module with pwrEn := true } } 1
      else holdReset { s with module := { s.module with pwrEn := true } } (if s.module.tripFlag then 3 else 1)) := by
  have hin' : ¬(!s.module.inputOk) = true := by rw [hin]; exact Bool.false_ne_true
  show execPwrEnRising s = _
  rw [execPwrEnRising, if_neg (ne_true_of_eq_false hpwr)]
  exact congrArg Host.Outcome.next (if_neg hin')

theorem exec_inputRestore (hin : s.module.inputOk = false) : exec .inputRestore s =
    .next (if s.module.pwrEn then coldReset { s with module := { s.module with inputOk := true } } 0
      else { s with module := { s.module with inputOk := true } }) :=
  if_neg (ne_true_of_eq_false hin)

end

/-- Settles O32: power goes (`powerOff_gone`), RST_N holds the part (`holdReset_gone`), and it comes back (`coldReset_cold`). -/
theorem pinsAndPowerResetThePart : Obligations.PinsAndPowerResetThePart := by
  intro s off
  refine ⟨?pwrLow, ?inputLoss, ?removal, ?noRemoval, ?rstLow, ?rstRising, ?rstFree, ?pwrRising, ?pwrHeld, ?restore, ?restoreLow,
    fun hin => if_pos hin, fun hpwr => if_pos hpwr⟩
  case pwrLow => exact fun hin => ⟨_, exec_pwrEnLow hin, powerOff_gone⟩
  case inputLoss => exact fun hin => ⟨_, exec_inputLoss hin, powerOff_gone⟩
  case removal =>
    intro hoff
    rw [exec_powerRemoval, if_pos hoff]
    exact ⟨_, rfl, powerOff_gone (m := s.module)⟩
  case noRemoval =>
    intro hoff
    rw [exec_powerRemoval, if_neg (ne_true_of_eq_false hoff)]
  case rstLow => exact fun hin hpwr htrip hheld => ⟨_, exec_rstNLow hin hpwr htrip hheld, holdReset_gone 2⟩
  case rstRising =>
    intro hheld
    rw [exec_rstNRising, if_pos hheld]
    exact ⟨_, rfl, coldReset_cold _⟩
  case rstFree =>
    intro hheld
    rw [exec_rstNRising, if_neg (ne_true_of_eq_false hheld)]
  case pwrRising =>
    intro hpwr hin hrst
    rw [exec_pwrEnRising hpwr hin, if_pos hrst]
    have hcold := coldReset_cold (s := s) (m := { s.module with pwrEn := true }) 1
    rw [hrst, hin] at hcold
    exact ⟨_, rfl, hcold⟩
  case pwrHeld =>
    intro hpwr hin hrst
    rw [exec_pwrEnRising hpwr hin, if_neg (ne_true_of_eq_false hrst)]
    exact ⟨_, rfl, holdReset_gone _⟩
  case restore =>
    intro hin hpwr
    rw [exec_inputRestore hin, if_pos hpwr]
    have hcold := coldReset_cold (s := s) (m := { s.module with inputOk := true }) 0
    rw [hpwr] at hcold
    exact ⟨_, rfl, hcold⟩
  case restoreLow =>
    intro hin hpwr
    rw [exec_inputRestore hin, if_neg (ne_true_of_eq_false hpwr)]

end Sys2Proof.Machine
end

section
/-! SUPPORT. What every report keeps: a relation that each part of a report keeps is kept by the whole report (R431-R433,
R485, R490, R491). Kept so are severities, a pulse of ERR_N, and what waits while the control link is not UP. -/

namespace Sys2Proof.Machine

/-- A relation that each change a report is made of keeps: free values, event numbers and records, the counting registers,
a frame that waits, frames sent, and a pulse of ERR_N. -/
structure ReportClosed (R : State → State → Prop) : Prop where
  trans : ∀ {s t u}, R s t → R t u → R s u
  unread : ∀ s n d l q w x c, R s { s with freeCtr := n, dies := d, records := l, nextRecord := q, windows := w, raised := x,
                                           cp := { s.cp with lost := c } }
  dropped : ∀ s k, k < 8 → R s (fadd s .cpCount (activeDie s) 0 k 47 0 1)
  counted : ∀ s id, R s (countSource s id)
  highest : ∀ s v, v % 2 ^ (55 + 1 - 32) ≠ 0 → R s (fset s .eventQueue 30 0 0 55 32 v)
  queued : ∀ s m, R s { s with cp := { s.cp with queue := s.cp.queue ++ [m] } }
  pumped : ∀ s, R s (pump s)
  pulsed : ∀ s, R s (pulseErr s)

theorem relates_ite {R : State → State → Prop} {s t u : State} (b : Prop) [Decidable b] (ht : R s t) (hu : R s u) :
    R s (if b then t else u) := by
  split <;> assumption

namespace ReportClosed
variable {R : State → State → Prop} (h : ReportClosed R)
include h

theorem refl (s : State) : R s s := h.unread s s.freeCtr s.dies s.records s.nextRecord s.windows s.raised s.cp.lost

theorem noteHigh (s : State) : R s (noteHigh s) := by
  unfold Machine.noteHigh
  dsimp only
  split
  next hlt => exact h.highest s _ (by omega)
  next => exact h.refl s

theorem modDie (s : State) (die : Nat) (f : Die → Die) : R s (modDie s die f) :=
  h.unread s s.freeCtr (Machine.modDie s die f).dies s.records s.nextRecord s.windows s.raised s.cp.lost

theorem freeCycle (s : State) : R s (freeCycle s).2 :=
  h.unread s (s.freeCtr + 1) s.dies s.records s.nextRecord s.windows s.raised s.cp.lost

theorem suppressRecord (s : State) (w : Window) (r : FaultRec) : R s (suppressRecord s w r) :=
  h.unread s s.freeCtr s.dies s.records s.nextRecord (Machine.suppressRecord s w r).windows s.raised s.cp.lost

theorem openWindow (s : State) (id : Nat) : R s (openWindow s id) :=
  h.unread s s.freeCtr s.dies s.records s.nextRecord (Machine.openWindow s id).windows s.raised s.cp.lost

theorem putRecord (s : State) (r : FaultRec) : R s (putRecord s r).2.2 := by
  unfold Machine.putRecord
  exact h.unread s s.freeCtr s.dies _ _ s.windows s.raised s.cp.lost

theorem formRecord (s : State) (id sev action : Nat) (inj : Bool) (a : Nat) (d : List Word) :
    R s (formRecord s id sev action inj a d).2 := h.freeCycle s

theorem noteDropped (s : State) (die : Nat) (q : BitVec 32) : R s (noteDropped s die q) := by
  unfold Machine.noteDropped
  exact h.trans (h.dropped s 6 (by decide)) (h.unread _ _ _ _ _ _ _ (noteLost die q _))

theorem dropRecord (s : State) (id sev : Nat) : R s (dropRecord s id sev) := by
  unfold Machine.dropRecord
  dsimp only
  refine h.trans (h.formRecord s id sev 0 false (sourceUnit id) []) ?_
  split
  · exact h.suppressRecord _ _ _
  · exact h.trans (h.openWindow _ _) (h.trans (h.putRecord _ _) (h.trans (h.modDie _ _ _)
      (h.trans (h.noteDropped _ _ _) (h.trans (h.counted _ _) (h.suppressRecord _ _ _)))))

theorem dropEvent (s : State) (die : Nat) (q : BitVec 32) : R s (dropEvent s die q) := by
  have hc := h.trans (h.noteDropped s die q) (h.counted _ (srcDistaff (activeDie s) 3))
  unfold Machine.dropEvent
  dsimp only
  generalize countSource (Machine.noteDropped s die q) (srcDistaff (activeDie s) 3) = t at hc ⊢
  have hr := relates_ite (severityOf t (srcDistaff (activeDie s) 3) ≤ 1) hc (h.trans hc (h.dropRecord t (srcDistaff (activeDie s) 3) (severityOf t (srcDistaff (activeDie s) 3))))
  exact relates_ite _ hr (h.trans hr (h.pulsed _))

theorem sendEvent (s : State) (die ty : Nat) (body : List Byte) : R s (sendEvent s die ty body) := by
  unfold Machine.sendEvent
  dsimp only
  refine h.trans (h.modDie s die (fun d => { d with eventSeq := d.eventSeq + 1 })) ?_
  generalize Machine.modDie s die (fun d => { d with eventSeq := d.eventSeq + 1 }) = t
  refine h.trans (h.freeCycle t) ?_
  split
  · exact h.dropped _ 7 (by decide)
  · split
    · exact h.dropEvent _ _ _
    · exact h.trans (h.queued _ _) (h.trans (h.noteHigh _) (h.pumped _))

theorem storeOverwritten (s : State) : R s (storeOverwritten s) := by
  have hc := h.counted s (srcCollector (activeDie s) 0)
  have pulsed {t : State} (b : Prop) [Decidable b] (k : R s t) : R s (if b then t else pulseErr t) :=
    relates_ite b k (h.trans k (h.pulsed t))
  unfold Machine.storeOverwritten
  refine pulsed _ (relates_ite _ hc (h.trans hc ?_))
  dsimp only
  generalize countSource s (srcCollector (activeDie s) 0) = t
  generalize srcCollector (activeDie s) 0 = id
  refine h.trans (h.formRecord t id (severityOf t id) 0 false (sourceUnit id) []) ?_
  generalize Machine.formRecord t id (severityOf t id) 0 false (sourceUnit id) [] = x
  split
  · exact h.suppressRecord _ _ _
  · have hs := h.trans (h.putRecord (Machine.openWindow x.2 id) x.1) (h.sendEvent _ (id / 2048) 3
      (wordsBytes (recordWords (Machine.putRecord (Machine.openWindow x.2 id) x.1).2.1)))
    exact h.trans (h.openWindow x.2 id) (relates_ite _ (h.trans hs (h.trans (h.counted _ id) (h.suppressRecord _ _ _))) hs)

theorem keepRecord (s : State) (r : FaultRec) : R s (keepRecord s r) := by
  have hs := h.trans (h.putRecord s r) (h.sendEvent _ ((Machine.putRecord s r).2.1.source / 2048) 3
    (wordsBytes (recordWords (Machine.putRecord s r).2.1)))
  unfold Machine.keepRecord
  exact relates_ite _ (h.trans hs (h.storeOverwritten _)) hs

theorem storeRecord (s : State) (r : FaultRec) : R s (storeRecord s r) := by
  unfold Machine.storeRecord
  split
  · exact h.suppressRecord _ _ _
  · exact h.trans (h.openWindow _ _) (h.keepRecord _ _)

theorem storeRecords (s : State) (l : List FaultRec) : R s (l.foldl Machine.storeRecord s) := by
  induction l generalizing s with
  | nil => exact h.refl s
  | cons r l ih => exact h.trans (h.storeRecord s r) (ih _)

theorem noteRecord (s : State) (id sev action : Nat) (inj : Bool) (a : Nat) (d : List Word) :
    R s (noteRecord s id sev action inj a d) :=
  h.unread s (s.freeCtr + 1) s.dies s.records s.nextRecord s.windows (Machine.noteRecord s id sev action inj a d).raised s.cp.lost

theorem raised (s : State) (l : List FaultRec) : R s { s with raised := l } :=
  h.unread s s.freeCtr s.dies s.records s.nextRecord s.windows l s.cp.lost

/-- A source of severity NOTIFY at most (R486). -/
theorem raiseN (n : Nat) (s : State) (id : Nat) (inj : Bool) (detail : List Word) (hs : severityOf s id ≤ 2) :
    R s (raiseN n s id inj detail) := by
  have hc := h.counted s id
  cases n with
  | zero => exact hc
  | succ n =>
    unfold Machine.raiseN
    dsimp only
    split
    · exact hc
    · rw [if_pos (.inl (by omega))]
      exact h.trans hc (h.noteRecord _ _ _ _ _ _ _)

/-- A die cycle of its own. -/
theorem oneCycle {f : State → State} (s : State) (hf : R { s with raised := [] } (f { s with raised := [] })) :
    R s (oneCycle f s) :=
  h.trans (h.raised s []) (h.trans hf (h.trans (h.storeRecords _ _) (h.raised _ s.raised)))

theorem raiseFault (s : State) (id : Nat) (hs : severityOf s id ≤ 2) : R s (raiseFault s id) :=
  h.oneCycle (f := fun s => Machine.raiseN 4 s id false []) s (h.raiseN 4 { s with raised := [] } id false [] hs)

end ReportClosed

/-! ### Severities -/

/-- Every source has the severity it had. -/
def KeepsSeverity (s t : State) : Prop := ∀ id, severityOf t id = severityOf s id

/-- Counting an event of a source keeps every severity. -/
theorem countSource_keepsSeverity (s : State) (id : Nat) : KeepsSeverity s (countSource s id) := by
  intro j
  by_cases hj : j = id
  · rw [hj]
    exact severityOf_countSource s id
  · have hne : regAddr .faultSource (j / 2048) 0 (j % 2048) ≠ regAddr .faultSource (id / 2048) 0 (id % 2048) := by
      have h1 := Nat.mod_lt id (show 0 < 2048 by decide)
      have h2 := Nat.mod_lt j (show 0 < 2048 by decide)
      rw [faultSource_addr, faultSource_addr]
      omega
    unfold countSource
    dsimp only
    split
    · rfl
    · rw [severityOf, severityOf, fget, fget, rget_fadd_other s _ _ _ _ (by decide) (by decide) (faultSource_reset ..) hne]

theorem eventQueue_keepsSeverity (s : State) {v : Nat} (hv : v % 2 ^ (55 + 1 - 32) ≠ 0) :
    KeepsSeverity s (fset s .eventQueue 30 0 0 55 32 v) := by
  intro id
  have hne : regAddr .faultSource (id / 2048) 0 (id % 2048) ≠ regAddr .eventQueue 30 0 0 := by
    have := Nat.mod_lt id (show 0 < 2048 by decide)
    rw [faultSource_addr, eventQueue_addr]
    omega
  rw [severityOf, severityOf, fget, fget, rget_fset s _ _ _ _ (by decide) (by decide) eventQueue_reset hv, if_neg hne]

theorem severityOf_regs {s t : State} (h : t.regs = s.regs) (id : Nat) : severityOf t id = severityOf s id := by
  rw [severityOf, severityOf, fget, fget, rget, rget, h]

theorem keepsSeverity_closed : ReportClosed KeepsSeverity where
  trans h k id := (k id).trans (h id)
  unread _ _ _ _ _ _ _ _ id := rfl
  dropped s _ hk id := severityOf_cpCount s (activeDie s) id hk
  counted := countSource_keepsSeverity
  highest s _ := eventQueue_keepsSeverity s
  queued _ _ id := rfl
  pumped s := severityOf_regs (by rw [pump_eq])
  pulsed s := severityOf_regs (by
    unfold pulseErr settleErr setErr
    split <;> rfl)

/-! ### What waits while the link is not UP -/

/-- While the control link is not UP no frame is sent: those that wait still wait, and more may. -/
def KeepsWaiting (s t : State) : Prop :=
  t.cp.step = s.cp.step ∧ (s.cp.step ≠ 4 → t.cp.unacked = s.cp.unacked ∧ t.cp.txNext = s.cp.txNext ∧ s.cp.queue <+: t.cp.queue)

theorem keepsWaiting_cp {s t : State} (h : t.cp = s.cp) : KeepsWaiting s t := by
  rw [KeepsWaiting, h]
  exact ⟨rfl, fun _ => ⟨rfl, rfl, List.prefix_refl _⟩⟩

theorem pulseErr_cp (s : State) : (pulseErr s).cp = s.cp := by
  unfold pulseErr settleErr setErr
  split <;> rfl

theorem keepsWaiting_closed : ReportClosed KeepsWaiting where
  trans h k := ⟨k.1.trans h.1, fun hs =>
    have h' := h.2 hs
    have k' := k.2 (h.1 ▸ hs)
    ⟨k'.1.trans h'.1, k'.2.1.trans h'.2.1, h'.2.2.trans k'.2.2⟩⟩
  unread _ _ _ _ _ _ _ _ := ⟨rfl, fun _ => ⟨rfl, rfl, List.prefix_refl _⟩⟩
  dropped _ _ _ := keepsWaiting_cp (fadd_cp ..)
  counted s id := by
    unfold countSource
    dsimp only
    split
    · exact keepsWaiting_cp rfl
    · exact keepsWaiting_cp (fadd_cp ..)
  highest _ _ _ := keepsWaiting_cp (fset_cp ..)
  queued _ _ := ⟨rfl, fun _ => ⟨rfl, rfl, List.prefix_append _ _⟩⟩
  pumped s := by
    refine ⟨(pump_reported s).step_eq, fun hs => ?_⟩
    rw [pump_waits (beq_eq_false_iff_ne.2 hs)]
    exact ⟨rfl, rfl, List.prefix_refl _⟩
  pulsed s := keepsWaiting_cp (pulseErr_cp s)

/-! ### The pulse of ERR_N -/

/-- A pulse that has begun goes on, and the pin is low. -/
def KeepsPulse (s t : State) : Prop :=
  s.module.pulse = true → s.module.errLow = true → t.module.pulse = true ∧ t.module.errLow = true

theorem keepsPulse_module {s t : State} (h : t.module = s.module) : KeepsPulse s t := by
  rw [KeepsPulse, h]
  exact fun hp hl => ⟨hp, hl⟩

/-- A pulse drives the pin. -/
theorem pulseErr_module (s : State) : (pulseErr s).module = { s.module with pulse := true, errLow := true } := by
  unfold pulseErr settleErr
  rw [(setErr_frame _ _).1]
  rfl

theorem keepsPulse_closed : ReportClosed KeepsPulse where
  trans h k hp hl := k (h hp hl).1 (h hp hl).2
  unread _ _ _ _ _ _ _ _ := keepsPulse_module rfl
  dropped _ _ _ := keepsPulse_module (fadd_module ..)
  counted s id := by
    unfold countSource
    dsimp only
    split
    · exact keepsPulse_module rfl
    · exact keepsPulse_module (fadd_module ..)
  highest _ _ _ := keepsPulse_module (fset_module ..)
  queued _ _ := keepsPulse_module rfl
  pumped s := keepsPulse_module (by rw [pump_eq])
  pulsed s _ _ := by
    rw [pulseErr_module]
    exact ⟨rfl, rfl⟩

end Sys2Proof.Machine
end

section
/-! SUPPORT. The limits and restarts of the control link, the end of a command's wait, and O29 (R410, R413, R414, R419). -/

namespace Sys2Proof.Machine

section
variable {s : State}

/-! ### Restarts -/

theorem cpRestart_eq (s : State) : cpRestart s = { s with
    cp := { s.cp with step := 1, laneLock := 0, aligned := 0, rxFrames := 0, rxKib := 0, rxNext := 0, placed := false,
                      txNext := 0, queue := s.cp.unacked.map (fun e => e.2.1) ++ s.cp.queue, unacked := [] },
    regs := (fadd s .cpCount s.module.activeKd 0 3 47 0 1).regs } := rfl

theorem cpRestart_keepsSeverity (s : State) : KeepsSeverity s (cpRestart s) :=
  fun id => severityOf_cpCount s (activeDie s) id (by decide)

theorem linkUpLimit_runs (hr : running s = true) (h1 : 1 ≤ s.cp.step) (h4 : s.cp.step < 4) :
    exec .linkUpLimit s = .next (cpRestart s) := by
  show Host.Outcome.next (if _ then _ else _) = _
  rw [if_neg (by omega), if_pos ⟨hr, h4⟩]

theorem linkUpLimit_waits (hr : running s = true) (h0 : s.cp.step = 0) :
    exec .linkUpLimit s = .next { s with cp := { s.cp with step := 1 } } :=
  congrArg Host.Outcome.next (if_pos ⟨hr, h0⟩)

/-! ### Frames that stay unacknowledged -/

theorem resendTimeout_up (hr : running s = true) (h4 : s.cp.step = 4) (hu : s.cp.unacked ≠ []) (long : Bool) :
    exec (.resendTimeout long) s = .next (if long then cpLinkDown s else cpResend s) := by
  have hl : listens s = true := by rw [listens, hr, cpUp, h4]; rfl
  have hno : ¬((!listens s) = true ∨ s.cp.unacked = []) := by
    rw [hl]
    exact fun h => h.elim Bool.false_ne_true hu
  exact congrArg Host.Outcome.next (if_neg hno)

theorem cpLinkDown_up (h : cpUp s = true) : cpLinkDown s = raiseFault (cpRestart s) (srcControlPort (activeDie s) 0) :=
  if_pos h

/-! ### A lane that loses lock -/

theorem lockLoss_runs (hr : running s = true) {lane : Nat} (hl : lane < 4) (h2 : 2 ≤ s.cp.step) :
    exec (.controlLaneLockLoss lane) s = .next (cpLinkDown (raiseFault s (srcControlPort (activeDie s) 1))) := by
  have hunit : atUnit "wavelength lane" 0 4 lane s = .next s := if_pos ⟨Nat.zero_le lane, hl⟩
  have hlose : loseCpLane s = cpLinkDown (raiseFault s (srcControlPort (activeDie s) 1)) := if_neg (Nat.not_lt.2 h2)
  show execControlLaneLockLoss lane s = _
  rw [execControlLaneLockLoss, hunit]
  dsimp only
  rw [if_pos hr, hlose]

/-- After the link has gone down it is at step 1 with nothing unacknowledged. -/
structure LinkStarts (s t : State) : Prop where
  step : t.cp.step = 1
  unacked : t.cp.unacked = []
  rxNext : t.cp.rxNext = 0
  txNext : t.cp.txNext = 0
  remembered : t.cp.remembered = s.cp.remembered
  awaiting : t.cp.awaiting = s.cp.awaiting

theorem cpRestart_linkStarts (s : State) : LinkStarts s (cpRestart s) := ⟨rfl, rfl, rfl, rfl, rfl, rfl⟩

/-- The report of a link that is at step 1 sends nothing. -/
theorem LinkStarts.reported {t u : State} (h : LinkStarts s t) (hr : Reported t u) (hw : KeepsWaiting t u) : LinkStarts s u := by
  obtain ⟨hun, htx, -⟩ := hw.2 (by rw [h.step]; decide)
  exact ⟨hr.step_eq.trans h.step, hun.trans h.unacked, hr.rxNext_eq.trans h.rxNext, htx.trans h.txNext,
    hr.remembered_eq.trans h.remembered, hr.awaiting_eq.trans h.awaiting⟩

theorem cpLinkDown_linkStarts (hsev : severityOf s (srcControlPort (activeDie s) 0) ≤ 2) : LinkStarts s (cpLinkDown s) := by
  unfold cpLinkDown
  dsimp only
  split
  · have hdown : severityOf (cpRestart s) (srcControlPort (activeDie s) 0) ≤ 2 := by rwa [cpRestart_keepsSeverity]
    exact (cpRestart_linkStarts s).reported (raiseFault_reported _ _ hdown) (keepsWaiting_closed.raiseFault _ _ hdown)
  · exact cpRestart_linkStarts s

theorem onlyReports_severity {id : Nat} (h : onlyReports s id = true) : severityOf s id ≤ 2 := of_decide_eq_true h

theorem Reported.activeDie_eq {t : State} (h : Reported s t) : activeDie t = activeDie s := by
  unfold Reported at h
  rw [activeDie, h]
  rfl

theorem lockLoss_linkStarts (hlock : onlyReports s (srcControlPort s.module.activeKd 1) = true)
    (hdown : onlyReports s (srcControlPort s.module.activeKd 0) = true) :
    LinkStarts s (cpLinkDown (raiseFault s (srcControlPort (activeDie s) 1))) := by
  have hsev := onlyReports_severity hlock
  have hrep := raiseFault_reported s (srcControlPort (activeDie s) 1) hsev
  have hkeep := keepsSeverity_closed.raiseFault s (srcControlPort (activeDie s) 1) hsev
  have hstarts := cpLinkDown_linkStarts (s := raiseFault s (srcControlPort (activeDie s) 1)) (by
    rw [hkeep, hrep.activeDie_eq]
    exact onlyReports_severity hdown)
  exact { hstarts with
    remembered := hstarts.remembered.trans hrep.remembered_eq, awaiting := hstarts.awaiting.trans hrep.awaiting_eq }

/-! ### Commands whose steward does not answer (R419) -/

/-- What waits for no steward under a TAG is kept. -/
theorem stewardWaits_filtered (tag : Nat) (l : List Awaiting) :
    stewardWaits tag (l.filter (fun a => (stewardWaits tag [a]).isNone)) = none := by
  rw [stewardWaits, List.findSome?_eq_none_iff]
  intro a ha
  have hnone := (List.mem_filter.1 ha).2
  rw [Option.isNone_iff_eq_none, stewardWaits, List.findSome?_eq_none_iff] at hnone
  exact hnone a (List.mem_singleton_self a)

/-- An answer changes nothing of what waits for a steward. -/
theorem answer_awaiting (s : State) (tag opcode status : Nat) (payload : List Byte) :
    (answer s tag opcode status payload).cp.awaiting = s.cp.awaiting := by
  rw [answer_pump, (pump_reported _).awaiting_eq]
  rfl

theorem commandTimeout_waits (hr : running s = true) {tag opcode : Nat} (hw : stewardWaits tag s.cp.awaiting = some opcode) :
    exec (.commandTimeout tag) s = .next (timeOut s tag opcode) := by
  show execCommandTimeout tag s = _
  rw [execCommandTimeout, hw]
  dsimp only
  rw [if_pos hr]

theorem commandTimeout_free {tag : Nat} (hw : stewardWaits tag s.cp.awaiting = none) : exec (.commandTimeout tag) s = .next s := by
  show execCommandTimeout tag s = _
  rw [execCommandTimeout, hw]

end

/-- Settles O29: the limits restart the link (`cpRestart_eq`), a lost lane takes it down (`lockLoss_linkStarts`), and a command
that waits for a steward is answered. That a restart clears the lock of every lane and LINK_DOWN is raised from UP alone is
the model's reading [62], and TIMEOUT's CHECK 0 is its choice [63]. -/
theorem theControlLinkRestartsAndCommandsTimeOut : Obligations.TheControlLinkRestartsAndCommandsTimeOut := by
  refine ⟨fun s hr => ?link, fun s tag hr => ?command⟩
  case link =>
    intro restarted down lock
    refine ⟨fun h1 h4 => linkUpLimit_runs hr h1 h4, fun h0 => linkUpLimit_waits hr h0, fun h4 hu => ?_, fun h4 hu hn => ?_,
      fun lane hl h2 _ => lockLoss_runs hr hl h2, fun lane hl h2 _ hlock hdown _ => ?_⟩
    · have hup : cpUp s = true := by rw [cpUp, h4]; rfl
      rw [resendTimeout_up hr h4 hu true, if_pos rfl, cpLinkDown_up hup]
      rfl
    · exact ⟨_, resendTimeout_up hr h4 hu false, cpResend_all hn⟩
    · obtain ⟨hstep, hun, hrx, htx, hrem, hawait⟩ := lockLoss_linkStarts hlock hdown
      exact ⟨_, lockLoss_runs hr hl h2, hstep, hun, hrx, htx, hrem, hawait⟩
  case command =>
    refine ⟨fun opcode hw => ⟨_, rfl, ?_, ?_, answer_frame .., answer_eq ..⟩, fun hw => commandTimeout_free hw⟩
    · rw [commandTimeout_waits hr hw]
      rfl
    · rw [answer_awaiting]
      exact stewardWaits_filtered tag s.cp.awaiting

end Sys2Proof.Machine
end

section
/-! SUPPORT. The standby control die takes over (R434, R495, R496), and watchdogs, O31 (R494, R495, R504). -/

namespace Sys2Proof.Machine

/-! ### Reports that note records of the die cycle -/

/-- A report within a die cycle: it may note records to be stored at the cycle's end. -/
def ReportedInCycle (s t : State) : Prop := Reported { s with raised := t.raised } t

theorem reportedInCycle_raised {s t : State} (h : ReportedInCycle s t) (l : List FaultRec) :
    Reported { s with raised := l } { t with raised := l } := reported_raised h l

theorem Reported.inCycle {s t : State} (h : Reported s t) : ReportedInCycle s t := by
  have hr : t.raised = s.raised := by
    unfold Reported at h
    rw [h]
  rw [ReportedInCycle, hr]
  exact h

theorem reportedInCycle_closed : ReportClosed ReportedInCycle where
  trans h k := (reportedInCycle_raised h _).trans k
  unread _ _ _ _ _ _ _ _ := rfl
  dropped _ _ _ := (fadd_reported ..).inCycle
  counted _ _ := (countSource_reported ..).inCycle
  highest _ _ _ := (fset_reported ..).inCycle
  queued _ _ := (queued_reported ..).inCycle
  pumped s := (pump_reported s).inCycle
  pulsed s := (pulseErr_reported s).inCycle

/-! ### The takeover -/

section
variable {s : State}

/-- The standby becomes the active die: the control link starts again, and the other control die is contained. -/
def handsOver (s : State) : State :=
  let s' := modModule (cpRestart s) (fun m => { m with
    activeKd := 61 - s.module.activeKd, standby := 1, errHeld := false, failovers := satAdd 32 m.failovers 1 })
  let s' := { s' with episodes := s'.episodes.filter (fun e => 2 ≤ e) }
  let s' := modDie (modDie s' s.module.activeKd (fun d => { d with contained := true })) (61 - s.module.activeKd)
    (fun d => { d with contained := false })
  modSec (newNonce s') (fun c => { c with zeroising := false })

/-- The reports of a takeover. -/
def takeoverReports (s : State) (old new n : Nat) : State :=
  sendEventW (pulseErr (noteRecord (countSource s (srcDistaff new 2)) (srcDistaff new 2) 4 4 false (unitAddr old 0 0) [])) new 10
    [new, n]

theorem failover_eq (raise : Raise) (s : State) : failover raise s =
    takeoverReports (answerLost (endSession raise (handsOver s))) s.module.activeKd (61 - s.module.activeKd) (awaitingCount s) := by
  unfold failover takeoverReports handsOver
  rfl

theorem handsOver_eq (s : State) : handsOver s = { s with
    cp := (cpRestart s).cp, regs := (cpRestart s).regs, freeCtr := s.freeCtr + 1, dies := (handsOver s).dies,
    module := { s.module with activeKd := 61 - s.module.activeKd, standby := 1, errHeld := false,
                              failovers := satAdd 32 s.module.failovers 1 },
    episodes := s.episodes.filter (fun e => 2 ≤ e),
    sec := { s.sec with nonce := padTo 32 (Config.noise s.freeCtr), zeroising := false } } := by
  unfold handsOver
  generalize hr : cpRestart s = t
  have ht : t = { s with cp := t.cp, regs := t.regs } := by
    rw [← hr, cpRestart_eq]
  rw [ht]
  rfl

/-- The state once the debug session is gone, before the event of its end. -/
def sessionGone (s : State) : State :=
  { handsOver s with
    sec := { (handsOver s).sec with session := none },
    spindles := if s.sec.session.isSome then (releaseHolds s).spindles else s.spindles }

theorem handsOver_keepsSeverity (s : State) : KeepsSeverity s (handsOver s) := fun id =>
  (severityOf_regs (s := cpRestart s) (by rw [handsOver_eq]) id).trans (cpRestart_keepsSeverity s id)

/-- A session below D3 ends: its holds are released, and its event is raised. -/
theorem endSession_below (raise : Raise) {w : State} {ses : Session} (hw : w.sec.session = some ses) (hl : ses.level ≠ 3) :
    endSession raise w = raise { w with sec := { w.sec with session := none }, spindles := (releaseHolds w).spindles }
      (srcSecurity (activeDie w) 0) := by
  rw [endSession, hw]
  dsimp only
  rw [if_neg (fun h => hl h.1)]
  rfl

/-- The end of a session below D3 is a report. -/
theorem endSession_reports {R : State → State → Prop} (h : ReportClosed R)
    (hses : s.sec.session.isSome = true → severityOf s (srcSecurity (61 - s.module.activeKd) 0) ≤ 2 ∧ debugLevel s < 3) :
    R (sessionGone s) (endSession raiseWith (handsOver s)) := by
  cases hs : s.sec.session with
  | none =>
    have hend : endSession raiseWith (handsOver s) = handsOver s := by
      rw [endSession, show (handsOver s).sec.session = none from hs]
    have hgone : sessionGone s = handsOver s := by
      have hsp : (handsOver s).spindles = s.spindles := by rw [handsOver_eq]
      have hsec : ({ (handsOver s).sec with session := none } : Security) = (handsOver s).sec := by
        rw [← show (handsOver s).sec.session = none by rw [handsOver_eq]; exact hs]
      rw [sessionGone, hsec, if_neg (by rw [hs]; exact Bool.false_ne_true), ← hsp]
    rw [hend, hgone]
    exact h.refl _
  | some ses =>
    obtain ⟨hsev, hlev⟩ := hses (by rw [hs]; rfl)
    have hlev' : ses.level ≠ 3 := fun hl => by
      rw [debugLevel, hs, Option.map_some, Option.getD_some, hl] at hlev
      exact lt_irrefl _ hlev
    have hsome : (handsOver s).sec.session = some ses := by rw [handsOver_eq]; exact hs
    have hkd : activeDie (handsOver s) = 61 - s.module.activeKd := by rw [activeDie, handsOver_eq]
    have hsp : (releaseHolds (handsOver s)).spindles = (releaseHolds s).spindles := by rw [handsOver_eq]; rfl
    have hend : endSession raiseWith (handsOver s) = raiseN 4 (sessionGone s) (srcSecurity (61 - s.module.activeKd) 0) false [] := by
      rw [endSession_below raiseWith hsome hlev', hkd, hsp, sessionGone, if_pos (by rw [hs]; rfl), raiseWith]
    rw [hend]
    refine h.raiseN _ _ _ _ _ ?_
    have hregs : severityOf (sessionGone s) (srcSecurity (61 - s.module.activeKd) 0)
        = severityOf (handsOver s) (srcSecurity (61 - s.module.activeKd) 0) :=
      severityOf_regs (by rw [sessionGone]) _
    rw [hregs, handsOver_keepsSeverity]
    exact hsev

/-! ### Commands that had no answer (R434) -/

/-- The RESPONSE to a command that the takeover leaves without an answer. -/
def lostFrame (r : Remembered) : CpMsg :=
  { type := 2, tag := BitVec.ofNat 32 r.tag, opcode := BitVec.ofNat 16 r.opcode, status := 6, payload := failWord 8 0xFFFF 0 }

/-- Answers given while the link is not UP wait in their order. -/
theorem foldl_answer_waits (l : List Remembered) (h : s.cp.step ≠ 4) :
    ∃ r, l.foldl (fun s r => answer s r.tag r.opcode stFaulted (failWord 8 0xFFFF 0)) s
      = { s with cp := { s.cp with remembered := r, queue := s.cp.queue ++ l.map lostFrame } } := by
  induction l generalizing s with
  | nil =>
    refine ⟨s.cp.remembered, ?_⟩
    rw [List.map_nil, List.append_nil]
    rfl
  | cons r l ih =>
    have hone : answer s r.tag r.opcode stFaulted (failWord 8 0xFFFF 0) = answering s r.tag r.opcode stFaulted (failWord 8 0xFFFF 0) := by
      rw [answer_pump]
      exact pump_waits (beq_eq_false_iff_ne.2 h)
    obtain ⟨m, hm⟩ := ih (s := answering s r.tag r.opcode stFaulted (failWord 8 0xFFFF 0)) h
    refine ⟨m, ?_⟩
    rw [List.foldl_cons, hone, hm, List.map_cons, List.append_cons]
    rfl

theorem answerLost_waits (h : s.cp.step ≠ 4) : ∃ r, answerLost s = { s with cp := { s.cp with
    awaiting := [], remembered := r, queue := s.cp.queue ++ (s.cp.remembered.filter (fun r => r.done == none)).map lostFrame } } :=
  foldl_answer_waits (s := modCp s (fun c => { c with awaiting := [] })) _ h

/-! ### What the takeover leaves (R496) -/

/-- A takeover's reports, at the end of its die cycle. -/
def takeoverEnds (s : State) (old new n : Nat) : State := storeRaised (takeoverReports s old new n)

theorem takeoverEnds_closed {R : State → State → Prop} (h : ReportClosed R) (s : State) (old new n : Nat) :
    R s (takeoverEnds s old new n) := by
  unfold takeoverEnds takeoverReports sendEventW storeRaised
  exact h.trans (h.counted _ _) (h.trans (h.noteRecord _ _ _ _ _ _ _) (h.trans (h.pulsed _) (h.trans (h.sendEvent _ _ _ _)
    (h.storeRecords _ _))))

/-- They drive ERR_N. -/
theorem takeoverEnds_pulses (s : State) (old new n : Nat) :
    (takeoverEnds s old new n).module.pulse = true ∧ (takeoverEnds s old new n).module.errLow = true := by
  unfold takeoverEnds takeoverReports sendEventW storeRaised
  refine keepsPulse_closed.trans (keepsPulse_closed.sendEvent _ new 10 _) (keepsPulse_closed.storeRecords _ _) ?_ ?_
  · rw [pulseErr_module]
  · rw [pulseErr_module]

/-- What neither a report nor a takeover changes. -/
def TakenOver (s t : State) : Prop :=
  t = { s with module := t.module, sec := t.sec, cp := t.cp, out := t.out, dies := t.dies, regs := t.regs, freeCtr := t.freeCtr,
               records := t.records, nextRecord := t.nextRecord, windows := t.windows, raised := t.raised,
               episodes := t.episodes, spindles := t.spindles }

theorem TakenOver.trans {s t u : State} (h : TakenOver s t) (k : TakenOver t u) : TakenOver s u := by
  unfold TakenOver at *
  rw [k, h]

namespace ReportedInCycle
variable {t : State} (h : ReportedInCycle s t)
include h

theorem takenOver : TakenOver s t := by
  unfold ReportedInCycle Reported at h
  unfold TakenOver
  rw [h]

theorem module_eq : t.module = { s.module with pulse := t.module.pulse, errLow := t.module.errLow } := by
  unfold ReportedInCycle Reported at h
  exact congrArg State.module h

theorem sec_eq : t.sec = s.sec := by
  unfold ReportedInCycle Reported at h
  rw [h]

theorem awaiting_eq : t.cp.awaiting = s.cp.awaiting := by
  unfold ReportedInCycle Reported at h
  exact congrArg (fun x => x.cp.awaiting) h

theorem remembered_eq : t.cp.remembered = s.cp.remembered := by
  unfold ReportedInCycle Reported at h
  exact congrArg (fun x => x.cp.remembered) h

theorem episodes_eq : t.episodes = s.episodes := by
  unfold ReportedInCycle Reported at h
  rw [h]

theorem spindles_eq : t.spindles = s.spindles := by
  unfold ReportedInCycle Reported at h
  rw [h]

end ReportedInCycle

theorem sessionGone_takenOver (s : State) : TakenOver s (sessionGone s) := by
  unfold TakenOver sessionGone
  rw [handsOver_eq]

/-- What the takeover sets before it reports. -/
theorem sessionGone_parts (s : State) :
    let v := sessionGone { s with raised := [] }
    v.module = { s.module with activeKd := 61 - s.module.activeKd, standby := 1, errHeld := false,
                               failovers := satAdd 32 s.module.failovers 1 } ∧
      v.sec = { s.sec with session := none, zeroising := false, nonce := padTo 32 (Config.noise s.freeCtr) } ∧
      v.cp.step = 1 ∧ v.cp.awaiting = s.cp.awaiting ∧ v.cp.remembered = s.cp.remembered ∧
      v.episodes = s.episodes.filter (fun e => 2 ≤ e) ∧
      v.spindles = if s.sec.session.isSome then (releaseHolds s).spindles else s.spindles := by
  intro v
  have hv : v = sessionGone { s with raised := [] } := rfl
  rw [hv, sessionGone, handsOver_eq]
  exact ⟨rfl, rfl, rfl, rfl, rfl, rfl, rfl⟩

/-- The standby takes over, where the end of a session is a report. -/
theorem failover_failedOver
    (hses : s.sec.session.isSome = true → severityOf s (srcSecurity (61 - s.module.activeKd) 0) ≤ 2 ∧ debugLevel s < 3) :
    FailedOver s (oneCycle (failover raiseWith) s) := by
  have he := endSession_reports (s := { s with raised := [] }) reportedInCycle_closed hses
  have hwe := endSession_reports (s := { s with raised := [] }) keepsWaiting_closed hses
  have hgone := sessionGone_takenOver { s with raised := [] }
  obtain ⟨hmod, hsec, hstep, hawait, hrem, hepi, hsp⟩ := sessionGone_parts s
  generalize sessionGone { s with raised := [] } = v at he hwe hgone hmod hsec hstep hawait hrem hepi hsp
  have hdown : v.cp.step ≠ 4 := by rw [hstep]; decide
  rw [oneCycle, failover_eq]
  generalize endSession raiseWith (handsOver { s with raised := [] }) = e at he hwe
  obtain ⟨m, ha⟩ := answerLost_waits (s := e) (by rw [hwe.1]; exact hdown)
  have ht := takeoverEnds_closed reportedInCycle_closed (answerLost e) s.module.activeKd (61 - s.module.activeKd) (awaitingCount s)
  have hwt := takeoverEnds_closed keepsWaiting_closed (answerLost e) s.module.activeKd (61 - s.module.activeKd) (awaitingCount s)
  obtain ⟨hpulse, hlow⟩ := takeoverEnds_pulses (answerLost e) s.module.activeKd (61 - s.module.activeKd) (awaitingCount s)
  show FailedOver s { takeoverEnds (answerLost e) s.module.activeKd (61 - s.module.activeKd) (awaitingCount s) with raised := s.raised }
  generalize takeoverEnds (answerLost e) s.module.activeKd (61 - s.module.activeKd) (awaitingCount s) = t at ht hwt hpulse hlow
  rw [ha] at ht hwt
  have hmodule : t.module = { v.module with pulse := true, errLow := true } := by
    rw [ht.module_eq, hpulse, hlow, he.module_eq]
  have hframe : TakenOver { s with raised := [] } t :=
    hgone.trans (he.takenOver.trans (TakenOver.trans (t := answerLost e) (by rw [ha]; rfl) (by rw [ha]; exact ht.takenOver)))
  refine ⟨hmodule.trans (by rw [hmod]), ht.sec_eq.trans (he.sec_eq.trans hsec), ⟨hwt.1.trans (hwe.1.trans hstep), ht.awaiting_eq⟩,
    fun r hr hopen => ?_, ?_⟩
  · refine (hwt.2 (by rw [hwe.1]; exact hdown)).2.2.subset (List.mem_append_right _ (List.mem_map.2 ⟨r, List.mem_filter.2 ⟨?_, ?_⟩, rfl⟩))
    · rw [he.remembered_eq, hrem]
      exact hr
    · rw [hopen]
      rfl
  · rw [← hepi, ← hsp, ← he.episodes_eq, ← he.spindles_eq]
    rw [show e.episodes = t.episodes from ht.episodes_eq.symm, show e.spindles = t.spindles from ht.spindles_eq.symm]
    unfold TakenOver at hframe
    exact congrArg (fun x : State => { x with raised := s.raised }) hframe

end

/-! ### Watchdogs -/

section
variable {s : State} (hrun : running s = true)
include hrun

theorem engineWatchdog_runs {die slot engine : Nat} (hlo : 10 ≤ die) (hhi : die < 26) (hslot : slot < 17) (he : engine < 4) :
    exec (.engineQueueWatchdog die slot engine) s = .next (engineExpires s (32 * die + slot) engine) := by
  have hat : atEngine die slot engine s = .next s := if_pos ⟨hlo, hhi, hslot, he⟩
  show execEngineQueueWatchdog die slot engine s = _
  rw [execEngineQueueWatchdog, hat]
  dsimp only
  rw [if_pos hrun]
  rfl

theorem stewardWatchdog_runs {die : Nat} (hd : die < 32) : exec (.stewardWatchdog die) s = .next (stewardExpires s die) := by
  have hat : atUnit "steward" 0 32 die s = .next s := if_pos ⟨Nat.zero_le die, by omega⟩
  show execStewardWatchdog die s = _
  rw [execStewardWatchdog, hat]
  dsimp only
  rw [if_pos hrun]

theorem distaffWatchdog_runs {die : Nat} (hlo : 30 ≤ die) (hhi : die < 32) (mirror : Bool) : exec (.distaffWatchdog die mirror) s =
    .next (if mirror then (if die = activeDie s then activeLost s else s) else distaffExpires s die) := by
  have hat : atUnit "control die" 30 2 die s = .next s := if_pos ⟨hlo, by omega⟩
  show execDistaffWatchdog die mirror s = _
  rw [execDistaffWatchdog, hat]
  dsimp only
  rw [hrun]
  rfl

end

section
variable {s : State}

theorem engineExpires_counts {key i : Nat} (hc : watchdogCounts (getEng s key i) = true) (hr : (getEng s key i).wdRaised = false)
    (hk : engineClocked s key = true) (hl : eget s .watchdogCtrl key i 0 31 0 ≠ 0) :
    engineExpires s key i =
      let u := eadd (setEng s key i { getEng s key i with wdRaised := true }) .watchdogStatus key i 0 63 32 1
      raiseDetail u (srcEngine key i 2) [word (engineStatusWord (getEng u key i)),
        word (eget u .watchdogStatus key i 0 63 32 * 2 ^ 32 + eget u .watchdogCtrl key i 0 31 0)] := by
  have hr' : (!(getEng s key i).wdRaised) = true := by rw [hr]; rfl
  exact if_pos ⟨hc, hr', hk, hl⟩

theorem engineExpires_not {key i : Nat} (h : watchdogCounts (getEng s key i) = false ∨ (getEng s key i).wdRaised = true ∨
    engineClocked s key = false ∨ eget s .watchdogCtrl key i 0 31 0 = 0) : engineExpires s key i = s := by
  refine if_neg ?_
  rintro ⟨hc, hr, hk, hl⟩
  rw [Bool.not_eq_true'] at hr
  rcases h with h | h | h | h
  · exact Bool.false_ne_true (h.symm.trans hc)
  · exact Bool.false_ne_true (hr.symm.trans h)
  · exact Bool.false_ne_true (h.symm.trans hk)
  · exact hl h

theorem stewardExpires_once {die : Nat} (hp : (getDie s die).powered = true) (hh : (getDie s die).hung = false) :
    stewardExpires s die = raiseFault { s with dies := mapPut s.dies Die.init die { getDie s die with hung := true } }
      (srcSteward die 0) := by
  have hh' : (!(getDie s die).hung) = true := by rw [hh]; rfl
  exact if_pos ⟨hp, hh'⟩

theorem stewardExpires_not {die : Nat} (h : (getDie s die).powered = false ∨ (getDie s die).hung = true) :
    stewardExpires s die = s := by
  refine if_neg ?_
  rintro ⟨hp, hh⟩
  rw [Bool.not_eq_true'] at hh
  rcases h with h | h
  · exact Bool.false_ne_true (h.symm.trans hp)
  · exact Bool.false_ne_true (hh.symm.trans h)

/-! ### The Distaff of a control die (R495) -/

theorem activeLost_mirrored (h : s.module.standby = 2) : activeLost s = oneCycle (failover raiseWith) s := if_pos h

/-- With no MIRRORED standby ERR_N is held low. -/
theorem activeLost_held (h : s.module.standby ≠ 2) :
    activeLost s = { s with module := { s.module with errHeld := true, errLow := true }, out := (activeLost s).out } := by
  have hlost : activeLost s = setErr (modModule s (fun m => { m with errHeld := true })) true := by
    rw [activeLost, if_neg h, settleErr]
    simp [modModule]
  rw [hlost]
  exact (setErr_frame _ true).1

theorem distaffExpires_again {die : Nat} (h : s.episodes.contains (die - 30) = true) : distaffExpires s die = s := if_pos h

theorem distaffExpires_first {die : Nat} (h : s.episodes.contains (die - 30) = false) : distaffExpires s die =
    let t := raiseFault { s with episodes := insNat s.episodes (die - 30) } (srcDistaff die 0)
    if die == activeDie s && die == activeDie t then activeLost t else t := if_neg (ne_true_of_eq_false h)

theorem distaffExpires_standby {die : Nat} (h : s.episodes.contains (die - 30) = false) (hne : die ≠ activeDie s) :
    distaffExpires s die = raiseFault { s with episodes := insNat s.episodes (die - 30) } (srcDistaff die 0) := by
  rw [distaffExpires_first h, beq_eq_false_iff_ne.2 hne]
  rfl

/-- A die that is still active after its event is lost. -/
theorem distaffExpires_active {die : Nat} (h : s.episodes.contains (die - 30) = false) (heq : die = activeDie s)
    (hrep : severityOf s (srcDistaff die 0) ≤ 2) : distaffExpires s die =
    activeLost (raiseFault { s with episodes := insNat s.episodes (die - 30) } (srcDistaff die 0)) := by
  have hact := (raiseFault_reported { s with episodes := insNat s.episodes (die - 30) } (srcDistaff die 0) hrep).activeDie_eq
  rw [distaffExpires_first h]
  dsimp only
  rw [hact, heq]
  exact if_pos (by simp [activeDie])

/-- The report of the expiry leaves the standby and the session as they are. -/
theorem expiry_failsOver {die : Nat} (hrep : severityOf s (srcDistaff die 0) ≤ 2) (hst : s.module.standby = 2)
    (hses : s.sec.session.isSome = true → severityOf s (srcSecurity (61 - s.module.activeKd) 0) ≤ 2 ∧ debugLevel s < 3) :
    let x := raiseFault { s with episodes := insNat s.episodes (die - 30) } (srcDistaff die 0)
    FailedOver x (activeLost x) := by
  intro x
  have hx : ReportedInCycle { s with episodes := insNat s.episodes (die - 30) } x :=
    (raiseFault_reported { s with episodes := insNat s.episodes (die - 30) } (srcDistaff die 0) hrep).inCycle
  have hsev : KeepsSeverity { s with episodes := insNat s.episodes (die - 30) } x :=
    keepsSeverity_closed.raiseFault { s with episodes := insNat s.episodes (die - 30) } (srcDistaff die 0) hrep
  have hmod := hx.module_eq
  have hsec : x.sec = s.sec := hx.sec_eq
  rw [activeLost_mirrored (by rw [hmod]; exact hst)]
  refine failover_failedOver fun hsome => ?_
  rw [hsec] at hsome
  rw [hsev, debugLevel, hsec, hmod]
  exact hses hsome

end

/-- Settles O31: each watchdog raises its event once in an episode, and the loss of the active die is a takeover
(`failover_failedOver`) or holds ERR_N. That lost mirror traffic raises no event of its own [63] and that a steward then does
not answer [16] is the model's reading. -/
theorem watchdogsExpireOncePerEpisode : Obligations.WatchdogsExpireOncePerEpisode := by
  intro s hrun
  refine ⟨fun die slot engine hlo hhi hslot he => ?engine, fun die hd => ?steward, fun die hlo hhi => ?distaff⟩
  case engine =>
    intro key e u
    rw [engineWatchdog_runs hrun hlo hhi hslot he]
    exact ⟨fun hc hr hk hl => congrArg _ (engineExpires_counts hc hr hk hl), fun h => congrArg _ (engineExpires_not h)⟩
  case steward =>
    rw [stewardWatchdog_runs hrun hd]
    exact ⟨fun hp hh => congrArg _ (stewardExpires_once hp hh), fun h => congrArg _ (stewardExpires_not h)⟩
  case distaff =>
    have hfalse : exec (.distaffWatchdog die false) s = .next (distaffExpires s die) := distaffWatchdog_runs hrun hlo hhi false
    have hlost (heq : die = activeDie s) : exec (.distaffWatchdog die true) s = .next (activeLost s) := by
      rw [distaffWatchdog_runs hrun hlo hhi true, if_pos rfl, if_pos heq]
    refine ⟨fun h => ?_, fun h hne => ?_, fun heq => ⟨fun hst hses => ?_, fun hst => ⟨_, hlost heq, activeLost_held hst⟩⟩⟩
    · rw [hfalse, distaffExpires_again h]
    · rw [hfalse, distaffExpires_standby h hne]
    · have hend : s.sec.session.isSome = true → severityOf s (srcSecurity (61 - s.module.activeKd) 0) ≤ 2 ∧ debugLevel s < 3 := by
        intro hsome
        obtain ⟨hrep, -, hlev⟩ := hses hsome
        rw [heq] at hrep
        exact ⟨onlyReports_severity hrep, hlev⟩
      refine ⟨⟨_, hlost heq, ?_⟩, fun h hrep _ => ⟨_, ?_, expiry_failsOver (onlyReports_severity hrep) hst hend⟩⟩
      · rw [activeLost_mirrored hst]
        exact failover_failedOver hend
      · rw [hfalse, distaffExpires_active h heq (onlyReports_severity hrep)]

end Sys2Proof.Machine
end

section
/-! SUPPORT. Reports that pulse ERR_N (R433, R491): an event dropped, or an unread record overwritten, whose own source has a
severity above NOTIFY. By them O19, O23, O30 and O33 fail. -/

namespace Sys2Proof.Machine

/-! ### Events dropped, and records overwritten -/

section
variable {s : State}

/-- A pulse of ERR_N has begun, and drives the pin. -/
def Pulses (s : State) : Prop := s.module.pulse = true ∧ s.module.errLow = true

theorem pulses_unless {t : State} {sev : Nat} (h : 2 < sev) : Pulses (if sev ≤ 2 then t else pulseErr t) := by
  rw [if_neg (Nat.not_le.2 h), Pulses, pulseErr_module]
  exact ⟨rfl, rfl⟩

/-- An event that finds no room pulses ERR_N, where EVENTS_DROPPED is above NOTIFY. -/
theorem sendEvent_drops {die ty : Nat} {body : List Byte} (hty : ty ≠ 2) (hfull : 8 * 2 ^ 20 < eventBytes s.cp)
    (hsev : 2 < severityOf s (srcDistaff (activeDie s) 3)) : Pulses (sendEvent s die ty body) := by
  have hdrop (u : State) (q : BitVec 32) (hu : 2 < severityOf u (srcDistaff (activeDie u) 3)) :
      Pulses (dropEvent u die q) := by
    have hkeep := keepsSeverity_closed.trans (keepsSeverity_closed.noteDropped u die q)
      (keepsSeverity_closed.counted _ (srcDistaff (activeDie u) 3)) (srcDistaff (activeDie u) 3)
    exact pulses_unless (Nat.lt_of_lt_of_eq hu hkeep.symm)
  unfold sendEvent
  dsimp only
  rw [if_neg (fun h => hty h.1), if_pos]
  · exact hdrop _ _ hsev
  · exact Nat.lt_of_lt_of_le hfull (Nat.le_add_right (eventBytes s.cp) _)

theorem sendBringup_drops {phase st detail : Nat} (hfull : 8 * 2 ^ 20 < eventBytes s.cp)
    (hsev : 2 < severityOf s (srcDistaff (activeDie s) 3)) : Pulses (sendBringup s phase st detail) :=
  sendEvent_drops (by decide) hfull hsev

/-- STORE_OVERWRITE above NOTIFY pulses ERR_N. -/
theorem storeOverwritten_pulses (hsev : 2 < severityOf s (srcCollector (activeDie s) 0)) :
    Pulses (storeOverwritten s) := by
  unfold storeOverwritten
  refine pulses_unless ?_
  rw [severityOf_countSource]
  exact hsev

/-- A record that takes the place of an unread one. -/
theorem keepRecord_overwrites {r : FaultRec} (hfull : 4096 ≤ s.records.length) (hunread : s.readUpTo ≤ oldestRecord s)
    (hsev : 2 < severityOf s (srcCollector (activeDie s) 0)) : Pulses (keepRecord s r) := by
  have hcut : (putRecord s r).1 = true := by
    rw [putRecord]
    simp only [hfull, hunread, decide_true, Bool.and_self]
  unfold keepRecord
  dsimp only
  rw [if_pos hcut]
  have hrep := (putRecord_reported s r).trans (sendEvent_reported (putRecord s r).2.2 ((putRecord s r).2.1.source / 2048) 3
    (wordsBytes (recordWords (putRecord s r).2.1)))
  have hkeep := keepsSeverity_closed.trans (keepsSeverity_closed.putRecord s r) (keepsSeverity_closed.sendEvent
    (putRecord s r).2.2 ((putRecord s r).2.1.source / 2048) 3 (wordsBytes (recordWords (putRecord s r).2.1)))
  refine storeOverwritten_pulses ?_
  rw [hkeep, hrep.activeDie_eq]
  exact hsev

theorem storeRecord_overwrites {r : FaultRec} (hnew : mapFind s.windows r.source = none) (hfull : 4096 ≤ s.records.length)
    (hunread : s.readUpTo ≤ oldestRecord s) (hsev : 2 < severityOf s (srcCollector (activeDie s) 0)) :
    Pulses (storeRecord s r) := by
  rw [storeRecord, hnew]
  exact keepRecord_overwrites (s := openWindow s r.source) hfull hunread hsev

theorem record_overwrites {id sev action addr : Nat} {inj : Bool} {detail : List Word} (hnew : mapFind s.windows id = none)
    (hfull : 4096 ≤ s.records.length) (hunread : s.readUpTo ≤ oldestRecord s)
    (hsev : 2 < severityOf s (srcCollector (activeDie s) 0)) : Pulses (record s id sev action inj addr detail) :=
  storeRecord_overwrites (s := (formRecord s id sev action inj addr detail).2) hnew hfull hunread hsev

/-- The record of an event of severity NOTIFY takes the place of an unread one. -/
theorem raiseFault_overwrites {id : Nat} (hnotify : severityOf s id = 2) (hnew : mapFind s.windows id = none)
    (hfull : 4096 ≤ s.records.length) (hunread : s.readUpTo ≤ oldestRecord s)
    (hsev : 2 < severityOf s (srcCollector (activeDie s) 0)) : Pulses (raiseFault s id) := by
  have hcounted : countSource { s with raised := [] } id = { s with raised := [], regs := (countSource { s with raised := [] } id).regs } := by
    unfold countSource
    dsimp only
    split <;> rfl
  have hkeep := countSource_keepsSeverity { s with raised := [] } id
  have hnotify' : severityOf { s with raised := [] } id = 2 := hnotify
  have hraise : raiseN 4 { s with raised := [] } id false [] = noteRecord (countSource { s with raised := [] } id) id 2 0 false
      (sourceUnit id) (autoDetail (countSource { s with raised := [] } id) id []) := by
    rw [raiseN]
    dsimp only
    rw [hnotify', if_neg (by decide), if_pos (.inl rfl)]
  show Pulses (storeRaised (raiseN 4 { s with raised := [] } id false []))
  rw [hraise]
  generalize autoDetail (countSource { s with raised := [] } id) id [] = detail
  generalize countSource { s with raised := [] } id = c at hcounted hkeep
  rw [hcounted] at hkeep ⊢
  exact storeRecord_overwrites (s := (noteRecord { s with raised := [], regs := c.regs } id 2 0 false (sourceUnit id) detail))
    hnew hfull hunread (Nat.lt_of_lt_of_eq hsev (hkeep _).symm)

end

/-! ### A full store whose record numbers have wrapped -/

/-- A record of source 0. -/
def someRecord : FaultRec :=
  { severity := 2, injected := false, action := 0, source := 0, seq := 0, address := 0, suppressed := 0, cycle := 0, detail := [] }

/-- The fault store is full, RECORD_SEQ stands at 0 again with nothing read, STORE_OVERWRITE of die 30 has severity 3, and a D1
session is open. -/
def wrappedStore : State :=
  { State.reset with
    records := List.replicate 4096 someRecord,
    regs := [(regAddr .faultSource 30 0 88, 3)],
    sec := { Security.init with session := some { level := 1, dies := 0, lifetime := none } } }

theorem wrappedStore_full : 4096 ≤ wrappedStore.records.length := by
  rw [wrappedStore, List.length_replicate]

theorem wrappedStore_recordRoom : recordRoom wrappedStore 1 = true := by
  have hread : decide (wrappedStore.nextRecord.toNat ≤ wrappedStore.readUpTo) = true := rfl
  rw [recordRoom, hread, Bool.or_true, Bool.true_or]

theorem wrappedStore_new : mapFind wrappedStore.windows 0 = none := rfl

theorem wrappedStore_unread : wrappedStore.readUpTo ≤ oldestRecord wrappedStore := Nat.zero_le _

theorem wrappedStore_severity : 2 < severityOf wrappedStore (srcCollector (activeDie wrappedStore) 0) := by decide

/-- Refutes O30: in `wrappedStore` the room for a record is granted because RECORD_SEQ 0 is no more than what was read, and the
record still takes the place of an unread one, whose event pulses ERR_N. -/
theorem not_eventsActBySeverity : ¬ Obligations.EventsActBySeverity := by
  unfold Obligations.EventsActBySeverity
  intro h
  obtain ⟨-, -, -, -, hfirst, -⟩ := h.1 wrappedStore 0 []
  obtain ⟨-, -, -, hframe⟩ := hfirst 0 false 0 rfl (by decide) wrappedStore_recordRoom
  generalize fget wrappedStore .faultSource (0 / 2048) 0 (0 % 2048) 2 0 = sev at hframe
  have hpulse : (record wrappedStore 0 sev 0 false 0 []).module.pulse = true :=
    (record_overwrites wrappedStore_new wrappedStore_full wrappedStore_unread wrappedStore_severity).1
  rw [hframe] at hpulse
  exact Bool.false_ne_true hpulse

/-! ### Unpowering the 30 dies -/

/-- The record store, its milliseconds and the module are as they were. -/
structure StoreKept (s t : State) : Prop where
  records : t.records = s.records
  nextRecord : t.nextRecord = s.nextRecord
  readUpTo : t.readUpTo = s.readUpTo
  windows : t.windows = s.windows
  module : t.module = s.module

theorem StoreKept.trans {s t u : State} (h : StoreKept s t) (k : StoreKept t u) : StoreKept s u :=
  ⟨k.records.trans h.records, k.nextRecord.trans h.nextRecord, k.readUpTo.trans h.readUpTo, k.windows.trans h.windows,
    k.module.trans h.module⟩

theorem foldl_storeKept {f : State → Nat → State} (hf : ∀ s d, StoreKept s (f s d)) (l : List Nat) (s : State) :
    StoreKept s (l.foldl f s) := by
  induction l generalizing s with
  | nil => exact ⟨rfl, rfl, rfl, rfl, rfl⟩
  | cons d l ih => exact (hf s d).trans (ih _)

theorem resetDie_storeKept (s : State) (d : Nat) : StoreKept s (resetDie s d) := by
  unfold resetDie
  dsimp only
  split <;> split <;> split <;> exact ⟨rfl, rfl, rfl, rfl, rfl⟩

theorem unpowerData_storeKept (s : State) : StoreKept s (unpowerData s) := by
  have hoff (s : State) (d : Nat) : StoreKept s (modDie s d (fun x => { x with powered := false })) := ⟨rfl, rfl, rfl, rfl, rfl⟩
  have hlost (s : State) : StoreKept s (loseErg (loseWork s)) := ⟨rfl, rfl, rfl, rfl, rfl⟩
  unfold unpowerData
  exact ((foldl_storeKept resetDie_storeKept dataDies s).trans (foldl_storeKept hoff dataDies _)).trans (hlost _)

/-- The state with the debug session gone and every debug hold released. -/
def holdsReleased (s : State) : State :=
  { s with
    sec := { s.sec with session := none },
    spindles := mapAll s.spindles Spindle.init (fun _ sp => { sp with
      engines := mapAll sp.engines Engine.init (fun _ e => releaseHold e) }) }

/-- The state after the end of a D3 session, before its event. -/
def sessionEnded (s : State) : State :=
  modModule (unpowerData (holdsReleased s)) (fun m => { m with state := 1, before := [], reboot := none })

/-- The registers of die 30 are kept. -/
theorem sessionEnded_regs : (sessionEnded wrappedStore).regs = wrappedStore.regs := by decide

theorem sessionEnded_kept (s : State) : (sessionEnded s).records = s.records ∧ (sessionEnded s).nextRecord = s.nextRecord ∧
    (sessionEnded s).readUpTo = s.readUpTo ∧ (sessionEnded s).windows = s.windows ∧ activeDie (sessionEnded s) = activeDie s := by
  obtain ⟨hrec, hnext, hread, hwin, hmod⟩ := unpowerData_storeKept (holdsReleased s)
  have hkd : (unpowerData (holdsReleased s)).module.activeKd = s.module.activeKd := by rw [hmod]; rfl
  unfold sessionEnded
  generalize unpowerData (holdsReleased s) = w at hrec hnext hread hwin hkd
  exact ⟨hrec, hnext, hread, hwin, hkd⟩

/-- The event of the session's end takes the place of an unread record. -/
theorem sessionEnded_overwrites :
    Pulses (raiseFault (sessionEnded wrappedStore) (srcSecurity wrappedStore.module.activeKd 0)) := by
  obtain ⟨hrec, hnext, hread, hwin, hkd⟩ := sessionEnded_kept wrappedStore
  have hsev (id : Nat) : severityOf (sessionEnded wrappedStore) id = severityOf wrappedStore id :=
    severityOf_regs sessionEnded_regs id
  refine raiseFault_overwrites ?_ ?_ ?_ ?_ ?_
  · rw [hsev]
    decide
  · rw [hwin]
    decide
  · rw [hrec]
    exact wrappedStore_full
  · rw [hread]
    exact Nat.zero_le _
  · rw [hsev, hkd]
    exact wrappedStore_severity

/-- Refutes O19: in `wrappedStore` the event of the end of a D3 session takes the place of an unread record, and its own event
pulses ERR_N. -/
theorem not_debugSessionsOpenAndEnd : ¬ Obligations.DebugSessionsOpenAndEnd := by
  unfold Obligations.DebugSessionsOpenAndEnd
  intro h
  obtain ⟨-, hses, -⟩ := h
  obtain ⟨-, -, -, -, hend, -⟩ := hses wrappedStore _ rfl
  obtain ⟨hmodule, -⟩ := hend (.inl rfl) (by decide) (by decide) (by decide) (by decide) wrappedStore_recordRoom
  have hpulse := sessionEnded_overwrites.1
  unfold sessionEnded holdsReleased at hpulse
  rw [hmodule] at hpulse
  exact Bool.false_ne_true hpulse

/-! ### A full event queue -/

/-- A waiting event of a long payload. -/
def longEvent (p : List Byte) : CpMsg := { type := 3, tag := 0, opcode := 0, status := 0, payload := p }

/-- One event of 8 MiB fills the queue. -/
theorem longEvent_fills {c : ControlPort} {p : List Byte} (hq : c.queue = [longEvent p]) (hu : c.unacked = [])
    (hp : p.length = 2 ^ 23) : 8 * 2 ^ 20 < eventBytes c := by
  have hbytes : eventBytes c = 32 + (p.length + 31) / 32 * 32 := by
    simp [eventBytes, hq, hu, longEvent, cpFrameBytes]
  rw [hbytes, hp]
  decide

/-- B1 runs with KD1 active, the event queue is full, and EVENTS_DROPPED has severity 3 at die 30 alone. -/
def bootingFull (p : List Byte) : State :=
  { State.reset with
    module := { Module.init with phase := 1, activeKd := 31 },
    cp := { ControlPort.init with queue := [longEvent p] },
    regs := [(regAddr .faultSource 30 0 11, 3)] }

theorem bootingFull_room (p : List Byte) : eventRoom (bootingFull p) 300 = true := by
  have hsev : severityOf (bootingFull p) (srcDistaff (activeDie (bootingFull p)) 3) ≤ 1 := by
    rw [severityOf_regs (t := bootingFull p) (s := bootingFull []) rfl]
    show severityOf (bootingFull []) (srcDistaff 31 3) ≤ 1
    decide
  rw [eventRoom, decide_eq_true hsev, Bool.or_true]

/-- Die 30 with its shipped images boots the current one. -/
def bootedFirst : Boot := { shippedBoot 30 with running := (shippedBoot 30).current }

theorem loaderRun_shipped {s : State} (hsec : s.sec = Security.init) :
    loaderRun s 30 (getBoot s 30) = (bootedFirst, 0) := by
  have hboot : getBoot s 30 = shippedBoot 30 := by
    rw [getBoot, hsec]
    rfl
  have hstaged : bankGood s 30 (shippedBoot 30).staged = false := rfl
  have hbad : b2n (bankBad s 30 (shippedBoot 30).staged) = 0 := rfl
  have hcurrent : bankGood s 30 (shippedBoot 30).current = true := by
    simp only [bankGood, shippedBoot, Option.any_some, fwVerifies, hsec, BEq.rfl, Bool.true_and]
    decide
  unfold loaderRun
  rw [hboot, hstaged, if_neg Bool.false_ne_true, hbad]
  dsimp only
  rw [hcurrent, if_pos rfl]
  rfl

/-- Die 30 has booted, and is the active control die. -/
def kd0Active (s : State) (b : Boot) : State :=
  modModule (setBoot s 30 b) (fun m => { m with activeKd := 30, standby := 2 })

/-- The end of B1 where the ROM of die 30 boots. -/
theorem endPhase_boots {s : State} {b : Boot} (hup : bringingUp s = true) (h1 : s.module.phase = 1)
    (hload : loaderRun s 30 (getBoot s 30) = (b, 0)) (hrun : b.running.isSome = true) :
    endPhase s [] false = sendBringup (modModule (sendBringup (kd0Active s b) 1 1 0) (fun m => { m with phase := 2 })) 2 0 0 := by
  have hboot : bootControl s = (true, kd0Active s b) := by
    rw [bootControl, bootDie, hload]
    dsimp only
    rw [hrun, if_pos rfl]
    rfl
  have hgo : (!running s || s.module.stopped || decide (6 ≤ s.module.phase) || s.module.state != 1) = false := by
    rw [bringingUp] at hup
    rw [h1] at hup ⊢
    revert hup
    cases running s <;> cases s.module.stopped <;> simp
  unfold endPhase
  rw [hgo, if_neg Bool.false_ne_true]
  dsimp only
  rw [h1, if_neg (by decide), if_pos rfl, if_neg (by simp), hboot]
  dsimp only
  rw [startPhase, if_neg (by decide)]
  dsimp only
  rw [if_neg (by decide), if_neg (by decide)]

theorem kd0Active_cp (s : State) (b : Boot) : (kd0Active s b).cp = s.cp := rfl

theorem kd0Active_activeDie (s : State) (b : Boot) : activeDie (kd0Active s b) = 30 := rfl

theorem kd0Active_severity (s : State) (b : Boot) (id : Nat) : severityOf (kd0Active s b) id = severityOf s id :=
  severityOf_regs rfl id

theorem bootingFull_severity (p : List Byte) : 2 < severityOf (bootingFull p) (srcDistaff 30 3) := by
  rw [severityOf_regs (t := bootingFull p) (s := bootingFull []) rfl]
  decide

/-- The event of the phase's end finds no room at die 30. -/
theorem bootingFull_drops {p : List Byte} (hp : p.length = 2 ^ 23) (b : Boot) :
    Pulses (sendBringup (kd0Active (bootingFull p) b) 1 1 0) := by
  refine sendBringup_drops ?_ ?_
  · rw [kd0Active_cp]
    exact longEvent_fills rfl rfl hp
  · rw [kd0Active_activeDie, kd0Active_severity]
    exact bootingFull_severity p

theorem Pulses.sendBringup {s : State} (h : Pulses s) (phase st detail : Nat) : Pulses (sendBringup s phase st detail) :=
  keepsPulse_closed.sendEvent _ _ _ _ h.1 h.2

theorem bootingFull_pulses {p : List Byte} (hp : p.length = 2 ^ 23) : Pulses (endPhase (bootingFull p) [] false) := by
  rw [endPhase_boots (b := bootedFirst) rfl rfl (loaderRun_shipped rfl) rfl]
  have hdrop := bootingFull_drops hp bootedFirst
  generalize sendBringup (kd0Active (bootingFull p) bootedFirst) 1 1 0 = t at hdrop
  exact Pulses.sendBringup (s := modModule t (fun m => { m with phase := 2 })) hdrop 2 0 0

/-- Refutes O33: B1 ends with KD1 active and a full event queue; EVENTS_DROPPED is not above NOTIFY at die 31, so the room is
granted, and die 30 takes over, where its severity is 3 and the dropped event pulses ERR_N. -/
theorem not_bringUpAndRebootsEnd : ¬ Obligations.BringUpAndRebootsEnd := by
  unfold Obligations.BringUpAndRebootsEnd
  intro h
  obtain ⟨p, hp⟩ : ∃ p : List Byte, p.length = 2 ^ 23 := ⟨List.replicate (2 ^ 23) 0, List.length_replicate⟩
  obtain ⟨-, -, hboot, -⟩ := h.1 (bootingFull p) rfl (bootingFull_room p)
  obtain ⟨t, hexec, hmodule, -⟩ := hboot rfl bootedFirst (loaderRun_shipped rfl) rfl
  have hend : endPhase (bootingFull p) [] false = t := by
    injection hexec
  have hpulse := (bootingFull_pulses hp).1
  rw [hend, hmodule] at hpulse
  exact Bool.false_ne_true hpulse

end Sys2Proof.Machine
end

section
/-! SUPPORT. DIE_REBOOT with a full event queue (R433, R500): O23 fails. -/

namespace Sys2Proof.Machine

/-- Registers that are not in rising order: EVENTS_DROPPED of die 30 has severity 3, and stands behind a register of die 31. -/
def unorderedRegs : SMap Word := [(regAddr .faultSource 31 0 0, 0), (regAddr .faultSource 30 0 11, 3)]

/-- The module is ACTIVE and its event queue is full. -/
def rebootFull (p : List Byte) : State :=
  { State.reset with
    module := { Module.init with state := 4, phase := 6, errLow := false },
    cp := { ControlPort.init with step := 4, queue := [longEvent p] },
    regs := unorderedRegs }

theorem rebootFull_severity (p : List Byte) (id : Nat)  :
    severityOf (rebootFull p) id = severityOf { State.reset with regs := unorderedRegs } id := by
  refine severityOf_regs ?_ id
  rw [rebootFull]

theorem rebootFull_room (p : List Byte) : eventRoom (rebootFull p) 1 = true := by
  have hsev : severityOf (rebootFull p) (srcDistaff (activeDie (rebootFull p)) 3) ≤ 1 := by
    rw [rebootFull_severity]
    show severityOf { State.reset with regs := unorderedRegs } (srcDistaff 30 3) ≤ 1
    decide
  rw [eventRoom, decide_eq_true hsev, Bool.or_true]

theorem rebootFull_accepts (p : List Byte) : accepts (rebootFull p) 0 = true := by
  have h : accepts (rebootFull []) 0 = true := by decide
  exact h

theorem opOnDie_noOps {s : State} (h : s.ops = []) : opOnDie s 31 = false := by
  have hclaimed : claimedTargets s = [] := by
    rw [claimedTargets, h]
    rfl
  have hkind : ¬ dieKind 31 = 3 := by decide
  rw [opOnDie, if_neg hkind, targetsBusy, hclaimed, List.any_nil]

/-- A control die has no unit that can be parked. -/
theorem rebootHeld_control (s : State) : rebootHeld s 31 = false := Bool.and_false _

theorem namesRegister_dieReboot : ∃ a, NamesRegister .dieReboot 30 0 0 a :=
  ⟨_, namesRegister_offset (by decide) (by decide) (by decide) (by decide) (by decide) rfl⟩

theorem writeReg_dieReboot (s : State) :
    writeReg s .dieReboot 30 0 0 (0x11f : Word).toNat (0x11f : Word).toNat = writeReboot s 31 := rfl

theorem rebootReset_regs (s : State) : (rebootReset s 31).regs = s.regs.filter (fun e => addrDie e.1 != 31 || mirroredReg e.1) := by
  have hkind : dieKind 31 = 4 := by decide
  rw [rebootReset, if_pos hkind]
  rfl

/-- The reboot of die 31 is reported where no room is, and the drop pulses ERR_N. -/
theorem startReboot_drops {s : State} (hfull : 8 * 2 ^ 20 < eventBytes s.cp)
    (hsev : 2 < severityOf (setReboot (rebootReset s 31) 31 1 1) (srcDistaff (activeDie s) 3)) : Pulses (startReboot s 31) := by
  have hstart : startReboot s 31 = rebootStart (rebootReset s 31) 31 1 := rfl
  rw [hstart, rebootStart]
  refine sendBringup_drops ?_ ?_
  · exact hfull
  · exact hsev

/-- The reset of die 31 brings the severity of EVENTS_DROPPED to the front. -/
theorem rebooted_severity {s : State} (hregs : s.regs = unorderedRegs) :
    2 < severityOf (setReboot (rebootReset s 31) 31 1 1) (srcDistaff 30 3) := by
  have hr : (setReboot (rebootReset s 31) 31 1 1).regs =
      (setReboot (rebootReset { State.reset with regs := unorderedRegs } 31) 31 1 1).regs := by
    rw [setReboot, rset_regs, rebootReset_regs, hregs, setReboot, rset_regs, rebootReset_regs]
  rw [severityOf_regs hr]
  decide

theorem writeReboot_starts {s : State} (hactive : activeDie s ≠ 31) (hreboot : s.module.reboot = none) (hops : s.ops = []) :
    writeReboot s 31 = written (startReboot s 31) := by
  rw [writeReboot, if_neg, if_neg]
  · rintro (h | h | h)
    · rw [hreboot] at h
      exact Bool.false_ne_true h
    · exact Bool.false_ne_true ((opOnDie_noOps hops).symm.trans h)
    · exact Bool.false_ne_true ((rebootHeld_control s).symm.trans h)
  · rintro (h | h)
    · exact Nat.lt_irrefl 31 h
    · exact hactive h.symm

/-- The write of DIE_REBOOT for die 31, taken in `rebootFull`. -/
theorem rebootFull_writes (p : List Byte) : exec (.dieReboot 0 30 0x11f 0x11f) (rebootFull p)
    = .next (answerOk (startReboot (noted (rebootFull p) 0 0x11) 31) 0 0x11 []) := by
  obtain ⟨a, hn⟩ := namesRegister_dieReboot
  have hw : writeReg (noted (rebootFull p) 0 0x11) .dieReboot 30 0 0 (0x11f : Word).toNat (0x11f : Word).toNat
      = written (startReboot (noted (rebootFull p) 0 0x11) 31) :=
    (writeReg_dieReboot _).trans (writeReboot_starts (show (30 : Nat) ≠ 31 by decide) rfl rfl)
  show writeAt 0 .dieReboot 30 0 0 0x11f 0x11f (rebootFull p) = _
  rw [writeAt_settles (rebootFull_accepts p) hn (by decide) (by decide), hw, settle_written]

/-- Refutes O23: with the registers out of order the event queue is full and EVENTS_DROPPED reads as not above NOTIFY, so the room
is granted; the reset of die 31 changes how it reads, and the dropped event of the reboot pulses ERR_N. -/
theorem not_forceFailsOverAndDiesReboot : ¬ Obligations.ForceFailsOverAndDiesReboot := by
  unfold Obligations.ForceFailsOverAndDiesReboot
  intro h
  obtain ⟨p, hp⟩ : ∃ p : List Byte, p.length = 2 ^ 23 := ⟨List.replicate (2 ^ 23) 0, List.length_replicate⟩
  obtain ⟨-, -, hstarts⟩ := h.2 (rebootFull p) 0 30 0x11f 0x11f (rebootFull_accepts p) (by decide) (by decide) (by decide)
  obtain ⟨t, hexec, -, hmodule, -⟩ := hstarts (show (31 : Nat) ≠ 30 by decide) rfl (opOnDie_noOps rfl) (rebootHeld_control _)
    (rebootFull_room p)
  have hdrop : Pulses (startReboot (noted (rebootFull p) 0 0x11) 31) :=
    startReboot_drops (longEvent_fills rfl rfl hp) (rebooted_severity rfl)
  have hend : (answerOk (startReboot (noted (rebootFull p) 0 0x11) 31) 0 0x11 []).module = t.module :=
    congrArg State.module (by injection (rebootFull_writes p).symm.trans hexec)
  rw [answerOk, answer_eq, hmodule] at hend
  have hpulse := hdrop.1
  rw [hend] at hpulse
  exact Bool.false_ne_true hpulse

end Sys2Proof.Machine
end

section
/-! SUPPORT. Lanes that drop, are recalibrated and rejoin, and O38 (R398-R400, R484). -/

namespace Sys2Proof.Machine

section
variable {s : State} {p l : Nat}

/-! ### A lane of a port, by its number on the die -/

theorem dieLane_port (hl : l < 2) : 16 * (p / 16) + dieLane p l / 2 = p := by
  unfold dieLane
  omega

theorem dieLane_lane (hl : l < 2) : dieLane p l % 2 = l := by
  unfold dieLane
  omega

theorem atLane_dieLane (hp : p < 128) (hl : l < 2) (t : State) : atLane (p / 16) (dieLane p l) t = .next t := by
  refine if_pos ⟨?_, ?_⟩
  · omega
  · unfold dieLane
    omega

theorem portUp_status (h : portUp s p = true) : pget s .portStatus p 0 1 0 = 2 := by
  rw [portUp, Bool.and_eq_true, beq_iff_eq] at h
  exact h.2

/-- One of two lanes active is not both, nor the other. -/
theorem lane_masks (hl : l < 2) : 2 ^ l ≠ 3 ∧ 2 - l ≠ 3 ∧ 2 - l ≠ 2 ^ l := by
  interval_cases l <;> decide

/-! ### Lost lock and uncorrected codewords (R398, R484) -/

theorem execLockLoss_reports (hp : p < 128) (hl : l < 2) (cw : Bool) :
    exec (.lockLoss (p / 16) (dieLane p l) cw) s = .next (loseLock s (p / 16) (dieLane p l) cw) :=
  atLane_dieLane hp hl _

theorem execDegrade_next (hp : p < 128) (hl : l < 2) :
    exec (.degradeThreshold (p / 16) (dieLane p l)) s = .next (degrade s (p / 16) (dieLane p l)) :=
  atLane_dieLane hp hl _

/-! ### A lane drops (R398, R399) -/

section
variable {raise : State → Nat → State}

/-- Both lanes active, and both sides allow one: the lane drops. -/
theorem dropLane_drops (hu : portUp s p = true) (ha : pget s .portStatus p 0 19 18 = 3) (hm : mayDegrade s p = true) :
    dropLane raise s p l = raise (modPort (onOneLane (sendWord s p (8 + l * 2 ^ 4)) p l) p
      (fun q => { q with dropping := some l, recal := none })) (srcPort p 3) := by
  rw [dropLane, if_neg (fun h => h (portUp_status hu)), if_pos ha, if_pos hm]

/-- The last lane, or a side that does not allow one: the link is lost. -/
theorem dropLane_lost (hu : portUp s p = true) (hl : l < 2)
    (h : (pget s .portStatus p 0 19 18 = 3 ∧ mayDegrade s p = false) ∨ pget s .portStatus p 0 19 18 = 2 ^ l) :
    dropLane raise s p l = linkLost raise s p 8 := by
  rw [dropLane, if_neg (fun h => h (portUp_status hu))]
  rcases h with ⟨ha, hm⟩ | ha
  · rw [if_pos ha, hm, if_neg Bool.false_ne_true]
  · rw [ha, if_neg (lane_masks hl).1, if_pos rfl]

/-- A lane that carries nothing. -/
theorem dropLane_idle (hu : portUp s p = true) (hl : l < 2) (ha : pget s .portStatus p 0 19 18 = 2 - l) :
    dropLane raise s p l = s := by
  obtain ⟨-, h3, hother⟩ := lane_masks hl
  rw [dropLane, if_neg (fun h => h (portUp_status hu)), ha, if_neg h3, if_neg hother]

end

/-! ### The partner's LANE_DROP (R398-R400) -/

section
variable {w : Word} {k st : Nat}

theorem execLaneDrop_up (hp : p < 128) (hu : portUp s p = true) (w : Word) :
    exec (.laneDrop p w) s = .next (rxLaneDrop s p w) := atUpPort rfl hp hu

theorem rxLaneDrop_answers (hw : ownLane s p w = l) (hd : (getPort s p).dropping = some l) :
    rxLaneDrop s p w = recalBegin (modPort s p (fun q => { q with dropping := none })) p l true := by
  rw [rxLaneDrop, hd]
  exact (if_pos hw.symm).trans (by rw [hw])

theorem rxLaneDrop_crosses (hw : ownLane s p w = l) (hd : (getPort s p).dropping = some k) (hne : k ≠ l) :
    rxLaneDrop s p w = linkFails s p 8 := by
  rw [rxLaneDrop, hd]
  exact if_neg (fun h => hne (h.trans hw))

theorem rxLaneDrop_own (hw : ownLane s p w = l) (hd : (getPort s p).dropping = none) :
    rxLaneDrop s p w = if pget s .portStatus p 0 19 18 = 3 then
        modPort (oneCycle (fun s => dropLane raiseWith s p l) s) p (fun q => { q with dropping := none })
      else if pget s .portStatus p 0 19 18 = 2 ^ l then linkFails s p 8 else s := by
  rw [rxLaneDrop, hd, hw]

/-! ### Recalibration (R400) -/

/-- A recalibration begins of a lane that carries nothing, by two lanes of the partner. -/
theorem recalBegin_begins (ha : pget s .portStatus p 0 19 18 = 2 - l) (hu : (usableLanes s p).testBit l = true)
    (hq : (getPort s p).partner.any (fun h => h.lanes == 2) = true) (hr : (getPort s p).recal = none) (own : Bool) :
    recalBegin s p l own = modPort (if own then sendWord (fset (fset s .laneStatus (p / 16) (dieLane p l) 0 2 2 1)
        .laneStatus (p / 16) (dieLane p l) 0 1 0 0) p (10 + l * 2 ^ 4)
      else fset (fset s .laneStatus (p / 16) (dieLane p l) 0 2 2 1) .laneStatus (p / 16) (dieLane p l) 0 1 0 0) p
      (fun q => { q with recal := some (l, 4 * b2n own) }) := if_pos ⟨ha, hu, hq, hr⟩

theorem rxRecalReq_begins (hw : ownLane s p w = l) (h5 : wbit w 5 = false) : rxRecalReq s p w = recalBegin s p l false := by
  rw [rxRecalReq, hw, h5, if_neg Bool.false_ne_true]

theorem rxRecalReq_answer (hw : ownLane s p w = l) (h5 : wbit w 5 = true) : rxRecalReq s p w = recalNote s p l 1 := by
  rw [rxRecalReq, hw, h5, if_pos rfl]

theorem rxLaneAdd_joins (hw : ownLane s p w = l) (hr : (getPort s p).recal = some (l, st)) (h0 : st.testBit 0 = true)
    (h2 : st.testBit 2 = false) (hu : (usableLanes s p).testBit l = true) : rxLaneAdd s p w = rejoin s p l := by
  rw [rxLaneAdd, hr, hw]
  exact if_pos ⟨rfl, h0, by rw [h2]; rfl, hu⟩

theorem rxLaneAdd_ignored (hw : ownLane s p w = l) (hr : (getPort s p).recal = some (l, st))
    (h : st.testBit 0 = false ∨ st.testBit 2 = true ∨ (usableLanes s p).testBit l = false) : rxLaneAdd s p w = s := by
  rw [rxLaneAdd, hr, hw]
  refine if_neg ?_
  rintro ⟨-, h0, h2, hu⟩
  rcases h with h | h | h
  · exact Bool.false_ne_true (h.symm.trans h0)
  · rw [h] at h2
    exact Bool.false_ne_true h2
  · exact Bool.false_ne_true (h.symm.trans hu)

theorem rxLaneAdd_none (hr : (getPort s p).recal = none) : rxLaneAdd s p w = s := by
  rw [rxLaneAdd, hr]

/-- The steps of the recalibration noted so far. -/
def recalNoted (s : State) (p l m : Nat) : State := modPort s p (fun q => { q with recal := some (l, m) })

theorem recalNoted_recal (h : mapRising 0 s.ports = true) (m : Nat) :
    (getPort (recalNoted s p l m) p).recal = some (l, m) := by
  rw [recalNoted, modPort, setPort, getPort, mapGet_mapPut h, if_pos rfl]

theorem recalNote_notes (hr : (getPort s p).recal = some (l, st)) (b : Nat) :
    recalNote s p l b = recalReady (recalNoted s p l (st ||| 2 ^ b)) p := by
  rw [recalNote, hr]
  exact if_pos rfl

/-- The handshake is complete: this side names the codeword, and the lane rejoins. -/
theorem recalReady_complete {m : Nat} (hr : (getPort s p).recal = some (l, m)) (h0 : m.testBit 0 = true)
    (h1 : m.testBit 1 = true) (h2 : m.testBit 2 = true) (h3 : m.testBit 3 = true) (hu : (usableLanes s p).testBit l = true) :
    recalReady s p = rejoin (sendWord (freeWord s).2 p (9 + l * 2 ^ 4 + wbits (freeWord s).1 31 0 * 2 ^ 16)) p l := by
  rw [recalReady, hr]
  exact if_pos ⟨h0, h1, h2, h3, hu⟩

/-- A step is missing, or the lane is no longer usable. -/
theorem recalReady_incomplete {m : Nat} (hr : (getPort s p).recal = some (l, m))
    (h : m.testBit 0 = false ∨ m.testBit 1 = false ∨ m.testBit 2 = false ∨ m.testBit 3 = false
      ∨ (usableLanes s p).testBit l = false) : recalReady s p = s := by
  rw [recalReady, hr]
  refine if_neg ?_
  rintro ⟨h0, h1, h2, h3, hu⟩
  simp only [h0, h1, h2, h3, hu, Bool.true_eq_false, or_self] at h

/-- A port that recalibrates a lane is past equalisation, so the lane's equalisation answers RECAL_REQ. -/
theorem equalised_recal (hu : portUp s p = true) (hphase : (getPort s p).phase ≠ 1) (hr : (getPort s p).recal = some (l, st)) :
    equalised s p l = recalNote (sendAlignOn (sendWord (laneEqualised s p l) p (10 + l * 2 ^ 4 + 2 ^ 5)) p l) p l 0 := by
  unfold equalised
  rw [if_neg (fun h => hphase h.1), if_pos ⟨hu, by rw [hr]; exact beq_self_eq_true l⟩]

theorem rxAlign_recal (hu : portUp s p = true) (hphase : (getPort s p).phase ≠ 2) (hr : (getPort s p).recal = some (l, st)) :
    rxAlign s p l w = recalNote (fset s .laneStatus (p / 16) (dieLane p l) 0 1 1 1) p l 3 := by
  unfold rxAlign
  rw [if_neg (fun h => hphase h.1), if_pos ⟨hu, by rw [hr]; exact beq_self_eq_true l⟩]

end

end

/-! ### O38 -/

/-- Settles O38, row by row: each is the lemma of its case, and a port that is not UP ignores the words. -/
theorem lanesDropAndRejoin : Obligations.LanesDropAndRejoin := by
  refine ⟨fun s p l cw hp hl => ?lock, fun s p l hp hl => ⟨?quiet, ?codewords⟩, fun s p l hp hl hu => ⟨?drop, ?begin, ?words,
    ?steps, ?late⟩, fun s p hp hu => ⟨?down, fun w => ⟨?downDrop, ?downReq, ?downAdd⟩⟩⟩
  case lock =>
    rw [execLockLoss_reports hp hl]
    unfold loseLock
    rw [dieLane_port hl, dieLane_lane hl]
    rfl
  case quiet =>
    intro h0
    rw [execDegrade_next hp hl]
    exact congrArg Host.Outcome.next (if_pos h0)
  case codewords =>
    intro h0
    rw [execDegrade_next hp hl]
    unfold degrade
    rw [dieLane_port hl, dieLane_lane hl]
    exact congrArg Host.Outcome.next (if_neg h0)
  case drop =>
    exact fun raise => ⟨fun ha hm => dropLane_drops hu ha hm, dropLane_lost hu hl, dropLane_idle hu hl⟩
  case begin =>
    exact fun own ha husable hq hr => recalBegin_begins ha husable hq hr own
  case words =>
    intro w hw
    refine ⟨fun hd => ?_, fun hd => ?_, fun hd ha => ?_, fun hd ha => ?_, fun hd ha => ?_, fun h5 => ?_, fun h5 => ?_,
      fun st hr => ⟨fun h0 h2 husable => ?_, fun h => ?_⟩, fun hr => ?_⟩
    · rw [execLaneDrop_up hp hu, rxLaneDrop_answers hw hd]
      rfl
    · rw [execLaneDrop_up hp hu, rxLaneDrop_crosses hw hd (by omega)]
      rfl
    · rw [execLaneDrop_up hp hu, rxLaneDrop_own hw hd, ha, if_neg (lane_masks hl).1, if_pos rfl]
      rfl
    · obtain ⟨-, h3, hother⟩ := lane_masks hl
      rw [execLaneDrop_up hp hu, rxLaneDrop_own hw hd, ha, if_neg h3, if_neg hother]
    · rw [execLaneDrop_up hp hu, rxLaneDrop_own hw hd, if_pos ha]
    · exact (atUpPort rfl hp hu).trans (congrArg Host.Outcome.next (rxRecalReq_begins hw h5))
    · exact (atUpPort rfl hp hu).trans (congrArg Host.Outcome.next (rxRecalReq_answer hw h5))
    · exact (atUpPort rfl hp hu).trans (congrArg Host.Outcome.next (rxLaneAdd_joins hw hr h0 h2 husable))
    · exact (atUpPort rfl hp hu).trans (congrArg Host.Outcome.next (rxLaneAdd_ignored hw hr h))
    · exact (atUpPort rfl hp hu).trans (congrArg Host.Outcome.next (rxLaneAdd_none hr))
  case steps =>
    intro st hr
    refine ⟨fun hphase => ?_, fun hphase w => ?_, fun b => ⟨fun h0 h1 h2 h3 husable hrise => ?_, fun h hrise => ?_⟩⟩
    · exact (if_pos ⟨hp, hl⟩).trans (congrArg Host.Outcome.next (equalised_recal hu hphase hr))
    · exact (if_pos ⟨hp, hl⟩).trans (congrArg Host.Outcome.next (rxAlign_recal hu hphase hr))
    · rw [recalNote_notes hr, recalReady_complete (recalNoted_recal hrise _) h0 h1 h2 h3 husable]
      rfl
    · rw [recalNote_notes hr, recalReady_incomplete (recalNoted_recal hrise _) h]
      rfl
  case late => exact atUpPort rfl hp hu
  case down => exact atDownPort rfl hp hu
  case downDrop => exact atDownPort rfl hp hu
  case downReq => exact atDownPort rfl hp hu
  case downAdd => exact atDownPort rfl hp hu

end Sys2Proof.Machine
end

section
/-! SUPPORT. The zeroisation and the D3 session, and O20 (R477). -/

namespace Sys2Proof.Machine

/-! ### A pass over the entries of a store -/

/-- Every entry of a list of keys is set from what stood there. -/
def mapPass {α : Type} [DecidableEq α] (d : α) (f : α → α) (l : List Nat) (m : SMap α) : SMap α :=
  l.foldl (fun m k => mapPut m d k (f (mapGet m d k))) m

section
variable {α : Type} [DecidableEq α] {d : α} {f : α → α} {m : SMap α}

theorem mapPut_rising (h : mapRising 0 m = true) (k : Nat) (v : α) : mapRising 0 (mapPut m d k v) = true := by
  rw [mapPut]
  split
  · exact mapDel_rising h
  · exact mapIns_rising h (Nat.zero_le k)

theorem mapPass_rising (h : mapRising 0 m = true) (l : List Nat) : mapRising 0 (mapPass d f l m) = true := by
  induction l generalizing m with
  | nil => exact h
  | cons k l ih => exact ih (mapPut_rising h k _)

theorem mapGet_mapPass (h : mapRising 0 m = true) {l : List Nat} (hl : l.Nodup) (k : Nat) :
    mapGet (mapPass d f l m) d k = if k ∈ l then f (mapGet m d k) else mapGet m d k :=
  mapGet_foldl_put (fun _ => f) hl h k

end

theorem foldl_modPort (f : Port → Port) (l : List Nat) (s : State) :
    l.foldl (fun s p => modPort s p f) s = { s with ports := mapPass Port.init f l s.ports } := by
  induction l generalizing s with
  | nil => rfl
  | cons p l ih => exact ih _

theorem foldl_modSp (f : Spindle → Spindle) (l : List Nat) (s : State) :
    l.foldl (fun s k => modSp s k f) s = { s with spindles := mapPass Spindle.init f l s.spindles } := by
  induction l generalizing s with
  | nil => rfl
  | cons k l ih => exact ih _

theorem upTo_nodup (a k : Nat) : (upTo a k).Nodup := by
  induction k generalizing a with
  | zero => exact List.nodup_nil
  | succ k ih =>
    refine List.nodup_cons.2 ⟨fun h => ?_, ih (a + 1)⟩
    rw [mem_upTo] at h
    omega

/-! ### One die -/

/-- A port, and a spindle, of a die that is zeroised. -/
def zeroPort (q : Port) : Port := { portDropped q with rxBuf := [] }
def zeroSpindle (sp : Spindle) : Spindle := { sp with ls := [], imem := [], imageLoaded := false, measurement := [] }

section
variable {s : State} {d : Nat}

theorem zeroDie_portDie (h : d < 8) : zeroDie s d = { s with
    ready := mapPut s.ready [] (linkOf d) [], inbox := mapDel s.inbox d,
    portDies := mapPut s.portDies PortDie.init d PortDie.init,
    ports := mapPass Port.init zeroPort (upTo (16 * d) 16) s.ports } := by
  have hkind : dieKind d = 0 := if_pos h
  rw [zeroDie, hkind]
  exact foldl_modPort zeroPort _ _

theorem zeroDie_core (h8 : 8 ≤ d) (h : d < 10) : zeroDie s d = setPlane s (d - 8) Plane.init := by
  have hkind : dieKind d = 1 := by rw [dieKind, if_neg (by omega), if_pos h]
  rw [zeroDie, hkind]
  rfl

theorem zeroDie_spindleDie (h10 : 10 ≤ d) (h : d < 26) : zeroDie s d = { s with
    ready := mapPut s.ready [] (linkOf d) [], inbox := mapDel s.inbox d,
    spindles := mapPass Spindle.init zeroSpindle (dieSpindles d) s.spindles } := by
  have hkind : dieKind d = 2 := by rw [dieKind, if_neg (by omega), if_neg (by omega), if_pos h]
  rw [zeroDie, hkind]
  exact foldl_modSp zeroSpindle _ _

theorem zeroDie_ergDie (h26 : 26 ≤ d) (h : d < 30) : zeroDie s d = { s with
    ready := mapPut s.ready [] (linkOf d) [], inbox := mapDel s.inbox d,
    erg := { s.erg with repl := s.erg.repl.filter (fun x => x.1 / 16 != d),
                        counting := s.erg.counting.filter (fun c => c.die != d) } } := by
  have hkind : dieKind d = 3 := by
    rw [dieKind, if_neg (by omega), if_neg (by omega), if_neg (by omega), if_pos h]
  rw [zeroDie, hkind]
  rfl

theorem zeroDie_control (h : 30 ≤ d) : zeroDie s d = s := by
  have hkind : dieKind d = 4 := by
    rw [dieKind, if_neg (by omega), if_neg (by omega), if_neg (by omega), if_neg (by omega)]
  rw [zeroDie, hkind]
  rfl

/-- The dies by their kind. -/
theorem die_kinds (d : Nat) : d < 8 ∨ (8 ≤ d ∧ d < 10) ∨ (10 ≤ d ∧ d < 26) ∨ (26 ≤ d ∧ d < 30) ∨ 30 ≤ d := by omega

/-- What the zeroisation of dies may change. -/
def DiesZeroed (s t : State) : Prop :=
  t = { s with erg := { s.erg with repl := t.erg.repl, counting := t.erg.counting }, portDies := t.portDies, ports := t.ports,
               ready := t.ready, inbox := t.inbox, planeA := t.planeA, planeB := t.planeB, spindles := t.spindles }

theorem DiesZeroed.trans {s t u : State} (h : DiesZeroed s t) (k : DiesZeroed t u) : DiesZeroed s u := by
  unfold DiesZeroed at h k ⊢
  rw [k]
  generalize u.erg = e, u.portDies = pd, u.ports = p, u.ready = r, u.inbox = i, u.planeA = a, u.planeB = b, u.spindles = sp
  rw [h]

theorem diesZeroed_of (repl : SMap Repl) (counting : List CountMsg) (pd : SMap PortDie) (ports : SMap Port)
    (ready inbox : SMap (List Pkt)) (a b : Plane) (sp : SMap Spindle) :
    DiesZeroed s { s with erg := { s.erg with repl := repl, counting := counting }, portDies := pd, ports := ports,
                          ready := ready, inbox := inbox, planeA := a, planeB := b, spindles := sp } := rfl

theorem zeroDie_zeroed (s : State) (d : Nat) : DiesZeroed s (zeroDie s d) := by
  rcases die_kinds d with h | ⟨hlo, h⟩ | ⟨hlo, h⟩ | ⟨hlo, h⟩ | h
  · rw [zeroDie_portDie h]
    exact diesZeroed_of s.erg.repl s.erg.counting _ _ _ _ s.planeA s.planeB s.spindles
  · rw [zeroDie_core hlo h, setPlane]
    split
    · exact diesZeroed_of s.erg.repl s.erg.counting s.portDies s.ports s.ready s.inbox _ s.planeB s.spindles
    · exact diesZeroed_of s.erg.repl s.erg.counting s.portDies s.ports s.ready s.inbox s.planeA _ s.spindles
  · rw [zeroDie_spindleDie hlo h]
    exact diesZeroed_of s.erg.repl s.erg.counting s.portDies s.ports _ _ s.planeA s.planeB _
  · rw [zeroDie_ergDie hlo h]
    exact diesZeroed_of _ _ s.portDies s.ports _ _ s.planeA s.planeB s.spindles
  · rw [zeroDie_control h]
    exact diesZeroed_of s.erg.repl s.erg.counting s.portDies s.ports s.ready s.inbox s.planeA s.planeB s.spindles

end

/-! ### The stores after the zeroisation of one die -/

/-- Each store is passed over for the dies of its kind. -/
theorem zeroDie_stores (s : State) (d : Nat) :
    (zeroDie s d).ports = (if d < 8 then mapPass Port.init zeroPort (upTo (16 * d) 16) s.ports else s.ports) ∧
    (zeroDie s d).portDies = (if d < 8 then mapPut s.portDies PortDie.init d PortDie.init else s.portDies) ∧
    (zeroDie s d).spindles =
      (if 10 ≤ d ∧ d < 26 then mapPass Spindle.init zeroSpindle (dieSpindles d) s.spindles else s.spindles) ∧
    (zeroDie s d).erg.repl =
      (if 26 ≤ d ∧ d < 30 then s.erg.repl.filter (fun x => x.1 / 16 != d) else s.erg.repl) ∧
    (zeroDie s d).erg.counting =
      (if 26 ≤ d ∧ d < 30 then s.erg.counting.filter (fun c => c.die != d) else s.erg.counting) := by
  rcases die_kinds d with h | ⟨hlo, h⟩ | ⟨hlo, h⟩ | ⟨hlo, h⟩ | h
  · rw [zeroDie_portDie h, if_pos h, if_pos h, if_neg (by omega), if_neg (by omega), if_neg (by omega)]
    simp only [and_self]
  · rw [zeroDie_core hlo h, if_neg (by omega), if_neg (by omega), if_neg (by omega), if_neg (by omega), if_neg (by omega),
      setPlane]
    split <;> simp only [and_self]
  · rw [zeroDie_spindleDie hlo h, if_neg (by omega), if_neg (by omega), if_pos ⟨hlo, h⟩, if_neg (by omega), if_neg (by omega)]
    simp only [and_self]
  · rw [zeroDie_ergDie hlo h, if_neg (by omega), if_neg (by omega), if_neg (by omega), if_pos ⟨hlo, h⟩, if_pos ⟨hlo, h⟩]
    simp only [and_self]
  · rw [zeroDie_control h, if_neg (by omega), if_neg (by omega), if_neg (by omega), if_neg (by omega), if_neg (by omega)]
    simp only [and_self]

theorem zeroDie_ports (s : State) (d : Nat) :
    (zeroDie s d).ports = if d < 8 then mapPass Port.init zeroPort (upTo (16 * d) 16) s.ports else s.ports := by
  obtain ⟨hports, -⟩ := zeroDie_stores s d
  exact hports

theorem zeroDie_portDies (s : State) (d : Nat) :
    (zeroDie s d).portDies = if d < 8 then mapPut s.portDies PortDie.init d PortDie.init else s.portDies := by
  obtain ⟨-, hportDies, -⟩ := zeroDie_stores s d
  exact hportDies

theorem zeroDie_spindles (s : State) (d : Nat) : (zeroDie s d).spindles =
    if 10 ≤ d ∧ d < 26 then mapPass Spindle.init zeroSpindle (dieSpindles d) s.spindles else s.spindles := by
  obtain ⟨-, -, hspindles, -⟩ := zeroDie_stores s d
  exact hspindles

theorem zeroDie_ports_rising {s : State} (h : mapRising 0 s.ports = true) (d : Nat) :
    mapRising 0 (zeroDie s d).ports = true := by
  rw [zeroDie_ports]
  split
  · exact mapPass_rising h _
  · exact h

theorem zeroDie_portDies_rising {s : State} (h : mapRising 0 s.portDies = true) (d : Nat) :
    mapRising 0 (zeroDie s d).portDies = true := by
  rw [zeroDie_portDies]
  split
  · exact mapPut_rising h d _
  · exact h

theorem zeroDie_spindles_rising {s : State} (h : mapRising 0 s.spindles = true) (d : Nat) :
    mapRising 0 (zeroDie s d).spindles = true := by
  rw [zeroDie_spindles]
  split
  · exact mapPass_rising h _
  · exact h

theorem getPort_zeroDie {s : State} (h : mapRising 0 s.ports = true) {p : Nat} (hp : p / 16 < 8) (d : Nat) :
    getPort (zeroDie s d) p = if d = p / 16 then zeroPort (getPort s p) else getPort s p := by
  rw [getPort, zeroDie_ports]
  by_cases hd : d = p / 16
  · rw [if_pos (hd ▸ hp), if_pos hd, mapGet_mapPass h (upTo_nodup _ _), if_pos ((mem_upTo _ _).2 (by omega))]
    rfl
  · rw [if_neg hd]
    split
    · rw [mapGet_mapPass h (upTo_nodup _ _), if_neg (fun hm => hd (by rw [mem_upTo] at hm; omega))]
      rfl
    · rfl

theorem getPortDie_zeroDie {s : State} (h : mapRising 0 s.portDies = true) {die : Nat} (hdie : die < 8) (d : Nat) :
    getPortDie (zeroDie s d) die = if d = die then PortDie.init else getPortDie s die := by
  rw [getPortDie, zeroDie_portDies]
  by_cases hd : d = die
  · rw [if_pos (hd ▸ hdie), if_pos hd, mapGet_mapPut h, if_pos hd.symm]
  · rw [if_neg hd]
    split
    · rw [mapGet_mapPut h, if_neg (fun e => hd e.symm)]
      rfl
    · rfl

theorem getSp_zeroDie {s : State} (h : mapRising 0 s.spindles = true) {die slot : Nat} (h10 : 10 ≤ die) (h26 : die < 26)
    (hslot : slot < 17) (d : Nat) :
    getSp (zeroDie s d) (32 * die + slot) = if d = die then zeroSpindle (getSp s (32 * die + slot)) else getSp s (32 * die + slot) := by
  rw [getSp, zeroDie_spindles]
  by_cases hd : d = die
  · rw [if_pos (hd ▸ ⟨h10, h26⟩), if_pos hd, dieSpindles, mapGet_mapPass h (upTo_nodup _ _),
      if_pos ((mem_upTo _ _).2 (by omega))]
    rfl
  · rw [if_neg hd]
    split
    · rw [dieSpindles, mapGet_mapPass h (upTo_nodup _ _), if_neg (fun hm => hd (by rw [mem_upTo] at hm; omega))]
      rfl
    · rfl

/-! ### The dies in scope -/

theorem foldl_zeroDie_zeroed (l : List Nat) (s : State) : DiesZeroed s (l.foldl zeroDie s) := by
  induction l generalizing s with
  | nil => exact diesZeroed_of s.erg.repl s.erg.counting s.portDies s.ports s.ready s.inbox s.planeA s.planeB s.spindles
  | cons d l ih => exact (zeroDie_zeroed s d).trans (ih _)

section
variable {α : Type} {get : State → α} {f : α → α} {good : State → Prop} {die : Nat}
  (hgood : ∀ s d, good s → good (zeroDie s d))
  (hget : ∀ s d, good s → get (zeroDie s d) = if d = die then f (get s) else get s)
include hgood hget

theorem foldl_zeroDie_other {l : List Nat} (hl : die ∉ l) {s : State} (hs : good s) : get (l.foldl zeroDie s) = get s := by
  induction l generalizing s with
  | nil => rfl
  | cons d l ih =>
    obtain ⟨hd, hl⟩ := not_or.1 (fun h => hl (List.mem_cons.2 h))
    rw [List.foldl_cons, ih hl (hgood s d hs), hget s d hs, if_neg (fun e => hd e.symm)]

/-- What the zeroisation does to a die in scope it does once. -/
theorem foldl_zeroDie_once {l : List Nat} (hnd : l.Nodup) (hl : die ∈ l) {s : State} (hs : good s) :
    get (l.foldl zeroDie s) = f (get s) := by
  induction l generalizing s with
  | nil => exact absurd hl (List.not_mem_nil)
  | cons d l ih =>
    obtain ⟨hd, hnd⟩ := List.nodup_cons.1 hnd
    rw [List.foldl_cons]
    rcases List.mem_cons.1 hl with rfl | hl
    · rw [foldl_zeroDie_other hgood hget hd (hgood s die hs), hget s die hs, if_pos rfl]
    · rw [ih hnd hl (hgood s d hs), hget s d hs, if_neg (fun e : d = die => hd (e.symm ▸ hl))]

end

/-- An Erg die's copies and counts. -/
def ErgCleared (t : State) (die : Nat) : Prop := (∀ e ∈ t.erg.repl, e.1 / 16 ≠ die) ∧ (∀ c ∈ t.erg.counting, c.die ≠ die)

theorem zeroDie_clears (s : State) {die : Nat} (h26 : 26 ≤ die) (h30 : die < 30) : ErgCleared (zeroDie s die) die := by
  obtain ⟨-, -, -, hrepl, hcount⟩ := zeroDie_stores s die
  rw [if_pos ⟨h26, h30⟩] at hrepl hcount
  rw [ErgCleared, hrepl, hcount]
  exact ⟨fun e he => bne_iff_ne.1 (List.mem_filter.1 he).2, fun c hc => bne_iff_ne.1 (List.mem_filter.1 hc).2⟩

theorem zeroDie_keepsCleared {s : State} {die : Nat} (h : ErgCleared s die) (d : Nat) : ErgCleared (zeroDie s d) die := by
  obtain ⟨-, -, -, hrepl, hcount⟩ := zeroDie_stores s d
  obtain ⟨hr, hc⟩ := h
  rw [ErgCleared, hrepl, hcount]
  split
  · exact ⟨fun e he => hr e (List.mem_of_mem_filter he), fun c he => hc c (List.mem_of_mem_filter he)⟩
  · exact ⟨hr, hc⟩

theorem foldl_zeroDie_keepsCleared {s : State} {die : Nat} (h : ErgCleared s die) (l : List Nat) :
    ErgCleared (l.foldl zeroDie s) die := by
  induction l generalizing s with
  | nil => exact h
  | cons d l ih => exact ih (zeroDie_keepsCleared h d)

theorem foldl_zeroDie_clears {l : List Nat} {die : Nat} (hl : die ∈ l) (h26 : 26 ≤ die) (h30 : die < 30) (s : State) :
    ErgCleared (l.foldl zeroDie s) die := by
  obtain ⟨a, b, rfl⟩ := List.append_of_mem hl
  rw [List.foldl_append, List.foldl_cons]
  exact foldl_zeroDie_keepsCleared (zeroDie_clears _ h26 h30) b

/-! ### The D3 session opens (R472, R477) -/

theorem foldl_parkPort_none {s : State} (l : List Nat) (h : ∀ p ∈ l, portLive s p = false) :
    l.foldl (fun s p => if portLive s p then parkPort s p else s) s = s := by
  induction l with
  | nil => rfl
  | cons p l ih =>
    rw [List.foldl_cons, if_neg (Bool.eq_false_iff.1 (h p (List.mem_cons_self ..)))]
    exact ih (fun q hq => h q (List.mem_cons_of_mem _ hq))

/-- The dies in scope. -/
def diesInScope (dies : Nat) : List Nat := (upTo 0 32).filter (fun d => dies.testBit d)

theorem mem_diesInScope {dies d : Nat} (h : d < 32) (hd : dies.testBit d = true) : d ∈ diesInScope dies :=
  List.mem_filter.2 ⟨(mem_upTo _ _).2 ⟨Nat.zero_le d, by omega⟩, hd⟩

theorem diesInScope_nodup (dies : Nat) : (diesInScope dies).Nodup := (upTo_nodup 0 32).filter _

/-- The Erg and the dies in scope, zeroised. -/
def contentsZeroed (s : State) (dies : Nat) : State := (diesInScope dies).foldl zeroDie (zeroErg s)

/-- The security root of the zeroised part, with the D3 session open. -/
def d3Security (s : State) (dies : Nat) (life : Option Nat) : Security :=
  { s.sec with
    zeroising := false, attestKey := none,
    nonce := if s.sec.lifecycle = 2 then padTo 32 (Config.noise s.freeCtr) else List.replicate 32 0,
    session := some { level := 3, dies := BitVec.ofNat 32 dies, lifetime := life }, history := s.sec.history ||| 4 }

/-- The session opens on a root whose secrets are gone and whose `debug.open` no longer waits. -/
theorem openSession_d3 (s : State) (c : ControlPort) (dies : Nat) (life : Option Nat) :
    ∃ n, openSession { s with
        sec := { s.sec with zeroising := false, attestKey := none, nonce := List.replicate 32 0 }, cp := c } 3 dies life
      = { s with sec := d3Security s dies life, freeCtr := n, cp := c } := by
  unfold openSession d3Security
  by_cases h : s.sec.lifecycle = 2
  · refine ⟨s.freeCtr + 1, ?_⟩
    rw [if_pos h]
    exact if_pos h
  · refine ⟨s.freeCtr, ?_⟩
    rw [if_neg h]
    exact if_neg h

/-- The control port once no `debug.open` waits for the zeroisation. -/
def d3Taken (c : ControlPort) : ControlPort :=
  { c with awaiting := c.awaiting.filter (fun a => (d3Waiting [a]).isNone) }

/-- The part zeroised, with the D3 session open. -/
def d3Opened (s : State) (dies : Nat) (life : Option Nat) (n : Nat) : State :=
  { s with sec := d3Security s dies life, freeCtr := n, cp := d3Taken s.cp }

/-- The zeroisation of a part with no LIVE port answers `debug.open`. -/
theorem zeroised_eq {s : State} (tag dies : Nat) (life : Option Nat) (h : ∀ p, p < 128 → portLive s p = false) :
    ∃ n, zeroised s tag dies life = answerOk (d3Opened (contentsZeroed s dies) dies life n) tag 0x50 [] := by
  obtain ⟨n, hn⟩ := openSession_d3 (contentsZeroed s dies) (d3Taken (contentsZeroed s dies).cp) dies life
  refine ⟨n, ?_⟩
  rw [d3Opened, ← hn]
  unfold zeroised
  rw [foldl_parkPort_none _ (fun p hp => h p (by rw [mem_upTo] at hp; omega))]
  rfl

theorem execZeroisation_acts {s : State} {tag dies : Nat} {life : Option Nat}
    (hw : d3Waiting s.cp.awaiting = some (tag, dies, life)) (hrun : running s = true) (hz : s.sec.zeroising = true) :
    exec .zeroisation s = .next (zeroised s tag dies life) := by
  show execZeroisation s = _
  rw [execZeroisation, hw]
  exact congrArg Host.Outcome.next (if_pos ⟨hrun, hz⟩)

/-! ### The contents that are left -/

section
variable {s : State} {dies die : Nat}

/-- What the zeroisation leaves as it was. -/
theorem contentsZeroed_frame (s : State) (dies : Nat) :
    DiesZeroed (zeroErg s) (contentsZeroed s dies) := foldl_zeroDie_zeroed _ _

theorem contentsZeroed_erg (hin : dies.testBit die = true) (h26 : 26 ≤ die) (h30 : die < 30) :
    ErgCleared (contentsZeroed s dies) die :=
  foldl_zeroDie_clears (mem_diesInScope (by omega) hin) h26 h30 _

theorem contentsZeroed_spindle {slot : Nat} (h : mapRising 0 s.spindles = true) (hin : dies.testBit die = true)
    (h10 : 10 ≤ die) (h26 : die < 26) (hslot : slot < 17) :
    getSp (contentsZeroed s dies) (32 * die + slot) = zeroSpindle (getSp s (32 * die + slot)) :=
  foldl_zeroDie_once (get := fun t => getSp t (32 * die + slot)) (good := fun t => mapRising 0 t.spindles = true)
    (fun _ d hs => zeroDie_spindles_rising hs d) (fun _ d hs => getSp_zeroDie hs h10 h26 hslot d)
    (diesInScope_nodup dies) (mem_diesInScope (by omega) hin) (s := zeroErg s) h

theorem contentsZeroed_portDie (h : mapRising 0 s.portDies = true) (hin : dies.testBit die = true) (hd : die < 8) :
    getPortDie (contentsZeroed s dies) die = PortDie.init :=
  foldl_zeroDie_once (get := fun t => getPortDie t die) (f := fun _ => PortDie.init)
    (good := fun t => mapRising 0 t.portDies = true)
    (fun _ d hs => zeroDie_portDies_rising hs d) (fun _ d hs => getPortDie_zeroDie hs hd d)
    (diesInScope_nodup dies) (mem_diesInScope (by omega) hin) (s := zeroErg s) h

theorem contentsZeroed_port {p : Nat} (h : mapRising 0 s.ports = true) (hin : dies.testBit (p / 16) = true) (hp : p / 16 < 8) :
    getPort (contentsZeroed s dies) p = zeroPort (getPort s p) :=
  foldl_zeroDie_once (get := fun t => getPort t p) (good := fun t => mapRising 0 t.ports = true)
    (fun _ d hs => zeroDie_ports_rising hs d) (fun _ d hs => getPort_zeroDie hs hp d)
    (diesInScope_nodup dies) (mem_diesInScope (by omega) hin) (s := zeroErg s) h

end

/-! ### O20 -/

/-- Settles O20: the zeroisation is `zeroErg` and then one pass over the dies in scope (`contentsZeroed`), after which the D3
session opens and is answered (`zeroised_eq`). -/
theorem zeroisationOpensTheSession : Obligations.ZeroisationOpensTheSession := by
  intro s tag dies life hw hrun hz hports
  obtain ⟨n, hn⟩ := zeroised_eq tag dies life hports
  refine ⟨zeroised s tag dies life, execZeroisation_acts hw hrun hz, ?_⟩
  rw [hn]
  refine ⟨answerOk_answersOk _ _ _ _, ?_⟩
  have hframe := contentsZeroed_frame s dies
  have herg (die : Nat) := contentsZeroed_erg (s := s) (dies := dies) (die := die)
  have hspindle (die slot : Nat) := contentsZeroed_spindle (s := s) (dies := dies) (die := die) (slot := slot)
  have hportDie (die : Nat) := contentsZeroed_portDie (s := s) (dies := dies) (die := die)
  have hport (p : Nat) := contentsZeroed_port (s := s) (dies := dies) (p := p)
  rw [answerOk, answer_eq]
  generalize (answer _ _ _ _ _).cp = c, (answer _ _ _ _ _).out = o
  generalize contentsZeroed s dies = z at *
  have hsec : z.sec = s.sec := congrArg (fun t => t.sec) hframe
  have hfree : z.freeCtr = s.freeCtr := congrArg (fun t => t.freeCtr) hframe
  have hmem : z.erg.mem = s.erg.mem.filter (fun c => !(backed s c.1 || deviceDark s c.1)) :=
    congrArg (fun t => t.erg.mem) hframe
  have hbad : z.erg.bad = s.erg.bad.filter (fun b => !(backed s (64 * b.1) || deviceDark s (64 * b.1))) :=
    congrArg (fun t => t.erg.bad) hframe
  have hcounters : z.erg.counters = [] := congrArg (fun t => t.erg.counters) hframe
  have hErg : z.erg = { s.erg with mem := z.erg.mem, bad := z.erg.bad, counters := [], repl := z.erg.repl,
                                   counting := z.erg.counting } := by
    rw [hmem, hbad]
    exact congrArg State.erg hframe
  refine ⟨hmem, hbad, hcounters, hErg, fun die h26 h30 hin => herg die hin h26 h30, ?sec, fun hrise die slot h10 h26 hslot hin =>
    hspindle die slot hrise hin h10 h26 hslot, fun hrise hrisep die hd hin => ⟨hportDie die hrise hin hd, fun p hp =>
    hport p hrisep (hp ▸ hin) (hp ▸ hd)⟩, ?frame⟩
  case sec =>
    show d3Security z dies life = _
    rw [d3Security, hsec, hfree]
  case frame =>
    rw [d3Opened, hframe]
    rfl

end Sys2Proof.Machine
end
